-- ==== Sys2Proof/Word.lean ====
section
/-! DEFINITION. The word types of the OA4128: bytes, 32-bit and 64-bit words (R51, R150). -/

namespace Sys2Proof

/-- One byte of scratchpad or of global memory (R51). -/
abbrev Byte := BitVec 8
/-- An s-register or a 32-bit system register (R150). -/
abbrev Word := BitVec 32
/-- An a-register or a 64-bit system register (R150). -/
abbrev DWord := BitVec 64
/-- A region-descriptor register (R153). -/
abbrev DescWord := BitVec 128

end Sys2Proof
end

