-- ==== Sys2Proof/Config.lean ====
section
/-! DEFINITION. What an implementation fixes (constants the manual states) and the free values (opaque
constants without a body, which no proof can evaluate). -/

namespace Sys2Proof.Config

/-- R1, R6: cores of a package. -/
def coresPerPackage : Nat := 128
/-- R6, R43: the nominal step of TB:TBF in one core cycle, in units of 2^-16 ns. -/
def tbStep : Nat := 34493
/-- R265: entries of a transfer queue. -/
def queueEntries : Nat := 64
/-- R276: cards issued to a channel and not completed. -/
def channelCards : Nat := 16
/-- R242: bays of a core. -/
def baysPerCore : Nat := 32
/-- R345: the profile mask of stepping B0. -/
def profiles : Nat := 0x1F
/-- R385: the image of CTXVER. -/
def ctxVersion : Word := 0x0000B001
/-- R6, R106: bytes of the HBM tier, 2^39. -/
def hbmBytes : Nat := 2 ^ 39
/-- R402: first physical address of the LPDDR-6 tier. -/
def lpddrBase : Nat := 0x10000000000
/-- R6, R113: bytes of the LPDDR-6 tier, 1,536 GiB. -/
def lpddrBytes : Nat := 1536 * 2 ^ 30
/-- R113: capacity of one LPDDR-6 bank. -/
def lpddrBankBytes : Nat := 2 ^ 30
/-- R112: capacity of one HBM bank. -/
def hbmBankBytes : Nat := 2 ^ 24

/-- R225, R229: which of its two neighbours a faithful function writes, for the function number (0 vfexp,
1 vrcp, 2 vrsqrt, 3 vflog), the format code and the operand's encoding. True takes the upper neighbour. Free value
(log 4): a fixed function of the operand that the manual leaves open. -/
opaque faithfulUp : Nat → Nat → Nat → Bool

/-- R274, R409: which byte an area the manual calls unpredictable holds, the earlier one (false) or the copied one
(true), for the n-th free choice of the run. Free value (log 4). -/
opaque freeChoice : Nat → Bool

/-- R442: the fresh random key of key material number n: the two AES-256 keys of a slot. Free value (log 4). -/
opaque randomKey : Nat → BitVec 512

/-- R426: the delay that a link measures in both directions, in ns. Free value (log 4). -/
opaque linkDelay : Nat → Nat

/-- R445: the lowered cap that the thermal power holds keep, for the cap of the configuration record. Free value (log 4). -/
opaque thermalCap : Nat → Nat

/-- R422: the AES-GCM-256 link key that a port derives at its n-th link-up. Free value (log 4). -/
opaque linkKey : Nat → Nat → BitVec 256

/-- R117: whether the request for a unit of a card that was in flight at a re-registration of its handle (its number) still
uses the old record. Free value (log 4). -/
opaque oldRecord : Nat → Nat → Bool

/-- R443: whether the n-th request made before a KEYLOAD of a slot completes uses the new key. Free value (log 4). -/
opaque newKey : Nat → Nat → Bool

/-- R97: the order in which the banks' symbols stand in a codeword, as a number that names a permutation. Free value (log 21). -/
opaque symbolOrder : Nat

/-- R403: entries of a core's L1; of a floor's L2, and of its victim store. -/
def l1Entries : Nat := 64
def l2Entries : Nat := 8192

/-- R413, R441: the bits of the session key exported for session number n. Free value (log 4). -/
opaque sessionKey : Nat → BitVec 256

/-- R425: the rate correction that the servo chooses at its n-th sync, in 2^-16 ns per core cycle, before its bound is
applied. Free value (log 4). -/
opaque servoRate : Nat → Int

/-- R46: how the reference runs against this package's core clock from the n-th sync on, in 2^-16 ns per core cycle beside the
nominal step, before its bound is applied. Free value (log 4). -/
opaque referenceRate : Nat → Int

/-- R440: the digest of the ROM. Free value (log 4). -/
opaque romDigest : Nat

/-- R440: the ECDSA and the LMS signature over a nonce and measurement blocks. Free values (log 4). -/
opaque ecdsaSignature : Nat → List Nat → Nat
opaque lmsSignature : Nat → List Nat → Nat

end Sys2Proof.Config
end

