-- ==== Sys2Proof/Machine/Bits.lean ====
section
/-! DEFINITION. Bit fields, sign extension and byte order: the helpers that the manual writes as Bits, SignExt
and little-endian images (R51). Every encoding is handled as a Nat here; widths stand in the types of State. -/

namespace Sys2Proof.Machine

/-- Bits(x, hi, lo) of the manual. -/
def bitsOf (x hi lo : Nat) : Nat := (x >>> lo) % 2 ^ (hi + 1 - lo)

/-- Bit i of x. -/
def bitOf (x i : Nat) : Bool := x.testBit i

/-- SignExt(x, n): the low n bits of x read as two's complement. -/
def sext (x n : Nat) : Int :=
  let y := x % 2 ^ n
  if n = 0 then 0 else if y < 2 ^ (n - 1) then (y : Int) else (y : Int) - (2 ^ n : Nat)

/-- x mod 2^n as a natural. -/
def wrapTo (n : Nat) (x : Int) : Nat := (x % ((2 ^ n : Nat) : Int)).toNat

/-- Clamp(x, lo, hi) of R171. -/
def clampI (x lo hi : Int) : Int := if x < lo then lo else if hi < x then hi else x

/-- 0 or 1 of a condition. -/
def b2n (b : Bool) : Nat := if b then 1 else 0

/-- floor(log2 x), and 0 for 0. -/
def flog2 (x : Nat) : Nat := Nat.log2 x

/-- ceil(a / b). -/
def cdiv (a b : Nat) : Nat := (a + b - 1) / b

/-- The number of one bits among the low n bits of x. -/
def popc : Nat → Nat → Nat
  | 0, _ => 0
  | n + 1, x => b2n (x.testBit n) + popc n x

/-- The number of leading zero bits of the low n bits of x. -/
def clzN : Nat → Nat → Nat
  | 0, _ => 0
  | n + 1, x => if x.testBit n then 0 else 1 + clzN n x

/-- The n bytes of x, lowest first (R51). -/
def toBytes : Nat → Nat → List Byte
  | 0, _ => []
  | n + 1, x => BitVec.ofNat 8 x :: toBytes n (x / 256)

/-- The natural that a little-endian byte list holds (R51). -/
def fromBytes : List Byte → Nat
  | [] => 0
  | b :: bs => b.toNat + 256 * fromBytes bs

/-- The j-th n-bit lane of x (R52). -/
def laneOf (n x j : Nat) : Nat := (x >>> (n * j)) % 2 ^ n

/-- Packs n-bit lanes, lane 0 lowest (R52). -/
def packLanes (n : Nat) : List Nat → Nat
  | [] => 0
  | l :: ls => l % 2 ^ n + 2 ^ n * packLanes n ls

/-- Integer square root by binary digits: the largest r with r*r ≤ x, for x below 4^fuel. -/
def isqrtGo : Nat → Nat → Nat → Nat
  | 0, _, r => r
  | k + 1, x, r => if (r + 2 ^ k) * (r + 2 ^ k) ≤ x then isqrtGo k x (r + 2 ^ k) else isqrtGo k x r

/-- The largest r with r*r ≤ x. -/
def isqrt (x : Nat) : Nat := isqrtGo (flog2 x / 2 + 1) x 0

/-- The least element of two optional indices. -/
def minOpt : Option Nat → Option Nat → Option Nat
  | none, b => b
  | some a, none => some a
  | some a, some b => some (min a b)

/-- Position of the first element that satisfies p, counted from k. -/
def findFrom {α : Type} (p : α → Bool) : Nat → List α → Option Nat
  | _, [] => none
  | k, x :: xs => if p x then some k else findFrom p (k + 1) xs

/-- The list with element i replaced by f of it. -/
def modAt {α : Type} (f : α → α) : Nat → List α → List α
  | _, [] => []
  | 0, x :: xs => f x :: xs
  | i + 1, x :: xs => x :: modAt f i xs

/-- Replaces every element that satisfies p by f of it. -/
def mapIf {α : Type} (p : α → Bool) (f : α → α) (l : List α) : List α :=
  l.map fun x => if p x then f x else x

/-- Splits a list into pieces of n elements; fuel is the number of pieces at most. -/
def piecesOf {α : Type} (n : Nat) : Nat → List α → List (List α)
  | 0, _ => []
  | fuel + 1, l => match l with
    | [] => []
    | _ => l.take n :: piecesOf n fuel (l.drop n)

/-- The i-th element, or a default. -/
def nthD {α : Type} (l : List α) (i : Nat) (dflt : α) : α := l.getD i dflt

end Sys2Proof.Machine
end

