-- ==== Sys2Proof/Machine/Fp.lean ====
section
/-! DEFINITION. Number formats (02, R50 to R71): formats and codes, exact values, rounding, conversion and block
quantisation. An encoding is a Nat; an exact value is a signed magnitude times a power of two. -/

namespace Sys2Proof.Machine

/-- The formats of R50. -/
inductive Fmt where
  | int (signed : Bool) (bits : Nat)
  | ieee (eb fb : Nat)
  | tap (n : Nat)
  | blk (w : Nat)
  deriving DecidableEq, Repr

/-- The format of a code of R50, none for any other code. -/
def fmtOf (c : Nat) : Option Fmt :=
  match c with
  | 0x00 => some (.int true 8) | 0x01 => some (.int false 8)
  | 0x02 => some (.int true 16) | 0x03 => some (.int false 16)
  | 0x04 => some (.int true 32) | 0x05 => some (.int false 32)
  | 0x06 => some (.int true 4) | 0x07 => some (.int false 4)
  | 0x10 => some (.ieee 5 10) | 0x11 => some (.ieee 8 7)
  | 0x12 => some (.ieee 8 23) | 0x13 => some (.ieee 11 52)
  | 0x18 => some (.tap 8) | 0x19 => some (.tap 16) | 0x1A => some (.tap 32)
  | 0x20 => some (.blk 2) | 0x21 => some (.blk 3) | 0x22 => some (.blk 4) | 0x23 => some (.blk 5)
  | 0x24 => some (.blk 6) | 0x25 => some (.blk 7) | 0x26 => some (.blk 8)
  | _ => none

def fp16 : Fmt := .ieee 5 10
def bf16 : Fmt := .ieee 8 7
def fp32 : Fmt := .ieee 8 23
def fp64 : Fmt := .ieee 11 52

/-- Bits of one encoded value; for a block format the encoding used here is 256·E plus the mantissa (R66). -/
def Fmt.bits : Fmt → Nat
  | .int _ b => b | .ieee eb fb => 1 + eb + fb | .tap n => n | .blk _ => 16

/-- Bytes of one descriptor element (R50, last column). -/
def Fmt.elemBytes : Fmt → Nat
  | .int _ b => max 1 (b / 8) | .ieee eb fb => (1 + eb + fb) / 8 | .tap n => n / 8 | .blk w => 4 * w + 1

/-- Values a descriptor element holds: two for i4 and n4, 32 for a block, else one (R51). -/
def Fmt.valsPerElem : Fmt → Nat
  | .int _ b => if b = 4 then 2 else 1 | .blk _ => 32 | _ => 1

def Fmt.isInt : Fmt → Bool | .int _ _ => true | _ => false
def Fmt.isIeee : Fmt → Bool | .ieee _ _ => true | _ => false
def Fmt.isTap : Fmt → Bool | .tap _ => true | _ => false
def Fmt.isBlk : Fmt → Bool | .blk _ => true | _ => false
/-- i4 and n4. -/
def Fmt.isNibble (f : Fmt) : Bool := f.isInt && f.bits == 4

/-- R53: ES is 00 unless the format is tapered. -/
def esValid (f : Fmt) (es : Nat) : Bool := f.isTap || es == 0

/-- Rounding modes of R56. -/
inductive RM where
  | rne | rtz | rup | rdn | rna
  deriving DecidableEq, Repr

/-- The mode that an RM field names, DYN taking FX.RM (R56); none for the reserved codes. -/
def rmOf (code fxrm : Nat) : Option RM :=
  let pick (c : Nat) : Option RM := match c with
    | 0 => some .rne | 1 => some .rtz | 2 => some .rup | 3 => some .rdn | 4 => some .rna | _ => none
  if code = 7 then pick fxrm else pick code

/-- R160: an RM field holds an allowed value. -/
def rmFieldOk (code : Nat) : Bool := !(code == 5 || code == 6)

/-- The flags one value raises: NV, DZ, OF, UF, NX of FX, the signalling-NaN condition of R60, NR, QO, QR and SAT
of QX. -/
structure Fl where
  nv : Bool := false
  dz : Bool := false
  of : Bool := false
  uf : Bool := false
  nx : Bool := false
  snan : Bool := false
  nr : Bool := false
  qo : Bool := false
  qr : Bool := false
  sat : Bool := false
  deriving DecidableEq, Repr

def Fl.none : Fl := {}
def Fl.or (a b : Fl) : Fl :=
  { nv := a.nv || b.nv, dz := a.dz || b.dz, of := a.of || b.of, uf := a.uf || b.uf, nx := a.nx || b.nx,
    snan := a.snan || b.snan, nr := a.nr || b.nr, qo := a.qo || b.qo, qr := a.qr || b.qr, sat := a.sat || b.sat }
def Fl.invalid : Fl := { nv := true }
def Fl.signalling : Fl := { nv := true, snan := true }
def Fl.inexact : Fl := { nx := true }

/-- An exact value: a signed magnitude times 2^exp (magnitude 0 is a signed zero), an infinity, a NaN or NaR. -/
inductive Val where
  | nan (signalling : Bool)
  | inf (neg : Bool)
  | fin (neg : Bool) (mag : Nat) (exp : Int)
  | nar
  deriving DecidableEq, Repr

def Val.zero : Val := .fin false 0 0
def Val.one : Val := .fin false 1 0
def Val.ofInt (x : Int) : Val := .fin (decide (x < 0)) x.natAbs 0
def Val.isNan : Val → Bool | .nan _ => true | _ => false
def Val.isSnan : Val → Bool | .nan s => s | _ => false
def Val.isInf : Val → Bool | .inf _ => true | _ => false
def Val.isZero : Val → Bool | .fin _ m _ => m == 0 | _ => false
def Val.isFinNonzero : Val → Bool | .fin _ m _ => m != 0 | _ => false
def Val.neg : Val → Val
  | .inf s => .inf (!s) | .fin s m e => .fin (!s) m e | v => v
def Val.isNegative : Val → Bool | .inf s => s | .fin s _ _ => s | _ => false
/-- The flags a NaN operand sets by itself (R58). -/
def Val.nanFl : Val → Fl | .nan true => Fl.signalling | _ => Fl.none

/-- floor(log2 |x|) of a finite non-zero value. -/
def Val.lg : Val → Int | .fin _ m e => (flog2 m : Int) + e | _ => 0

/-- DecodeP of R61: regime run, exponent bits and fraction of an n-bit tapered word. -/
def decodeTap (n es word : Nat) : Val :=
  let w := word % 2 ^ n
  if w = 0 then .zero
  else if w = 2 ^ (n - 1) then .nar
  else
    let s := w.testBit (n - 1)
    let v := if s then 2 ^ n - w else w
    let b := v.testBit (n - 2)
    let run := clzN (n - 1) (if b then 2 ^ (n - 1) - 1 - v % 2 ^ (n - 1) else v)
    let k : Int := if b then (run : Int) - 1 else -(run : Int)
    let restLen := n - 1 - run - 1
    let rest := v % 2 ^ restLen
    let eLen := min es restLen
    let e := (rest >>> (restLen - eLen)) <<< (es - eLen)
    let fLen := restLen - eLen
    let f := rest % 2 ^ fLen
    .fin s (2 ^ fLen + f) (k * (2 ^ es : Nat) + e - fLen)

/-- The exact value of an encoding (R54, R55, R61, R67). -/
def decodeVal (f : Fmt) (es enc : Nat) : Val :=
  match f with
  | .int signed b => Val.ofInt (if signed then sext enc b else ((enc % 2 ^ b : Nat) : Int))
  | .ieee eb fb =>
    let s := enc.testBit (eb + fb)
    let e := bitsOf enc (eb + fb - 1) fb
    let m := enc % 2 ^ fb
    let bias : Int := 2 ^ (eb - 1) - 1
    if e = 2 ^ eb - 1 then
      if m = 0 then .inf s else .nan (!m.testBit (fb - 1))
    else if e = 0 then .fin s m (1 - bias - fb)
    else .fin s (2 ^ fb + m) ((e : Int) - bias - fb)
  | .tap n => decodeTap n es enc
  | .blk w =>
    let e := enc / 256
    if e = 0 then .zero
    else if e = 255 then .nan false
    else
      let m := sext enc w
      .fin (decide (m < 0)) m.natAbs ((e : Int) - 127 - ((w : Int) - 2))

/-- mag / 2^sh rounded to an integer in mode rm, and whether that was inexact. -/
def roundShift (rm : RM) (neg : Bool) (mag sh : Nat) : Nat × Bool :=
  if sh = 0 then (mag, false)
  else if mag = 0 then (0, false)
  else if flog2 mag + 2 < sh then
    let up := match rm with | .rup => !neg | .rdn => neg | _ => false
    (b2n up, true)
  else
    let q := mag >>> sh
    let r := mag % 2 ^ sh
    let half := 2 ^ (sh - 1)
    let up := match rm with
      | .rne => decide (half < r) || (r == half && q.testBit 0)
      | .rna => decide (half ≤ r)
      | .rtz => false
      | .rup => !neg && r != 0
      | .rdn => neg && r != 0
    (q + b2n up, r != 0)

/-- mag·2^exp as an integer multiple of 2^q, rounded in mode rm. -/
def roundAt (rm : RM) (neg : Bool) (mag : Nat) (exp q : Int) : Nat × Bool :=
  if q ≤ exp then (mag <<< (exp - q).toNat, false) else roundShift rm neg mag (q - exp).toNat

/-- The canonical quiet NaN of an IEEE format (R58). -/
def ieeeQnan (eb fb : Nat) : Nat := (2 ^ eb - 1) * 2 ^ fb + 2 ^ (fb - 1)
def ieeeInf (eb fb : Nat) (neg : Bool) : Nat := b2n neg * 2 ^ (eb + fb) + (2 ^ eb - 1) * 2 ^ fb
def ieeeMax (eb fb : Nat) (neg : Bool) : Nat := b2n neg * 2 ^ (eb + fb) + (2 ^ eb - 1) * 2 ^ fb - 1

/-- RoundTo(fmt, x, mode) of R57 for finite x; a zero keeps its sign. -/
def roundIeee (eb fb : Nat) (rm : RM) (neg : Bool) (mag : Nat) (exp : Int) : Nat × Fl :=
  let sgn := b2n neg * 2 ^ (eb + fb)
  if mag = 0 then (sgn, Fl.none)
  else
    let bias : Int := 2 ^ (eb - 1) - 1
    let emin : Int := 1 - bias
    let e : Int := (flog2 mag : Int) + exp
    let ru := roundAt rm neg mag exp (e - fb)
    let eu : Int := if ru.1 = 2 ^ (fb + 1) then e + 1 else e
    if bias < eu then
      let toInf := match rm with | .rne => true | .rna => true | .rtz => false | .rup => !neg | .rdn => neg
      (if toInf then ieeeInf eb fb neg else ieeeMax eb fb neg, { of := true, nx := true })
    else
      let q := max (e - fb) (emin - fb)
      let r := roundAt rm neg mag exp q
      let m := r.1
      let biased : Nat := (q + fb + bias).toNat
      let body := if m < 2 ^ fb then m
        else if m = 2 ^ (fb + 1) then (biased + 1) * 2 ^ fb
        else biased * 2 ^ fb + (m - 2 ^ fb)
      (sgn + body, { nx := r.2, uf := r.2 && decide (eu < emin) })

/-- RoundP of R63 for finite x, with the flag of R64. -/
def roundTap (n es : Nat) (neg : Bool) (mag : Nat) (exp : Int) : Nat × Fl :=
  if mag = 0 then (0, Fl.none)
  else
    let fl := flog2 mag
    let sc : Int := (fl : Int) + exp
    let p : Int := ((2 ^ es : Nat) : Int)
    let k : Int := sc / p
    let e : Nat := (sc % p).toNat
    let frac := mag - 2 ^ fl
    -- regime: k+1 ones and a zero, or -k zeros and a one
    let regLen : Nat := if 0 ≤ k then k.toNat + 2 else (-k).toNat + 1
    let reg : Nat := if 0 ≤ k then 2 ^ regLen - 2 else 1
    let str := (reg <<< es ||| e) <<< fl ||| frac
    let len := regLen + es + fl
    let want := n - 1
    let r := if len ≤ want then (str <<< (want - len), false) else roundShift .rne false str (len - want)
    let u := if r.1 = 0 then 1 else if 2 ^ (n - 1) ≤ r.1 then 2 ^ (n - 1) - 1 else r.1
    let word := if neg then 2 ^ n - u else u
    let exact := match decodeTap n es u with
      | .fin _ m2 e2 =>
        let lo := min exp e2
        mag <<< (exp - lo).toNat == m2 <<< (e2 - lo).toNat
      | _ => false
    (word, { nx := !exact })

/-- Least and greatest values of an integer format. -/
def intMin (signed : Bool) (b : Nat) : Int := if signed then -((2 ^ (b - 1) : Nat) : Int) else 0
def intMax (signed : Bool) (b : Nat) : Int := if signed then ((2 ^ (b - 1) : Nat) : Int) - 1 else ((2 ^ b : Nat) : Int) - 1

/-- Conversion of a finite or special value to an integer format by R70 (source with fractions). -/
def toIntFmt (signed : Bool) (b : Nat) (rm : RM) (v : Val) : Nat × Fl :=
  match v with
  | .nan s => (0, if s then Fl.signalling else Fl.invalid)
  | .nar => (0, Fl.invalid)
  | .inf neg => (wrapTo b (if neg then intMin signed b else intMax signed b), Fl.invalid)
  | .fin neg mag exp =>
    let r := roundAt rm neg mag exp 0
    let x : Int := if neg then -(r.1 : Int) else r.1
    if intMax signed b < x then (wrapTo b (intMax signed b), Fl.invalid)
    else if x < intMin signed b then (wrapTo b (intMin signed b), Fl.invalid)
    else (wrapTo b x, { nx := r.2 })

/-- Integer to integer conversion: saturates and sets QX.SAT (R54, R69). -/
def satInt (signed : Bool) (b : Nat) (x : Int) : Nat × Fl :=
  let y := clampI x (intMin signed b) (intMax signed b)
  (wrapTo b y, { sat := y != x })

/-- An exact value written into a non-block format, rounded once: the rows of R69. `srcInt` says that the source
is an integer format. -/
def convVal (dst : Fmt) (es : Nat) (rm : RM) (srcInt : Bool) (v : Val) : Nat × Fl :=
  match dst with
  | .ieee eb fb =>
    match v with
    | .nan s => (ieeeQnan eb fb, if s then Fl.signalling else Fl.none)
    | .nar => (ieeeQnan eb fb, Fl.none)
    | .inf neg => (ieeeInf eb fb neg, Fl.none)
    | .fin neg mag exp => roundIeee eb fb rm neg mag exp
  | .tap n =>
    match v with
    | .nan s => (2 ^ (n - 1), { nr := true, nv := s, snan := s })
    | .inf _ => (2 ^ (n - 1), { nr := true })
    | .nar => (2 ^ (n - 1), Fl.none)
    | .fin neg mag exp => roundTap n es neg mag exp
  | .int signed b =>
    match srcInt, v with
    | true, .fin neg mag _ => satInt signed b (if neg then -(mag : Int) else mag)
    | _, _ => toIntFmt signed b rm v
  | .blk _ => (0, Fl.none)

/-- The poison value of a non-block format (R71); a block takes E = 255 with mantissas 0. -/
def poisonEnc (f : Fmt) : Nat :=
  match f with
  | .ieee eb fb => (2 ^ eb - 1) * 2 ^ fb + 0x1DEA % 2 ^ (fb - 1)
  | .tap n => 2 ^ (n - 1)
  | .int _ _ => 0
  | .blk _ => 255 * 256

/-- An exact finite sum of signed magnitudes; a zero sum is negative only under RDN or when both are −0. -/
def addFin (rm : RM) (n1 : Bool) (m1 : Nat) (e1 : Int) (n2 : Bool) (m2 : Nat) (e2 : Int) : Val :=
  if m1 = 0 && m2 = 0 then .fin (if n1 = n2 then n1 else rm = .rdn) 0 0
  else if m1 = 0 then .fin n2 m2 e2
  else if m2 = 0 then .fin n1 m1 e1
  else
    let lo := min e1 e2
    let a : Int := ((m1 <<< (e1 - lo).toNat : Nat) : Int)
    let b : Int := ((m2 <<< (e2 - lo).toNat : Nat) : Int)
    let s := (if n1 then -a else a) + (if n2 then -b else b)
    if s = 0 then .fin (rm = .rdn) 0 0 else .fin (decide (s < 0)) s.natAbs lo

/-- Exact addition of two values with the invalid cases of R185 and R218. -/
def valAdd (rm : RM) (a b : Val) : Val × Fl :=
  let fl := Fl.or a.nanFl b.nanFl
  match a, b with
  | .nar, _ => (.nar, fl)
  | _, .nar => (.nar, fl)
  | .nan _, _ => (.nan false, fl)
  | _, .nan _ => (.nan false, fl)
  | .inf s, .inf t => if s = t then (.inf s, fl) else (.nan false, Fl.invalid)
  | .inf s, _ => (.inf s, fl)
  | _, .inf t => (.inf t, fl)
  | .fin n1 m1 e1, .fin n2 m2 e2 => (addFin rm n1 m1 e1 n2 m2 e2, fl)

/-- Exact product with the invalid case 0 × ∞. -/
def valMul (a b : Val) : Val × Fl :=
  let fl := Fl.or a.nanFl b.nanFl
  match a, b with
  | .nar, _ => (.nar, fl)
  | _, .nar => (.nar, fl)
  | .nan _, _ => (.nan false, fl)
  | _, .nan _ => (.nan false, fl)
  | .inf s, .inf t => (.inf (s != t), fl)
  | .inf s, .fin t m _ => if m = 0 then (.nan false, Fl.invalid) else (.inf (s != t), fl)
  | .fin s m _, .inf t => if m = 0 then (.nan false, Fl.invalid) else (.inf (s != t), fl)
  | .fin s m e, .fin t m' e' => (.fin (s != t) (m * m') (e + e'), fl)

/-- Exact a·b + c: 0 × ∞ sets NV whatever the addend (R185, R218). -/
def valFma (rm : RM) (a b c : Val) : Val × Fl :=
  let p := valMul a b
  let s := valAdd rm p.1 c
  (s.1, Fl.or p.2 s.2)

/-- A quotient with enough bits and a final sticky bit, so that one later rounding is exact. -/
def divFin (n1 : Bool) (m1 : Nat) (e1 : Int) (n2 : Bool) (m2 : Nat) (e2 : Int) : Val :=
  let k := 160 + flog2 m2
  let num := m1 <<< k
  let q := num / m2
  .fin (n1 != n2) (2 * q + b2n (num % m2 != 0)) (e1 - e2 - k - 1)

/-- Division of R230 for IEEE operands: invalid 0/0 and ∞/∞, DZ for finite non-zero / 0. -/
def valDiv (a b : Val) : Val × Fl :=
  let fl := Fl.or a.nanFl b.nanFl
  match a, b with
  | .nar, _ => (.nar, fl)
  | _, .nar => (.nar, fl)
  | .nan _, _ => (.nan false, fl)
  | _, .nan _ => (.nan false, fl)
  | .inf _, .inf _ => (.nan false, Fl.invalid)
  | .inf s, .fin t _ _ => (.inf (s != t), fl)
  | .fin s _ _, .inf t => (.fin (s != t) 0 0, fl)
  | .fin s m e, .fin t m' e' =>
    if m' = 0 then if m = 0 then (.nan false, Fl.invalid) else (.inf (s != t), { dz := true })
    else if m = 0 then (.fin (s != t) 0 0, fl)
    else (divFin s m e t m' e', fl)

/-- A square root with enough bits and a final sticky bit. -/
def sqrtFin (m : Nat) (e : Int) : Val :=
  let odd := e % 2 != 0
  let m1 := if odd then 2 * m else m
  let e1 := if odd then e - 1 else e
  let x := m1 <<< 400
  let r := isqrt x
  .fin false (2 * r + b2n (r * r != x)) (e1 / 2 - 201)

/-- Square root of R230 for IEEE operands: NV below zero, √(−0) = −0. -/
def valSqrt (a : Val) : Val × Fl :=
  match a with
  | .nar => (.nar, Fl.none)
  | .nan s => (.nan false, if s then Fl.signalling else Fl.none)
  | .inf s => if s then (.nan false, Fl.invalid) else (.inf false, Fl.none)
  | .fin s m e => if m = 0 then (.fin s 0 0, Fl.none) else if s then (.nan false, Fl.invalid) else (sqrtFin m e, Fl.none)

/-- Compares two real values: the sign of a − b, with −0 equal to +0; NaR is below every real (R61). -/
def valCmp (a b : Val) : Ordering :=
  let sgn (n : Bool) (m : Nat) : Int := if m = 0 then 0 else if n then -1 else 1
  match a, b with
  | .nar, .nar => .eq
  | .nar, _ => .lt
  | _, .nar => .gt
  | .inf s, .inf t => if s = t then .eq else if s then .lt else .gt
  | .inf s, _ => if s then .lt else .gt
  | _, .inf t => if t then .gt else .lt
  | .fin n1 m1 e1, .fin n2 m2 e2 =>
    if sgn n1 m1 != sgn n2 m2 then compare (sgn n1 m1) (sgn n2 m2)
    else
      let lo := min e1 e2
      let x : Int := ((m1 <<< (e1 - lo).toNat : Nat) : Int)
      let y : Int := ((m2 <<< (e2 - lo).toNat : Nat) : Int)
      if n1 then compare y x else compare x y
  | _, _ => .eq

/-- The conditions of R186 and R231 on two values: code 0 equal, 1 less, 2 less or equal, 3 unordered, 4 not
equal; with the NV rule of each. Any other code is no condition. -/
def valCond (code : Nat) (a b : Val) : Bool × Fl :=
  let un := a.isNan || b.isNan
  let quietFl := Fl.or a.nanFl b.nanFl
  let o := valCmp a b
  match code with
  | 0 => (!un && o == .eq, quietFl)
  | 1 => (!un && o == .lt, if un then Fl.or Fl.invalid quietFl else Fl.none)
  | 2 => (!un && o != .gt, if un then Fl.or Fl.invalid quietFl else Fl.none)
  | 3 => (un, quietFl)
  | _ => (un || o != .eq, quietFl)

/-- The order of R219 for min and max of IEEE values, −0 below +0. -/
def valLess (a b : Val) : Bool :=
  match valCmp a b with
  | .lt => true
  | .gt => false
  | .eq => a.isNegative && !b.isNegative

/-! ### Block quantisation (R68) -/

/-- The shared exponent of 32 values (R68): 255 with any NaN, NaR or infinity, 0 for all zero, else clamped. -/
def blockExp (vals : List Val) : Nat :=
  if vals.any (fun v => match v with | .fin _ _ _ => false | _ => true) then 255
  else
    let lgs := vals.filterMap fun v => if v.isFinNonzero then some v.lg else none
    match lgs with
    | [] => 0
    | l :: ls => (clampI (ls.foldl max l + 127) 1 254).toNat

/-- Quantises the values of one block: shared exponent, mantissas and the flags of each value (R68). Where the exponent
would lie above 254 every value of the block raises OF and NX, so the lowest index is the block's first (DESIGN CHOICE,
log 76). -/
def quantBlock (w : Nat) (vals : List Val) : Nat × List Int × List Fl :=
  let e := blockExp vals
  if e = 255 then
    (255, vals.map fun _ => 0,
      vals.map fun v => match v with
        | .nan true => Fl.signalling | .inf _ => Fl.invalid | _ => Fl.none)
  else if e = 0 then (0, vals.map fun _ => 0, vals.map fun _ => Fl.none)
  else
    let big := vals.any fun v => v.isFinNonzero && decide (254 < v.lg + 127)
    let q : Int := (e : Int) - 127 - ((w : Int) - 2)
    let one (v : Val) : Int × Fl := match v with
      | .fin neg mag exp =>
        let r := roundAt .rne neg mag exp q
        let x : Int := if neg then -(r.1 : Int) else r.1
        let y := clampI x (-((2 ^ (w - 1) : Nat) : Int)) (((2 ^ (w - 1) : Nat) : Int) - 1)
        (y, { nx := r.2 || y != x || big, of := big })
      | _ => (0, Fl.none)
    (e, vals.map fun v => (one v).1, vals.map fun v => (one v).2)

/-- The 4w + 1 bytes of a block (R66). -/
def blockBytes (w e : Nat) (ms : List Int) : List Byte :=
  toBytes (4 * w + 1) (e + 256 * packLanes w (ms.map fun m => wrapTo w m))

/-- The 32 encodings (256·E plus the mantissa) of a block's bytes (R66). -/
def blockEncs (w : Nat) (bs : List Byte) : List Nat :=
  let x := fromBytes bs
  (List.range 32).map fun i => 256 * (x % 256) + laneOf w (x / 256) i

/-! ### Faithful functions (R225, R229): bounds in fixed point -/

/-- 2^F/2^k for the fraction F/2^k, as a lower bound with 512 fraction bits: a product of repeated square roots. -/
def exp2Go : Nat → Nat → Nat → Nat → Nat
  | 0, _, _, acc => acc
  | n + 1, frac, root, acc =>
    let root' := isqrt (root <<< 512)
    let acc' := if frac.testBit n then (acc * root') >>> 512 else acc
    exp2Go n frac root' acc'

/-- A value strictly between the two neighbours of 2^a, for a finite non-zero non-integer a in (−1, 1) (R225). -/
def exp2Val (neg : Bool) (mag : Nat) (exp : Int) : Val :=
  let lg : Int := (flog2 mag : Int) + exp
  if lg < -200 then
    if neg then .fin false (2 ^ 300 - 1) (-300) else .fin false (2 ^ 300 + 1) (-300)
  else
    let sh := exp + 512
    let f0 := if 0 ≤ sh then mag <<< sh.toNat else mag >>> (-sh).toNat
    let f := if neg then 2 ^ 512 - f0 else f0
    let acc := exp2Go 512 f (2 ^ 513) (2 ^ 512)
    .fin false (2 * (acc >>> 32) + 1) (-481 - (if neg then 1 else 0))

/-- Fraction bits of log2 of x/2^1024 in [1, 2) by repeated squaring. -/
def log2Go : Nat → Nat → Nat → Nat
  | 0, _, acc => acc
  | n + 1, x, acc =>
    let y := (x * x) >>> 1024
    if 2 ^ 1025 ≤ y then log2Go n (y >>> 1) (2 * acc + 1) else log2Go n y (2 * acc)

/-- log2 of a positive finite value, exact for a power of two, else with a final sticky bit (R229). -/
def log2Val (mag : Nat) (exp : Int) : Val :=
  let fl := flog2 mag
  let e : Int := (fl : Int) + exp
  if mag = 2 ^ fl then Val.ofInt e
  else
    let x := if fl ≤ 1024 then mag <<< (1024 - fl) else mag >>> (fl - 1024)
    let n : Int := e * ((2 ^ 300 : Nat) : Int) + log2Go 300 x 0
    let twice := 2 * n + 1
    .fin (decide (twice < 0)) twice.natAbs (-301)

/-- 1/√x of a positive finite value, exact or with a final sticky bit (R229). -/
def rsqrtVal (m : Nat) (e : Int) : Val :=
  let odd := e % 2 != 0
  let m1 := if odd then 2 * m else m
  let e1 := if odd then e - 1 else e
  let k := 400 + 2 * flog2 m1
  let x := 2 ^ (2 * k) / m1
  let r := isqrt x
  .fin false (2 * r + b2n (r * r * m1 != 2 ^ (2 * k))) (-(e1 / 2) - k - 1)

/-- Rounds to one of the two neighbours: upward when `up` (R225). -/
def roundFaithful (eb fb : Nat) (up : Bool) (v : Val) : Nat × Fl :=
  match v with
  | .fin neg mag exp => roundIeee eb fb (if up then .rup else .rdn) neg mag exp
  | .inf neg => (ieeeInf eb fb neg, Fl.none)
  | _ => (ieeeQnan eb fb, Fl.none)

end Sys2Proof.Machine
end

