-- ==== Sys2Proof/Machine/Quires.lean ====
section
/-! DEFINITION. The quire (03, R72 to R91): classes, exact accumulation, merging, rounding, the 144-byte image, and
the slices of fp64. The raw value V of R73 is held as one integer; body and excess are computed from it. -/

namespace Sys2Proof.Machine

/-- The classes of R72, with the clear class of R75. -/
inductive QCls where
  | clear | q128 | q512 | q1024
  deriving DecidableEq, Repr

/-- The 2-bit STATE of R73. -/
inductive QState where
  | finite | posInf | negInf | invalid
  deriving DecidableEq, Repr

def QCls.rank : QCls → Nat | .clear => 0 | .q128 => 1 | .q512 => 2 | .q1024 => 3
def QCls.ofRank : Nat → QCls | 0 => .clear | 1 => .q128 | 2 => .q512 | _ => .q1024
/-- Body bits N of R72. -/
def QCls.width : QCls → Nat | .clear => 0 | .q128 => 128 | .q512 => 512 | .q1024 => 1024
/-- The bit weighted 2^0, w0 of R72. -/
def QCls.w0 : QCls → Nat | .clear => 0 | .q128 => 48 | .q512 => 240 | .q1024 => 496
def QCls.max (a b : QCls) : QCls := if a.rank < b.rank then b else a
/-- Bay names of a tile of the class (R241). -/
def QCls.bays : QCls → Nat | .clear => 1 | .q128 => 1 | .q512 => 4 | .q1024 => 8

/-- A quire (R73): class, scale σ, STATE and the exact raw value V = SignExt(body) + XS·2^N. -/
structure Quire where
  cls : QCls
  sigma : Int
  state : QState
  raw : Int
  deriving DecidableEq, Repr

/-- R74: the clear quire. -/
def Quire.clear : Quire := { cls := .clear, sigma := 0, state := .finite, raw := 0 }
/-- The clear quire with a scale (R260 qclr). -/
def Quire.clearAt (sigma : Int) : Quire := { Quire.clear with sigma := sigma }

/-- R81: V is held in body plus excess when −2^(N+31) ≤ V < 2^(N+31). The raw values whose excess would be 2^31 or below
−2^31, for which R73's 32 bits have no room, are held here all the same (DESIGN CHOICE, log 68). -/
def quireFits (c : QCls) (v : Int) : Bool :=
  let lim : Int := ((2 ^ (c.width + 31) : Nat) : Int)
  decide (-lim ≤ v) && decide (v < lim)

/-- A finite quire with raw value v, or the guard overflow of R81. -/
def Quire.settle (q : Quire) (v : Int) : Quire × Fl :=
  if quireFits q.cls v || q.cls = .clear && v = 0 then ({ q with raw := v }, Fl.none)
  else ({ q with state := .invalid, raw := 0 }, { qo := true, nv := true })

/-- R78: promotion to a larger class keeps the exact value and σ. -/
def Quire.promote (q : Quire) (c : QCls) : Quire :=
  let n := q.cls.max c
  if q.cls = .clear then { q with cls := n }
  else { q with cls := n, raw := q.raw * ((2 ^ (n.w0 - q.cls.w0) : Nat) : Int) }

/-- R79: how STATE combines with an incoming state, and whether ∞ − ∞ set NV. -/
def QState.combine (cur inc : QState) : QState × Bool :=
  match cur, inc with
  | .invalid, _ => (.invalid, false)
  | _, .invalid => (.invalid, false)
  | .finite, s => (s, false)
  | s, .finite => (s, false)
  | .posInf, .posInf => (.posInf, false)
  | .negInf, .negInf => (.negInf, false)
  | _, _ => (.invalid, true)

/-- A quire whose STATE takes a non-finite contribution. -/
def Quire.withState (q : Quire) (inc : QState) : Quire × Fl :=
  let r := q.state.combine inc
  (if r.1 = .finite then q else { q with state := r.1, raw := 0 }, { nv := r.2 })

/-- R80: a finite product m·2^e placed by the window rule; the exact sum is not yet held to R81. -/
def Quire.place (q : Quire) (neg : Bool) (m : Nat) (e : Int) : Quire × Fl :=
  if m = 0 then (q, Fl.none)
  else
    let sh : Int := e + q.cls.w0 - q.sigma
    let n := q.cls.width
    if (n : Int) - 31 ≤ (flog2 m : Int) + sh then
      let r := q.withState .invalid
      (r.1, { qr := true, nv := true })
    else
      let p : Nat := if 0 ≤ sh then m <<< sh.toNat else if (flog2 m : Int) + 1 < -sh then 0 else m >>> (-sh).toNat
      let exact := decide (0 ≤ sh) || (decide (-sh ≤ (flog2 m : Int) + 1) && m % 2 ^ (-sh).toNat == 0)
      let fl : Fl := { qr := !exact, nx := !exact }
      (if q.state = .finite then { q with raw := q.raw + (if neg then -(p : Int) else p) } else q, fl)

/-- R78: adds the exact product a·b of class c to a quire, as one term of an operation's sum (R83). -/
def Quire.gather (q0 : Quire) (c : QCls) (a b : Val) : Quire × Fl :=
  let q := q0.promote c
  if a.isSnan || b.isSnan then
    let r := q.withState .invalid
    (r.1, Fl.or r.2 Fl.signalling)
  else
    match a, b with
    | .nan _, _ => q.withState .invalid
    | _, .nan _ => q.withState .invalid
    | .nar, _ => q.withState .invalid
    | _, .nar => q.withState .invalid
    | .inf s, .inf t => q.withState (if s = t then .posInf else .negInf)
    | .inf s, .fin t m _ =>
      if m = 0 then let r := q.withState .invalid; (r.1, Fl.or r.2 Fl.invalid)
      else q.withState (if s = t then .posInf else .negInf)
    | .fin s m _, .inf t =>
      if m = 0 then let r := q.withState .invalid; (r.1, Fl.or r.2 Fl.invalid)
      else q.withState (if s = t then .posInf else .negInf)
    | .fin s m e, .fin t m' e' => q.place (s != t) (m * m') (e + e')

/-- R81, R83: the exact sum that an operation has formed, held or a guard overflow. -/
def Quire.close (q : Quire) : Quire × Fl := if q.state = .finite then q.settle q.raw else (q, Fl.none)

/-- R78: an accumulation of the one product a·b. -/
def Quire.accumulate (q : Quire) (c : QCls) (a b : Val) : Quire × Fl :=
  let r := q.gather c a b
  (r.1.close.1, Fl.or r.2 r.1.close.2)

/-- The class of an operand format (R76); none for fp64. -/
def classOf (f : Fmt) (es : Nat) : Option QCls :=
  match f with
  | .int _ b => some (if b ≤ 8 then .q128 else if b = 16 then .q512 else .q1024)
  | .ieee eb fb => if fb = 10 then some .q128 else if fb = 52 then none else if eb = 8 then some .q1024 else none
  | .tap n => some (if n = 8 then if es = 3 then .q512 else .q128 else if n = 16 then .q512 else .q1024)
  | .blk _ => some .q512

/-- The class of a product (R76): the larger of the operands' classes. -/
def classOf2 (f : Fmt) (es : Nat) (g : Fmt) (gs : Nat) : Option QCls :=
  match classOf f es, classOf g gs with
  | some a, some b => some (a.max b)
  | _, _ => none

/-- R84: the negated source of qsub and qneg. A raw value whose negation R81 does not hold is a guard overflow here, before
qsub adds anything (DESIGN CHOICE, log 68). -/
def Quire.negate (q : Quire) : Quire × Fl :=
  match q.state with
  | .posInf => ({ q with state := .negInf }, Fl.none)
  | .negInf => ({ q with state := .posInf }, Fl.none)
  | .invalid => (q, Fl.none)
  | .finite => q.settle (-q.raw)

/-- A quire re-expressed at class c and scale s, with s no greater than its own (R84). -/
def Quire.reexpress (q : Quire) (c : QCls) (s : Int) : Int :=
  if q.cls = .clear then 0
  else q.raw * ((2 ^ ((q.sigma - s).toNat + (c.w0 - q.cls.w0)) : Nat) : Int)

/-- R84: merges the exact value of b into a. A clear operand leaves the other's class and σ; of two clear operands the
σ of a, the destination, stands (DESIGN CHOICE, log 68). -/
def Quire.merge (a b : Quire) : Quire × Fl :=
  if b.cls = .clear then (a, Fl.none)
  else if a.cls = .clear then (b, Fl.none)
  else
    let c := a.cls.max b.cls
    let s := min a.sigma b.sigma
    let base : Quire := { cls := c, sigma := s, state := .finite, raw := 0 }
    let st := a.state.combine b.state
    if st.1 = .finite then base.settle (a.reexpress c s + b.reexpress c s)
    else ({ base with state := st.1 }, { nv := st.2 })

/-- SignExt(body, N) and XS of a raw value (R73). -/
def Quire.body (q : Quire) : Nat := wrapTo q.cls.width q.raw
def Quire.excess (q : Quire) : Int :=
  if q.cls = .clear then 0 else (q.raw - sext q.body q.cls.width) / ((2 ^ q.cls.width : Nat) : Int)

/-- What R85 rounds: the exact value, an infinity, or the invalid result with the flags of R81. -/
def Quire.value (q : Quire) : Val × Fl :=
  match q.state with
  | .posInf => (.inf false, Fl.none)
  | .negInf => (.inf true, Fl.none)
  | .invalid => (.nan false, Fl.none)
  | .finite =>
    if q.excess = 0 then (.fin (decide (q.raw < 0)) q.raw.natAbs (q.sigma - q.cls.w0), Fl.none)
    else (.nan false, { qo := true, nv := true })

/-- RoundQ of R85 for a value of a quire and a non-block format. -/
def roundQVal (f : Fmt) (es : Nat) (rm : RM) (v : Val) (fl : Fl) : Nat × Fl :=
  match f, v with
  | .tap n, .nan _ => (2 ^ (n - 1), fl)
  | .ieee eb fb, .fin _ 0 _ => (if rm = .rdn then 2 ^ (eb + fb) else 0, fl)
  | _, _ => let r := convVal f es rm false v; (r.1, Fl.or fl r.2)

/-- RoundQ(fmt, quire, mode) of R85 for a non-block format. -/
def roundQ (f : Fmt) (es : Nat) (rm : RM) (q : Quire) : Nat × Fl :=
  roundQVal f es rm q.value.1 q.value.2

/-! ### The 144-byte image (R75) -/

def QState.code : QState → Nat | .finite => 0 | .posInf => 1 | .negInf => 2 | .invalid => 3
def QState.ofCode : Nat → QState | 0 => .finite | 1 => .posInf | 2 => .negInf | _ => .invalid

/-- The 128-bit header H of R75. An excess outside R73's signed 32 bits wraps in XS (DESIGN CHOICE, log 68). -/
def quireHeader (cls : QCls) (sigma : Int) (st : QState) (xs : Int) : Nat :=
  cls.rank + st.code * 2 ^ 6 + wrapTo 16 sigma * 2 ^ 80 + wrapTo 32 xs * 2 ^ 96

/-- The quire image of R75. -/
def Quire.image (q : Quire) : List Byte :=
  toBytes 16 (quireHeader q.cls q.sigma q.state q.excess) ++ toBytes 128 q.body

/-- What a rejected image loads as (R75). -/
def Quire.rejected : Quire := { cls := .q1024, sigma := 0, state := .invalid, raw := 0 }

/-- R75: reads an image; none when it is rejected. An image whose value lies below −2^(N+31) is taken as finite (DESIGN
CHOICE, log 68). -/
def Quire.parse? (bs : List Byte) : Option Quire :=
  let h := fromBytes (bs.take 16)
  let body := fromBytes (bs.drop 16)
  let cls := QCls.ofRank (h % 4)
  let st := QState.ofCode (bitsOf h 7 6)
  let xs := sext (h >>> 96) 32
  let sigma := sext (bitsOf h 95 80) 16
  if bitsOf h 5 2 != 0 || bitsOf h 79 8 != 0 || body / 2 ^ cls.width != 0 then none
  else if cls = .clear && (body != 0 || xs != 0 || st != .finite) then none
  else if st != .finite && (body != 0 || xs != 0) then none
  else some { cls := cls, sigma := sigma, state := st,
              raw := if cls = .clear then 0 else sext body cls.width + xs * ((2 ^ cls.width : Nat) : Int) }

/-- What qld makes of an image, with the NV of a rejection (R75). -/
def Quire.load (bs : List Byte) : Quire × Fl :=
  match Quire.parse? bs with
  | some q => (q, Fl.none)
  | none => (Quire.rejected, Fl.invalid)

/-! ### FP64 slices (R88 to R90) -/

/-- RoundTo(integer, x·2^(63−E), RNE) of R88. -/
def sliceInt (e : Int) (v : Val) : Int :=
  match v with
  | .fin neg mag exp =>
    let r := roundAt .rne neg mag exp (e - 63)
    if neg then -(r.1 : Int) else r.1
  | _ => 0

/-- The eight digits of X, top digit last computed (R88); list index is the digit number. -/
def sliceDigits : Nat → Int → List Int
  | 0, x => [x]
  | n + 1, x =>
    let d := ((x + 128) % 256) - 128
    sliceDigits n ((x - d) / 256) ++ [d]

/-- Whether a row is invalid, its exponent E after the re-split step, and its flags by value index (R88). -/
def splitExp (vals : List Val) : Bool × Int × List Fl :=
  if vals.any (fun v => v.isNan || v.isInf) then
    (true, -32768, vals.map fun v => match v with
      | .nan true => Fl.signalling | .inf _ => Fl.invalid | _ => Fl.none)
  else
    let noFl := vals.map fun _ => Fl.none
    let lgs := vals.filterMap fun v => if v.isFinNonzero then some v.lg else none
    match lgs with
    | [] => (false, 0, noFl)
    | l :: ls =>
      let e := ls.foldl max l + 1
      let top (v : Val) : Bool := match sliceDigits 7 (sliceInt e v) with
        | d :: _ => decide (127 < d) | [] => false
      (false, if vals.any top then e + 1 else e, noFl)

/-- The digits written in the second pass of R237 for one value, under the row's exponent. -/
def splitDigits (rowInvalid : Bool) (e : Int) (v : Val) : List Int :=
  if rowInvalid then List.replicate 8 0
  else if v.isNan || v.isInf then List.replicate 8 0
  else
    let ds := sliceDigits 7 (sliceInt e v)
    match ds with
    | d :: _ => if 127 < d then List.replicate 8 127 else if d < -128 then List.replicate 8 (-128) else ds
    | [] => ds

/-- ĉ of R90 as a value: 2^(Ea + Eb − 14)·S, where S is the value of a slice element with σ = −112. -/
def sliceValue (q : Quire) (ea eb : Int) : Val × Fl :=
  match q.value with
  | (.fin neg m e, fl) => (.fin neg m (e + ea + eb - 14), fl)
  | r => r

end Sys2Proof.Machine
end

