-- ==== Sys2Proof/Syntax.lean ====
section
/-! DEFINITION. The slot formats of R145 to R148 as records of their fields, and the one inductive of every step of
the part: slot instructions, internal steps and host commands (spec/opcode_table.json). -/

namespace Sys2Proof

/-- The two scalar slots (R142). -/
inductive SSlot where
  | s0 | s1
  deriving DecidableEq, Repr

/-- An I-format immediate: IMM12, or under CLS = 01 the 48 bits of the S1 field (R144). -/
inductive Imm where
  | short (v : BitVec 12)
  | long (v : BitVec 48)
  deriving DecidableEq, Repr

/-- R format (R145). -/
structure RForm where
  sh : BitVec 2
  fn : BitVec 4
  d : BitVec 6
  a : BitVec 6
  ma : BitVec 3
  b : BitVec 6
  mb : BitVec 3
  gi : BitVec 3
  gn : BitVec 1
  td : BitVec 1
  ta : BitVec 1
  tb : BitVec 1
  deriving DecidableEq, Repr

/-- I format (R145). -/
structure IForm where
  sh : BitVec 2
  fn : BitVec 4
  d : BitVec 6
  a : BitVec 6
  ma : BitVec 3
  imm : Imm
  gi : BitVec 3
  gn : BitVec 1
  td : BitVec 1
  ta : BitVec 1
  deriving DecidableEq, Repr

/-- U format (R145). -/
structure UForm where
  d : BitVec 6
  imm : BitVec 20
  td : BitVec 1
  deriving DecidableEq, Repr

/-- B format (R145). -/
structure BForm where
  gi : BitVec 3
  gn : BitVec 1
  off : BitVec 24
  a : BitVec 4
  deriving DecidableEq, Repr

/-- L format (R145). -/
structure LForm where
  rot : BitVec 1
  cr : BitVec 1
  endB : BitVec 12
  cnt : BitVec 16
  deriving DecidableEq, Repr

/-- P format (R145). -/
structure PForm where
  n : BitVec 16
  k : BitVec 6
  deriving DecidableEq, Repr

/-- The V-slot format (R146). -/
structure VForm where
  rm : BitVec 3
  dd : BitVec 5
  da : BitVec 5
  db : BitVec 5
  dc : BitVec 5
  cfmt : BitVec 6
  qd : BitVec 3
  fn : BitVec 4
  deriving DecidableEq, Repr

/-- The MA format (R147). -/
structure MAForm where
  bd : BitVec 5
  da : BitVec 5
  db : BitVec 5
  w : BitVec 2
  ws : BitVec 1
  rm : BitVec 3
  fmt : BitVec 6
  pi : BitVec 3
  pj : BitVec 3
  fn : BitVec 4
  deriving DecidableEq, Repr

/-- The MQ format (R147). -/
structure MQForm where
  qd : BitVec 3
  qs : BitVec 3
  sa : BitVec 6
  sb : BitVec 6
  da : BitVec 5
  db : BitVec 5
  rm : BitVec 3
  fmt : BitVec 6
  deriving DecidableEq, Repr

/-- The X-slot format (R148). -/
structure XForm where
  ch : BitVec 2
  aa : BitVec 4
  ab : BitVec 4
  sa : BitVec 6
  ms : BitVec 6
  sc : BitVec 3
  gi : BitVec 3
  gn : BitVec 1
  da : BitVec 5
  fn : BitVec 4
  deriving DecidableEq, Repr

/-- A room: the submission number of its team and its linear index (R17, R368). -/
structure RoomId where
  team : Nat
  lin : Nat
  deriving DecidableEq, Repr

/-- The session and sequence number of a command datagram (R413). -/
structure CmdHdr where
  session : Nat
  seq : Nat
  deriving DecidableEq, Repr

/-- What an access needs of a translation (R402). -/
inductive AccessKind where
  | read | write | readWrite | fetch
  deriving DecidableEq, Repr

/-- What the line check finds on a read of a line (R436, R446). -/
inductive LineCheck where
  | clean | corrected | uncorrectable
  deriving DecidableEq, Repr

/-- The modes of pre-emption (R374). -/
inductive PreemptMode where
  | drain | save | discard
  deriving DecidableEq, Repr

/-- The accesses a watchpoint matches (R396). -/
inductive WatchKind where
  | reads | writes | both
  deriving DecidableEq, Repr

/-- Source of a restow: a mapped leaf or a tensor handle (R406). -/
inductive RestowSource where
  | page (asid : Nat) (va : Nat)
  | handle (num : Nat)
  deriving DecidableEq, Repr

/-- One placement of a room (R373): its core, as the core number of R3 plus 128 times the package's distance, which is
its number less this package's modulo 512, so that a core of this package is below 128. -/
structure Placing where
  lin : Nat
  core : Nat
  deriving DecidableEq, Repr

/-- A firmware image or configuration record offered to the management processor, with the outcome of the two
signature checks over its digest (R439). -/
structure SignedImage where
  version : Nat
  digest : Nat
  ecdsaOk : Bool
  lmsOk : Bool
  deriving DecidableEq, Repr

/-- The contents of a configuration record (R438): the device's certificate chain, the host port's link-local and global
addresses (R411), its PTP domain (R425), the power cap (R444), the privileges of each requester's certificate (R412), and the
firmware version floor. -/
structure ConfigRecord where
  image : SignedImage
  certChain : List (List Byte)
  linkLocal : BitVec 128
  globalAddr : BitVec 128
  powerCapWatts : Nat
  floorVersion : Nat
  certs : List (Nat × Nat)
  ptpDomain : Nat
  lpddrBankBytes : Nat
  deriving DecidableEq, Repr

/-- A beat frame of a mesh-extension link (R419); a timing frame also carries the TB:TBF stamp taken at its first bit, in
2^-16 ns. -/
structure BeatFrame where
  seq : Nat
  ack : Nat
  plane : BitVec 2
  crcOk : Bool
  stamp : Option Nat
  payload : List Byte
  deriving DecidableEq, Repr

/-- The mode block of the CNTREAD command in TRACECFG mode (R429). -/
structure TraceArgs where
  paBase : Nat
  size : Nat
  berth : DWord
  options : BitVec 32
  cores : BitVec 128
  deriving DecidableEq, Repr

/-- What a read request of a lockhouse port for a 64 B line names (R422): a physical address, or handle and tile: the coordinates
of the tile's origin, and the line counted from the one that holds the element there. -/
inductive PeerRead where
  | range (pa : Nat)
  | handle (num : Nat) (origin : List Nat) (line : Nat)
  deriving DecidableEq, Repr

/-- What aborts a restow (R409): a line of the source, read by a mirror write, is uncorrectable, or the write of a line of the
destination failed. -/
inductive RestowFail where
  | source (line : Nat)
  | destination (line : Nat)
  deriving DecidableEq, Repr

/-- A PTP sync (R425): its domain, the sync intervals that passed without one before it, and the estimate of the hall's offset in
ns, positive when it is ahead. -/
structure PtpSync where
  domain : Nat
  missed : Nat
  estimate : Int
  deriving DecidableEq, Repr

/-- A frame that reaches the host port (R411): its EtherType, the bytes of its IP packet, and the destination port of a UDP
packet. -/
structure HostFrame where
  etherType : BitVec 16
  ipBytes : Nat
  udpPort : Option Nat
  deriving DecidableEq, Repr

/-- Every step of the OA4128, one constructor per row of spec/opcode_table.json. Slot instructions carry their
format's fields; internal steps and host commands carry what names them. -/
inductive Instr where
  -- S0 and S1 (R160 to R204)
  | nop (sl : SSlot) | add (sl : SSlot) (f : RForm) | sub (sl : SSlot) (f : RForm)
  | mul (sl : SSlot) (f : RForm) | mulh (sl : SSlot) (f : RForm) | mulhu (sl : SSlot) (f : RForm)
  | min (sl : SSlot) (f : RForm) | max (sl : SSlot) (f : RForm) | minu (sl : SSlot) (f : RForm)
  | maxu (sl : SSlot) (f : RForm) | adds (sl : SSlot) (f : RForm) | addus (sl : SSlot) (f : RForm)
  | subs (sl : SSlot) (f : RForm) | subus (sl : SSlot) (f : RForm) | abs (sl : SSlot) (f : RForm)
  | neg (sl : SSlot) (f : RForm) | and (sl : SSlot) (f : RForm) | or (sl : SSlot) (f : RForm)
  | xor (sl : SSlot) (f : RForm) | andn (sl : SSlot) (f : RForm) | shl (sl : SSlot) (f : RForm)
  | shr (sl : SSlot) (f : RForm) | sar (sl : SSlot) (f : RForm) | clz (sl : SSlot) (f : RForm)
  | popc (sl : SSlot) (f : RForm) | bext (sl : SSlot) (f : RForm) | bins (sl : SSlot) (f : RForm)
  | bperm (sl : SSlot) (f : RForm) | ceq (sl : SSlot) (f : RForm) | cne (sl : SSlot) (f : RForm)
  | clt (sl : SSlot) (f : RForm) | cle (sl : SSlot) (f : RForm) | cltu (sl : SSlot) (f : RForm)
  | cleu (sl : SSlot) (f : RForm) | gand (sl : SSlot) (f : RForm) | gor (sl : SSlot) (f : RForm)
  | sel (sl : SSlot) (f : RForm) | addi (sl : SSlot) (f : IForm) | andi (sl : SSlot) (f : IForm)
  | ori (sl : SSlot) (f : IForm) | xori (sl : SSlot) (f : IForm) | shli (sl : SSlot) (f : IForm)
  | shri (sl : SSlot) (f : IForm) | sari (sl : SSlot) (f : IForm) | ceqi (sl : SSlot) (f : IForm)
  | clti (sl : SSlot) (f : IForm) | cltui (sl : SSlot) (f : IForm) | seth (sl : SSlot) (f : UForm)
  | aadd (sl : SSlot) (f : RForm) | aaddi (sl : SSlot) (f : IForm) | ldb (sl : SSlot) (f : IForm)
  | ldbu (sl : SSlot) (f : IForm) | ldh (sl : SSlot) (f : IForm) | ldhu (sl : SSlot) (f : IForm)
  | ldw (sl : SSlot) (f : IForm) | ldq (sl : SSlot) (f : IForm) | stb (sl : SSlot) (f : IForm)
  | sth (sl : SSlot) (f : IForm) | stw (sl : SSlot) (f : IForm) | stq (sl : SSlot) (f : IForm)
  | lda (sl : SSlot) (f : IForm) | sta (sl : SSlot) (f : IForm) | ldd (sl : SSlot) (f : IForm)
  | std (sl : SSlot) (f : IForm) | fadd (sl : SSlot) (f : RForm) | fsub (sl : SSlot) (f : RForm)
  | fmul (sl : SSlot) (f : RForm) | ffma (sl : SSlot) (f : RForm) | fcmp (sl : SSlot) (f : RForm)
  | fcvt (sl : SSlot) (f : RForm) | br (f : BForm) | jr (f : BForm) | call (f : BForm) | callr (f : BForm)
  | ret (f : BForm) | loop (f : LForm) | rep (f : PForm) | rot (f : IForm) | trap (f : IForm)
  | mfs (sl : SSlot) (f : IForm) | mts (f : IForm) | repcWrite (f : IForm) | halt (f : BForm)
  -- V (R206 to R240)
  | vadd (f : VForm) | vsub (f : VForm) | vmul (f : VForm) | vfma (f : VForm) | vmin (f : VForm)
  | vmax (f : VForm) | vabs (f : VForm) | vneg (f : VForm) | vadds (f : VForm) | vsubs (f : VForm)
  | vand (f : VForm) | vor (f : VForm) | vxor (f : VForm) | vshl (f : VForm) | vshr (f : VForm)
  | vcvt (f : VForm) | vrint (f : VForm) | vmov (f : VForm) | vfexp (f : VForm) | vscale (f : VForm)
  | vgetexp (f : VForm) | vgetman (f : VForm) | vclass (f : VForm) | vrcp (f : VForm) | vrsqrt (f : VForm)
  | vdiv (f : VForm) | vsqrt (f : VForm) | vflog (f : VForm) | vcmp (f : VForm) | vsel (f : VForm)
  | vperm (f : VForm) | vgather (f : VForm) | vscatter (f : VForm) | vbmax (f : VForm) | vsplit (f : VForm)
  | vrand (f : VForm) | vsum (f : VForm) | vdot (f : VForm) | vrmax (f : VForm) | vrmin (f : VForm)
  -- M (R241 to R263)
  | msill (f : MAForm) | mmul (f : MAForm) | mmac (f : MAForm) | mslice (f : MAForm)
  | mscale (f : MAForm) | mround (f : MAForm) | mrel (f : MAForm) | mzero (f : MAForm) | msave (f : MAForm)
  | mload (f : MAForm) | msplit (f : MAForm) | qclr (f : MQForm) | qfma (f : MQForm) | qdot (f : MQForm)
  | qadd (f : MQForm) | qsub (f : MQForm) | qneg (f : MQForm) | qround (f : MQForm) | qst (f : MQForm)
  | qld (f : MQForm)
  -- X (R264 to R305)
  | bcopy (f : XForm) | bconv (f : XForm) | bquant (f : XForm) | bgather (f : XForm)
  | bscatter (f : XForm) | bfill (f : XForm) | bnext (f : XForm) | bchain (f : XForm) | put (f : XForm)
  | putQ (f : XForm) | putT (f : XForm) | sinit (f : XForm) | sinc (f : XForm) | swait (f : XForm)
  | twait (f : XForm) | tbsync (f : XForm) | slAdd (f : XForm) | slMin (f : XForm) | slMax (f : XForm)
  | slAnd (f : XForm) | slOr (f : XForm) | slXor (f : XForm) | slFadd (f : XForm) | slCas (f : XForm)
  | slFill (f : XForm) | slSum (f : XForm) | amoAdd (f : XForm) | amoMin (f : XForm) | amoMax (f : XForm)
  | amoAnd (f : XForm) | amoOr (f : XForm) | amoXor (f : XForm) | amoSwap (f : XForm) | amoCas (f : XForm)
  | amoFadd (f : XForm) | fenceAcq (f : XForm) | fenceRel (f : XForm) | fenceAr (f : XForm)
  | fenceBank (f : XForm) | fenceBankAll (f : XForm) | fenceGeo (f : XForm) | phase (f : XForm)
  | dbar (f : XForm) | collSum (f : XForm) | collSumQ (f : XForm) | collBcast (f : XForm) | wmap (f : XForm)
  | wflush (f : XForm) | wflushAll (f : XForm) | tret (f : XForm)
  -- loading, launching, contexts (files 16 to 18; host commands)
  | load (h : CmdHdr) (asid : Nat) (objVa : Nat) (size : Nat) (lb : DWord) | unload (h : CmdHdr) (handle : Nat)
  | launch (h : CmdHdr) (asid : Nat) (recVa : Nat)
  | basincfg (h : CmdHdr) (basin : Nat) (cls : Nat) (weight : Nat)
  | preempt (h : CmdHdr) (team : Nat) (deadline : Nat) (forced : Option PreemptMode)
  | kill (h : CmdHdr) (team : Nat) | resume (h : CmdHdr) (r : RoomId)
  | resumeH (h : CmdHdr) (r : RoomId) (addr : DWord) | ctxread (h : CmdHdr) (r : RoomId)
  | ctxwrite (h : CmdHdr) (r : RoomId) (image : List Byte) | dump (h : CmdHdr) (r : RoomId)
  | dumparea (h : CmdHdr) (asid : Nat) (va : Nat) (size : Nat) | debugStop (h : CmdHdr) (r : RoomId)
  | debugStep (h : CmdHdr) (r : RoomId)
  | debugBkpt (h : CmdHdr) (r : RoomId) (n : BitVec 2) (addr : Option DWord)
  | debugWatch (h : CmdHdr) (r : RoomId) (n : BitVec 2) (lo : Nat) (len : Nat) (kind : WatchKind)
  | debugResume (h : CmdHdr) (r : RoomId) | pagein (h : CmdHdr) (r : RoomId)
  | faultFatal (h : CmdHdr) (r : RoomId)
  -- translation and restowing (file 19, R114; host commands)
  | asidset (h : CmdHdr) (asid : Nat) (valid : Bool) (root : Nat) (tberth : DWord)
  | ptewrite (h : CmdHdr) (asid : Nat) (pa : Nat) (word0 : DWord) (word1 : DWord)
  | shootdown (h : CmdHdr) (asid : Nat) (range : Option (Nat × Nat))
  | restow (h : CmdHdr) (src : RestowSource) (frame : Nat) (berth : DWord)
  | restowcancel (h : CmdHdr) (id : Nat) | handlereg (h : CmdHdr) (num : Nat) (words : List DWord)
  -- host, peers and time (file 20; host commands)
  | winopen (h : CmdHdr) (asid : Nat) (va : Nat) (len : Nat) (rights : BitVec 3)
  | winclose (h : CmdHdr) (key : Nat)
  -- requests of the host (file 20; internal steps and events)
  | rdmaRead (qp : Nat) (psn : Nat) (key : Nat) (va : Nat) (len : Nat)
  | rdmaWrite (qp : Nat) (psn : Nat) (key : Nat) (va : Nat) (data : List Byte)
  | atomicFetchAndAdd (qp : Nat) (psn : Nat) (key : Nat) (va : Nat) (v : DWord)
  | atomicCompareAndSwap (qp : Nat) (psn : Nat) (key : Nat) (va : Nat) (cmp : DWord) (v : DWord)
  -- S0 and S1 (R160 to R204; internal steps and events)
  | roomHalted (r : RoomId)
  -- X (R264 to R305; internal steps and events)
  | sluiceApply (r : RoomId) (id : Nat) | atomicApply (r : RoomId) (id : Nat)
  | entryDispatch (r : RoomId) (id : Nat) | bargeElementRequest (r : RoomId) (id : Nat)
  | windowFill (r : RoomId) | atticOverflowFill (r : RoomId) | codePageFill (r : RoomId)
  | pageFaultMove (r : RoomId) | contextSave (team : Nat)
  -- host, peers and time (file 20; host commands)
  | aclset (h : CmdHdr) (lockhouse : Nat) (idx : Nat) (words : List DWord)
  | evqset (h : CmdHdr) (qp : Nat) (addr : Nat) (rkey : Nat) (log2 : Nat) (consumer : Option Nat)
  | linkroute (h : CmdHdr) (self : Nat) (routes : List (Nat × Nat × List Nat)) (spares : List (Nat × Nat))
  | tbref (h : CmdHdr) (root : Nat) | arm (h : CmdHdr) (t : DWord)
  | read (h : CmdHdr) (first : Nat) (count : Nat) | tracecfg (h : CmdHdr) (args : TraceArgs)
  | tracestop (h : CmdHdr) | malformedCommand (h : CmdHdr) (opcode : BitVec 16)
  -- rooms (R264 to R305, R382; internal steps and events)
  | landing (r : RoomId) | sluiceReply (r : RoomId) (id : Nat) | atomicReply (r : RoomId) (id : Nat)
  | boundaryTrap (r : RoomId) | putLanding (r : RoomId) (id : Nat)
  | swaitRelease (r : RoomId) | twaitRelease (r : RoomId) | tbRealignDone (pkg : Nat)
  | fenceComplete (r : RoomId) (id : Nat) | dbarArrival (r : RoomId) | dbarComplete (r : RoomId)
  | collectiveComplete (r : RoomId) (id : Nat)
  | cardStart (r : RoomId) (id : Nat) | shadowCardSwap (r : RoomId) (ch : BitVec 2)
  | cardComplete (r : RoomId) (id : Nat)
  | tableWalk (floor : Nat) (asid : Nat) (va : Nat) (kind : AccessKind) | requestReplay (r : RoomId) (id : Nat)
  -- fleet (file 21; host commands)
  | powerUp (slotA : SignedImage) (slotB : SignedImage) (record : ConfigRecord)
  | cmdDropped (h : CmdHdr) (tagOk : Bool)
  -- memory (R123, R436, R98; internal steps and events)
  | alertBackOff (bank : Nat) | patrolScrub (stack : Option Nat) (line : Nat) (found : LineCheck)
  | bankSelfTestPass (core : Nat) (bank : Nat)
  -- loading, launching, contexts (files 16 to 18; internal steps and events)
  | admissionRound (map : List Placing) | teamRetire (team : Nat) | preemptStop (r : RoomId)
  | dumpComplete
  -- translation and restowing (file 19, R114; internal steps and events)
  | shootdownDone (id : Nat) | restowCopyLine (id : Nat) (found : LineCheck) (destOk : Bool)
  | restowClose (id : Nat) | restowDrainEnd (id : Nat) | restowFlip (id : Nat) | restowDone (id : Nat)
  | restowAbort (id : Nat) (fail : RestowFail)
  -- host, peers and time (file 20; internal steps and events)
  | evqOverflowEvent | counterTrigger (die : Nat) | traceRecordWrite (core : Nat) (inTime : Bool)
  | cmdsession (spdm : Nat) (cert : Nat) | getMeasurements (nonce : Nat)
  | keyload (session : Nat) (slot : Nat) (key : BitVec 512) (unwraps : Bool) | keyloadComplete (slot : Nat)
  | beatFrameReceive (link : Nat) (frame : BeatFrame) | beatResendTimeout (link : Nat)
  | linkRetrain (link : Nat) | timingFrameSend (link : Nat) | timingFrameReceive (link : Nat) (frame : BeatFrame)
  | rootPathLoss | ptpSync (sync : PtpSync) | ptpSyncTimeout
  | lockhousePortLinkUp (port : Nat) (authenticated : Bool) (pid : Nat)
  | peerReadRequest (port : Nat) (pid : Nat) (tile : Option (Nat × List Nat)) (addr : Nat)
  | peerReadReply (r : RoomId) (id : Nat) (denied : Bool) (stale : Bool) (line : Option (List Byte))
  -- fleet (file 21; internal steps and events)
  | powerSample (sampleWatts : Nat) (energy : List Nat) (h : Nat) | thermalWarn | thermalTrip | packageReset
  | bankHardFault (core : Nat) (bank : Nat) | refreshDue (bank : Nat) (canIssue : Bool)
  | refreshManagementDone (bank : Nat) | linkRetrainDone (link : Nat) | frameDropped (frame : HostFrame)
  | firmwareUpdate (image : SignedImage) (record : Option ConfigRecord) | spdmSessionEnd (spdm : Nat)
  | thermalWarnClear
  -- the no-ops of V, M and X, which have no field
  | vnop | mnop | xnop
  deriving DecidableEq, Repr

end Sys2Proof
end

