-- ==== Sys2Proof/Machine/State.lean ====
section
/-! DEFINITION. The state of the OA4128 as plain data, its value after reset, and the reasons a step can stop. -/

namespace Sys2Proof.Machine

/-- Why the machine stops. -/
inductive Fault where
  /-- Raised by `step` while power is off (R445, R439): nothing runs until power-up. Safe: the hardware stops too. -/
  | poweredOff
  deriving DecidableEq, Repr

/-- Why a step has no meaning in the model. -/
inductive Refusal where
  /-- Raised by an arm of `exec` for an instruction that has no meaning yet. Safe: it allows nothing. -/
  | notModelled (mnemonic : String)
  deriving DecidableEq, Repr

/-! ### Rooms (01, 06, 07, 18) -/

/-- An interval of bytes, both ends included (R34). -/
structure Iv where
  lo : Int
  hi : Int
  deriving DecidableEq, Repr

/-- The read and write sets of the seven footprint engines, numbered as in R295 (R33). -/
structure Footprint where
  reads : List (List Iv)
  writes : List (List Iv)
  /-- R295: declared idempotent. -/
  idem : Bool
  /-- Between the completion of a dbar and the next phase (R30, R37). -/
  empty : Bool
  /-- The record of R295 that it came from (R393, FOOTPRINT). -/
  image : List Byte
  deriving DecidableEq, Repr

/-- A cause of a stop with what TRAPC records of it (R380, R381). -/
structure Cause where
  code : Nat
  slot : Nat
  sub : Nat
  aux : Nat
  index : Nat
  /-- Faulting address and access of a page fault, for the PAGE event (R388). -/
  va : Nat := 0
  acc : AccessKind := .read
  /-- It arose while the room was in handler mode, which makes it fatal (R381). -/
  inHandler : Bool := false
  deriving DecidableEq, Repr

/-- The flags an operation raised, each with the lowest index that raised it (R60, R64, R82). -/
structure Raised where
  nv : Option Nat
  dz : Option Nat
  of : Option Nat
  uf : Option Nat
  nx : Option Nat
  snan : Option Nat
  nr : Option Nat
  qo : Option Nat
  qr : Option Nat
  sat : Option Nat
  deriving DecidableEq, Repr

/-- An element of a tile that is not a finite zero (R74): index 128·r + c. -/
structure TileElem where
  idx : Nat
  state : QState
  raw : Int
  deriving DecidableEq, Repr

/-- A bound tile as its landed writers left it, or as a pending one will leave it (R241 to R243). -/
structure Tile where
  head : Nat
  cls : QCls
  sigma : Int
  elems : List TileElem
  /-- Address of the bundle of the operation that wrote it (R434), and its number in the room's order of issue: writers apply in
  that order, whatever the order of their landings (R243). -/
  writer : DWord
  issued : Nat
  deriving DecidableEq, Repr

/-- What a landing writes (R157, R378). -/
inductive LandVal where
  | s (phys : BitVec 6) (v : Word)
  | a (n : BitVec 4) (v : DWord)
  | g (n : BitVec 3) (v : Bool)
  | q (n : BitVec 3) (v : Quire)
  | d (n : BitVec 5) (v : DescWord)
  | mSet (n : BitVec 6) (v : Word)
  | mAdd (n : BitVec 6) (v : Word)
  | bytes (cells : List Host.Cell)
  | overflow (cells : List Host.Cell)
  /-- Bytes of an S-slot store or of `qst`: written in the issue cycle, read by the engines from the next on (R183, R262). -/
  | store (cells : List Host.Cell)
  /-- The bytes that an `msill` or `msplit` filled (R251, R258). -/
  | sill (w : BitVec 2) (cells : List Host.Cell)
  /-- A tile as its writer leaves it (R243, R248). -/
  | tile (t : Tile)
  | flagsOnly
  deriving DecidableEq, Repr

/-- A landing still pending, which across a stop is a shadow latch (R378): `due` is the room's issue cycle in which
it is made. -/
structure Landing where
  due : Nat
  val : LandVal
  slot : Nat
  raised : Raised
  /-- R234: the lowest value index beyond the table of a gather or scatter. -/
  escape : Option Nat
  deriving DecidableEq, Repr

/-- An entry of the loop stack (R193). -/
structure LoopEntry where
  start : DWord
  last : DWord
  count : Nat
  rot : Bool
  deriving DecidableEq, Repr

/-- A pending redirection of a taken branch (R189): the target issues in cycle `due`. -/
structure Redirect where
  due : Nat
  target : DWord
  /-- R191: br and jr pop loop entries. -/
  pops : Bool
  deriving DecidableEq, Repr

/-- A beat's or chunk's bytes formed and not yet written: its write cycle, cells and the flags it raised (R211). -/
structure BeatWrite where
  cycle : Nat
  cells : List Host.Cell
  /-- i4 and n4 values: byte address, whether the upper half, and the value; merged when they are written (R51). -/
  halves : List (Nat × Bool × Nat)
  raised : Raised
  deriving DecidableEq, Repr

/-- A V or M operation in flight (R215, R247, R393 PROGRESS). -/
structure Flight where
  op : Instr
  /-- 2 V, 3 M. -/
  slot : Nat
  /-- Address of its bundle (R434). -/
  pc : DWord
  c0 : Nat
  occ : Nat
  lat : Nat
  rm : RM
  /-- Region descriptors (or raw d-registers) read at issue. -/
  dd : Nat
  da : Nat
  db : Nat
  dc : Nat
  /-- Next beat, chunk or K cycle. -/
  next : Nat
  /-- R213, R245: an access did not take place. -/
  lost : Bool
  /-- Bank groups whose engine ports the operation holds, and the last cycle of the hold (R235, R245). -/
  hold : List Nat
  holdEnd : Nat
  /-- Encodings gathered and not yet formed into a write. -/
  buf : List Nat
  /-- R88, R237: whether the current row is invalid, and its exponent. -/
  rowInvalid : Bool
  rowExp : Int
  /-- The q-register accumulated (R239), or clear. -/
  acc : Quire
  /-- The tile it writes as its cycles so far leave it (R243), and the bytes it has put into its sill (R251, R258). -/
  tile : Option Tile
  fill : List Host.Cell
  raised : Raised
  escape : Option Nat
  writes : List BeatWrite
  deriving DecidableEq, Repr

/-- An engine-port access of the current cycle (R95, R96): bank is 8·group + bank, word the row. -/
structure PortUse where
  bank : Nat
  word : Nat
  read : Bool
  slot : Nat
  /-- A bank held whole (R235, R245). -/
  hold : Bool
  /-- Issue cycle of the operation. -/
  c0 : Nat
  deriving DecidableEq, Repr

/-- A window of R104: scratchpad base, bytes, global base, resident lines, and the written bytes (byte enables). -/
structure Window where
  num : Nat
  base : Nat
  len : Nat
  gva : Nat
  resident : List Nat
  written : List Nat
  deriving DecidableEq, Repr

/-- A resident attic overflow line (R101). -/
structure OvLine where
  num : Nat
  bytes : List Byte
  dirty : Bool
  deriving DecidableEq, Repr

/-- What a room waits for (R287, R297, R47). -/
inductive Wait where
  | none
  | swait (m : BitVec 6) (v : Word) (dec : Bool)
  | dbar (dm : Nat) (arrived : Bool)
  | twait (t : DWord)
  deriving DecidableEq, Repr

/-- What a held room waits for (R101, R105, R192). -/
inductive Miss where
  | codePage (page : Nat)
  | window (num : Nat) (line : Nat)
  | overflow (line : Nat)
  deriving DecidableEq, Repr

/-- Why a room issues nothing (R378). -/
inductive Stop where
  | none
  | hold (m : Miss)
  | frozen (c : Cause)
  | away (c : Cause)
  /-- A page fault that FAULT_FATAL made fatal (R389). -/
  | fatalPage (c : Cause)
  | debug
  | preempted
  /-- A readmission whose context was refused: frozen until CTXWRITE gives a valid one (R395). -/
  | refused
  deriving DecidableEq, Repr

/-- Life of a room (R15, R204, R370). -/
inductive Life where
  | absent | running | halting | halted | ended
  deriving DecidableEq, Repr

/-- Progress of a transfer-queue entry (R265, R267). -/
inductive XStatus where
  | queued | dispatched | started | applied | complete
  deriving DecidableEq, Repr

/-- A transfer-queue entry with the operands read at issue (R264 to R268, R281). -/
structure XEntry where
  id : Nat
  op : Instr
  /-- a[AA], a[AB], a[AB+1], s[SA], the region descriptor and the rounding mode read at issue. -/
  aa : Nat
  ab : Nat
  ac : Nat
  sv : Nat
  desc : Nat
  rm : RM
  /-- The 64 bytes of a card. -/
  card : List Byte
  /-- R278: waits in the shadow card register. -/
  shadow : Bool
  /-- Cards that must complete before this one starts (R278 to R280), and fences that hold it. -/
  after : List Nat
  status : XStatus
  /-- Next element of a card. -/
  next : Nat
  /-- Encodings staged and the block group of a quantising card (R274). -/
  staged : List Nat
  /-- The fault that stopped it (R281). -/
  fault : Option Cause
  /-- R408: the GEN refused at a flip, until the request is replayed after a fresh walk. -/
  replay : Option Nat
  /-- R407: the restow that holds its request between Close and the flip, and the die of the holding controller. -/
  heldBy : Option (Nat × Nat)
  /-- R141: a sluice command that was refused at a flip and is not yet applied. -/
  again : Bool
  /-- R127: the fence that completed while the entry, a write that its scope did not need performed, was not applied. -/
  fenced : Option Nat
  /-- R124: the die of the home whose reply it awaits. -/
  home : Option Nat
  raised : Raised
  poisoned : Bool
  /-- Payload or contribution read at dispatch; reply bytes of a sluice command or atomic. -/
  payload : List Byte
  /-- The result of a collective once formed, none before (R300). -/
  result : Option (List Byte)
  /-- Ordinal of a collective on its domain register (R298). -/
  ordinal : Nat
  /-- The TB of a put.t at issue (R48) in 2^-16 ns. -/
  tbIssue : Nat
  /-- R122, R420: source ID and sequence number of an atomic, given when it leaves the queue; 0 before. -/
  source : Nat
  seq : Nat
  /-- R141, R408: the berth word under which the request of a sluice command or atomic was translated when it left the
  queue; none before, and where the translation failed. -/
  via : Option Nat
  /-- Written window and overflow bytes that a `wmap` or `wflush` writes back (R105, R303): the global address of each and
  where it stands: a scratchpad address, or 2^24 plus an offset in the overflow area. -/
  writeBack : List (Nat × Nat)
  /-- Scratchpad intervals it reads and writes while in flight, with the engine number (R35). -/
  reads : List (Nat × Iv)
  writes : List (Nat × Iv)
  deriving DecidableEq, Repr

/-- A timed entry of the launch's schedule with the last window used (R285). -/
structure TimedEntry where
  tofs : Nat
  tper : Nat
  dst : Nat
  lastUsed : Option Nat
  deriving DecidableEq, Repr

/-- What is set aside in handler mode (R384). -/
structure SetAside where
  loops : List LoopEntry
  repc : Word
  repZero : Bool
  repFresh : Bool
  redirects : List Redirect
  landings : List Landing
  flights : List Flight
  vFree : Nat
  mFree : Nat
  ic : Nat
  wait : Wait
  due : List Cause
  latchDue : List (Nat × Bool)
  /-- The breakpoint at the pc was already taken (R396). -/
  bkptPassed : Bool
  /-- The writer of each tile as it stood then (R243, R384). -/
  tileMarks : List (Nat × Nat)
  deriving DecidableEq, Repr

/-- The register context of a room (R13, R162, R378, R393): what a trap at a bundle boundary saves, but for
scratchpad, sills and tiles. -/
structure Ctx where
  pc : DWord
  loops : List LoopEntry
  redirects : List Redirect
  s : Vector Word 64
  a : Vector DWord 16
  g : Vector Bool 8
  q : Vector Quire 8
  d : Vector DescWord 32
  m : Vector Word 64
  fx : Word
  qx : Word
  winb : Word
  repc : Word
  phase : Word
  trapc : DWord
  trappc : DWord
  /-- STATUS.POISON and STATUS.HMODE (R385). -/
  poison : Bool
  hmode : Bool
  /-- An armed repeat of n = 0 (R197). -/
  repZero : Bool
  /-- The checks of R198 are still due at the next issue (R200). -/
  repFresh : Bool
  /-- A `trap`, `mts` or `rot` of the current bundle, made after its issue cycle (R201 to R203). -/
  sysWrites : List (Nat × Word)
  rotBy : Int
  landings : List Landing
  flights : List Flight
  /-- Issue cycles in which the shadow latches of the last stop land, and which are of V or M operations (R378, R379). -/
  latchDue : List (Nat × Bool)
  /-- First issue cycle in which the V and the M engine are free (R158). -/
  vFree : Nat
  mFree : Nat
  /-- Issue cycles of the room (R156). -/
  ic : Nat
  /-- The issue cycle in which the current phase began (R32, R432). -/
  phaseStart : Nat
  /-- SINCESP and SINCESTOP (R375). -/
  sinceSp : Nat
  sinceStop : Nat
  footprint : Footprint
  wait : Wait
  /-- Boundary causes due and not yet taken (R382). -/
  due : List Cause
  xq : List XEntry
  /-- R298: collectives issued on each domain register. -/
  collCount : List Nat
  timed : List TimedEntry
  deriving DecidableEq, Repr

/-- What a control instruction of the current bundle decided about the next one: nothing; the skip of a loop whose
count is 0 (R193); that the room halts (R204); or that it already stands at TRAPPC after a tret (R305). -/
inductive Ctl where
  | none
  | skip (target : DWord)
  | halts
  /-- With whether the bundle issues again in the handler's repeat, and whether it ended an iteration of a loop of the
  handler's (R194). -/
  | returned (again ended : Bool)
  deriving DecidableEq, Repr

/-- One room with its launch registers, its context and its local storage. -/
structure Room where
  id : RoomId
  life : Life
  stop : Stop
  ctx : Ctx
  -- placement and launch registers
  core : Nat
  slotNo : Nat
  /-- P_G of the four bank groups (R94). -/
  pg : List Nat
  asid : Nat
  loadH : Nat
  timePriv : Bool
  nb : Nat
  roomid : Word
  roomxy : Word
  roomz : Word
  teamid : Word
  teamxy : Word
  teamz : Word
  spsize : Word
  dm : Vector Word 8
  atticBase : Word
  atticSize : Word
  atticOvf : DWord
  -- local storage
  scratch : List Host.Cell
  sills : List (List Host.Cell)
  tiles : List Tile
  windows : List Window
  overflow : List OvLine
  -- per-cycle and auxiliary state
  ports : List PortUse
  /-- Codewords (row, byte position) of this cycle's reads that the check found in error, and whether they were
  uncorrectable (R97). -/
  eccHits : List (Nat × Nat × Bool)
  /-- Set by an access to a line that is not resident: the bundle is held (R101, R105). -/
  miss : Option Miss
  /-- R407: the restow that holds the fill or write-back that the room waits for, and the die of the holding controller. -/
  heldBy : Option (Nat × Nat)
  /-- What a control instruction of this bundle decided about the next one (R190, R204, R305). -/
  ctl : Ctl
  /-- The phase snapshot, with what was set aside then (R374); STATUS.SNAP is its presence. -/
  snap : Option Ctx
  snapAside : Option SetAside
  /-- The writer of each tile as it stood then. -/
  snapTiles : List (Nat × Nat)
  /-- The phase that began in this cycle is idempotent: its snapshot is taken at the boundary that follows (R374). -/
  snapDue : Bool
  aside : Option SetAside
  /-- Entry numbers given so far, and sequence numbers of R122. -/
  entries : Nat
  /-- Numbers given to the writers of tiles, in their order of issue (R243). -/
  writers : Nat
  bkpt : List (Nat × DWord)
  watch : List (Nat × Nat × Nat × WatchKind)
  /-- STEP: freeze again after one bundle (R396). -/
  stepOnce : Bool
  /-- The mode of a PREEMPT that the room has still to stop for (R374). -/
  stopAsked : Option PreemptMode
  /-- R374: the last bundle issued since the request had SP set; it had, or an iteration ended with it. -/
  spHere : Bool
  stopHere : Bool
  /-- R376: collectives (domain register and ordinal) that a released member has to issue before it stops again. -/
  owes : List (Nat × Nat)
  /-- R434: the bundle address of the last M operation of the phase and of the phase's first bundle. -/
  lastM : Option DWord
  phasePc : DWord
  /-- The breakpoint at the pc was already taken at this stop (R396). -/
  bkptPassed : Bool
  /-- TB at the last stop, in 2^-16 ns (R392, R397). -/
  stopTb : Nat
  deriving DecidableEq, Repr

/-! ### Cores and the package -/

/-- The loop buffer of a core (R196): the room and load whose loop it holds, the loop's first and last address, and the
bundles captured so far. -/
structure LoopBuf where
  room : RoomId
  load : Nat
  start : DWord
  last : DWord
  bundles : List (DWord × BitVec 256)
  deriving DecidableEq, Repr

/-- A core (R1, R21, R43, R97, R357, R434, R444). -/
structure Core where
  num : Nat
  /-- TB:TBF in units of 2^-16 ns (R43). -/
  tb : Nat
  aligned : Bool
  resident : Option RoomId
  /-- Data banks marked failed (R98), as 8·group + bank. -/
  failed : List Nat
  /-- Symbols in error: row, byte position, bank, and the bits of the symbol that are wrong (R97). -/
  errors : List (Nat × Nat × Nat × Byte)
  /-- Lines of the instruction store whose contents cannot be corrected (R404). -/
  badCode : List Nat
  /-- Corrected errors of each bank with the TB of each (R98). -/
  corrected : List (Nat × Nat)
  /-- Core cycle within the 64-cycle period of power holds (R444). -/
  powerPhase : Nat
  /-- R122: sequence numbers given to the atomics of the core. -/
  atomicSeq : Nat
  /-- Matrix-cycle accounting table: bundle, class, cycles (R434). -/
  macct : List (DWord × Nat × Nat)
  /-- R196: the body of the most recently pushed loop that fits. -/
  loopBuf : Option LoopBuf
  deriving DecidableEq, Repr

/-- A checked and relocated code page of a core's instruction store (R357). -/
structure CodePage where
  core : Nat
  load : Nat
  page : Nat
  /-- The 4 KiB of the instruction store that it takes, in units of 4 KiB. -/
  frame : Nat
  /-- The bundles of the page, from its start; those not listed are zero. -/
  bundles : List (BitVec 256)
  deriving DecidableEq, Repr

/-- A relocation record (R352). -/
structure Reloc where
  place : Nat
  kind : Nat
  slot : Nat
  seg : Nat
  tseg : Nat
  tval : Nat
  addend : Int
  deriving DecidableEq, Repr

/-- A variant record (R344). -/
structure Variant where
  entry : Nat
  prof : Nat
  nx : Nat
  ny : Nat
  nz : Nat
  attic : Nat
  ovsz : Nat
  dm : List Nat
  fp0 : List Byte
  deriving DecidableEq, Repr

/-- A load (R338, R350). -/
structure LoadedObj where
  handle : Nat
  asid : Nat
  lb : Nat
  codeSize : Nat
  dataSize : Nat
  sdb : Nat
  gotOff : Nat
  data : List Byte
  kernels : List (Option Variant)
  /-- SHA-384 digests of the code pages. -/
  pageHash : List Nat
  relocs : List Reloc
  /-- R349: declares a source of variation. -/
  varies : Bool
  failed : Bool
  /-- R358: the code offset of the page that failed. -/
  badOffset : Nat
  deriving DecidableEq, Repr

/-- A footprint entry of a launch (R366). -/
structure FootEntry where
  va : Nat
  len : Nat
  w : Bool
  deriving DecidableEq, Repr

/-- A preload entry of a launch (R366). -/
structure Preload where
  src : Nat
  kind : Nat
  room : Nat
  len : Nat
  dest : Nat
  deriving DecidableEq, Repr

/-- A timed entry of a launch (R366). -/
structure TimedSpec where
  tofs : Nat
  src : Nat
  dst : Nat
  tper : Nat
  deriving DecidableEq, Repr

/-- A launch record (R365). -/
structure LaunchRec where
  loadH : Nat
  kidx : Nat
  basin : Nat
  time : Bool
  noDiscard : Bool
  stream : Nat
  nb : Nat
  argva : Nat
  spsize : Nat
  fxen : Nat
  qxen : Nat
  ovbase : Nat
  drainCy : Nat
  stopCy : Nat
  foot : List FootEntry
  preload : List Preload
  timed : List TimedSpec
  ctxva : Nat
  deriving DecidableEq, Repr

/-- Where a launch stands (R371, R374, R376, R370). -/
inductive TeamState where
  | queued | admitted | stopping (mode : PreemptMode) | suspended | retired | cancelled
  deriving DecidableEq, Repr

/-- An accepted launch and the team made of it (R368 to R376). -/
structure Team where
  sub : Nat
  launch : LaunchRec
  variant : Variant
  asid : Nat
  state : TeamState
  /-- TB at which it became eligible (R372), in 2^-16 ns. -/
  eligibleAt : Option Nat
  /-- Deadline of a PREEMPT, in ns. -/
  deadline : Nat
  /-- Submission numbers it waits for (R369). -/
  deps : List Nat
  /-- Rooms as they were saved at a suspension (R391, R394): register context, sills, tiles, scratchpad. -/
  saved : List Room
  deriving DecidableEq, Repr

/-- A basin (R368). -/
structure Basin where
  num : Nat
  cls : Nat
  weight : Nat
  deriving DecidableEq, Repr

/-- Kind of one domain instance: team, domain register, instance coordinates, communication (R30). -/
structure DomainKind where
  team : Nat
  dm : Nat
  inst : Nat × Nat × Nat
  comm : Bool
  deriving DecidableEq, Repr

/-- R117: a record that a re-registration replaced, with its own number, and the cards in flight that named it. -/
structure OldHandle where
  id : Nat
  num : Nat
  words : List Nat
  cards : List (RoomId × Nat)
  deriving DecidableEq, Repr

/-- A cached translation (R403): floor, ASID, first virtual address, page size, words of the leaf. -/
structure Tlb where
  floor : Nat
  asid : Nat
  va : Nat
  size : Nat
  w0 : Nat
  w1 : Nat
  deriving DecidableEq, Repr

/-- R404: a 64 B line that a victim store borrows: of a core's scratchpad, by bank group and group offset in lines, or of its
instruction store. -/
inductive VictimLine where
  | scratch (core group word : Nat)
  | code (core line : Nat)
  deriving DecidableEq, Repr

/-- An entry of a floor's victim store (R404). -/
structure Victim where
  line : VictimLine
  entry : Tlb
  deriving DecidableEq, Repr

/-- A root entry (R399). -/
structure Root where
  asid : Nat
  valid : Bool
  root : Nat
  tberth : Nat
  deriving DecidableEq, Repr

/-- Steps of a restow (R407). -/
inductive RestowStep where
  | copy | closed | drained | flipped
  deriving DecidableEq, Repr

/-- A restow record (R406, R407). -/
structure Restow where
  id : Nat
  src : RestowSource
  /-- Source frame, berth and size; destination frame and berth. -/
  srcPa : Nat
  srcBerth : Nat
  size : Nat
  dstPa : Nat
  dstBerth : Nat
  /-- Physical address of the leaf entry and the table berth, for a page. -/
  leafPa : Nat
  tberth : Nat
  /-- Copy pointer P in lines. -/
  p : Nat
  step : RestowStep
  /-- What the destination held before: physical address and byte (R409). -/
  old : List (Nat × Byte)
  deriving DecidableEq, Repr

/-- An arena's old place after the flip of its handle's restow: berth, first physical address and bytes; requests of a page
entry that still maps it are refused (R410). -/
structure MovedArena where
  w : Nat
  pa : Nat
  size : Nat
  deriving DecidableEq, Repr

/-- A request held by a restow between Close and the flip (R407): the restow, the die of the controller that holds it, and the
event with which it is tried again. -/
structure HeldRequest where
  restow : Nat
  die : Nat
  event : Instr
  deriving DecidableEq, Repr

/-- A shootdown in progress (R405). -/
structure Shootdown where
  id : Nat
  asid : Nat
  range : Option (Nat × Nat)
  /-- The entries it dropped: until SHOOTDOWN_DONE an access uses freely one of them or a new one. -/
  old : List Tlb
  deriving DecidableEq, Repr

/-- A completion window of R122: source, completed sequence numbers with their replies, newest first. -/
structure AtomicWindow where
  home : Nat
  source : Nat
  done : List (Nat × Nat)
  deriving DecidableEq, Repr

/-- Refresh state of a bank (R123). -/
structure BankRefresh where
  bank : Nat
  owed : Nat
  backOff : Bool
  /-- TB in ns of the last ABO event (R437). -/
  lastAbo : Option Nat
  deriving DecidableEq, Repr

/-- A recorded reply of a command (R413, R414): the OPCODE, SEQ and STATUS of its header, and its payload as words and
bytes. -/
structure CmdReply where
  opcode : Nat
  seq : Nat
  status : Nat
  data : List Nat
  bytes : List Byte
  deriving DecidableEq, Repr

/-- A command session (R412, R414, R441). -/
structure Session where
  num : Nat
  spdm : Nat
  privs : Nat
  /-- The AES-GCM-256 key exported for it (R441). -/
  key : BitVec 256
  e : Nat
  replies : List CmdReply
  held : List (Nat × Instr)
  deriving DecidableEq, Repr

/-- An event for the driver (R416 and the rules that post each). -/
inductive Event where
  | trap (r : RoomId) (teamid : Word) (trapc : DWord) (trappc : DWord)
  | page (r : RoomId) (va : Nat) (kind : AccessKind) (sub : Nat)
  | reject (code : Nat) (seq : Nat)
  | preloadWait (team : Nat) (va : Nat)
  | predFailed (team : Nat)
  | deadlineMiss (team : Nat)
  | retired (team : Nat)
  | saveFault (team : Nat)
  | dumpDone (r : RoomId) (complete : Bool) (bytes : Nat)
  | shootdownDone (id : Nat)
  | restowDone (id : Nat) (oldFrame : Nat)
  | restowAbort (id : Nat) (reason : Nat) (line : Nat)
  | bank (core : Nat) (bank : Nat)
  | degraded (core : Nat)
  | abo (bank : Nat)
  | powerLimit
  | thermalWarn
  | thermalTrip
  | overflow (count : Nat)
  /-- R435: an error event of a die with the counters that changed. -/
  | err (die : Nat) (changed : List (Nat × Nat))
  deriving DecidableEq, Repr

/-- The event ring (R416). -/
structure EventRing where
  qp : Nat
  addr : Nat
  rkey : Nat
  log2 : Nat
  /-- Producer and consumer index. -/
  prod : Nat
  cons : Nat
  lost : Nat
  deriving DecidableEq, Repr

/-- A host memory window (R417). -/
structure HostWindow where
  key : Nat
  asid : Nat
  va : Nat
  len : Nat
  rights : BitVec 3
  deriving DecidableEq, Repr

/-- What goes back to the host for an RDMA request (R417, R418). -/
structure RdmaReply where
  qp : Nat
  psn : Nat
  nak : Bool
  bytes : List Byte
  deriving DecidableEq, Repr

/-- An access-control entry (R423). -/
structure AclEntry where
  lockhouse : Nat
  idx : Nat
  words : List Nat
  deriving DecidableEq, Repr

/-- A lockhouse port (R422): the peer's PID, the AES-GCM-256 key of the link, and the authentications so far. -/
structure Port where
  num : Nat
  pid : Nat
  up : Bool
  key : BitVec 256
  ups : Nat
  deriving DecidableEq, Repr

/-- A read request that this package sends to a peer (R422): the lockhouse whose port it leaves by, and the physical address
of the line at the peer. -/
structure PeerAsk where
  port : Nat
  pa : Nat
  deriving DecidableEq, Repr

/-- What goes back to a peer (R424). -/
inductive PeerReply where
  | line (bytes : List Byte) | denied | stale | poison
  deriving DecidableEq, Repr

/-- A beat of a mesh-extension link that is not yet acknowledged (R419): a quarter of a flit of its plane, or a timing frame
with the stamp of its last sending. -/
structure Beat where
  seq : Nat
  plane : BitVec 2
  stamp : Option Nat
  payload : List Byte
  deriving DecidableEq, Repr

/-- A mesh-extension link (R419, R420). -/
structure Link where
  num : Nat
  sendSeq : Nat
  expect : Nat
  /-- The replay buffer: unacknowledged beats, oldest first. -/
  replay : List Beat
  resends : Nat
  retraining : Bool
  /-- TB of the link, in 2^-16 ns, at which its present or last retraining began (R426). -/
  retrainSince : Nat
  /-- Beats accepted in sequence that do not make up a flit yet: plane and payload. -/
  accepted : List (BitVec 2 × List Byte)
  /-- Flits received whole, oldest first: plane and 1 KiB. -/
  flits : List (BitVec 2 × List Byte)
  /-- TB:TBF stamp of the last timing frame sent (R419, R426). -/
  lastStamp : Option Nat
  /-- The link's copy of TB:TBF (R43), in 2^-16 ns. -/
  tb : Nat
  deriving DecidableEq, Repr

/-- An allowed route and the spares of LINKROUTE (R420). -/
structure Routing where
  self : Nat
  routes : List (Nat × Nat × List Nat)
  spares : List (Nat × Nat)
  deriving DecidableEq, Repr

/-- The hall's timebase and servo (R43 to R47, R425, R426). -/
structure HallTime where
  tb : Nat
  src : Nat
  lock : Bool
  /-- Realignment in progress since this hall TB (R45). -/
  realign : Option Nat
  goodSyncs : Nat
  /-- Hall TB, in 2^-16 ns, of the last sync or timing frame that the servo took (R425, R426). -/
  lastSync : Nat
  root : Option Nat
  rootPath : Bool
  /-- R425: the servo's rate correction per core cycle, in 2^-16 ns. -/
  rate : Int
  /-- R43, R425: what the hall has still to hold still for, in 2^-16 ns. -/
  hold : Nat
  /-- R46, R48: what a clock exactly on the reference reads, in 2^-16 ns, as the last sync measured it, and how it runs beside
  the nominal step. -/
  ref : Nat
  drift : Int
  /-- Packages at a distance whose realignment of R45 runs. -/
  realignAway : List Nat
  deriving DecidableEq, Repr

/-- Trace configuration and ring position (R431). -/
structure Trace where
  args : TraceArgs
  on : Bool
  /-- Bytes written into the ring so far. -/
  pos : Nat
  /-- Records produced and not yet written: core and four words (R432). -/
  pending : List (Nat × List Nat)
  deriving DecidableEq, Repr

/-- A dump (R397, R398). -/
structure Dump where
  room : RoomId
  reason : Nat
  further : List (Nat × Nat × Nat)
  nFurther : Nat
  deriving DecidableEq, Repr

/-- The dump area of DUMPAREA. -/
structure DumpArea where
  asid : Nat
  va : Nat
  size : Nat
  used : Nat
  deriving DecidableEq, Repr

/-- The trigger of ARM (R430): its T, and the dies whose TB had passed it when it came, which fire as the command reaches
them. -/
structure Armed where
  t : Nat
  late : List Nat
  deriving DecidableEq, Repr

/-- What the device writes into the memory of the host for the event ring (R416): a record, or the producer index. -/
inductive RingData where
  | record (e : Event)
  | index (n : Nat)
  deriving DecidableEq, Repr

/-- An RDMA WRITE of the device: host queue pair, remote key, host address and data (R416). -/
structure RingWrite where
  qp : Nat
  rkey : Nat
  addr : Nat
  data : RingData
  deriving DecidableEq, Repr

/-- Power and cooling (R444, R445). -/
structure Power where
  on : Bool
  capWatts : Nat
  /-- Cores are held for `holdH` of every 64 cycles. -/
  holdH : Nat
  /-- A sample has exceeded 1,500 W. -/
  excursion : Bool
  /-- The samples of the last millisecond in watts, newest first: at most 100 (R444). -/
  samples : List Nat
  thermalWarn : Bool
  /-- TB in ns of the last POWER_LIMIT and of the last THERMAL_WARN event. -/
  lastEvent : Option Nat
  lastWarn : Option Nat
  deriving DecidableEq, Repr

/-- The management processor (R438 to R442). -/
structure Mgmt where
  running : Option SignedImage
  slotA : Option SignedImage
  slotB : Option SignedImage
  record : Option ConfigRecord
  floor : Nat
  recovery : Bool
  /-- The hashes of every load since reset, in load order: what the running digest of R440 covers. -/
  loadHashes : List Byte
  /-- Measurement blocks of the last GET_MEASUREMENTS with its nonce. -/
  measured : Option (Nat × List Nat)
  spdm : List Nat
  sessions : Nat
  /-- KEYLOADs that are not complete: slot and number of the key material (R443). -/
  keyPending : List (Nat × Nat)
  deriving DecidableEq, Repr

/-- Global memory (R106, R112, R443, R446): bytes by place, cipher of a stored line, poisoned lines. -/
structure GlobalMem where
  cells : List Host.Cell
  /-- Line place / 64, with the number of the key material and the tweak it was stored under. -/
  tags : List (Nat × Nat × Nat)
  poisoned : List Nat
  /-- Lines whose stored bits hold an error that no check can correct and that no read has found yet (R446). -/
  failing : List Nat
  /-- Lines whose stored bits hold an error that the line check corrects (R428, R436). -/
  weak : List Nat
  /-- Key material now in each slot that KEYLOAD replaced; another slot n holds number keyBase + n + 1 (R442). -/
  keys : List (Nat × Nat)
  keyBase : Nat
  deriving DecidableEq, Repr

/-- The whole machine. -/
structure State where
  /-- The room with the issue turn, and the other rooms. -/
  me : Room
  others : List Room
  /-- The MODEL's own: events and commands of the other agents in the order they occur (log 1). -/
  agenda : List Instr
  /-- The MODEL's own: rooms still to take their cycle of the current core cycle (log 1). -/
  queue : List RoomId
  /-- The MODEL's own: free values drawn so far (log 4). -/
  free : Nat
  cores : List Core
  mem : GlobalMem
  pages : List CodePage
  loads : List LoadedObj
  nextHandle : Nat
  teams : List Team
  basins : List Basin
  /-- Round-robin pointer and admissions in a row of each class (R372). -/
  pointers : List (Nat × Nat)
  nextSub : Nat
  /-- R372: a case has begun an admission round, which has not ended. -/
  roundDue : Bool
  kinds : List DomainKind
  roots : List Root
  /-- The L1 of the cores, each entry with its core, and the L2 of the floors (R403). -/
  l1 : List (Nat × Tlb)
  tlb : List Tlb
  /-- The victim stores of the four floors (R404). -/
  victims : List Victim
  handles : List (Nat × List Nat)
  /-- R117: records that a re-registration replaced while cards that name them were in flight. -/
  oldHandles : List OldHandle
  restows : List Restow
  /-- Requests that restows hold, in their order of arrival (R407, R409), and the old places of moved arenas (R410). -/
  held : List HeldRequest
  moved : List MovedArena
  shootdowns : List Shootdown
  nextId : Nat
  atomics : List AtomicWindow
  refresh : List BankRefresh
  /-- Vector clocks of the sixteen agents (R124). -/
  clocks : List (List Nat)
  sessions : List Session
  /-- Replies sent (R414), in order: session and reply. -/
  sent : List (Nat × CmdReply)
  ring : Option EventRing
  events : List Event
  /-- R416: the RDMA WRITEs to the ring, in order. -/
  ringWrites : List RingWrite
  windows : List HostWindow
  rdma : List RdmaReply
  /-- Queue pairs in use, at most 256 (R417). -/
  qps : List Nat
  /-- Requests of the host that were accepted and wait, in order, and the WINCLOSEs that wait for them (R407, R417, R418). -/
  hostWaits : List Instr
  /-- Recorded replies of host atomics: queue pair, sequence number, value (R418). -/
  rdmaAtomics : List (Nat × Nat × Nat)
  acl : List AclEntry
  ports : List Port
  peerReplies : List (Nat × PeerReply)
  /-- Read requests sent to peers (R422). -/
  peerAsks : List PeerAsk
  links : List Link
  routing : Routing
  hall : HallTime
  /-- The copies of TB:TBF at the eight lockhouses (R43). -/
  lockTb : List Nat
  /-- Counters by counter number (R427), and the shadows of the last trigger with its T (R430). -/
  counters : List (Nat × Nat)
  armed : Option Armed
  /-- Dies that have fired under the armed trigger, with the counters they copied. -/
  fired : List (Nat × List (Nat × Nat))
  /-- R436: the next line of each stack that its patrol scrubs, counted from the stack's first. -/
  scrubPos : List Nat
  /-- R435: TB in ns of the last ERR event of each die, and the error counters it reported. -/
  errLast : List (Nat × Nat)
  errSeen : List (Nat × Nat)
  shadow : Option (Nat × List (Nat × Nat))
  trace : Option Trace
  dumps : List Dump
  dumpArea : Option DumpArea
  power : Power
  mgmt : Mgmt
  deriving DecidableEq, Repr

/-! ### Reset values -/

def Raised.none : Raised :=
  { nv := .none, dz := .none, of := .none, uf := .none, nx := .none, snan := .none, nr := .none, qo := .none,
    qr := .none, sat := .none }

/-- The footprint of an engine-less room: seven empty sets. -/
def Footprint.nil : Footprint :=
  { reads := List.replicate 7 [], writes := List.replicate 7 [], idem := false, empty := false, image := [] }

/-- The context of R15 with nothing from a launch: g0 true, everything else zero. -/
def Ctx.initial : Ctx :=
  { pc := 0, loops := [], redirects := [], s := Vector.replicate 64 0, a := Vector.replicate 16 0,
    g := (Vector.replicate 8 false).set 0 true, q := Vector.replicate 8 Quire.clear, d := Vector.replicate 32 0,
    m := Vector.replicate 64 0, fx := 0, qx := 0, winb := 0, repc := 0, phase := 0, trapc := 0, trappc := 0,
    poison := false, hmode := false, repZero := false, repFresh := false, sysWrites := [], rotBy := 0,
    landings := [], flights := [], latchDue := [], vFree := 0, mFree := 0, ic := 0, phaseStart := 0, sinceSp := 0, sinceStop := 0,
    footprint := Footprint.nil, wait := .none, due := [], xq := [], collCount := List.replicate 8 0, timed := [] }

/-- A room that is not there: the value every room field has before an admission (log 2). -/
def Room.idle : Room :=
  { id := { team := 0, lin := 0 }, life := .absent, stop := .none, ctx := Ctx.initial, core := 0, slotNo := 0,
    pg := [0, 0, 0, 0], asid := 0, loadH := 0, timePriv := false, nb := 0, roomid := 0, roomxy := 0, roomz := 0,
    teamid := 0, teamxy := 0, teamz := 0, spsize := 0x1000000, dm := Vector.replicate 8 0, atticBase := 0,
    atticSize := 0, atticOvf := 0, scratch := [], sills := [[], [], [], []], tiles := [],
    windows := [], overflow := [], ports := [], eccHits := [], miss := none, heldBy := none, ctl := .none, snap := none,
    snapAside := none, snapTiles := [], snapDue := false, aside := none, entries := 0, writers := 0, bkpt := [], watch := [], stepOnce := false, stopAsked := none,
    spHere := false, stopHere := false, owes := [],     lastM := none, phasePc := 0, bkptPassed := false, stopTb := 0 }

/-- A core at reset: TB counts from package reset (R44). -/
def Core.atReset (n : Nat) : Core :=
  { num := n, tb := 0, aligned := false, resident := none, failed := [], errors := [], badCode := [], corrected := [],
    powerPhase := 0, atomicSeq := 0, macct := [], loopBuf := none }

def Link.atReset (n : Nat) : Link :=
  { num := n, sendSeq := 0, expect := 0, replay := [], resends := 0, retraining := false, retrainSince := 0, accepted := [], flits := [],
    lastStamp := none, tb := 0 }

/-- The machine right after reset: powered, firmware running, no load, no team, no session (log 2). -/
def State.reset : State :=
  { me := Room.idle, others := [], agenda := [], queue := [], free := 0,
    cores := (List.range Config.coresPerPackage).map Core.atReset,
    mem := { cells := [], tags := [], poisoned := [], failing := [], weak := [], keys := [], keyBase := 0 },
    pages := [], loads := [], nextHandle := 1, teams := [],
    basins := (List.range 64).map fun n => { num := n, cls := 0, weight := 1 },
    pointers := [(0, 0), (0, 0), (0, 0), (0, 0)], nextSub := 1, roundDue := false, kinds := [], roots := [], l1 := [], tlb := [], victims := [], handles := [], oldHandles := [],
    restows := [], held := [], moved := [], shootdowns := [], nextId := 1, atomics := [], refresh := [],
    clocks := List.replicate 16 (List.replicate 16 0),
    sessions := [], sent := [], ring := none, events := [], ringWrites := [], windows := [], rdma := [], qps := [], hostWaits := [], rdmaAtomics := [], acl := [], ports := [],
    peerReplies := [], peerAsks := [], links := (List.range 16).map Link.atReset,
    routing := { self := 0, routes := [], spares := [] },
    hall := { tb := 0, src := 0, lock := false, realign := none, goodSyncs := 0, lastSync := 0, root := none,
              rootPath := false, rate := 0, hold := 0, ref := 0, drift := 0, realignAway := [] },
    lockTb := List.replicate 8 0,
    counters := [], armed := none, fired := [], scrubPos := List.replicate 8 0, errLast := [], errSeen := [], shadow := none, trace := none, dumps := [], dumpArea := none,
    power := { on := true, capWatts := 1500, holdH := 0, excursion := false, samples := [], thermalWarn := false,
               lastEvent := none, lastWarn := none },
    mgmt := { running := none, slotA := none, slotB := none, record := none, floor := 0, recovery := false,
              loadHashes := [], measured := none, spdm := [], sessions := 0, keyPending := [] } }

end Sys2Proof.Machine
end

