-- ==== Sys2Proof/Machine/Aes.lean ====
section
/-! DEFINITION. AES-256 and its XTS mode over one 64 B line of memory (04, R106; 21, R443): the cipher of FIPS 197 and IEEE
1619, which R106 names. -/

namespace Sys2Proof.Machine

/-! ### Arithmetic in GF(2^8) -/

/-- Product of two polynomials over GF(2), of which the second has `n` bits, modulo a polynomial of degree 8. -/
def gfMulFrom (poly a : Nat) : Nat → Nat → Nat
  | 0, _ => 0
  | n + 1, b =>
    let twice := let t := 2 * a; if t.testBit 8 then t ^^^ poly else t
    (if b % 2 = 1 then a else 0) ^^^ gfMulFrom poly twice n (b / 2)

def gfMul (poly a b : Nat) : Nat := gfMulFrom poly a 8 b

/-- a to the power 254, its inverse (zero for zero). -/
def gfInv (poly a : Nat) : Nat :=
  let sq (x : Nat) : Nat := gfMul poly x x
  let a2 := sq a
  let a3 := gfMul poly a2 a
  let a12 := sq (sq a3)
  let a15 := gfMul poly a12 a3
  let a240 := sq (sq (sq (sq a15)))
  gfMul poly (gfMul poly a240 a12) a2

/-! ### AES-256 -/

/-- The field polynomial of AES. -/
def aesPoly : Nat := 0x11B

/-- A byte rotated left. -/
def rotByte (n x : Nat) : Nat := (x * 2 ^ n + x / 2 ^ (8 - n)) % 256

/-- The S-box and its inverse. -/
def aesSub (x : Nat) : Nat :=
  let b := gfInv aesPoly x
  b ^^^ rotByte 1 b ^^^ rotByte 2 b ^^^ rotByte 3 b ^^^ rotByte 4 b ^^^ 0x63
def aesSubInv (x : Nat) : Nat := gfInv aesPoly (rotByte 1 x ^^^ rotByte 3 x ^^^ rotByte 6 x ^^^ 0x05)

/-- The S-boxes as tables. -/
def aesSubTable : List Nat := (List.range 256).map aesSub
def aesSubInvTable : List Nat := (List.range 256).map aesSubInv

def xorBytes (a b : List Nat) : List Nat := a.zipWith (· ^^^ ·) b

/-- The key schedule, words newest first: `i` is the number of the next word, `left` how many are still to be made. -/
def aesExpandFrom (sub : List Nat) : Nat → Nat → Nat → List (List Nat) → List (List Nat)
  | 0, _, _, w => w
  | left + 1, i, rcon, w =>
    let prev := w.headD []
    let s (x : Nat) : Nat := sub.getD x 0
    let mix : List Nat :=
      if i % 8 = 0 then xorBytes ((prev.drop 1 ++ prev.take 1).map s) [rcon, 0, 0, 0]
      else if i % 8 = 4 then prev.map s else prev
    aesExpandFrom sub left (i + 1) (if i % 8 = 0 then gfMul aesPoly rcon 2 else rcon) (xorBytes (w.getD 7 []) mix :: w)

/-- The fifteen round keys of a key of 32 bytes. -/
def aesRoundKeys (sub key : List Nat) : List (List Nat) :=
  let w0 := ((List.range 8).map fun i => (key.drop (4 * i)).take 4).reverse
  let w := (aesExpandFrom sub 52 8 1 w0).reverse
  (List.range 15).map fun r => ((w.drop (4 * r)).take 4).flatten

/-- Rows shifted by `d` columns per row: 1 forward, 3 back. -/
def aesShift (d : Nat) (x : List Nat) : List Nat :=
  (List.range 16).map fun i => x.getD (4 * ((i / 4 + d * (i % 4)) % 4) + i % 4) 0

/-- Every column multiplied by the circulant matrix of a first row. -/
def aesMix (row x : List Nat) : List Nat :=
  (List.range 16).map fun i =>
    (List.range 4).foldl (fun acc j => acc ^^^ gfMul aesPoly (x.getD (4 * (i / 4) + j) 0) (row.getD ((j + 4 - i % 4) % 4) 0)) 0

/-- One block enciphered: `ks` the round keys. -/
def aesEncrypt (sub : List Nat) (ks : List (List Nat)) (block : List Nat) : List Nat :=
  let s (x : List Nat) : List Nat := aesShift 1 (x.map fun b => sub.getD b 0)
  let mid := ((ks.drop 1).take 13).foldl (fun x k => xorBytes (aesMix [2, 3, 1, 1] (s x)) k) (xorBytes block (ks.headD []))
  xorBytes (s mid) (ks.getD 14 [])

/-- One block deciphered. -/
def aesDecrypt (subInv : List Nat) (ks : List (List Nat)) (block : List Nat) : List Nat :=
  let s (x : List Nat) : List Nat := (aesShift 3 x).map fun b => subInv.getD b 0
  let mid := ((ks.drop 1).take 13).reverse.foldl (fun x k => aesMix [14, 11, 13, 9] (xorBytes (s x) k)) (xorBytes block (ks.getD 14 []))
  xorBytes (s mid) (ks.headD [])

/-! ### XTS over one line -/

/-- The tweak of the next block: times x in GF(2^128), the bytes of the block little-endian. -/
def xtsNext (t : Nat) : Nat := let d := 2 * t; if d.testBit 128 then (d % 2 ^ 128) ^^^ 0x87 else d

def natBytes (n x : Nat) : List Nat := (List.range n).map fun i => x / 2 ^ (8 * i) % 256
def bytesNat (l : List Nat) : Nat := l.foldr (fun b acc => b + 256 * acc) 0

/-- R106: a line of four blocks enciphered (or deciphered) under the 64 B of a key slot, the data key first (DEDUCED, log 81),
with the line's physical address as the tweak. -/
def xtsLine (decipher : Bool) (key : BitVec 512) (pa : Nat) (line : List Nat) : List Nat :=
  let sub := aesSubTable
  let k1 := aesRoundKeys sub (natBytes 32 (key.toNat % 2 ^ 256))
  let k2 := aesRoundKeys sub (natBytes 32 (key.toNat / 2 ^ 256))
  let subInv := if decipher then aesSubInvTable else []
  let block (t : Nat) (x : List Nat) : List Nat :=
    let m := natBytes 16 t
    xorBytes (if decipher then aesDecrypt subInv k1 (xorBytes x m) else aesEncrypt sub k1 (xorBytes x m)) m
  let t0 := bytesNat (aesEncrypt sub k2 (natBytes 16 pa))
  ((List.range 4).foldl (fun (acc : List Nat × Nat) j =>
    (acc.1 ++ block acc.2 ((line.drop (16 * j)).take 16), xtsNext acc.2)) ([], t0)).1

end Sys2Proof.Machine
end

