-- ==== Sys2Proof/Machine/Legal.lean ====
section
/-! DEFINITION. What an encoding may hold (R149, R150, R152, R160): the conditions on the fields of one slot
instruction that its words alone decide. A bundle whose slot breaks one raises ILLEGAL_BUNDLE. -/

namespace Sys2Proof.Machine

/-! ### System registers (R162) -/

/-- Width of a system register by number; none outside the table of R162. -/
def sysWidth (n : Nat) : Option Nat :=
  match n with
  | 0x001 => some 32 | 0x002 => some 32 | 0x010 => some 64 | 0x011 => some 32 | 0x012 => some 32
  | 0x020 => some 32 | 0x021 => some 32
  | 0x030 => some 32 | 0x031 => some 32 | 0x032 => some 32 | 0x033 => some 32 | 0x034 => some 32
  | 0x035 => some 32 | 0x036 => some 32 | 0x037 => some 32
  | 0x040 => some 32 | 0x041 => some 32 | 0x042 => some 32 | 0x043 => some 32
  | 0x044 => some 32 | 0x045 => some 32 | 0x046 => some 32 | 0x047 => some 32
  | 0x050 => some 32 | 0x051 => some 32 | 0x052 => some 64
  | 0x060 => some 64 | 0x061 => some 64 | 0x062 => some 32 | 0x063 => some 32
  | _ => none

/-- R162: the registers that mts may write, other than REPC. -/
def sysWritable (n : Nat) : Bool := n == 0x001 || n == 0x002 || n == 0x020

/-! ### S slots -/

def rNoGuard (f : RForm) : Bool := f.gi == 0 && f.gn == 0
def rNoB (f : RForm) : Bool := f.b == 0 && f.mb == 0 && f.tb == 0
def iNoGuard (f : IForm) : Bool := f.gi == 0 && f.gn == 0
/-- Lane width of a shape (R167). -/
def laneWidth (sh : BitVec 2) : Nat := match sh.toNat with | 0 => 32 | 1 => 16 | 2 => 8 | _ => 4
/-- Lanes of a shape (R167). -/
def laneCount (sh : BitVec 2) : Nat := match sh.toNat with | 0 => 1 | 1 => 2 | 2 => 4 | _ => 8

/-- R171: the R-format arithmetic with two sources, any shape. -/
def legalArith (f : RForm) : Bool := f.fn == 0 && rNoGuard f
/-- R171, R172: one source, B unused. -/
def legalUnary (f : RForm) : Bool := legalArith f && rNoB f
/-- R172, R174: .w only. -/
def legalW (f : RForm) : Bool := legalArith f && f.sh == 0
/-- R173: bext, FN[0] the signed form. -/
def legalBext (f : RForm) : Bool := decide (f.fn.toNat < 2) && f.sh == 0 && rNoGuard f
/-- R177: compares into a guard. -/
def legalCompare (f : RForm) : Bool := legalW f && decide (f.d.toNat < 8)
/-- R178: gand and gor name guards. -/
def legalGuardOp (f : RForm) : Bool :=
  f.sh == 0 && decide (f.fn.toNat < 8) && decide (f.d.toNat < 8) && decide (f.a.toNat < 8) && decide (f.b.toNat < 8) &&
  f.ma == 0 && f.mb == 0 && rNoGuard f
/-- R179: sel. -/
def legalSel (f : RForm) : Bool := f.sh == 0 && f.fn == 0 && rNoB f
/-- R180: aadd. -/
def legalAadd (f : RForm) : Bool :=
  decide (f.d.toNat < 16) && decide (f.a.toNat < 16) && f.sh == 0 && f.ma == 0 && rNoGuard f &&
  !f.fn.getLsbD 2 && (!f.fn.getLsbD 3 || (f.a == 0 && f.ta == 0))
/-- R185: scalar fp32 arithmetic, FN[2:0] the rounding mode. -/
def legalFp (f : RForm) : Bool := f.sh == 0 && !f.fn.getLsbD 3 && rmFieldOk (f.fn.toNat % 8) && rNoGuard f
/-- R186: fcmp. -/
def legalFcmp (f : RForm) : Bool := f.sh == 0 && decide (f.fn.toNat ≤ 4) && decide (f.d.toNat < 8) && rNoGuard f
/-- R187: fcvt, B a conversion code. -/
def legalFcvt (f : RForm) : Bool := legalFp f && decide (f.b.toNat < 8) && f.mb == 0 && f.tb == 0

/-- R144, R175: the value of an immediate read as natural or signed under CLS = 00, and the low 32 bits under
CLS = 01. -/
def immNat (i : Imm) : Nat := match i with | .short v => v.toNat | .long v => v.toNat % 2 ^ 32
def immSigned (i : Imm) : Int := match i with | .short v => v.toInt | .long v => v.toInt
/-- IMM12 as it stands in the word; 0 under CLS = 01 (R144). -/
def immShortOk (i : Imm) : Bool := match i with | .short _ => true | .long _ => false

/-- R175: I-format arithmetic, .w only. -/
def legalImm (f : IForm) : Bool := f.sh == 0 && f.fn == 0 && iNoGuard f
/-- R175: shift immediates lie below the lane width. -/
def legalShiftImm (f : IForm) : Bool := f.fn == 0 && iNoGuard f && decide (immNat f.imm < laneWidth f.sh)
def legalImmCompare (f : IForm) : Bool := legalImm f && decide (f.d.toNat < 8)
/-- R180: aaddi. -/
def legalAaddi (f : IForm) : Bool :=
  decide (f.d.toNat < 16) && decide (f.a.toNat < 16) && f.sh == 0 && f.ma == 0 && iNoGuard f &&
  (f.fn == 0 || (f.fn == 8 && f.a == 0 && f.ta == 0))
/-- R181: the fields loads and stores share. -/
def legalMem (f : IForm) : Bool := decide (f.fn.toNat < 2) && f.sh == 0 && f.ma == 0 && decide (f.a.toNat < 16)
def legalLoad (f : IForm) : Bool := legalMem f && iNoGuard f
def legalLoadPair (f : IForm) : Bool := legalLoad f && f.d.toNat % 2 == 0
def legalStorePair (f : IForm) : Bool := legalMem f && f.d.toNat % 2 == 0
/-- R188. -/
def legalBr (f : BForm) : Bool := f.a == 0
def legalJr (f : BForm) : Bool := f.off == 0
def legalRet (f : BForm) : Bool := f.off == 0 && f.a == 0
/-- R204. -/
def legalHalt (f : BForm) : Bool := f.off == 0 && f.a == 0 && f.gi == 0 && f.gn == 0
/-- R193. -/
def legalLoop (f : LForm) : Bool := f.endB != 0 && (f.cr == 0 || decide (f.cnt.toNat < 64))
/-- R202, R203: every field but the immediate is zero. -/
def legalBareImm (f : IForm) : Bool :=
  f.sh == 0 && f.fn == 0 && f.d == 0 && f.a == 0 && f.ma == 0 && iNoGuard f && f.td == 0 && f.ta == 0 &&
  immShortOk f.imm
/-- R201: mfs names a register of R162 and the file of its width. -/
def legalMfs (f : IForm) : Bool :=
  f.sh == 0 && f.fn == 0 && f.a == 0 && f.ma == 0 && iNoGuard f && f.ta == 0 && immShortOk f.imm &&
  (match sysWidth (immNat f.imm) with
   | some 64 => decide (f.d.toNat < 16)
   | some _ => true
   | none => false)
/-- R201: the fields of mts. -/
def legalMtsForm (f : IForm) : Bool :=
  f.sh == 0 && f.fn == 0 && f.d == 0 && f.ma == 0 && iNoGuard f && f.td == 0 && immShortOk f.imm
def legalMts (f : IForm) : Bool := legalMtsForm f && sysWritable (immNat f.imm)
def legalRepcWrite (f : IForm) : Bool := legalMtsForm f && immNat f.imm == 0x021

/-! ### V slot (R217) -/

/-- The sets of the Formats column of R217. -/
inductive FmtSet where
  | intIeeeTap | int | ieee | ieeeTap | any | intIeeeTapNoNibble | fp64Only | rand | sum
  deriving DecidableEq, Repr

def FmtSet.holds (s : FmtSet) (code : Nat) : Bool :=
  match fmtOf code with
  | none => false
  | some f =>
    match s with
    | .intIeeeTap => !f.isBlk
    | .int => f.isInt
    | .ieee => f.isIeee
    | .ieeeTap => f.isIeee || f.isTap
    | .any => true
    | .intIeeeTapNoNibble => !f.isBlk && !f.isNibble
    | .fp64Only => f == fp64
    | .rand => f.isIeee || f == .int false 8 || f == .int false 16 || f == .int false 32
    | .sum => !(f == fp64)

/-- One row of R217: which fields it uses, its formats, whether RM is used, and the greatest FN. -/
structure VRow where
  da : Bool := true
  db : Bool := true
  dc : Bool := false
  dd : Bool := true
  q : Bool := false
  set : FmtSet
  rm : Bool
  fnMax : Nat := 0
  num : Bool := false

def legalV (r : VRow) (f : VForm) : Bool :=
  (r.da || f.da == 0) && (r.db || f.db == 0) && (r.dc || f.dc == 0) && (r.dd || f.dd == 0) && (r.q || f.qd == 0) &&
  r.set.holds f.cfmt.toNat && (if r.rm then rmFieldOk f.rm.toNat else f.rm == 0) && decide (f.fn.toNat ≤ r.fnMax) &&
  (!r.num || f.fn == 0 || FmtSet.ieee.holds f.cfmt.toNat)

def rowArith : VRow := { set := .intIeeeTap, rm := true }
def rowFma : VRow := { set := .intIeeeTap, rm := true, dc := true }
def rowMinMax : VRow := { set := .intIeeeTap, rm := false, fnMax := 1, num := true }
def rowUnary : VRow := { set := .intIeeeTap, rm := false, db := false }
def rowSat : VRow := { set := .int, rm := false }
def rowLogic : VRow := { set := .intIeeeTap, rm := false }
def rowCvt : VRow := { set := .any, rm := true, db := false }
def rowRint : VRow := { set := .ieee, rm := true, db := false, fnMax := 1 }
def rowMov : VRow := { set := .any, rm := false, db := false }
def rowIeee1 : VRow := { set := .ieee, rm := false, db := false }
def rowScale : VRow := { set := .ieee, rm := true }
def rowClass : VRow := { set := .ieeeTap, rm := false, db := false }
def rowDiv : VRow := { set := .ieeeTap, rm := true }
def rowSqrt : VRow := { set := .ieeeTap, rm := true, db := false }
def rowCmp : VRow := { set := .intIeeeTap, rm := false, fnMax := 4 }
def rowSel : VRow := { set := .intIeeeTap, rm := false, dc := true }
def rowGather : VRow := { set := .intIeeeTapNoNibble, rm := false }
def rowBmax : VRow := { set := .ieeeTap, rm := false, db := false }
def rowSplit : VRow := { set := .fp64Only, rm := false }
def rowRand : VRow := { set := .rand, rm := false, da := false, dc := true, fnMax := 1 }
def rowSum : VRow := { set := .sum, rm := false, db := false, dd := false, q := true }
def rowDot : VRow := { set := .sum, rm := false, dd := false, q := true }
def rowRmax : VRow := { set := .intIeeeTap, rm := false, db := false, fnMax := 1, num := true }

/-- R238: .mask is for n8. -/
def legalVrand (f : VForm) : Bool := legalV rowRand f && (f.fn == 0 || f.cfmt == 0x01)

/-! ### M slot (R250, R259) -/

/-- Which of BD DA DB W WS RM FMT PI PJ an MA instruction uses; the others are zero (R149). -/
structure MARow where
  bd : Bool := false
  da : Bool := false
  db : Bool := false
  w : Bool := false
  ws : Bool := false
  rmFmt : Bool := false
  pair : Bool := false

def legalMA (r : MARow) (f : MAForm) : Bool :=
  (r.bd || f.bd == 0) && (r.da || f.da == 0) && (r.db || f.db == 0) && (r.w || f.w == 0) && (r.ws || f.ws == 0) &&
  (r.rmFmt || (f.rm == 0 && f.fmt == 0)) && (r.pair || (f.pi == 0 && f.pj == 0))

def legalMsill (f : MAForm) : Bool := legalMA { db := true, w := true } f && f.fn == 0
def legalMmul (f : MAForm) : Bool := legalMA { bd := true, da := true, db := true, w := true, ws := true } f && f.fn == 0
def legalMslice (f : MAForm) : Bool :=
  legalMA { bd := true, da := true, db := true, w := true, ws := true, pair := true } f &&
  decide (f.fn.toNat < 3) && (f.fn == 0 || (f.pi == 0 && f.pj == 0))
/-- R250: a class suffix in FN[1:0]. -/
def clsSuffixOk (f : MAForm) : Bool := decide (1 ≤ f.fn.toNat) && decide (f.fn.toNat ≤ 3)
def legalMscale (f : MAForm) : Bool := legalMA { bd := true, da := true } f && clsSuffixOk f
/-- R250, R255: DB names a descriptor for fp64 alone; with another format it is a field the form does not use and must be zero
(DESIGN CHOICE, log 80). -/
def legalMround (f : MAForm) : Bool :=
  legalMA { bd := true, da := true, db := true, rmFmt := true } f && f.fn == 0 &&
  (fmtOf f.fmt.toNat).isSome && rmFieldOk f.rm.toNat &&
  (if fmtOf f.fmt.toNat = some fp64 then f.rm == 0 || f.rm == 7 else f.db == 0)
def legalMrel (f : MAForm) : Bool := legalMA { bd := true } f && f.fn == 0
def legalMzero (f : MAForm) : Bool := legalMA { bd := true } f && clsSuffixOk f
def legalMsave (f : MAForm) : Bool := legalMA { bd := true, da := true } f && f.fn == 0
def legalMload (f : MAForm) : Bool := legalMA { bd := true, da := true } f && clsSuffixOk f
def legalMsplit (f : MAForm) : Bool := legalMA { da := true, db := true, w := true } f && f.fn == 0

/-- Which of QD QS SA SB an MQ instruction uses, and whether RM and FMT are used (R259). -/
structure MQRow where
  qd : Bool := false
  qs : Bool := false
  sa : Bool := false
  sb : Bool := false

def legalMQ (r : MQRow) (f : MQForm) : Bool :=
  (r.qd || f.qd == 0) && (r.qs || f.qs == 0) && (r.sa || f.sa == 0) && (r.sb || f.sb == 0) && f.da == 0

/-- R259: DB[1:0] holds ES for a tapered FMT and is zero otherwise. -/
def mqEsOk (f : MQForm) : Bool :=
  decide (f.db.toNat < 4) && (f.db == 0 || (match fmtOf f.fmt.toNat with | some g => g.isTap | none => false))
def legalQclr (f : MQForm) : Bool := legalMQ { qd := true, sa := true } f && f.db == 0 && f.rm == 0 && f.fmt == 0
def legalQfma (f : MQForm) : Bool :=
  legalMQ { qd := true, sa := true, sb := true } f && f.rm == 0 && mqEsOk f &&
  (match fmtOf f.fmt.toNat with | some g => !g.isBlk && !(g == fp64) | none => false)
def legalQadd (f : MQForm) : Bool := legalMQ { qd := true, qs := true } f && f.db == 0 && f.rm == 0 && f.fmt == 0
def legalQround (f : MQForm) : Bool :=
  legalMQ { qs := true, sa := true } f && rmFieldOk f.rm.toNat && mqEsOk f &&
  (match fmtOf f.fmt.toNat with | some g => !g.isBlk && (!(g == fp64) || f.sa.toNat % 2 == 0) | none => false)
def legalQst (f : MQForm) : Bool :=
  legalMQ { qs := true, sa := true, sb := true } f && decide (f.db.toNat < 2) && f.rm == 0 && f.fmt == 0 &&
  decide (f.sa.toNat < 16)
def legalQld (f : MQForm) : Bool :=
  legalMQ { qd := true, sa := true, sb := true } f && decide (f.db.toNat < 2) && f.rm == 0 && f.fmt == 0 &&
  decide (f.sa.toNat < 16)

/-! ### X slot -/

/-- Which fields an X instruction uses; the others are zero (R149). -/
structure XRow where
  ch : Bool := false
  aa : Bool := false
  ab : Bool := false
  sa : Bool := false
  ms : Bool := false
  sc : Bool := false
  gd : Bool := false
  da : Bool := false

def legalX (r : XRow) (f : XForm) : Bool :=
  (r.ch || f.ch == 0) && (r.aa || f.aa == 0) && (r.ab || f.ab == 0) && (r.sa || f.sa == 0) && (r.ms || f.ms == 0) &&
  (r.sc || f.sc == 0) && (r.gd || (f.gi == 0 && f.gn == 0)) && (r.da || f.da == 0)

def legalCard (f : XForm) : Bool := legalX { ch := true, aa := true, ms := true } f && f.fn == 0
def legalBchain (f : XForm) : Bool :=
  legalX { ch := true, aa := true, ms := true } f && decide (f.fn.toNat < 4) && f.fn.toNat != f.ch.toNat
def legalPut (f : XForm) : Bool := legalX { aa := true, ab := true, sa := true, ms := true } f && f.fn == 0
def legalPutQ (f : XForm) : Bool :=
  legalX { aa := true, sa := true, ms := true } f && f.fn == 0 && decide (f.sa.toNat < 8)
def legalSem (f : XForm) : Bool := legalX { sa := true, ms := true } f && f.fn == 0
def legalSwait (f : XForm) : Bool := legalX { sa := true, ms := true } f && decide (f.fn.toNat < 2)
def legalTwait (f : XForm) : Bool := legalX { aa := true } f && f.fn == 0
def legalBareX (f : XForm) : Bool := legalX {} f && f.fn == 0
/-- R289: a sluice command with the FN values its row allows. -/
def legalSl (fns : List Nat) (usesAb : Bool) (f : XForm) : Bool :=
  legalX { aa := true, ab := usesAb, sa := true, ms := true } f && fns.contains f.fn.toNat &&
  (f.fn.getLsbD 3 || f.ms == 0)
/-- R291: an atomic with the types its row allows; FN[3] = 0 leaves SA zero. -/
def legalAmo (tys : List Nat) (even : Bool) (f : XForm) : Bool :=
  legalX { aa := true, ab := true, sa := true, ms := true, gd := true } f && tys.contains (f.fn.toNat % 8) &&
  (f.fn.getLsbD 3 || f.sa == 0) && (!even || f.ab.toNat % 2 == 0)
/-- R148, R293: a scope. -/
def legalFence (f : XForm) : Bool := legalX { sc := true } f && f.fn == 0 && decide (f.sc.toNat ≤ 4)
def legalFenceBank (f : XForm) : Bool := legalX { aa := true, ab := true } f && f.fn == 0
def legalFenceBankAll (f : XForm) : Bool := legalX {} f && f.fn == 1
def legalDbar (f : XForm) : Bool := legalX { sc := true } f && f.fn == 0
def legalCollSum (f : XForm) : Bool :=
  legalX { sc := true, da := true, ms := true } f && decide (f.fn.toNat < 8) && rmFieldOk f.fn.toNat
def legalCollSumQ (f : XForm) : Bool := legalX { sc := true, aa := true, sa := true, ms := true } f && f.fn == 8
def legalCollBcast (f : XForm) : Bool := legalX { sc := true, da := true, sa := true, ms := true } f && f.fn == 0
def legalWmap (f : XForm) : Bool := legalX { da := true, aa := true, ms := true } f && decide (f.fn.toNat < 8)
def legalWflush (f : XForm) : Bool := legalX { ms := true } f && decide (f.fn.toNat < 8)
def legalWflushAll (f : XForm) : Bool := legalX { ms := true } f && f.fn == 8

/-! ### Every instruction -/

/-- The conditions of R160 on one slot instruction; an internal step or a command has none, since its fields
name agents and payloads, which its own meaning checks. -/
def legal (i : Instr) : Bool :=
  match i with
  | .add _ f | .sub _ f | .mul _ f | .mulh _ f | .mulhu _ f | .min _ f | .max _ f | .minu _ f | .maxu _ f
  | .adds _ f | .addus _ f | .subs _ f | .subus _ f | .shl _ f | .shr _ f | .sar _ f => legalArith f
  | .abs _ f | .neg _ f | .clz _ f | .popc _ f => legalUnary f
  | .and _ f | .or _ f | .xor _ f | .andn _ f | .bins _ f | .bperm _ f => legalW f
  | .bext _ f => legalBext f
  | .ceq _ f | .cne _ f | .clt _ f | .cle _ f | .cltu _ f | .cleu _ f => legalCompare f
  | .gand _ f | .gor _ f => legalGuardOp f
  | .sel _ f => legalSel f
  | .addi _ f | .andi _ f | .ori _ f | .xori _ f => legalImm f
  | .shli _ f | .shri _ f | .sari _ f => legalShiftImm f
  | .ceqi _ f | .clti _ f | .cltui _ f => legalImmCompare f
  | .seth _ _ => true
  | .aadd _ f => legalAadd f
  | .aaddi _ f => legalAaddi f
  | .ldb _ f | .ldbu _ f | .ldh _ f | .ldhu _ f | .ldw _ f => legalLoad f
  | .ldq _ f => legalLoadPair f
  | .stb _ f | .sth _ f | .stw _ f => legalMem f
  | .stq _ f => legalStorePair f
  | .lda _ f => legalLoad f && decide (f.d.toNat < 16)
  | .sta _ f => legalMem f && decide (f.d.toNat < 16)
  | .ldd _ f => legalLoad f && decide (f.d.toNat < 32)
  | .std _ f => legalMem f && decide (f.d.toNat < 32)
  | .fadd _ f | .fsub _ f | .fmul _ f | .ffma _ f => legalFp f
  | .fcmp _ f => legalFcmp f
  | .fcvt _ f => legalFcvt f
  | .br f | .call f => legalBr f
  | .jr f | .callr f => legalJr f
  | .ret f => legalRet f
  | .loop f => legalLoop f
  | .rep _ => true
  | .rot f | .trap f => legalBareImm f
  | .mfs _ f => legalMfs f
  | .mts f => legalMts f
  | .repcWrite f => legalRepcWrite f
  | .halt f => legalHalt f
  | .vadd f | .vsub f | .vmul f => legalV rowArith f
  | .vfma f => legalV rowFma f
  | .vmin f | .vmax f => legalV rowMinMax f
  | .vabs f | .vneg f => legalV rowUnary f
  | .vadds f | .vsubs f | .vshl f | .vshr f => legalV rowSat f
  | .vand f | .vor f | .vxor f | .vperm f => legalV rowLogic f
  | .vcvt f => legalV rowCvt f
  | .vrint f => legalV rowRint f
  | .vmov f => legalV rowMov f
  | .vfexp f | .vgetexp f | .vgetman f | .vrcp f | .vrsqrt f | .vflog f => legalV rowIeee1 f
  | .vscale f => legalV rowScale f
  | .vclass f => legalV rowClass f
  | .vdiv f => legalV rowDiv f
  | .vsqrt f => legalV rowSqrt f
  | .vcmp f => legalV rowCmp f
  | .vsel f => legalV rowSel f
  | .vgather f | .vscatter f => legalV rowGather f
  | .vbmax f => legalV rowBmax f
  | .vsplit f => legalV rowSplit f
  | .vrand f => legalVrand f
  | .vsum f => legalV rowSum f
  | .vdot f => legalV rowDot f
  | .vrmax f | .vrmin f => legalV rowRmax f
  | .msill f => legalMsill f
  | .mmul f | .mmac f => legalMmul f
  | .mslice f => legalMslice f
  | .mscale f => legalMscale f
  | .mround f => legalMround f
  | .mrel f => legalMrel f
  | .mzero f => legalMzero f
  | .msave f => legalMsave f
  | .mload f => legalMload f
  | .msplit f => legalMsplit f
  | .qclr f => legalQclr f
  | .qfma f | .qdot f => legalQfma f
  | .qadd f | .qsub f | .qneg f => legalQadd f
  | .qround f => legalQround f
  | .qst f => legalQst f
  | .qld f => legalQld f
  | .bcopy f | .bconv f | .bquant f | .bgather f | .bscatter f | .bfill f | .bnext f => legalCard f
  | .bchain f => legalBchain f
  | .put f | .putT f => legalPut f
  | .putQ f => legalPutQ f
  | .sinit f | .sinc f => legalSem f
  | .swait f => legalSwait f
  | .twait f => legalTwait f
  | .tbsync f | .tret f => legalBareX f
  | .slAdd f => legalSl [0, 2] false f
  | .slMin f | .slMax f => legalSl [0, 1, 4] false f
  | .slAnd f | .slOr f | .slXor f => legalSl [2] false f
  | .slFadd f => legalSl [4] false f
  | .slCas f => legalSl [10] false f
  | .slFill f => legalSl [0] true f
  | .slSum f => legalSl [8, 10] true f
  | .amoAdd f | .amoMin f | .amoMax f => legalAmo [0, 1, 2, 3] false f
  | .amoAnd f | .amoOr f | .amoXor f | .amoSwap f => legalAmo [0, 2] false f
  | .amoCas f => legalAmo [0, 2] true f
  | .amoFadd f => legalAmo [4, 5] false f
  | .fenceAcq f | .fenceRel f | .fenceAr f => legalFence f
  | .fenceBank f => legalFenceBank f
  | .fenceBankAll f => legalFenceBankAll f
  | .fenceGeo f => legalBareX f
  | .phase f => legalTwait f
  | .dbar f => legalDbar f
  | .collSum f => legalCollSum f
  | .collSumQ f => legalCollSumQ f
  | .collBcast f => legalCollBcast f
  | .wmap f => legalWmap f
  | .wflush f => legalWflush f
  | .wflushAll f => legalWflushAll f
  | _ => true

end Sys2Proof.Machine
end

