-- ==== Sys2Proof/WellFormed.lean ====
section
/-! DEFINITION. Well-formed instructions: those whose fields R160 allows, and which slot or agent each belongs to. -/

namespace Sys2Proof

/-- R160: the fields of a slot instruction hold what its encoding may hold. -/
def Instr.wellFormed (i : Instr) : Bool := Machine.legal i

end Sys2Proof
end

