-- ==== Sys2Proof/Decode.lean ====
section
/-! DEFINITION. The decoder of bundles and slots (06, R142 to R148, R161) and, after it, the encoder written from
the same tables. Decoding is total: a word outside the maps, or with a reserved format bit set, is refused. -/

namespace Sys2Proof.Decode

/-- A decoded bundle (R142): the safe-point bit and the five slots, none for a slot that R160 refuses. -/
structure Bundle where
  sp : Bool
  s0 : Option Instr
  s1 : Option Instr
  v : Option Instr
  m : Option Instr
  x : Option Instr
  deriving DecidableEq, Repr

/-! ### Fields of the slot formats (R145 to R148) -/

def opOf (w : BitVec 48) : BitVec 8 := w.extractLsb' 40 8

def rOf (w : BitVec 48) : RForm :=
  { sh := w.extractLsb' 38 2, fn := w.extractLsb' 34 4, d := w.extractLsb' 28 6, a := w.extractLsb' 22 6,
    ma := w.extractLsb' 19 3, b := w.extractLsb' 13 6, mb := w.extractLsb' 10 3, gi := w.extractLsb' 7 3,
    gn := w.extractLsb' 6 1, td := w.extractLsb' 5 1, ta := w.extractLsb' 4 1, tb := w.extractLsb' 3 1 }
def rRest (w : BitVec 48) : Bool := w.extractLsb' 0 3 == 0

def iOf (w : BitVec 48) (ext : Option (BitVec 48)) : IForm :=
  { sh := w.extractLsb' 38 2, fn := w.extractLsb' 34 4, d := w.extractLsb' 28 6, a := w.extractLsb' 22 6,
    ma := w.extractLsb' 19 3,
    imm := match ext with | none => .short (w.extractLsb' 7 12) | some x => .long x,
    gi := w.extractLsb' 4 3, gn := w.extractLsb' 3 1, td := w.extractLsb' 2 1, ta := w.extractLsb' 1 1 }
/-- R144: IMM12 is zero under CLS = 01. -/
def iRest (w : BitVec 48) (ext : Option (BitVec 48)) : Bool :=
  w.extractLsb' 0 1 == 0 && (ext.isNone || w.extractLsb' 7 12 == 0)

def uOf (w : BitVec 48) : UForm := { d := w.extractLsb' 34 6, imm := w.extractLsb' 14 20, td := w.extractLsb' 13 1 }
def uRest (w : BitVec 48) : Bool := w.extractLsb' 0 13 == 0

def bOf (w : BitVec 48) : BForm :=
  { gi := w.extractLsb' 37 3, gn := w.extractLsb' 36 1, off := w.extractLsb' 12 24, a := w.extractLsb' 8 4 }
def bRest (w : BitVec 48) : Bool := w.extractLsb' 0 8 == 0

def lOf (w : BitVec 48) : LForm :=
  { rot := w.extractLsb' 39 1, cr := w.extractLsb' 38 1, endB := w.extractLsb' 26 12, cnt := w.extractLsb' 10 16 }
def lRest (w : BitVec 48) : Bool := w.extractLsb' 0 10 == 0

def pOf (w : BitVec 48) : PForm := { n := w.extractLsb' 24 16, k := w.extractLsb' 18 6 }
def pRest (w : BitVec 48) : Bool := w.extractLsb' 0 18 == 0

def vOf (w : BitVec 48) : VForm :=
  { rm := w.extractLsb' 37 3, dd := w.extractLsb' 32 5, da := w.extractLsb' 27 5, db := w.extractLsb' 22 5,
    dc := w.extractLsb' 17 5, cfmt := w.extractLsb' 11 6, qd := w.extractLsb' 8 3, fn := w.extractLsb' 4 4 }
def vRest (w : BitVec 48) : Bool := w.extractLsb' 0 4 == 0

def maOf (w : BitVec 48) : MAForm :=
  { bd := w.extractLsb' 35 5, da := w.extractLsb' 30 5, db := w.extractLsb' 25 5, w := w.extractLsb' 23 2,
    ws := w.extractLsb' 22 1, rm := w.extractLsb' 19 3, fmt := w.extractLsb' 13 6, pi := w.extractLsb' 10 3,
    pj := w.extractLsb' 7 3, fn := w.extractLsb' 3 4 }
def maRest (w : BitVec 48) : Bool := w.extractLsb' 0 3 == 0

def mqOf (w : BitVec 48) : MQForm :=
  { qd := w.extractLsb' 37 3, qs := w.extractLsb' 34 3, sa := w.extractLsb' 28 6, sb := w.extractLsb' 22 6,
    da := w.extractLsb' 17 5, db := w.extractLsb' 12 5, rm := w.extractLsb' 9 3, fmt := w.extractLsb' 3 6 }
def mqRest (w : BitVec 48) : Bool := w.extractLsb' 0 3 == 0

def xOf (w : BitVec 48) : XForm :=
  { ch := w.extractLsb' 38 2, aa := w.extractLsb' 34 4, ab := w.extractLsb' 30 4, sa := w.extractLsb' 24 6,
    ms := w.extractLsb' 18 6, sc := w.extractLsb' 15 3, gi := w.extractLsb' 12 3, gn := w.extractLsb' 11 1,
    da := w.extractLsb' 6 5, fn := w.extractLsb' 2 4 }
def xRest (w : BitVec 48) : Bool := w.extractLsb' 0 2 == 0

/-! ### The opcode maps (R161) -/

/-- The R-format opcodes of the S map that stand in S0 and S1. -/
def sROp (op : Nat) : Option (SSlot → RForm → Instr) :=
  match op with
  | 0x01 => some Instr.add
  | 0x02 => some Instr.sub
  | 0x03 => some Instr.mul
  | 0x04 => some Instr.mulh
  | 0x05 => some Instr.mulhu
  | 0x06 => some Instr.min
  | 0x07 => some Instr.max
  | 0x08 => some Instr.minu
  | 0x09 => some Instr.maxu
  | 0x0A => some Instr.adds
  | 0x0B => some Instr.addus
  | 0x0C => some Instr.subs
  | 0x0D => some Instr.subus
  | 0x0E => some Instr.abs
  | 0x0F => some Instr.neg
  | 0x10 => some Instr.and
  | 0x11 => some Instr.or
  | 0x12 => some Instr.xor
  | 0x13 => some Instr.andn
  | 0x14 => some Instr.shl
  | 0x15 => some Instr.shr
  | 0x16 => some Instr.sar
  | 0x17 => some Instr.clz
  | 0x18 => some Instr.popc
  | 0x19 => some Instr.bext
  | 0x1A => some Instr.bins
  | 0x1B => some Instr.bperm
  | 0x20 => some Instr.ceq
  | 0x21 => some Instr.cne
  | 0x22 => some Instr.clt
  | 0x23 => some Instr.cle
  | 0x24 => some Instr.cltu
  | 0x25 => some Instr.cleu
  | 0x26 => some Instr.gand
  | 0x27 => some Instr.gor
  | 0x28 => some Instr.sel
  | 0x40 => some Instr.aadd
  | 0x58 => some Instr.fadd
  | 0x59 => some Instr.fsub
  | 0x5A => some Instr.fmul
  | 0x5B => some Instr.ffma
  | 0x5C => some Instr.fcmp
  | 0x5D => some Instr.fcvt
  | _ => none

/-- The I-format opcodes of the S map that stand in S0 and S1. -/
def sIOp (op : Nat) : Option (SSlot → IForm → Instr) :=
  match op with
  | 0x30 => some Instr.addi
  | 0x31 => some Instr.andi
  | 0x32 => some Instr.ori
  | 0x33 => some Instr.xori
  | 0x34 => some Instr.shli
  | 0x35 => some Instr.shri
  | 0x36 => some Instr.sari
  | 0x37 => some Instr.ceqi
  | 0x38 => some Instr.clti
  | 0x39 => some Instr.cltui
  | 0x41 => some Instr.aaddi
  | 0x48 => some Instr.ldb
  | 0x49 => some Instr.ldbu
  | 0x4A => some Instr.ldh
  | 0x4B => some Instr.ldhu
  | 0x4C => some Instr.ldw
  | 0x4D => some Instr.ldq
  | 0x4E => some Instr.stb
  | 0x4F => some Instr.sth
  | 0x50 => some Instr.stw
  | 0x51 => some Instr.stq
  | 0x52 => some Instr.lda
  | 0x53 => some Instr.sta
  | 0x54 => some Instr.ldd
  | 0x55 => some Instr.std
  | _ => none

/-- The V map. -/
def vOp (op : Nat) : Option (VForm → Instr) :=
  match op with
  | 0x01 => some Instr.vadd
  | 0x02 => some Instr.vsub
  | 0x03 => some Instr.vmul
  | 0x04 => some Instr.vfma
  | 0x05 => some Instr.vmin
  | 0x06 => some Instr.vmax
  | 0x07 => some Instr.vabs
  | 0x08 => some Instr.vneg
  | 0x09 => some Instr.vadds
  | 0x0A => some Instr.vsubs
  | 0x0B => some Instr.vand
  | 0x0C => some Instr.vor
  | 0x0D => some Instr.vxor
  | 0x0E => some Instr.vshl
  | 0x0F => some Instr.vshr
  | 0x10 => some Instr.vcvt
  | 0x11 => some Instr.vrint
  | 0x12 => some Instr.vmov
  | 0x18 => some Instr.vfexp
  | 0x19 => some Instr.vscale
  | 0x1A => some Instr.vgetexp
  | 0x1B => some Instr.vgetman
  | 0x1C => some Instr.vclass
  | 0x1D => some Instr.vrcp
  | 0x1E => some Instr.vrsqrt
  | 0x1F => some Instr.vdiv
  | 0x20 => some Instr.vsqrt
  | 0x21 => some Instr.vflog
  | 0x28 => some Instr.vcmp
  | 0x29 => some Instr.vsel
  | 0x2A => some Instr.vperm
  | 0x2B => some Instr.vgather
  | 0x2C => some Instr.vscatter
  | 0x2D => some Instr.vbmax
  | 0x30 => some Instr.vsplit
  | 0x31 => some Instr.vrand
  | 0x38 => some Instr.vsum
  | 0x39 => some Instr.vdot
  | 0x3A => some Instr.vrmax
  | 0x3B => some Instr.vrmin
  | _ => none

/-- The MA opcodes of the M map. -/
def maOp (op : Nat) : Option (MAForm → Instr) :=
  match op with
  | 0x01 => some Instr.msill
  | 0x02 => some Instr.mmul
  | 0x03 => some Instr.mmac
  | 0x04 => some Instr.mslice
  | 0x05 => some Instr.mscale
  | 0x06 => some Instr.mround
  | 0x07 => some Instr.mrel
  | 0x08 => some Instr.mzero
  | 0x09 => some Instr.msave
  | 0x0A => some Instr.mload
  | 0x0B => some Instr.msplit
  | _ => none

/-- The MQ opcodes of the M map. -/
def mqOp (op : Nat) : Option (MQForm → Instr) :=
  match op with
  | 0x10 => some Instr.qclr
  | 0x11 => some Instr.qfma
  | 0x12 => some Instr.qdot
  | 0x13 => some Instr.qadd
  | 0x14 => some Instr.qsub
  | 0x15 => some Instr.qneg
  | 0x16 => some Instr.qround
  | 0x17 => some Instr.qst
  | 0x18 => some Instr.qld
  | _ => none

/-- The X map, but for the opcodes that FN splits (0x43, 0x4C, 0x51). -/
def xOp (op : Nat) : Option (XForm → Instr) :=
  match op with
  | 0x01 => some Instr.bcopy
  | 0x02 => some Instr.bconv
  | 0x03 => some Instr.bquant
  | 0x04 => some Instr.bgather
  | 0x05 => some Instr.bscatter
  | 0x06 => some Instr.bfill
  | 0x07 => some Instr.bnext
  | 0x08 => some Instr.bchain
  | 0x10 => some Instr.put
  | 0x11 => some Instr.putQ
  | 0x12 => some Instr.putT
  | 0x14 => some Instr.sinit
  | 0x15 => some Instr.sinc
  | 0x16 => some Instr.swait
  | 0x18 => some Instr.twait
  | 0x19 => some Instr.tbsync
  | 0x20 => some Instr.slAdd
  | 0x21 => some Instr.slMin
  | 0x22 => some Instr.slMax
  | 0x23 => some Instr.slAnd
  | 0x24 => some Instr.slOr
  | 0x25 => some Instr.slXor
  | 0x26 => some Instr.slFadd
  | 0x27 => some Instr.slCas
  | 0x28 => some Instr.slFill
  | 0x29 => some Instr.slSum
  | 0x30 => some Instr.amoAdd
  | 0x31 => some Instr.amoMin
  | 0x32 => some Instr.amoMax
  | 0x33 => some Instr.amoAnd
  | 0x34 => some Instr.amoOr
  | 0x35 => some Instr.amoXor
  | 0x36 => some Instr.amoSwap
  | 0x37 => some Instr.amoCas
  | 0x38 => some Instr.amoFadd
  | 0x40 => some Instr.fenceAcq
  | 0x41 => some Instr.fenceRel
  | 0x42 => some Instr.fenceAr
  | 0x44 => some Instr.fenceGeo
  | 0x48 => some Instr.phase
  | 0x49 => some Instr.dbar
  | 0x4D => some Instr.collBcast
  | 0x50 => some Instr.wmap
  | 0x58 => some Instr.tret
  | _ => none

/-- The S map: an S0 or S1 slot word; `ext` holds the S1 bits under CLS = 01 (R144). -/
def slotS (sl : SSlot) (w : BitVec 48) (ext : Option (BitVec 48)) : Option Instr :=
  let op := (opOf w).toNat
  match sIOp op with
  | some c => if iRest w ext then some (c sl (iOf w ext)) else none
  | none =>
    if ext.isSome then none
    else if w = 0 then some (.nop sl)
    else
      match sROp op with
      | some c => if rRest w then some (c sl (rOf w)) else none
      | none =>
        match op with
        | 0x3C => if uRest w then some (.seth sl (uOf w)) else none
        | 0x69 => if iRest w none then some (.mfs sl (iOf w none)) else none
        | _ =>
          if sl = .s1 then none
          else
            match op with
            | 0x60 => if bRest w then some (.br (bOf w)) else none
            | 0x61 => if bRest w then some (.jr (bOf w)) else none
            | 0x62 => if bRest w then some (.call (bOf w)) else none
            | 0x63 => if bRest w then some (.callr (bOf w)) else none
            | 0x64 => if bRest w then some (.ret (bOf w)) else none
            | 0x65 => if lRest w then some (.loop (lOf w)) else none
            | 0x66 => if pRest w then some (.rep (pOf w)) else none
            | 0x67 => if iRest w none then some (.rot (iOf w none)) else none
            | 0x68 => if iRest w none then some (.trap (iOf w none)) else none
            | 0x6A =>
              if iRest w none then
                if (w.extractLsb' 7 12).toNat = 0x021 then some (.repcWrite (iOf w none)) else some (.mts (iOf w none))
              else none
            | 0x6B => if bRest w then some (.halt (bOf w)) else none
            | _ => none

/-- The V slot. -/
def slotV (w : BitVec 48) : Option Instr :=
  if w = 0 then some .vnop
  else if !vRest w then none
  else (vOp (opOf w).toNat).map fun c => c (vOf w)

/-- The M slot. -/
def slotM (w : BitVec 48) : Option Instr :=
  if w = 0 then some .mnop
  else
    match maOp (opOf w).toNat with
    | some c => if maRest w then some (c (maOf w)) else none
    | none =>
      match mqOp (opOf w).toNat with
      | some c => if mqRest w then some (c (mqOf w)) else none
      | none => none

/-- The X slot. FN[0] of `fence.bank`, FN[3] of `coll.sum` and FN[3] of `wflush` select rows of their own. -/
def slotX (w : BitVec 48) : Option Instr :=
  if w = 0 then some .xnop
  else if !xRest w then none
  else
    let f := xOf w
    match (opOf w).toNat with
    | 0x43 => some (if f.fn.getLsbD 0 then .fenceBankAll f else .fenceBank f)
    | 0x4C => some (if f.fn.getLsbD 3 then .collSumQ f else .collSum f)
    | 0x51 => some (if f.fn.getLsbD 3 then .wflushAll f else .wflush f)
    | op => (xOp op).map fun c => c f

/-- A slot instruction that also passes the checks of R160 on its fields. -/
def checked (o : Option Instr) : Option Instr :=
  match o with
  | some i => if i.wellFormed then some i else none
  | none => none

/-- R142 to R144, R160: a whole bundle, none when its header is refused. Under CLS = 01 the S1 slot holds no
instruction, and a breach of R144 stands against S0. -/
def bundle (w : BitVec 256) : Option Bundle :=
  let h := w.extractLsb' 0 16
  let cls := (h.extractLsb' 14 2).toNat
  if 2 ≤ cls || h.extractLsb' 0 13 != 0 then none
  else
    let w1 := w.extractLsb' 64 48
    some {
      sp := h.getLsbD 13
      s0 := checked (slotS .s0 (w.extractLsb' 16 48) (if cls = 1 then some w1 else none))
      s1 := if cls = 1 then some (Instr.nop .s1) else checked (slotS .s1 w1 none)
      v := checked (slotV (w.extractLsb' 112 48))
      m := checked (slotM (w.extractLsb' 160 48))
      x := checked (slotX (w.extractLsb' 208 48)) }

/-! ### The encoder -/

def rPack (op : BitVec 8) (f : RForm) : BitVec 48 :=
  op ++ f.sh ++ f.fn ++ f.d ++ f.a ++ f.ma ++ f.b ++ f.mb ++ f.gi ++ f.gn ++ f.td ++ f.ta ++ f.tb ++ (0 : BitVec 3)
/-- IMM12 of the word: zero when the immediate stands in S1. -/
def imm12 (i : Imm) : BitVec 12 := match i with | .short v => v | .long _ => 0
def iPack (op : BitVec 8) (f : IForm) : BitVec 48 :=
  op ++ f.sh ++ f.fn ++ f.d ++ f.a ++ f.ma ++ imm12 f.imm ++ f.gi ++ f.gn ++ f.td ++ f.ta ++ (0 : BitVec 1)
def uPack (op : BitVec 8) (f : UForm) : BitVec 48 := op ++ f.d ++ f.imm ++ f.td ++ (0 : BitVec 13)
def bPack (op : BitVec 8) (f : BForm) : BitVec 48 := op ++ f.gi ++ f.gn ++ f.off ++ f.a ++ (0 : BitVec 8)
def lPack (op : BitVec 8) (f : LForm) : BitVec 48 := op ++ f.rot ++ f.cr ++ f.endB ++ f.cnt ++ (0 : BitVec 10)
def pPack (op : BitVec 8) (f : PForm) : BitVec 48 := op ++ f.n ++ f.k ++ (0 : BitVec 18)
def vPack (op : BitVec 8) (f : VForm) : BitVec 48 :=
  op ++ f.rm ++ f.dd ++ f.da ++ f.db ++ f.dc ++ f.cfmt ++ f.qd ++ f.fn ++ (0 : BitVec 4)
def maPack (op : BitVec 8) (f : MAForm) : BitVec 48 :=
  op ++ f.bd ++ f.da ++ f.db ++ f.w ++ f.ws ++ f.rm ++ f.fmt ++ f.pi ++ f.pj ++ f.fn ++ (0 : BitVec 3)
def mqPack (op : BitVec 8) (f : MQForm) : BitVec 48 :=
  op ++ f.qd ++ f.qs ++ f.sa ++ f.sb ++ f.da ++ f.db ++ f.rm ++ f.fmt ++ (0 : BitVec 3)
def xPack (op : BitVec 8) (f : XForm) : BitVec 48 :=
  op ++ f.ch ++ f.aa ++ f.ab ++ f.sa ++ f.ms ++ f.sc ++ f.gi ++ f.gn ++ f.da ++ f.fn ++ (0 : BitVec 2)

/-- The slots an instruction may stand in; none for an internal step or a command. -/
inductive Place where
  | s0 | s1 | v | m | x
  deriving DecidableEq, Repr

def sPlace (sl : SSlot) : Place := match sl with | .s0 => .s0 | .s1 => .s1

/-- The place and the 48-bit word of a slot instruction (R161), and the S1 bits of a long immediate (R144). -/
def encodeSlot (i : Instr) : Option (Place × BitVec 48) :=
  match i with
  | .nop sl => some (sPlace sl, 0)
  | .add sl f => some (sPlace sl, rPack 0x01 f)
  | .sub sl f => some (sPlace sl, rPack 0x02 f)
  | .mul sl f => some (sPlace sl, rPack 0x03 f)
  | .mulh sl f => some (sPlace sl, rPack 0x04 f)
  | .mulhu sl f => some (sPlace sl, rPack 0x05 f)
  | .min sl f => some (sPlace sl, rPack 0x06 f)
  | .max sl f => some (sPlace sl, rPack 0x07 f)
  | .minu sl f => some (sPlace sl, rPack 0x08 f)
  | .maxu sl f => some (sPlace sl, rPack 0x09 f)
  | .adds sl f => some (sPlace sl, rPack 0x0A f)
  | .addus sl f => some (sPlace sl, rPack 0x0B f)
  | .subs sl f => some (sPlace sl, rPack 0x0C f)
  | .subus sl f => some (sPlace sl, rPack 0x0D f)
  | .abs sl f => some (sPlace sl, rPack 0x0E f)
  | .neg sl f => some (sPlace sl, rPack 0x0F f)
  | .and sl f => some (sPlace sl, rPack 0x10 f)
  | .or sl f => some (sPlace sl, rPack 0x11 f)
  | .xor sl f => some (sPlace sl, rPack 0x12 f)
  | .andn sl f => some (sPlace sl, rPack 0x13 f)
  | .shl sl f => some (sPlace sl, rPack 0x14 f)
  | .shr sl f => some (sPlace sl, rPack 0x15 f)
  | .sar sl f => some (sPlace sl, rPack 0x16 f)
  | .clz sl f => some (sPlace sl, rPack 0x17 f)
  | .popc sl f => some (sPlace sl, rPack 0x18 f)
  | .bext sl f => some (sPlace sl, rPack 0x19 f)
  | .bins sl f => some (sPlace sl, rPack 0x1A f)
  | .bperm sl f => some (sPlace sl, rPack 0x1B f)
  | .ceq sl f => some (sPlace sl, rPack 0x20 f)
  | .cne sl f => some (sPlace sl, rPack 0x21 f)
  | .clt sl f => some (sPlace sl, rPack 0x22 f)
  | .cle sl f => some (sPlace sl, rPack 0x23 f)
  | .cltu sl f => some (sPlace sl, rPack 0x24 f)
  | .cleu sl f => some (sPlace sl, rPack 0x25 f)
  | .gand sl f => some (sPlace sl, rPack 0x26 f)
  | .gor sl f => some (sPlace sl, rPack 0x27 f)
  | .sel sl f => some (sPlace sl, rPack 0x28 f)
  | .addi sl f => some (sPlace sl, iPack 0x30 f)
  | .andi sl f => some (sPlace sl, iPack 0x31 f)
  | .ori sl f => some (sPlace sl, iPack 0x32 f)
  | .xori sl f => some (sPlace sl, iPack 0x33 f)
  | .shli sl f => some (sPlace sl, iPack 0x34 f)
  | .shri sl f => some (sPlace sl, iPack 0x35 f)
  | .sari sl f => some (sPlace sl, iPack 0x36 f)
  | .ceqi sl f => some (sPlace sl, iPack 0x37 f)
  | .clti sl f => some (sPlace sl, iPack 0x38 f)
  | .cltui sl f => some (sPlace sl, iPack 0x39 f)
  | .seth sl f => some (sPlace sl, uPack 0x3C f)
  | .aadd sl f => some (sPlace sl, rPack 0x40 f)
  | .aaddi sl f => some (sPlace sl, iPack 0x41 f)
  | .ldb sl f => some (sPlace sl, iPack 0x48 f)
  | .ldbu sl f => some (sPlace sl, iPack 0x49 f)
  | .ldh sl f => some (sPlace sl, iPack 0x4A f)
  | .ldhu sl f => some (sPlace sl, iPack 0x4B f)
  | .ldw sl f => some (sPlace sl, iPack 0x4C f)
  | .ldq sl f => some (sPlace sl, iPack 0x4D f)
  | .stb sl f => some (sPlace sl, iPack 0x4E f)
  | .sth sl f => some (sPlace sl, iPack 0x4F f)
  | .stw sl f => some (sPlace sl, iPack 0x50 f)
  | .stq sl f => some (sPlace sl, iPack 0x51 f)
  | .lda sl f => some (sPlace sl, iPack 0x52 f)
  | .sta sl f => some (sPlace sl, iPack 0x53 f)
  | .ldd sl f => some (sPlace sl, iPack 0x54 f)
  | .std sl f => some (sPlace sl, iPack 0x55 f)
  | .fadd sl f => some (sPlace sl, rPack 0x58 f)
  | .fsub sl f => some (sPlace sl, rPack 0x59 f)
  | .fmul sl f => some (sPlace sl, rPack 0x5A f)
  | .ffma sl f => some (sPlace sl, rPack 0x5B f)
  | .fcmp sl f => some (sPlace sl, rPack 0x5C f)
  | .fcvt sl f => some (sPlace sl, rPack 0x5D f)
  | .br f => some (.s0, bPack 0x60 f)
  | .jr f => some (.s0, bPack 0x61 f)
  | .call f => some (.s0, bPack 0x62 f)
  | .callr f => some (.s0, bPack 0x63 f)
  | .ret f => some (.s0, bPack 0x64 f)
  | .loop f => some (.s0, lPack 0x65 f)
  | .rep f => some (.s0, pPack 0x66 f)
  | .rot f => some (.s0, iPack 0x67 f)
  | .trap f => some (.s0, iPack 0x68 f)
  | .mts f => some (.s0, iPack 0x6A f)
  | .repcWrite f => some (.s0, iPack 0x6A f)
  | .halt f => some (.s0, bPack 0x6B f)
  | .mfs sl f => some (sPlace sl, iPack 0x69 f)
  | .vnop => some (.v, 0)
  | .vadd f => some (.v, vPack 0x01 f)
  | .vsub f => some (.v, vPack 0x02 f)
  | .vmul f => some (.v, vPack 0x03 f)
  | .vfma f => some (.v, vPack 0x04 f)
  | .vmin f => some (.v, vPack 0x05 f)
  | .vmax f => some (.v, vPack 0x06 f)
  | .vabs f => some (.v, vPack 0x07 f)
  | .vneg f => some (.v, vPack 0x08 f)
  | .vadds f => some (.v, vPack 0x09 f)
  | .vsubs f => some (.v, vPack 0x0A f)
  | .vand f => some (.v, vPack 0x0B f)
  | .vor f => some (.v, vPack 0x0C f)
  | .vxor f => some (.v, vPack 0x0D f)
  | .vshl f => some (.v, vPack 0x0E f)
  | .vshr f => some (.v, vPack 0x0F f)
  | .vcvt f => some (.v, vPack 0x10 f)
  | .vrint f => some (.v, vPack 0x11 f)
  | .vmov f => some (.v, vPack 0x12 f)
  | .vfexp f => some (.v, vPack 0x18 f)
  | .vscale f => some (.v, vPack 0x19 f)
  | .vgetexp f => some (.v, vPack 0x1A f)
  | .vgetman f => some (.v, vPack 0x1B f)
  | .vclass f => some (.v, vPack 0x1C f)
  | .vrcp f => some (.v, vPack 0x1D f)
  | .vrsqrt f => some (.v, vPack 0x1E f)
  | .vdiv f => some (.v, vPack 0x1F f)
  | .vsqrt f => some (.v, vPack 0x20 f)
  | .vflog f => some (.v, vPack 0x21 f)
  | .vcmp f => some (.v, vPack 0x28 f)
  | .vsel f => some (.v, vPack 0x29 f)
  | .vperm f => some (.v, vPack 0x2A f)
  | .vgather f => some (.v, vPack 0x2B f)
  | .vscatter f => some (.v, vPack 0x2C f)
  | .vbmax f => some (.v, vPack 0x2D f)
  | .vsplit f => some (.v, vPack 0x30 f)
  | .vrand f => some (.v, vPack 0x31 f)
  | .vsum f => some (.v, vPack 0x38 f)
  | .vdot f => some (.v, vPack 0x39 f)
  | .vrmax f => some (.v, vPack 0x3A f)
  | .vrmin f => some (.v, vPack 0x3B f)
  | .mnop => some (.m, 0)
  | .msill f => some (.m, maPack 0x01 f)
  | .mmul f => some (.m, maPack 0x02 f)
  | .mmac f => some (.m, maPack 0x03 f)
  | .mslice f => some (.m, maPack 0x04 f)
  | .mscale f => some (.m, maPack 0x05 f)
  | .mround f => some (.m, maPack 0x06 f)
  | .mrel f => some (.m, maPack 0x07 f)
  | .mzero f => some (.m, maPack 0x08 f)
  | .msave f => some (.m, maPack 0x09 f)
  | .mload f => some (.m, maPack 0x0A f)
  | .msplit f => some (.m, maPack 0x0B f)
  | .qclr f => some (.m, mqPack 0x10 f)
  | .qfma f => some (.m, mqPack 0x11 f)
  | .qdot f => some (.m, mqPack 0x12 f)
  | .qadd f => some (.m, mqPack 0x13 f)
  | .qsub f => some (.m, mqPack 0x14 f)
  | .qneg f => some (.m, mqPack 0x15 f)
  | .qround f => some (.m, mqPack 0x16 f)
  | .qst f => some (.m, mqPack 0x17 f)
  | .qld f => some (.m, mqPack 0x18 f)
  | .xnop => some (.x, 0)
  | .bcopy f => some (.x, xPack 0x01 f)
  | .bconv f => some (.x, xPack 0x02 f)
  | .bquant f => some (.x, xPack 0x03 f)
  | .bgather f => some (.x, xPack 0x04 f)
  | .bscatter f => some (.x, xPack 0x05 f)
  | .bfill f => some (.x, xPack 0x06 f)
  | .bnext f => some (.x, xPack 0x07 f)
  | .bchain f => some (.x, xPack 0x08 f)
  | .put f => some (.x, xPack 0x10 f)
  | .putQ f => some (.x, xPack 0x11 f)
  | .putT f => some (.x, xPack 0x12 f)
  | .sinit f => some (.x, xPack 0x14 f)
  | .sinc f => some (.x, xPack 0x15 f)
  | .swait f => some (.x, xPack 0x16 f)
  | .twait f => some (.x, xPack 0x18 f)
  | .tbsync f => some (.x, xPack 0x19 f)
  | .slAdd f => some (.x, xPack 0x20 f)
  | .slMin f => some (.x, xPack 0x21 f)
  | .slMax f => some (.x, xPack 0x22 f)
  | .slAnd f => some (.x, xPack 0x23 f)
  | .slOr f => some (.x, xPack 0x24 f)
  | .slXor f => some (.x, xPack 0x25 f)
  | .slFadd f => some (.x, xPack 0x26 f)
  | .slCas f => some (.x, xPack 0x27 f)
  | .slFill f => some (.x, xPack 0x28 f)
  | .slSum f => some (.x, xPack 0x29 f)
  | .amoAdd f => some (.x, xPack 0x30 f)
  | .amoMin f => some (.x, xPack 0x31 f)
  | .amoMax f => some (.x, xPack 0x32 f)
  | .amoAnd f => some (.x, xPack 0x33 f)
  | .amoOr f => some (.x, xPack 0x34 f)
  | .amoXor f => some (.x, xPack 0x35 f)
  | .amoSwap f => some (.x, xPack 0x36 f)
  | .amoCas f => some (.x, xPack 0x37 f)
  | .amoFadd f => some (.x, xPack 0x38 f)
  | .fenceAcq f => some (.x, xPack 0x40 f)
  | .fenceRel f => some (.x, xPack 0x41 f)
  | .fenceAr f => some (.x, xPack 0x42 f)
  | .fenceGeo f => some (.x, xPack 0x44 f)
  | .phase f => some (.x, xPack 0x48 f)
  | .dbar f => some (.x, xPack 0x49 f)
  | .collBcast f => some (.x, xPack 0x4D f)
  | .wmap f => some (.x, xPack 0x50 f)
  | .tret f => some (.x, xPack 0x58 f)
  | .fenceBank f => some (.x, xPack 0x43 f)
  | .fenceBankAll f => some (.x, xPack 0x43 f)
  | .collSum f => some (.x, xPack 0x4C f)
  | .collSumQ f => some (.x, xPack 0x4C f)
  | .wflush f => some (.x, xPack 0x51 f)
  | .wflushAll f => some (.x, xPack 0x51 f)
  | _ => none

/-- The long immediate that an instruction carries (R144). -/
def longImm (i : Instr) : Option (BitVec 48) :=
  let of (f : IForm) : Option (BitVec 48) := match f.imm with | .long v => some v | .short _ => none
  match i with
  | .addi _ f | .andi _ f | .ori _ f | .xori _ f | .shli _ f | .shri _ f | .sari _ f | .ceqi _ f | .clti _ f | .cltui _ f => of f
  | .aaddi _ f => of f
  | .ldb _ f | .ldbu _ f | .ldh _ f | .ldhu _ f | .ldw _ f | .ldq _ f | .stb _ f | .sth _ f | .stw _ f | .stq _ f | .lda _ f | .sta _ f | .ldd _ f | .std _ f => of f
  | _ => none

/-- The bundle whose one instruction is i, every other slot empty; for a long immediate, CLS = 01 (R142, R144). -/
def encode (i : Instr) : Option (BitVec 256) :=
  match encodeSlot i with
  | none => none
  | some (p, w) =>
    let z : BitVec 48 := 0
    match longImm i with
    | some x => if p = .s0 then some (z ++ z ++ z ++ x ++ w ++ (0x4000 : BitVec 16)) else none
    | none =>
      some (match p with
        | .s0 => z ++ z ++ z ++ z ++ w ++ (0 : BitVec 16)
        | .s1 => z ++ z ++ z ++ w ++ z ++ (0 : BitVec 16)
        | .v => z ++ z ++ w ++ z ++ z ++ (0 : BitVec 16)
        | .m => z ++ w ++ z ++ z ++ z ++ (0 : BitVec 16)
        | .x => w ++ z ++ z ++ z ++ z ++ (0 : BitVec 16))

/-- The one instruction of a bundle that is not a no-op: the first in slot order, and `nop` for an empty bundle;
none when a slot is refused. -/
def mainOf (b : Bundle) : Option Instr :=
  match b.s0, b.s1, b.v, b.m, b.x with
  | some i0, some i1, some iv, some im, some ix =>
    if i0 != .nop .s0 then some i0
    else if i1 != .nop .s1 then some i1
    else if iv != .vnop then some iv
    else if im != .mnop then some im
    else if ix != .xnop then some ix
    else some i0
  | _, _, _, _, _ => none

/-- The instruction that a bundle of one instruction holds. -/
def instrOf (w : BitVec 256) : Option Instr :=
  match bundle w with
  | some b => mainOf b
  | none => none

end Sys2Proof.Decode

namespace Sys2Proof

/-- The instruction that the decoder reads from the bundle whose bits are w: bit 0 is bit 0 of the first byte
(R142). Bits above nbits are zero. -/
def decodeTableWord (nbits w : Nat) : Option Instr :=
  Decode.instrOf (BitVec.ofNat 256 (w % 2 ^ nbits))

end Sys2Proof
end

