-- ==== Sys2Proof/Machine/Flags.lean ====
section
/-! DEFINITION. FX and QX (R59, R65): which flags an operation raised, and the one cause that a raised and enabled
flag gives (R60, R64, R82). -/

namespace Sys2Proof.Machine

/-- The lowest index that raised a flag, after value i raised it or not. -/
def raiseAt (old : Option Nat) (b : Bool) (i : Nat) : Option Nat :=
  if b then minOpt old (some i) else old

/-- The flags raised so far with those of value i (R214, R248). -/
def Raised.add (r : Raised) (i : Nat) (f : Fl) : Raised :=
  { nv := raiseAt r.nv f.nv i, dz := raiseAt r.dz f.dz i, of := raiseAt r.of f.of i, uf := raiseAt r.uf f.uf i,
    nx := raiseAt r.nx f.nx i, snan := raiseAt r.snan f.snan i, nr := raiseAt r.nr f.nr i,
    qo := raiseAt r.qo f.qo i, qr := raiseAt r.qr f.qr i, sat := raiseAt r.sat f.sat i }

/-- The union of two sets of raised flags, each with its lowest index. -/
def Raised.merge (a b : Raised) : Raised :=
  { nv := minOpt a.nv b.nv, dz := minOpt a.dz b.dz, of := minOpt a.of b.of, uf := minOpt a.uf b.uf,
    nx := minOpt a.nx b.nx, snan := minOpt a.snan b.snan, nr := minOpt a.nr b.nr, qo := minOpt a.qo b.qo,
    qr := minOpt a.qr b.qr, sat := minOpt a.sat b.sat }

/-- One value's flags, at index i. -/
def Raised.of1 (i : Nat) (f : Fl) : Raised := Raised.add Raised.none i f

/-- Flags of values i, i + 1, ... in order. -/
def Raised.addList (r : Raised) (i : Nat) : List Fl → Raised
  | [] => r
  | f :: fs => Raised.addList (Raised.add r i f) (i + 1) fs

/-- FX[4:0] of the raised flags (R59). -/
def fxBits (r : Raised) : Word :=
  BitVec.ofNat 32 (b2n r.nv.isSome + 2 * b2n r.dz.isSome + 4 * b2n r.of.isSome + 8 * b2n r.uf.isSome +
    16 * b2n r.nx.isSome)

/-- QX[3:0] of the raised flags (R65). -/
def qxBits (r : Raised) : Word :=
  BitVec.ofNat 32 (b2n r.nr.isSome + 2 * b2n r.qr.isSome + 4 * b2n r.qo.isSome + 8 * b2n r.sat.isSome)

/-- FX.RM (R59). -/
def fxRm (fx : Word) : Nat := bitsOf fx.toNat 18 16

/-- The cause of an operation's flags under the enables in force: the highest row of R60 with the rows of R82 and
R64 in their places. -/
def arithCause (fx qx : Word) (slot : Nat) (r : Raised) : Option Cause :=
  let mk (code : Nat) (i : Nat) : Option Cause := some { code := code, slot := slot, sub := 0, aux := 0, index := i }
  let en (b : Bool) (o : Option Nat) : Option Nat := if b then o else none
  match en (fx.getLsbD 8) r.snan with
  | some i => mk 0x15 i
  | none => match en (qx.getLsbD 10) r.qo with
  | some i => mk 0x17 i
  | none => match en (qx.getLsbD 9) r.qr with
  | some i => mk 0x16 i
  | none => match en (fx.getLsbD 8) r.nv with
  | some i => mk 0x10 i
  | none => match en (fx.getLsbD 9) r.dz with
  | some i => mk 0x11 i
  | none => match en (fx.getLsbD 10) r.of with
  | some i => mk 0x12 i
  | none => match en (fx.getLsbD 11) r.uf with
  | some i => mk 0x13 i
  | none => match en (fx.getLsbD 12) r.nx with
  | some i => mk 0x14 i
  | none => match en (qx.getLsbD 8) r.nr with
  | some i => mk 0x18 i
  | none => none

/-- The bits of FX and QX that an mts can write (R59, R65, R201). -/
def fxWritable : Word := 0x00071F1F
def qxWritable : Word := 0x0000070F

/-- Sets the raised flags in FX and QX and notes the cause they give, with the enables that an mfs of this cycle
would read (R60). -/
def Ctx.raise (c : Ctx) (slot : Nat) (r : Raised) : Ctx :=
  let due := match arithCause c.fx c.qx slot r with | some k => c.due ++ [k] | none => c.due
  { c with fx := c.fx ||| fxBits r, qx := c.qx ||| qxBits r, due := due }

end Sys2Proof.Machine
end

