-- ==== Sys2Proof/Machine/Operands.lean ====
section
/-! DEFINITION. Register operands (R150 to R154, R167, R168): register names, rotation, modifiers, guards, lanes and
the fields of region descriptors. -/

namespace Sys2Proof.Machine

/-! ### Registers -/

/-- R168: the physical register of an architectural s name under WINB. -/
def sPhys (winb : Word) (n : BitVec 6) : BitVec 6 :=
  if n.toNat < 32 then n else BitVec.ofNat 6 (32 + (n.toNat - 32 + winb.toNat % 32) % 32)

/-- R150: an s-register read; s0 reads zero. -/
def Ctx.readPhys (c : Ctx) (p : BitVec 6) : Word := if p = 0 then 0 else c.s[p.toNat]
def Ctx.readS (c : Ctx) (n : BitVec 6) : Word := c.readPhys (sPhys c.winb n)

/-- An a-register named by a field whose upper bits are zero (R150). -/
def Ctx.readA (c : Ctx) (n : Nat) : DWord := c.a[n % 16]'(Nat.mod_lt n (by decide))

/-- R150: g0 reads true. -/
def Ctx.readG (c : Ctx) (n : Nat) : Bool :=
  if n % 8 = 0 then true else c.g[n % 8]'(Nat.mod_lt n (by decide))

def Ctx.readQ (c : Ctx) (n : BitVec 3) : Quire := c.q[n.toNat]
def Ctx.readD (c : Ctx) (n : BitVec 5) : DescWord := c.d[n.toNat]
def Ctx.readM (c : Ctx) (n : BitVec 6) : Word := c.m[n.toNat]

/-- R152: a guard holds. -/
def Ctx.guard (c : Ctx) (gi : BitVec 3) (gn : BitVec 1) : Bool :=
  if gn = 0 then c.readG gi.toNat else !(c.readG gi.toNat)

/-- R151: a modifier applied to a 32-bit operand. -/
def modify (m : BitVec 3) (x : Word) : Word :=
  let b (k : Nat) : BitVec 8 := x.extractLsb' (8 * k) 8
  match m.toNat with
  | 0 => x
  | 1 => b 1 ++ b 0 ++ b 1 ++ b 0
  | 2 => b 3 ++ b 2 ++ b 3 ++ b 2
  | 3 => b 1 ++ b 0 ++ b 3 ++ b 2
  | 4 => b 0 ++ b 1 ++ b 2 ++ b 3
  | 5 => b 2 ++ b 3 ++ b 0 ++ b 1
  | 6 => b 0 ++ b 0 ++ b 0 ++ b 0
  | _ => b 3 ++ b 3 ++ b 3 ++ b 3

/-- OpA and OpB of R167. -/
def Ctx.opA (c : Ctx) (f : RForm) : Word := modify f.ma (c.readS f.a)
def Ctx.opB (c : Ctx) (f : RForm) : Word := modify f.mb (c.readS f.b)
def Ctx.opAI (c : Ctx) (f : IForm) : Word := modify f.ma (c.readS f.a)

/-- Applies a function of the lane width and two lanes to every lane of two words (R167). -/
def laneMap2 (sh : BitVec 2) (fn : Nat → Nat → Nat → Nat) (x y : Word) : Word :=
  let n := laneWidth sh
  BitVec.ofNat 32 (packLanes n ((List.range (laneCount sh)).map fun i => fn n (laneOf n x.toNat i) (laneOf n y.toNat i)))

/-- An unsigned or signed view of an a-register address plus an immediate, modulo 2^64 (R182). -/
def addrPlus (base : DWord) (imm : Int) : DWord := base + BitVec.ofInt 64 imm

/-! ### Region descriptors (R153, R154) -/

def descBase (d : Nat) : Nat := bitsOf d 23 0
def descStride (d : Nat) : Int := sext (bitsOf d 43 24) 20
def descCount (d : Nat) : Nat := bitsOf d 59 44
def descFmtCode (d : Nat) : Nat := bitsOf d 65 60
def descEs (d : Nat) : Nat := bitsOf d 67 66
def descLayout (d : Nat) : Nat := bitsOf d 71 68
def descRowsField (d : Nat) : Nat := bitsOf d 87 72
def descRstride (d : Nat) : Int := sext (bitsOf d 111 88) 24
/-- Nr of R206. -/
def descRows (d : Nat) : Nat := max (descRowsField d) 1
/-- The format; a descriptor that passed R154 has one. -/
def descFmt (d : Nat) : Fmt := (fmtOf (descFmtCode d)).getD (.int true 8)
/-- Nv of R206: values in one row. -/
def descVals (d : Nat) : Nat := descCount d * (descFmt d).valsPerElem

/-- What R154 finds in a descriptor. -/
inductive DescCheck where
  | ok | illegal | misaligned
  deriving DecidableEq, Repr

/-- R154: the checks an instruction makes of a descriptor it uses. -/
def descCheck (d : Nat) : DescCheck :=
  match fmtOf (descFmtCode d) with
  | none => .illegal
  | some f =>
    if d >>> 112 != 0 || !esValid f (descEs d) then .illegal
    else
      let z := f.elemBytes
      if !f.isBlk && 2 ≤ z && (descBase d % z != 0 || descStride d % z != 0 || descRstride d % z != 0) then .misaligned
      else .ok

/-- R34: the interval a descriptor covers; none with COUNT = 0. -/
def descIv (d : Nat) : Option Iv :=
  if descCount d = 0 then none
  else
    let k : Int := descStride d * (descCount d - 1 : Nat)
    let r : Int := descRstride d * (descRows d - 1 : Nat)
    let b : Int := descBase d
    some { lo := b + min 0 k + min 0 r, hi := b + max 0 k + max 0 r + (descFmt d).elemBytes - 1 }

/-- R332: the permutation of a row's indices under a LAYOUT. -/
def layoutPerm (layout row k ne : Nat) : Nat :=
  if layout = 0 then k
  else if layout = 15 then ne - 1 - k
  else
    let c := if layout ≤ 7 then layout - 1 else layout - 8
    if ne >>> (c + 3) ≤ k >>> (c + 3) then k
    else if layout ≤ 7 then k ^^^ ((row % 8) <<< c)
    else
      let j := bitsOf k (c + 2) c
      k - (j <<< c) + (((j + row) % 8) <<< c)

/-- R332: the address of descriptor element k of a row, as a signed integer (R154). -/
def elemAddr (d row k : Nat) : Int :=
  (descBase d : Int) + descRstride d * row + descStride d * layoutPerm (descLayout d) row k (descCount d)

/-- Interval overlap (R34). -/
def Iv.overlaps (a b : Iv) : Bool := decide (a.lo ≤ b.hi) && decide (b.lo ≤ a.hi)
def Iv.within (a b : Iv) : Bool := decide (b.lo ≤ a.lo) && decide (a.hi ≤ b.hi)

/-- R36: every byte of an interval lies in some interval of the sets given. -/
def ivCovered : Nat → Iv → List Iv → Bool
  | 0, a, l => l.any fun b => a.within b
  | n + 1, a, l =>
    l.any (fun b => a.within b) ||
    (match l.find? (fun b => decide (b.lo ≤ a.lo) && decide (a.lo ≤ b.hi)) with
     | some b => ivCovered n { a with lo := b.hi + 1 } l
     | none => false)

/-- The read or write set of an engine (R33). -/
def Footprint.readSet (f : Footprint) (e : Nat) : List Iv := f.reads.getD e []
def Footprint.writeSet (f : Footprint) (e : Nat) : List Iv := f.writes.getD e []

/-- R36: a read must lie within R(e) or W(e), a write within W(e). -/
def Footprint.allows (f : Footprint) (e : Nat) (write : Bool) (a : Iv) : Bool :=
  let sets := if write then f.writeSet e else f.readSet e ++ f.writeSet e
  ivCovered sets.length a sets

end Sys2Proof.Machine
end

