-- ==== Sys2Proof/Machine/Ops.lean ====
section
/-! DEFINITION. The named operations over memory, registers, rooms and cores, and the one operation that takes a
trap (R159, R378 to R382) with the return from one beside it (R379, R384, R305). -/

namespace Sys2Proof.Machine

/-! ### Byte stores (scratchpad R15, R23; global memory R106) -/

/-- One byte of a store; an unlisted address reads zero. -/
def Memory.get : List Host.Cell → Nat → Byte
  | [], _ => 0
  | (b, w) :: m, a => if b = a then w else Memory.get m a

/-- Writes one byte and keeps the canonical form: addresses strictly rising and no zero listed. -/
def Memory.put : List Host.Cell → Nat → Byte → List Host.Cell
  | [], a, v => if v = 0 then [] else [(a, v)]
  | (b, w) :: m, a, v =>
    if a < b then (if v = 0 then (b, w) :: m else (a, v) :: (b, w) :: m)
    else if a = b then (if v = 0 then m else (a, v) :: m)
    else (b, w) :: Memory.put m a v

/-- Every address of the store is above a, addresses rise strictly, and no byte listed is zero. -/
def Memory.wfFrom : Nat → List Host.Cell → Bool
  | _, [] => true
  | lo, (a, v) :: m => decide (lo ≤ a) && v != 0 && Memory.wfFrom (a + 1) m

/-- The canonical form of a store. -/
def Memory.wf (m : List Host.Cell) : Bool := Memory.wfFrom 0 m

def Memory.putAll (m : List Host.Cell) (cells : List Host.Cell) : List Host.Cell :=
  cells.foldl (fun m c => Memory.put m c.1 c.2) m

/-- n bytes from address a upward. -/
def Memory.read (m : List Host.Cell) (a n : Nat) : List Byte :=
  (List.range n).map fun i => Memory.get m (a + i)

/-- The cells of a byte list at address a. -/
def cellsAt (a : Nat) : List Byte → List Host.Cell
  | [] => []
  | b :: bs => (a, b) :: cellsAt (a + 1) bs

/-- n bytes as a little-endian natural (R51). -/
def Memory.readNat (m : List Host.Cell) (a n : Nat) : Nat := fromBytes (Memory.read m a n)

/-! ### The local store of a room -/

def Room.spSize (r : Room) : Nat := r.spsize.toNat % 2 ^ 25

/-- R94: bank (8·group + bank) and row of a room address. -/
def Room.bankOf (r : Room) (a : Nat) : Nat × Nat :=
  let q := r.spSize / 4
  let g := if q = 0 then 0 else a / q
  let o := if q = 0 then a else a % q
  let p := r.pg.getD g 0 + o
  (8 * (g % 4) + (p >>> 6) % 8, p >>> 9)

/-- R94: the bank group of a room address. -/
def Room.groupOf (r : Room) (a : Nat) : Nat := if r.spSize / 4 = 0 then 0 else a / (r.spSize / 4)

/-- R36, R23: whether an interval lies in the partition. -/
def Room.inPartition (r : Room) (a : Iv) : Bool := decide (0 ≤ a.lo) && decide (a.hi < r.spSize)

/-- R23, R36: an engine may access an interval of the partition. -/
def Room.mayAccess (r : Room) (engine : Nat) (write : Bool) (a : Iv) : Bool :=
  r.inPartition a && r.ctx.footprint.allows engine write a

/-- The window that holds a scratchpad byte (R104). -/
def Room.windowAt (r : Room) (a : Nat) : Option Window :=
  r.windows.find? fun w => decide (w.base ≤ a) && decide (a < w.base + w.len)

/-- R105: the first line of a range that is in a window and not resident. -/
def Room.missOf (r : Room) (addrs : List Nat) : Option Miss :=
  addrs.findSome? fun a => match r.windowAt a with
    | some w =>
      let line := (a - w.base) / 256
      if w.resident.contains line then none else some (.window w.num line)
    | none => none

/-- R105: marks bytes that the room wrote in a window region. -/
def Room.markWritten (r : Room) (addrs : List Nat) : Room :=
  if r.windows.isEmpty then r
  else
    { r with windows := r.windows.map fun w =>
        let hit := addrs.filter fun a => decide (w.base ≤ a) && decide (a < w.base + w.len) && !w.written.contains a
        { w with written := hit ++ w.written } }

/-- R396: notes the watchpoints that an access to some bytes fires. -/
def Room.watchHits (r : Room) (slot : Nat) (write : Bool) (addrs : List Nat) : Room :=
  if r.watch.isEmpty then r
  else
    let hits := r.watch.filterMap fun w =>
      let kindOk := match w.2.2.2 with | .reads => !write | .writes => write | .both => true
      match addrs.find? (fun a => decide (w.2.1 ≤ a) && decide (a < w.2.1 + w.2.2.1)) with
      | some a =>
        if kindOk then some ({ code := 0x29, slot := slot, sub := 0, aux := w.1, index := a - w.2.1 } : Cause) else none
      | none => none
    { r with ctx.due := r.ctx.due ++ hits.filter fun c => !r.ctx.due.contains c }

/-- R96: the collision of an access with one made or held by another. -/
def portClash (u p : PortUse) : Bool :=
  p.bank == u.bank && !(p.read && u.read && !p.hold && !u.hold && p.word == u.word)

/-- R96, R381: BANK_CONFLICT of the access that does not take place. -/
def bankConflict (u p : PortUse) : Cause :=
  { code := 0x04, slot := u.slot, sub := 0, aux := u.bank + 256 * p.slot, index := 0 }

/-- Makes one engine-port access, or notes its collision (R96). The accesses of an operation that has lost one collide
only with those of other operations (R213, log 31), and with its own hold (R235). -/
def Room.claim (r : Room) (lost : Bool) (u : PortUse) : Room × Bool :=
  match r.ports.find? (fun p => portClash u p && !(lost && !p.hold && p.slot == u.slot && p.c0 == u.c0)) with
  | some p =>
    let c := bankConflict u p
    (if r.ctx.due.contains c then r else { r with ctx.due := r.ctx.due ++ [c] }, false)
  | none => (if r.ports.contains u then r else { r with ports := u :: r.ports }, true)

/-- The 64 B words that byte addresses touch, each once, in order. -/
def wordsOf (addrs : List Nat) : List Nat :=
  addrs.foldl (fun l a => if l.contains (a / 64) then l else l ++ [a / 64]) []

/-- One operation's engine-port accesses to the words of some bytes; false when any did not take place. Also looks
for lines that are not resident and for watchpoints. `lost` says that the operation has lost an access before. -/
def Room.engAccess (r : Room) (slot c0 : Nat) (lost write : Bool) (addrs : List Nat) : Room × Bool :=
  let r1 := match r.miss with
    | some _ => r
    | none => { r with miss := r.missOf addrs }
  let x := (wordsOf addrs).foldl
    (fun (acc : Room × List Nat) w =>
      let b := acc.1.bankOf (64 * w)
      let x := acc.1.claim lost { bank := b.1, word := b.2, read := !write, slot := slot, hold := false, c0 := c0 }
      (x.1, if x.2 then acc.2 else w :: acc.2)) (r1, [])
  (x.1.watchHits slot write (addrs.filter fun a => !x.2.contains (a / 64)), x.2.isEmpty)

/-- Holds every bank of the groups given; false when another access is already there (R235, R245). -/
def Room.holdGroups (r : Room) (slot c0 : Nat) (groups : List Nat) : Room × Bool :=
  (groups.eraseDups.flatMap fun g => (List.range 8).map fun b => 8 * g + b).foldl
    (fun (acc : Room × Bool) b =>
      let u : PortUse := { bank := b, word := 0, read := false, slot := slot, hold := true, c0 := c0 }
      match acc.1.ports.find? (portClash u) with
      | some p =>
        let c := bankConflict u p
        ({ acc.1 with
            ctx.due := if acc.2 && !acc.1.ctx.due.contains c then acc.1.ctx.due ++ [c] else acc.1.ctx.due
            ports := u :: acc.1.ports }, false)
      | none => ({ acc.1 with ports := u :: acc.1.ports }, acc.2)) (r, true)

/-! ### Error check of the scratchpad (R97, R99) -/

/-- What the decoder of R97 makes of a codeword: good, corrected or rebuilt, uncorrectable, or taken for another codeword,
with the bits in which each bank's symbol then differs from the one stored, the banks whose symbols the decoder corrects, and
whether that is counted as corrected. -/
inductive Ecc where
  | good | corrected | bad
  | other (delta : List (Nat × Nat)) (changed : List Nat) (counted : Bool)
  deriving DecidableEq, Repr

/-- The symbols of a codeword in error in banks in service: bank and wrong bits. -/
def Core.erring (c : Core) (row pos : Nat) : List (Nat × Nat) :=
  (c.errors.filter fun x => x.1 == row && x.2.1 == pos && !c.failed.contains x.2.2.1).map fun x => (x.2.2.1, x.2.2.2.toNat)

/-- The banks in service whose symbol of a codeword is in error. -/
def Core.wrong (c : Core) (row pos : Nat) : List Nat := (c.erring row pos).map Prod.fst

/-- R97: x^8 + x^4 + x^3 + x^2 + 1. -/
def rsPoly : Nat := 0x11D

/-- α^n in the field of R97. -/
def rsAlpha : Nat → Nat
  | 0 => 1
  | n + 1 => gfMul rsPoly 2 (rsAlpha n)

/-- The n first picks from a list that a number makes, each place once. -/
def picks : Nat → Nat → List Nat → List Nat
  | 0, _, _ => []
  | n + 1, x, l =>
    let p := l.getD (x % l.length) 0
    p :: picks n (x / l.length) (l.erase p)

/-- The degree of each bank's symbol in the codeword of R97; the rule names no order (log 21). -/
def symbolDegree (bank : Nat) : Nat := (picks 36 Config.symbolOrder (List.range 36)).getD bank 0

/-- The value of a pattern of symbols at the root α^j of the generator (R97). -/
def syndrome (e : List (Nat × Nat)) (j : Nat) : Nat :=
  e.foldl (fun acc x => acc ^^^ gfMul rsPoly x.2 (rsAlpha (j * symbolDegree x.1))) 0

/-- The symbols that two banks must have for a pattern to become a codeword, if that can be (R97). -/
def pairFits (syn : List Nat) (a b : Nat) : Option (List (Nat × Nat)) :=
  let at_ (j : Nat) : Nat := syn.getD j 0
  let x := rsAlpha (symbolDegree a)
  let y := rsAlpha (symbolDegree b)
  let v := gfMul rsPoly (at_ 1 ^^^ gfMul rsPoly x (at_ 0)) (gfInv rsPoly (x ^^^ y))
  let u := at_ 0 ^^^ v
  let l := [(a, u), (b, v)]
  if (List.range 4).all fun j => syndrome l j == at_ j then some (l.filter fun z => z.2 != 0) else none

/-- R97: three or more symbols in error: another codeword that the decoder reaches by changing the failed banks' symbols and
as many others as its row allows, or none. -/
def Core.eccFar (c : Core) (row pos : Nat) : Ecc :=
  let e := c.erring row pos
  let syn := (List.range 4).map (syndrome e)
  let pairs : List (Nat × Nat) := match c.failed with
    | [] => (List.range 36).flatMap fun b => (List.range b).map fun a => (a, b)
    | [f] => ((List.range 36).filter fun b => b != f).map fun b => (f, b)
    | [f, g] => [(f, g)]
    | _ => []
  match pairs.findSome? fun p => pairFits syn p.1 p.2 with
  | none => .bad
  | some v =>
    let bits (l : List (Nat × Nat)) (b : Nat) : Nat := ((l.find? fun x => x.1 == b).map Prod.snd).getD 0
    .other (((e ++ v).map Prod.fst).eraseDups.map fun b => (b, bits e b ^^^ bits v b))
      ((v.map Prod.fst).filter fun b => !c.failed.contains b) (decide (c.failed.length < 2))

/-- R97: the outcome for byte position `pos` of row `row`. -/
def Core.eccOf (c : Core) (row pos : Nat) : Ecc :=
  let e := (c.wrong row pos).length
  match c.failed.length with
  | 0 => if e = 0 then .good else if e ≤ 2 then .corrected else c.eccFar row pos
  | 1 => if e = 0 then .good else if e ≤ 1 then .corrected else if e = 2 then .bad else c.eccFar row pos
  | 2 => if e = 0 then .good else if e ≤ 2 then .bad else c.eccFar row pos
  | _ => .bad

/-- R97: the banks whose symbol of a codeword the decoder corrects. -/
def Core.mended (c : Core) (row pos : Nat) : List Nat :=
  match c.eccOf row pos with
  | .other _ l _ => l
  | _ => c.wrong row pos

/-- No codeword of the core is in error, and no read is uncorrectable for its failed banks alone (R97). -/
def Core.clean (k : Core) : Bool := k.errors.isEmpty && decide (k.failed.length < 3)

/-- R94: the room address of a byte of a bank, when the room's partition holds it. -/
def Room.addrOf (r : Room) (bank row pos : Nat) : Option Nat :=
  let q := r.spSize / 4
  let p := row * 512 + bank % 8 * 64 + pos
  let base := r.pg.getD (bank / 8) 0
  if base ≤ p && p < base + q then some (bank / 8 * q + (p - base)) else none

/-- The bytes of one codeword as a read delivers them (R97): those of another codeword where the decoder reaches one. -/
def Room.seenWord (r : Room) (k : Core) (m : List Host.Cell) (row pos : Nat) : List Host.Cell :=
  match k.eccOf row pos with
  | .other l _ _ => l.foldl (fun m x =>
      match (if x.1 < 32 then r.addrOf x.1 row pos else none) with
      | some a => Memory.put m a (Memory.get m a ^^^ BitVec.ofNat 8 x.2)
      | none => m) m
  | _ => m

/-- The room with its scratchpad as reads through the check deliver it (R97). -/
def Room.seen (r : Room) (k : Core) : Room :=
  if k.errors.isEmpty then r
  else
    { r with scratch := ((k.errors.map fun x => (x.1, x.2.1)).eraseDups).foldl (fun m x => r.seenWord k m x.1 x.2) r.scratch }

/-- R99: whole 64 B words written, by row and bank: their data, and the check symbols of their codewords, are fresh. -/
def Core.healed (k : Core) (places : List (Nat × Nat)) : Core :=
  { k with errors := k.errors.filter fun x => !places.any fun p => p.1 == x.1 && (p.2 == x.2.2.1 || decide (32 ≤ x.2.2.1)) }

/-- A byte of the partition is uncorrectable (R97). -/
def Room.byteBad (r : Room) (k : Core) (a : Nat) : Bool := !k.clean && k.eccOf (r.bankOf a).2 (a % 64) == .bad

/-- Reads bytes of the partition through the check: their contents, and whether any was uncorrectable. -/
def Room.readChecked (r : Room) (k : Core) (addrs : List Nat) : Room × List Byte × Bool :=
  let bytes := addrs.map fun a => Memory.get (r.seen k).scratch a
  if k.clean then (r, bytes, false)
  else
    let hits := addrs.map fun a =>
      let b := r.bankOf a
      (b.2, a % 64, k.eccOf b.2 (a % 64))
    let bad := hits.any fun h => h.2.2 == .bad
    let noted := hits.filterMap fun h => match h.2.2 with
      | .bad => some (h.1, h.2.1, true)
      | .corrected | .other _ _ true => some (h.1, h.2.1, false)
      | .good | .other _ _ false => none
    ({ r with eccHits := r.eccHits ++ noted, ctx.poison := r.ctx.poison || bad }, bytes, bad)

/-! ### Landings (R157, R158, R168) -/

/-- R158: two landings on the same s-, a-, g- or m-register. -/
def sameReg (x y : LandVal) : Bool :=
  match x, y with
  | .s p _, .s p' _ => p == p'
  | .a n _, .a n' _ => n == n'
  | .g n _, .g n' _ => n == n'
  | .mSet n _, .mSet n' _ => n == n'
  | .mSet n _, .mAdd n' _ => n == n'
  | .mAdd n _, .mSet n' _ => n == n'
  | .mAdd n _, .mAdd n' _ => n == n'
  | _, _ => false

/-- R168: landings on s0 and g0 are discarded and count as none. -/
def discarded (v : LandVal) : Bool :=
  match v with | .s p _ => p == 0 | .g n _ => n == 0 | _ => false

def cause (code slot : Nat) : Cause := { code := code, slot := slot, sub := 0, aux := 0, index := 0 }
def illegal (slot : Nat) : Cause := cause 0x01 slot
def busy (slot : Nat) : Cause := cause 0x03 slot
def misaligned (slot : Nat) : Cause := cause 0x07 slot
def escapes (slot : Nat) : Cause := cause 0x09 slot
def atticOut (slot : Nat) : Cause := cause 0x0A slot

/-- LandAt(ic + L, reg, value) with the flags raised; SLOT_BUSY when another landing on the register falls in the
same cycle (R157, R158). -/
def Ctx.landAt (c : Ctx) (slot lat : Nat) (v : LandVal) (r : Raised) : Except Cause Ctx :=
  if discarded v then
    if r = Raised.none then .ok c
    else .ok { c with landings := c.landings ++ [{ due := c.ic + lat, val := .flagsOnly, slot := slot, raised := r,
                                                   escape := none }] }
  else if c.landings.any (fun l => l.due == c.ic + lat && sameReg l.val v) then .error (busy slot)
  else .ok { c with landings := c.landings ++ [{ due := c.ic + lat, val := v, slot := slot, raised := r,
                                                 escape := none }] }

/-- Writes the cells of an overflow line, addressed by their offset in the overflow area (R101). -/
def OvLine.store (l : OvLine) (cells : List Host.Cell) : OvLine :=
  let mine := cells.filter fun c => c.1 / 256 == l.num
  if mine.isEmpty then l
  else { l with bytes := mine.foldl (fun bs c => bs.set (c.1 % 256) c.2) l.bytes, dirty := true }

/-- The tile bound at a head. -/
def Room.tile? (r : Room) (h : Nat) : Option Tile := r.tiles.find? fun t => t.head == h

/-- Replaces or binds a tile. -/
def Room.setTile (r : Room) (t : Tile) : Room :=
  if r.tiles.any fun x => x.head == t.head then { r with tiles := mapIf (fun x => x.head == t.head) (fun _ => t) r.tiles }
  else { r with tiles := r.tiles ++ [t] }

/-- R243: the landing of a tile's writer, which a writer issued after it, landed already, has replaced. -/
def Room.landTile (r : Room) (t : Tile) : Room :=
  match r.tile? t.head with
  | some x => if x.issued ≤ t.issued then r.setTile t else r
  | none => r.setTile t

/-- Makes one landing in a room (R157, R183, R211, R243). -/
def Room.land (r : Room) (l : Landing) : Room :=
  let r1 : Room := match l.val with
    | .s p v => { r with ctx.s := r.ctx.s.set p.toNat v }
    | .a n v => { r with ctx.a := r.ctx.a.set n.toNat v }
    | .g n v => { r with ctx.g := r.ctx.g.set n.toNat v }
    | .q n v => { r with ctx.q := r.ctx.q.set n.toNat v }
    | .d n v => { r with ctx.d := r.ctx.d.set n.toNat v }
    | .mSet n v => { r with ctx.m := r.ctx.m.set n.toNat v }
    | .mAdd n v => { r with ctx.m := r.ctx.m.set n.toNat (r.ctx.m[n.toNat] + v) }
    | .bytes cells => { (r.markWritten (cells.map Prod.fst)) with scratch := Memory.putAll r.scratch cells }
    | .store cells => { (r.markWritten (cells.map Prod.fst)) with scratch := Memory.putAll r.scratch cells }
    | .overflow cells => { r with overflow := r.overflow.map fun l => l.store cells }
    | .sill w cells => { r with sills := modAt (fun m => Memory.putAll m cells) w.toNat r.sills }
    | .tile t => r.landTile t
    | .flagsOnly => r
  let r2 : Room := if l.raised = Raised.none then r1 else { r1 with ctx := r1.ctx.raise l.slot l.raised }
  match l.escape with
  | some i => { r2 with ctx.due := r2.ctx.due ++ [{ code := 0x09, slot := l.slot, sub := 0, aux := 0, index := i }] }
  | none => r2

/-- Makes every landing due in the current issue cycle, in the order of issue (R157). -/
def Room.landDue (r : Room) : Room :=
  let now := r.ctx.landings.filter fun l => decide (l.due ≤ r.ctx.ic)
  let later := r.ctx.landings.filter fun l => !decide (l.due ≤ r.ctx.ic)
  now.foldl Room.land { r with ctx.landings := later }

/-- R95: bytes written on the engine port in the cycle that ends, but for those that `qst` wrote on the canal port. -/
def Landing.without (ic : Nat) (canal : List Nat) (l : Landing) : Landing :=
  match l.val with
  | .bytes cells => if l.due ≤ ic then { l with val := .bytes (cells.filter fun c => !canal.contains c.1) } else l
  | _ => l

/-- Makes the stores of the cycle that ends (R183, R262): they are no latches (R378). -/
def Room.landStores (r : Room) : Room :=
  let isStore (l : Landing) : Bool := match l.val with | .store _ => true | .overflow _ => true | _ => false
  let now := r.ctx.landings.filter isStore
  if now.isEmpty then r
  else
    let canal := now.flatMap fun l => match l.val with | .store cells => if l.slot = 3 then cells.map Prod.fst else [] | _ => []
    let rest := r.ctx.landings.filter fun l => !isStore l
    now.foldl Room.land
      { r with ctx.landings := if canal.isEmpty then rest else rest.map (Landing.without r.ctx.ic canal) }

/-! ### Rooms and cores of the package -/

def State.rooms (s : State) : List Room := (s.me :: s.others).filter fun r => r.life != .absent

def State.room? (s : State) (id : RoomId) : Option Room := s.rooms.find? fun r => r.id == id

/-- Changes one room in place. -/
def State.onRoom (s : State) (id : RoomId) (f : Room → Room) : State :=
  if s.me.id = id && s.me.life != .absent then { s with me := f s.me }
  else { s with others := mapIf (fun r => r.id == id && r.life != .absent) f s.others }

def State.onRooms (s : State) (p : Room → Bool) (f : Room → Room) : State :=
  { s with me := if s.me.life != .absent && p s.me then f s.me else s.me,
           others := mapIf (fun r => r.life != .absent && p r) f s.others }

/-- Gives the room named the issue turn. -/
def State.focus (s : State) (id : RoomId) : State :=
  if s.me.id = id && s.me.life != .absent then s
  else
    match s.others.find? (fun r => r.id == id && r.life != .absent) with
    | some r =>
      let rest := s.others.filter fun r => r.id != id
      { s with me := r, others := if s.me.life = .absent then rest else s.me :: rest }
    | none => s

def State.core? (s : State) (n : Nat) : Option Core := s.cores.find? fun k => k.num == n
/-- The core of the room with the issue turn; a core at reset when the package has no such core. -/
def State.coreOf (s : State) (n : Nat) : Core := (s.core? n).getD (Core.atReset n)
def State.onCore (s : State) (n : Nat) (f : Core → Core) : State :=
  { s with cores := mapIf (fun k => k.num == n) f s.cores }

/-- Floor of a core of the package (R3). -/
def floorOf (core : Nat) : Nat := core % 128 / 32
/-- Distance of a core's package: 0 for this one. -/
def pkgOf (core : Nat) : Nat := core / 128
/-- The number of a package at a distance from this one (R420). -/
def State.pkgNo (s : State) (dist : Nat) : Nat := (s.routing.self + dist) % 512
/-- The route fixed between two packages given by their distances (R420). -/
def State.route? (s : State) (a b : Nat) : Option (List Nat) :=
  (s.routing.routes.find? fun x => x.1 == s.pkgNo a && x.2.1 == s.pkgNo b).map fun x => x.2.2

/-! ### Counters and events -/

def assocGet (l : List (Nat × Nat)) (k dflt : Nat) : Nat :=
  match l.find? (fun x => x.1 == k) with | some x => x.2 | none => dflt

def assocSet (l : List (Nat × Nat)) (k v : Nat) : List (Nat × Nat) :=
  if l.any (fun x => x.1 == k) then l.map (fun x => if x.1 == k then (k, v) else x) else l ++ [(k, v)]

/-- R427: adds to a counter, saturating at 2^64 − 1. -/
def State.count (s : State) (num k : Nat) : State :=
  if k = 0 then s
  else { s with counters := assocSet s.counters num (min (assocGet s.counters num 0 + k) (2 ^ 64 - 1)) }

/-- R427: a counter number. -/
def counterNo (die unit index : Nat) : Nat := die * 2 ^ 16 + unit * 2 ^ 8 + index
/-- The counters of another package's cores are none of this one's: their numbers lie above those of R427. -/
def coreCounter (core index : Nat) : Nat := counterNo (core / 128 * 16 + core % 128 / 32) (core % 32) index
def hallCounter (index : Nat) : Nat := counterNo 4 0xFF index

/-- R416: a record written into the next slot of the ring, and then the producer index into the 8 B that follow it. -/
def State.writeRing (s : State) (r : EventRing) (e : Event) : State :=
  let to_ (off : Nat) (d : RingData) : RingWrite := { qp := r.qp, rkey := r.rkey, addr := r.addr + off, data := d }
  { s with events := s.events ++ [e]
           ring := some { r with prod := r.prod + 1 }
           ringWrites := s.ringWrites ++ [to_ (64 * (r.prod % 2 ^ r.log2)) (.record e), to_ (64 * 2 ^ r.log2) (.index (r.prod + 1))] }

/-- R416: a slot of the ring is free. -/
def EventRing.free (r : EventRing) : Bool := decide (r.prod - r.cons < 2 ^ r.log2)

/-- R416: the OVERFLOW event with the count of the events lost, as soon as a slot is free. -/
def State.postLost (s : State) : State :=
  match s.ring with
  | some r => if r.free && decide (0 < r.lost) then s.writeRing { r with lost := 0 } (.overflow r.lost) else s
  | none => s

/-- R416: posts an event, after the OVERFLOW event that is due; a full ring, or none, counts it in EVQ_LOST. -/
def State.post (s : State) (e : Event) : State :=
  let s1 := s.postLost
  match s1.ring with
  | none => s1.count (hallCounter 0x30) 1
  | some r =>
    if r.free then s1.writeRing r e
    else { s1.count (hallCounter 0x30) 1 with ring := some { r with lost := r.lost + 1 } }

/-! ### The shadow latches (R378) -/

/-- What an operation in flight still has to form: a q-register, a tile, or a sill (R83, R243, R378). -/
inductive Target where
  | q (n : BitVec 3)
  | tile (h : Nat)
  | sill (w : BitVec 2)
  deriving DecidableEq, Repr

/-- The target of an operation in flight. -/
def Flight.target (f : Flight) : Option Target :=
  match f.op with
  | .vsum g => some (.q g.qd)
  | .vdot g => some (.q g.qd)
  | .msill g => some (.sill g.w)
  | .msplit g => some (.sill g.w)
  | _ => f.tile.map fun t => .tile t.head

/-- The last beat or cycle has run: what the operation lands is formed. -/
def Flight.formed (f : Flight) : Bool := decide (max 1 f.occ ≤ f.next)

/-- Whether a landing writes a target. -/
def LandVal.hits (v : LandVal) (x : Target) : Bool :=
  match v, x with
  | .q n _, .q m => n == m
  | .sill w _, .sill w' => w == w'
  | .tile t, .tile h => t.head == h
  | _, _ => false

/-- R83, R243, R379: a target is pending from the issue of an operation that writes it up to its landing; what is set
aside in handler mode stays pending. -/
def Room.pends (r : Room) (x : Target) : Bool :=
  (r.ctx.flights.any fun f => f.target == some x) ||
  (r.ctx.landings.any fun l => decide (r.ctx.ic < l.due) && l.val.hits x) ||
  (match r.aside with
   | some a => (a.flights.any fun f => f.target == some x) || (a.landings.any fun l => l.val.hits x)
   | none => false)

/-- At a stop every result still in flight becomes a shadow latch: the issue cycles in which they land, and whether a V
or M operation makes them. -/
def Room.latchAll (r : Room) : Room :=
  let c := r.ctx
  { r with ctx.latchDue :=
      (c.landings.filterMap fun l => if l.val = .flagsOnly then none else some (l.due, l.slot == 2 || l.slot == 3)) ++
      c.redirects.map (fun x => (x.due, false)) ++
      c.flights.flatMap (fun f => (if f.target.isSome && !f.formed then [(f.c0 + f.lat, true)] else []) ++
        f.writes.map fun w => (w.cycle + 1, true)) }

/-- R379, R385: the latches not yet delivered: at a stop also those that land in the next cycle; in handler mode none
set aside is. -/
def Room.pendLatches (r : Room) : Nat :=
  (r.ctx.latchDue.filter fun n => decide (r.ctx.ic < n.1) || (r.stop != .none && n.1 == r.ctx.ic)).length +
  (match r.aside with | some a => (a.latchDue.filter fun n => decide (a.ic ≤ n.1)).length | none => 0)

/-- The writer of each tile (R243). -/
def Room.marks (r : Room) : List (Nat × Nat) := r.tiles.map fun t => (t.head, t.issued)

/-- The tiles with their writers as they stood at a mark: what was written since then is older than any writer that comes back
(R337, R384). -/
def marked (marks : List (Nat × Nat)) (l : List Tile) : List Tile :=
  l.map fun t => { t with issued := ((marks.find? fun m => m.1 == t.head).map Prod.snd).getD 0 }

/-- R374: the phase snapshot, as a trap at this boundary would save it. -/
def Room.takeSnap (r : Room) : Room :=
  let y := r.latchAll
  { y with snapDue := false, snap := some y.ctx, snapAside := y.aside, snapTiles := y.marks }

/-! ### The room switch (R21) -/

/-- R287: the condition of a held swait. -/
def Ctx.waitHolds (c : Ctx) : Bool :=
  match c.wait with
  | .swait m v _ => decide (v ≤ c.m[m.toNat])
  | _ => false

/-- R21: a room is ready unless it waits for a condition that does not hold, or its context is away; a frozen or
halted room is never ready. -/
def Room.ready (r : Room) : Bool :=
  r.life == .running &&
  (match r.stop with | .none => true | .hold _ => true | _ => false) &&
  (match r.ctx.wait with
   | .none => true | .twait _ => true | .dbar _ _ => false
   | .swait _ _ _ => r.ctx.waitHolds)

/-- R21: at a switch point the core passes to the next ready room in ascending linear index, wrapping. -/
def State.switch (s : State) (core : Nat) (from_ : Nat) : State :=
  let here := s.rooms.filter fun r => r.core == core && r.ready
  let pick (l : List Room) : Option Room :=
    l.foldl (fun (b : Option Room) r => match b with
      | none => some r
      | some x => if r.id.lin < x.id.lin then some r else some x) none
  let above := pick (here.filter fun r => decide (from_ < r.id.lin))
  let pass (r : Room) : State :=
    let out := (s.coreOf core).resident
    let s1 := match out with
      | some i => if i = r.id then s else s.onRoom i Room.latchAll
      | none => s
    s1.onCore core fun k => { k with resident := some r.id }
  match above with
  | some r => pass r
  | none =>
    match pick here with
    | some r => pass r
    | none => s

/-- R21: a room stops: its core passes on if it was the resident room. -/
def State.leave (s : State) (r : Room) : State :=
  if (s.coreOf r.core).resident = some r.id then s.switch r.core r.id.lin else s

/-- The number of rooms of its team that share the room's core, itself included (R24). -/
def State.sharing (s : State) (r : Room) : Nat :=
  (s.rooms.filter fun x => x.core == r.core && x.id.team == r.id.team &&
    (match x.life with | .running => true | .halting => true | .halted => true | _ => false)).length

/-! ### Taking a trap (R159, R378 to R382) -/

/-- The TRAPC image of a cause (R380). -/
def Cause.word (c : Cause) : DWord :=
  BitVec.ofNat 64 (c.index % 2 ^ 32 * 2 ^ 32 + c.aux % 2 ^ 16 * 2 ^ 16 + c.sub % 16 * 2 ^ 12 + c.slot % 16 * 2 ^ 8 +
    c.code % 256)

/-- R381: fatal causes, and any cause in handler mode. -/
def fatal (c : Cause) (hmode : Bool) : Bool := hmode || c.inHandler || c.code == 0x22 || c.code == 0x23 || c.code == 0x24

/-- R397, R398: a dump of a room begins, or a further fault is noted in the one in progress. -/
def State.startDump (s : State) (id : RoomId) (reason : Nat) (trapc trappc tb : Nat) : State :=
  let again (d : Dump) : Dump :=
    { d with further := (if d.further.length < 8 then d.further ++ [(trapc, trappc, tb)] else d.further)
             nFurther := d.nFurther + 1 }
  if s.dumps.any (fun d => d.room == id) then { s with dumps := mapIf (fun d => d.room == id) again s.dumps }
  else { s with dumps := s.dumps ++ [{ room := id, reason := reason, further := [], nFurther := 0 }] }

/-- R390, R358: entries that were not dispatched are discarded at a violation or a code-integrity stop. -/
def Room.dropQueued (r : Room) : Room :=
  { r with ctx.xq := r.ctx.xq.filter fun e => e.status != .queued }

/-- R431, R432: a trace record of a core, if the core is traced and the record kind is enabled. -/
def State.traceRec (s : State) (core kind bit : Nat) (r : Room) (bundle : DWord) (data : Nat) : State :=
  match s.trace with
  | some t =>
    if t.on && decide (core < 128) && t.args.cores.getLsbD (core % 128) && t.args.options.getLsbD bit then
      let w0 := (r.ctx.ic - r.ctx.phaseStart) % 2 ^ 48 * 2 ^ 16 + core % 128 * 2 ^ 8 + kind
      let w1 := bundle.toNat / 32 * 32 + r.slotNo % 8
      { s with trace := some { t with pending := t.pending ++ [(core, [w0, w1, (s.coreOf core).tb / 2 ^ 16, data])] } }
    else s
  | none => s

/-- R434: writes the matrix-cycle table of a core out as MACCT records, and clears it. -/
def State.flushMacct (s : State) (r : Room) : State :=
  let k := s.coreOf r.core
  let s1 := k.macct.foldl (fun s e => s.traceRec r.core 0x04 9 r e.1 (e.2.1 * 2 ^ 61 + e.2.2)) s
  s1.onCore r.core fun k => { k with macct := [] }

/-- Taking a trap: the room with the issue turn freezes with its cause in TRAPC and its resumption address in TRAPPC;
the event goes to the driver, a fatal cause starts a dump, and the core passes on (R378, R380 to R383, R397, R21). A page
fault that is fatal is told the driver at once (R388). Its pending landings stay as its shadow latches. -/
def State.takeTrap (s : State) (c : Cause) (pc : DWord) : State :=
  let r0 := s.me
  let isFatal := fatal c r0.ctx.hmode
  let r1 := if c.code == 0x23 || c.code == 0x24 then r0.dropQueued else r0
  let r2 : Room := { r1.latchAll with stop := .frozen c, ctx.trapc := c.word, ctx.trappc := pc,
                                      stopTb := (s.coreOf r1.core).tb,
                                      life := if r1.life = .halting then .running else r1.life }
  let s1 : State := { s with me := r2 }
  let s2 := s1.post (.trap r2.id r2.teamid c.word pc)
  let s3 := if isFatal then s2.startDump r2.id 0 c.word.toNat pc.toNat (s.coreOf r2.core).tb else s2
  let s4 := (s3.traceRec r2.core 0x03 11 r2 pc c.word.toNat).flushMacct r2
  let s5 := if isFatal && c.code == 0x20 then s4.post (.page r2.id c.va c.acc c.sub) else s4
  s5.leave r2

/-- R383, R431, R432: the driver learns of a frozen room, whose freeze is traced at a bundle. -/
def State.noteFreeze (s : State) (x : Room) (pc : DWord) : State :=
  ((s.post (.trap x.id x.teamid x.ctx.trapc x.ctx.trappc)).traceRec x.core 0x03 11 x pc x.ctx.trapc.toNat).flushMacct x

/-- R396, R380, R383: a debug stop is a freeze: the resumption address goes to TRAPPC, but for a stop in handler mode, whose
`tret` still needs it (log 52), and the driver learns of it. -/
def State.debugStop (s : State) : State :=
  let r := s.me.latchAll
  let c := r.ctx
  let x : Room := { r with stop := .debug, stepOnce := false, stopTb := (s.coreOf r.core).tb,
                           ctx := { c with trappc := if c.hmode then c.trappc else c.pc } }
  State.leave (State.noteFreeze { s with me := x } x c.pc) x

/-- A room that a fatal cause has frozen (R381). -/
def Room.deadStop (r : Room) : Bool :=
  match r.stop with | .frozen c => fatal c r.ctx.hmode | .fatalPage _ => true | _ => false

/-- A cause found outside the room's own bundles (R382). In a room frozen for good one that is fatal is a further fault of the
dump in progress (R398), and the driver learns of a page fault (R388). -/
def State.foundCause (s : State) (r : RoomId) (k : Cause) : State :=
  match s.room? r with
  | none => s
  | some x =>
    let due := s.onRoom r fun y => { y with ctx.due := y.ctx.due ++ [k] }
    if !x.deadStop then due
    else
      let s1 :=
        if fatal k x.ctx.hmode then
          (if s.dumps.any fun d => d.room == r then s.startDump r 0 k.word.toNat x.ctx.trappc.toNat (s.coreOf x.core).tb else s)
        else due
      if k.code = 0x20 then s1.post (.page r k.va k.acc k.sub) else s1

/-- R382: the order in which causes due at one boundary are taken. -/
def causeRank (c : Cause) : Nat :=
  match c.code with
  | 0x24 => 0 | 0x22 => 1 | 0x23 => 2 | 0x04 => 3
  | 0x15 => 4 | 0x17 => 5 | 0x16 => 6 | 0x10 => 7 | 0x11 => 8 | 0x12 => 9 | 0x13 => 10 | 0x14 => 11 | 0x18 => 12
  | 0x09 => 13 | 0x20 => 14 | 0x21 => 14 | 0x01 => 14 | 0x30 => 15 | 0x29 => 16 | 0x2A => 17
  | _ => 18

/-- The first cause of the least rank. -/
def firstCause (l : List Cause) : Option Cause :=
  l.foldl (fun (b : Option Cause) c => match b with
    | none => some c
    | some x => if causeRank c < causeRank x then some c else some x) none

/-- Removes one occurrence of a cause. -/
def dropCause (c : Cause) : List Cause → List Cause
  | [] => []
  | x :: xs => if x = c then xs else x :: dropCause c xs

/-- R382: takes the first boundary cause due, if any; each is taken exactly once. -/
def State.takeDue (s : State) : State :=
  match firstCause s.me.ctx.due with
  | some c => State.takeTrap { s with me := { s.me with ctx.due := dropCause c s.me.ctx.due } } c s.me.ctx.pc
  | none => s

/-- R159: the rank of an issue cause. -/
def issueRank (c : Cause) : Nat :=
  match c.code with
  | 0x28 => 0 | 0x01 => 1 | 0x23 => 2 | 0x05 => 3 | 0x06 => 4 | 0x03 => 5 | 0x07 => 6 | 0x08 => 7 | 0x09 => 8 | _ => 9

/-- A trap raised at issue: TRAPPC holds the bundle (R159). -/
def State.issueTrap (s : State) (c : Cause) : State := s.takeTrap c s.me.ctx.pc

/-! ### Resuming (R379, R383, R384, R305) -/

/-- REM of REPC (R199). -/
def repRem (r : Word) : Nat := bitsOf r.toNat 31 16

/-- R396: a breakpoint at the pc was taken at this stop, or passed by an earlier iteration of the repeat in progress. -/
def Room.passed (r : Room) : Bool :=
  match r.stop with
  | .frozen c => c.code == 0x28 || (r.bkptPassed && repRem r.ctx.repc != 0)
  | _ => r.bkptPassed

/-- R386: an entry goes on once the cause of its fault has been taken. -/
def XEntry.serviced (due : List Cause) (e : XEntry) : XEntry :=
  match e.fault with
  | some c => if due.contains c then e else { e with fault := none }
  | none => e

/-- The room of the issue turn runs again from TRAPPC (R379); further causes due at the same boundary are taken first
(R382). -/
def Room.unfreeze (r : Room) : Room :=
  { r with stop := .none, ctx.pc := r.ctx.trappc, bkptPassed := r.passed,
           ctx.xq := r.ctx.xq.map (XEntry.serviced r.ctx.due) }

/-- R382, R390: causes that no handler may come before. -/
def Cause.first (c : Cause) : Bool := c.code == 0x22 || c.code == 0x23 || c.code == 0x24

/-- R384: entering handler mode at H: an empty loop stack and no repeat; the room's own are set aside with its
latches. A handler that a debug stop cut short goes on at H with its own latches, and what it set aside stays so (DESIGN CHOICE,
log 80). -/
def Room.enterHandler (r : Room) (h : DWord) : Room :=
  let c := r.ctx
  if r.aside.isSome then
    { r with stop := .none, bkptPassed := false,
             ctx := { c with pc := h, loops := [], repc := 0, repZero := false, repFresh := false, redirects := [] } }
  else
  { r with
    stop := .none
    bkptPassed := false
    aside := some { loops := c.loops, repc := c.repc, repZero := c.repZero, repFresh := c.repFresh,
                    redirects := c.redirects, landings := c.landings, flights := c.flights, vFree := c.vFree,
                    mFree := c.mFree, ic := c.ic, wait := c.wait, due := c.due.filter fun x => !x.first,
                    latchDue := c.latchDue, bkptPassed := r.passed, tileMarks := r.marks }
    ctx := { c with pc := h, loops := [], repc := 0, repZero := false, repFresh := false, redirects := [],
                    landings := [], flights := [], latchDue := [], vFree := 0, mFree := 0, wait := .none,
                    due := c.due.filter Cause.first, hmode := true } }

/-- An issue cycle counted from `old` counted from `new` instead (R379). -/
def recount (old new x : Nat) : Nat := new + (x - old)

def Flight.recount (old new : Nat) (f : Flight) : Flight :=
  { f with c0 := new + f.c0 - old, holdEnd := new + f.holdEnd - old,
           writes := f.writes.map fun w => { w with cycle := new + w.cycle - old } }

/-- R305, R384: the return from a handler: the loop stack, REPC, redirections and latches come back, HMODE clears and
the room stands at TRAPPC; `next` is the issue cycle of the first bundle after the return, from which the remaining
offsets count (R379). A cause that arose in the cycle of the `tret` is taken first, and is fatal (R381, R382). -/
def Room.leaveHandler (r : Room) (next : Nat) : Room :=
  match r.aside with
  | none => r
  | some a =>
    let c := r.ctx
    let mv := recount a.ic next
    let due := (c.due.map fun x => { x with inHandler := true }) ++ a.due
    { r with
      aside := none
      bkptPassed := a.bkptPassed
      tiles := marked a.tileMarks r.tiles
      ctx := { c with pc := c.trappc, loops := a.loops, repc := a.repc, repZero := a.repZero, repFresh := a.repFresh,
                      redirects := a.redirects.map fun x => { x with due := mv x.due },
                      landings := a.landings.map fun l => { l with due := mv l.due },
                      flights := a.flights.map (Flight.recount a.ic next), vFree := mv a.vFree, mFree := mv a.mFree,
                      wait := a.wait, due := due, hmode := false, latchDue := a.latchDue.map fun n => (mv n.1, n.2),
                      xq := c.xq.map (XEntry.serviced due) } }

/-! ### A slot instruction -/

/-- A slot instruction on the room with the issue turn: an encoding that R160 refuses, or a cause its body raises,
takes a trap with TRAPPC at the bundle (R159); otherwise its effect. -/
def slotOp (i : Instr) (slot : Nat) (s : State) (body : State → Except Cause State) :
    Host.Outcome State Fault Refusal :=
  if i.wellFormed then
    match body s with
    | .ok s' => .next s'
    | .error c => .next (s.issueTrap c)
  else .next (s.issueTrap (illegal slot))

/-- A slot instruction that changes the room alone. -/
def roomOp (i : Instr) (slot : Nat) (s : State) (body : Room → Except Cause Room) : Host.Outcome State Fault Refusal :=
  slotOp i slot s fun s => match body s.me with
    | .ok r => .ok { s with me := r }
    | .error c => .error c

/-- The slot number of an S-slot instruction (R380). -/
def sNum (sl : SSlot) : Nat := match sl with | .s0 => 0 | .s1 => 1

/-- The S-slot instruction that lands one value after L cycles. -/
def scalarOp (i : Instr) (sl : SSlot) (lat : Nat) (val : Ctx → LandVal) (s : State) : Host.Outcome State Fault Refusal :=
  roomOp i (sNum sl) s fun r => match r.ctx.landAt (sNum sl) lat (val r.ctx) Raised.none with
    | .ok c => .ok { r with ctx := c }
    | .error k => .error k

/-- The s-register landing of a destination field (R168). -/
def destS (c : Ctx) (d : BitVec 6) (v : Word) : LandVal := .s (sPhys c.winb d) v
def destA (d : BitVec 6) (v : DWord) : LandVal := .a (d.truncate 4) v
def destG (d : BitVec 6) (v : Bool) : LandVal := .g (d.truncate 3) v

end Sys2Proof.Machine
end

