-- ==== Sys2Proof/Machine/Scalar.lean ====
section
/-! DEFINITION. The scalar, packed and fp32 instructions of S0 and S1 (07, R167 to R180, R185 to R187). -/

namespace Sys2Proof.Machine

/-- An R-format packed operation: lanes of OpA and OpB, result to s[D] (R167). -/
def laneOp (i : Instr) (sl : SSlot) (f : RForm) (lat : Nat) (fn : Nat → Nat → Nat → Nat) (s : State) :
    Host.Outcome State Fault Refusal :=
  scalarOp i sl lat (fun c => destS c f.d (laneMap2 f.sh fn (c.opA f) (c.opB f))) s

/-- An R-format compare into a guard (R177). -/
def compareOp (i : Instr) (sl : SSlot) (f : RForm) (rel : Word → Word → Bool) (s : State) :
    Host.Outcome State Fault Refusal :=
  scalarOp i sl 1 (fun c => destG f.d (rel (c.opA f) (c.opB f))) s

/-- An I-format operation on OpA and the immediate, result to s[D] (R175). -/
def immOp (i : Instr) (sl : SSlot) (f : IForm) (fn : Word → Word → Word) (imm : Word) (s : State) :
    Host.Outcome State Fault Refusal :=
  scalarOp i sl 1 (fun c => destS c f.d (fn (c.opAI f) imm)) s

/-- An I-format shift by an immediate, lane by lane (R175). -/
def shiftImmOp (i : Instr) (sl : SSlot) (f : IForm) (fn : Nat → Nat → Nat → Nat) (s : State) :
    Host.Outcome State Fault Refusal :=
  scalarOp i sl 1 (fun c => destS c f.d
    (laneMap2 f.sh (fun n a _ => fn n a (immNat f.imm)) (c.opAI f) 0)) s

def immCompareOp (i : Instr) (sl : SSlot) (f : IForm) (rel : Word → Word → Bool) (imm : Word) (s : State) :
    Host.Outcome State Fault Refusal :=
  scalarOp i sl 1 (fun c => destG f.d (rel (c.opAI f) imm)) s

/-- The 32-bit immediate read signed or natural (R144, R175). -/
def immS (i : Imm) : Word := BitVec.ofInt 32 (immSigned i)
def immN (i : Imm) : Word := BitVec.ofNat 32 (immNat i)

/-! ### Lane functions of R171 and R172: lane width, a_i, b_i -/

def lnAdd (_n a b : Nat) : Nat := a + b
def lnSub (n a b : Nat) : Nat := a + 2 ^ n - b
def lnMul (_n a b : Nat) : Nat := a * b
def lnMulh (n a b : Nat) : Nat := wrapTo n (sext a n * sext b n / (2 ^ n : Nat))
def lnMulhu (n a b : Nat) : Nat := a * b / 2 ^ n
def lnMin (n a b : Nat) : Nat := if sext a n ≤ sext b n then a else b
def lnMax (n a b : Nat) : Nat := if sext a n ≤ sext b n then b else a
def lnMinu (_n a b : Nat) : Nat := min a b
def lnMaxu (_n a b : Nat) : Nat := max a b
def lnAdds (n a b : Nat) : Nat := wrapTo n (clampI (sext a n + sext b n) (-(2 ^ (n - 1) : Nat)) ((2 ^ (n - 1) : Nat) - 1))
def lnAddus (n a b : Nat) : Nat := min (a + b) (2 ^ n - 1)
def lnSubs (n a b : Nat) : Nat := wrapTo n (clampI (sext a n - sext b n) (-(2 ^ (n - 1) : Nat)) ((2 ^ (n - 1) : Nat) - 1))
def lnSubus (_n a b : Nat) : Nat := a - b
def lnAbs (n a _b : Nat) : Nat := (sext a n).natAbs
def lnNeg (n a _b : Nat) : Nat := 2 ^ n - a
def lnShl (n a b : Nat) : Nat := a <<< (b % n)
def lnShr (n a b : Nat) : Nat := a >>> (b % n)
def lnSar (n a b : Nat) : Nat := wrapTo n (sext a n / (2 ^ (b % n) : Nat))
def lnClz (n a _b : Nat) : Nat := clzN n a
def lnPopc (n a _b : Nat) : Nat := popc n a

/-- `add`: (a_i + b_i) mod 2^n (R171). -/
def execAdd (sl : SSlot) (f : RForm) (s : State) : Host.Outcome State Fault Refusal :=
  laneOp (.add sl f) sl f 1 lnAdd s

/-- `sub`: (a_i − b_i) mod 2^n (R171). -/
def execSub (sl : SSlot) (f : RForm) (s : State) : Host.Outcome State Fault Refusal :=
  laneOp (.sub sl f) sl f 1 lnSub s

/-- `mul`: (a_i · b_i) mod 2^n (R171). -/
def execMul (sl : SSlot) (f : RForm) (s : State) : Host.Outcome State Fault Refusal :=
  laneOp (.mul sl f) sl f 2 lnMul s

/-- `mulh`: the high half of the signed product (R171). -/
def execMulh (sl : SSlot) (f : RForm) (s : State) : Host.Outcome State Fault Refusal :=
  laneOp (.mulh sl f) sl f 3 lnMulh s

/-- `mulhu`: the high half of the natural product (R171). -/
def execMulhu (sl : SSlot) (f : RForm) (s : State) : Host.Outcome State Fault Refusal :=
  laneOp (.mulhu sl f) sl f 3 lnMulhu s

/-- `min`: the lesser signed lane (R171). -/
def execMin (sl : SSlot) (f : RForm) (s : State) : Host.Outcome State Fault Refusal :=
  laneOp (.min sl f) sl f 1 lnMin s

/-- `max`: the greater signed lane (R171). -/
def execMax (sl : SSlot) (f : RForm) (s : State) : Host.Outcome State Fault Refusal :=
  laneOp (.max sl f) sl f 1 lnMax s

/-- `minu`: the lesser natural lane (R171). -/
def execMinu (sl : SSlot) (f : RForm) (s : State) : Host.Outcome State Fault Refusal :=
  laneOp (.minu sl f) sl f 1 lnMinu s

/-- `maxu`: the greater natural lane (R171). -/
def execMaxu (sl : SSlot) (f : RForm) (s : State) : Host.Outcome State Fault Refusal :=
  laneOp (.maxu sl f) sl f 1 lnMaxu s

/-- `adds`: the signed sum, clamped (R171). -/
def execAdds (sl : SSlot) (f : RForm) (s : State) : Host.Outcome State Fault Refusal :=
  laneOp (.adds sl f) sl f 1 lnAdds s

/-- `addus`: the natural sum, clamped (R171). -/
def execAddus (sl : SSlot) (f : RForm) (s : State) : Host.Outcome State Fault Refusal :=
  laneOp (.addus sl f) sl f 1 lnAddus s

/-- `subs`: the signed difference, clamped (R171). -/
def execSubs (sl : SSlot) (f : RForm) (s : State) : Host.Outcome State Fault Refusal :=
  laneOp (.subs sl f) sl f 1 lnSubs s

/-- `subus`: the natural difference, clamped (R171). -/
def execSubus (sl : SSlot) (f : RForm) (s : State) : Host.Outcome State Fault Refusal :=
  laneOp (.subus sl f) sl f 1 lnSubus s

/-- `abs`: |SignExt(a_i)| mod 2^n (R171). -/
def execAbs (sl : SSlot) (f : RForm) (s : State) : Host.Outcome State Fault Refusal :=
  laneOp (.abs sl f) sl f 1 lnAbs s

/-- `neg`: (−a_i) mod 2^n (R171). -/
def execNeg (sl : SSlot) (f : RForm) (s : State) : Host.Outcome State Fault Refusal :=
  laneOp (.neg sl f) sl f 1 lnNeg s

/-! ### Logic, shifts and bit fields (R172 to R174) -/

/-- `and`, .w only (R172). -/
def execAnd (sl : SSlot) (f : RForm) (s : State) : Host.Outcome State Fault Refusal :=
  scalarOp (.and sl f) sl 1 (fun c => let x := c.opA f; let y := c.opB f; destS c f.d (x &&& y)) s

/-- `or`, .w only (R172). -/
def execOr (sl : SSlot) (f : RForm) (s : State) : Host.Outcome State Fault Refusal :=
  scalarOp (.or sl f) sl 1 (fun c => let x := c.opA f; let y := c.opB f; destS c f.d (x ||| y)) s

/-- `xor`, .w only (R172). -/
def execXor (sl : SSlot) (f : RForm) (s : State) : Host.Outcome State Fault Refusal :=
  scalarOp (.xor sl f) sl 1 (fun c => let x := c.opA f; let y := c.opB f; destS c f.d (x ^^^ y)) s

/-- `andn`, .w only (R172). -/
def execAndn (sl : SSlot) (f : RForm) (s : State) : Host.Outcome State Fault Refusal :=
  scalarOp (.andn sl f) sl 1 (fun c => let x := c.opA f; let y := c.opB f; destS c f.d (x &&& ~~~y)) s

/-- `shl`: left shift of each lane (R172). -/
def execShl (sl : SSlot) (f : RForm) (s : State) : Host.Outcome State Fault Refusal :=
  laneOp (.shl sl f) sl f 1 lnShl s

/-- `shr`: right shift filling with zeros of each lane (R172). -/
def execShr (sl : SSlot) (f : RForm) (s : State) : Host.Outcome State Fault Refusal :=
  laneOp (.shr sl f) sl f 1 lnShr s

/-- `sar`: right shift filling with the sign of each lane (R172). -/
def execSar (sl : SSlot) (f : RForm) (s : State) : Host.Outcome State Fault Refusal :=
  laneOp (.sar sl f) sl f 1 lnSar s

/-- `clz`: leading zero bits of each lane (R172). -/
def execClz (sl : SSlot) (f : RForm) (s : State) : Host.Outcome State Fault Refusal :=
  laneOp (.clz sl f) sl f 1 lnClz s

/-- `popc`: one bits of each lane (R172). -/
def execPopc (sl : SSlot) (f : RForm) (s : State) : Host.Outcome State Fault Refusal :=
  laneOp (.popc sl f) sl f 1 lnPopc s

/-- The field position and length of R173, the length cut at bit 31. -/
def fieldOf (y : Word) : Nat × Nat :=
  let pos := bitsOf y.toNat 4 0
  let len := bitsOf y.toNat 12 8 + 1
  (pos, if 32 < pos + len then 32 - pos else len)

/-- R173: the extracted field, sign-extended in the signed form. -/
def bextVal (signed : Bool) (x y : Word) : Word :=
  let p := fieldOf y
  let f := bitsOf x.toNat (p.1 + p.2 - 1) p.1
  if signed then BitVec.ofInt 32 (sext f p.2) else BitVec.ofNat 32 f

/-- R173: the old destination with the field of OpA inserted. -/
def binsVal (old x y : Word) : Word :=
  let p := fieldOf y
  let mask : Word := BitVec.ofNat 32 ((2 ^ p.2 - 1) <<< p.1)
  (old &&& ~~~mask) ||| ((x <<< p.1) &&& mask)

/-- R174: result byte k is zero when v[3] is set, else source byte v[2:0] of OpA followed by the old destination. -/
def bpermVal (old x y : Word) : Word :=
  let src := x.toNat + old.toNat * 2 ^ 32
  BitVec.ofNat 32 (packLanes 8 ((List.range 4).map fun k =>
    let v := bitsOf y.toNat (4 * k + 3) (4 * k)
    if 8 ≤ v then 0 else laneOf 8 src (v % 8)))

/-- `bext` and `bext.s` (R173). -/
def execBext (sl : SSlot) (f : RForm) (s : State) : Host.Outcome State Fault Refusal :=
  scalarOp (.bext sl f) sl 1 (fun c => destS c f.d (bextVal (f.fn.getLsbD 0) (c.opA f) (c.opB f))) s

/-- `bins` (R173). -/
def execBins (sl : SSlot) (f : RForm) (s : State) : Host.Outcome State Fault Refusal :=
  scalarOp (.bins sl f) sl 1 (fun c => destS c f.d (binsVal (c.readS f.d) (c.opA f) (c.opB f))) s

/-- `bperm` (R174). -/
def execBperm (sl : SSlot) (f : RForm) (s : State) : Host.Outcome State Fault Refusal :=
  scalarOp (.bperm sl f) sl 1 (fun c => destS c f.d (bpermVal (c.readS f.d) (c.opA f) (c.opB f))) s

/-! ### Compares and guards (R177 to R179) -/

/-- `ceq` into a guard (R177). -/
def execCeq (sl : SSlot) (f : RForm) (s : State) : Host.Outcome State Fault Refusal :=
  compareOp (.ceq sl f) sl f (fun x y => x == y) s

/-- `cne` into a guard (R177). -/
def execCne (sl : SSlot) (f : RForm) (s : State) : Host.Outcome State Fault Refusal :=
  compareOp (.cne sl f) sl f (fun x y => x != y) s

/-- `clt` into a guard (R177). -/
def execClt (sl : SSlot) (f : RForm) (s : State) : Host.Outcome State Fault Refusal :=
  compareOp (.clt sl f) sl f (fun x y => x.slt y) s

/-- `cle` into a guard (R177). -/
def execCle (sl : SSlot) (f : RForm) (s : State) : Host.Outcome State Fault Refusal :=
  compareOp (.cle sl f) sl f (fun x y => x.sle y) s

/-- `cltu` into a guard (R177). -/
def execCltu (sl : SSlot) (f : RForm) (s : State) : Host.Outcome State Fault Refusal :=
  compareOp (.cltu sl f) sl f (fun x y => x.ult y) s

/-- `cleu` into a guard (R177). -/
def execCleu (sl : SSlot) (f : RForm) (s : State) : Host.Outcome State Fault Refusal :=
  compareOp (.cleu sl f) sl f (fun x y => x.ule y) s

/-- R178: FN[0] and FN[1] invert the guards, FN[2] the result. -/
def guardVal (op : Bool → Bool → Bool) (c : Ctx) (f : RForm) : Bool :=
  let x := c.readG f.a.toNat
  let y := c.readG f.b.toNat
  (op (x != f.fn.getLsbD 0) (y != f.fn.getLsbD 1)) != f.fn.getLsbD 2

/-- `gand` (R178). -/
def execGand (sl : SSlot) (f : RForm) (s : State) : Host.Outcome State Fault Refusal :=
  scalarOp (.gand sl f) sl 1 (fun c => destG f.d (guardVal (fun x y => x && y) c f)) s

/-- `gor` (R178). -/
def execGor (sl : SSlot) (f : RForm) (s : State) : Host.Outcome State Fault Refusal :=
  scalarOp (.gor sl f) sl 1 (fun c => destG f.d (guardVal (fun x y => x || y) c f)) s

/-- `sel`: the guarded move; with its guard false it makes no landing (R152, R168, R179). -/
def execSel (sl : SSlot) (f : RForm) (s : State) : Host.Outcome State Fault Refusal :=
  roomOp (.sel sl f) (sNum sl) s fun r =>
    if r.ctx.guard f.gi f.gn then
      match r.ctx.landAt (sNum sl) 1 (destS r.ctx f.d (r.ctx.opA f)) Raised.none with
      | .ok c => .ok { r with ctx := c }
      | .error k => .error k
    else .ok r

/-! ### Immediate forms (R175, R176) -/

/-- `addi` (R175). -/
def execAddi (sl : SSlot) (f : IForm) (s : State) : Host.Outcome State Fault Refusal :=
  immOp (.addi sl f) sl f (fun x y => x + y) (immS f.imm) s

/-- `andi` (R175). -/
def execAndi (sl : SSlot) (f : IForm) (s : State) : Host.Outcome State Fault Refusal :=
  immOp (.andi sl f) sl f (fun x y => x &&& y) (immN f.imm) s

/-- `ori` (R175). -/
def execOri (sl : SSlot) (f : IForm) (s : State) : Host.Outcome State Fault Refusal :=
  immOp (.ori sl f) sl f (fun x y => x ||| y) (immN f.imm) s

/-- `xori` (R175). -/
def execXori (sl : SSlot) (f : IForm) (s : State) : Host.Outcome State Fault Refusal :=
  immOp (.xori sl f) sl f (fun x y => x ^^^ y) (immN f.imm) s

/-- `shli`, every b_i the immediate (R175). -/
def execShli (sl : SSlot) (f : IForm) (s : State) : Host.Outcome State Fault Refusal :=
  shiftImmOp (.shli sl f) sl f lnShl s

/-- `shri`, every b_i the immediate (R175). -/
def execShri (sl : SSlot) (f : IForm) (s : State) : Host.Outcome State Fault Refusal :=
  shiftImmOp (.shri sl f) sl f lnShr s

/-- `sari`, every b_i the immediate (R175). -/
def execSari (sl : SSlot) (f : IForm) (s : State) : Host.Outcome State Fault Refusal :=
  shiftImmOp (.sari sl f) sl f lnSar s

/-- `ceqi` into a guard (R175). -/
def execCeqi (sl : SSlot) (f : IForm) (s : State) : Host.Outcome State Fault Refusal :=
  immCompareOp (.ceqi sl f) sl f (fun x y => x == y) (immS f.imm) s

/-- `clti` into a guard (R175). -/
def execClti (sl : SSlot) (f : IForm) (s : State) : Host.Outcome State Fault Refusal :=
  immCompareOp (.clti sl f) sl f (fun x y => x.slt y) (immS f.imm) s

/-- `cltui` into a guard (R175). -/
def execCltui (sl : SSlot) (f : IForm) (s : State) : Host.Outcome State Fault Refusal :=
  immCompareOp (.cltui sl f) sl f (fun x y => x.ult y) (immN f.imm) s

/-- `seth`: s[D] = IMM20 << 12 (R176). -/
def execSeth (sl : SSlot) (f : UForm) (s : State) : Host.Outcome State Fault Refusal :=
  scalarOp (.seth sl f) sl 1 (fun c => destS c f.d (f.imm ++ (0 : BitVec 12))) s

/-! ### Address arithmetic (R180) -/

/-- The base of an address form: zero under `.z` (R180). -/
def baseOf (c : Ctx) (z : Bool) (a : BitVec 6) : DWord := if z then 0 else c.readA a.toNat

/-- `aadd`: base plus the scaled, sign-extended OpB (R180). -/
def execAadd (sl : SSlot) (f : RForm) (s : State) : Host.Outcome State Fault Refusal :=
  scalarOp (.aadd sl f) sl 1 (fun c =>
    destA f.d (baseOf c (f.fn.getLsbD 3) f.a + ((c.opB f).signExtend 64 <<< (f.fn.toNat % 4)))) s

/-- `aaddi`: base plus the immediate (R180). -/
def execAaddi (sl : SSlot) (f : IForm) (s : State) : Host.Outcome State Fault Refusal :=
  scalarOp (.aaddi sl f) sl 1 (fun c => destA f.d (addrPlus (baseOf c (f.fn.getLsbD 3) f.a) (immSigned f.imm))) s

/-! ### Scalar fp32 (R185 to R187) -/

/-- The mode an RM field names, with FX.RM under DYN (R56). -/
def Ctx.mode (c : Ctx) (code : Nat) : RM := (rmOf code (fxRm c.fx)).getD .rne

def f32Of (x : Word) : Val := decodeVal fp32 0 x.toNat

/-- An fp32 result of an exact value, rounded once, with the flags of the operation (R57, R58, R185). -/
def f32Result (rm : RM) (v : Val × Fl) : Nat × Fl :=
  let r := convVal fp32 0 rm false v.1
  (r.1, Fl.or v.2 r.2)

/-- An S-slot instruction with a rounded result and flags, trapped at the boundary after its landing with element 0
(R60, R185). -/
def fpOp (i : Instr) (sl : SSlot) (lat : Nat) (val : Ctx → LandVal × Fl) (s : State) :
    Host.Outcome State Fault Refusal :=
  roomOp i (sNum sl) s fun r =>
    let v := val r.ctx
    match r.ctx.landAt (sNum sl) lat v.1 (Raised.of1 0 v.2) with
    | .ok c => .ok { r with ctx := c }
    | .error k => .error k

/-- The rounded fp32 result of an operation on the exact operands, landing in s[D] (R185). -/
def f32Arith (i : Instr) (sl : SSlot) (f : RForm) (lat : Nat) (op : RM → Val → Val → Val → Val × Fl) (s : State) :
    Host.Outcome State Fault Refusal :=
  fpOp i sl lat (fun c =>
    let rm := c.mode (f.fn.toNat % 8)
    let r := f32Result rm (op rm (f32Of (c.opA f)) (f32Of (c.opB f)) (f32Of (c.readS f.d)))
    (destS c f.d (BitVec.ofNat 32 r.1), r.2)) s

/-- `fadd` (R185). -/
def execFadd (sl : SSlot) (f : RForm) (s : State) : Host.Outcome State Fault Refusal :=
  f32Arith (.fadd sl f) sl f 3 (fun rm a b _ => valAdd rm a b) s

/-- `fsub` (R185). -/
def execFsub (sl : SSlot) (f : RForm) (s : State) : Host.Outcome State Fault Refusal :=
  f32Arith (.fsub sl f) sl f 3 (fun rm a b _ => valAdd rm a b.neg) s

/-- `fmul` (R185). -/
def execFmul (sl : SSlot) (f : RForm) (s : State) : Host.Outcome State Fault Refusal :=
  f32Arith (.fmul sl f) sl f 3 (fun _ a b _ => valMul a b) s

/-- `ffma`: one rounding (R185). -/
def execFfma (sl : SSlot) (f : RForm) (s : State) : Host.Outcome State Fault Refusal :=
  f32Arith (.ffma sl f) sl f 4 (fun rm a b d => valFma rm a b d) s

/-- `fcmp`: FN selects the condition (R186). -/
def execFcmp (sl : SSlot) (f : RForm) (s : State) : Host.Outcome State Fault Refusal :=
  fpOp (.fcmp sl f) sl 2 (fun c =>
    let r := valCond f.fn.toNat (f32Of (c.opA f)) (f32Of (c.opB f))
    (destG f.d r.1, r.2)) s

/-- Source format, source bits and destination format of a conversion code (R187). -/
def fcvtCode (b : Nat) : Fmt × Nat × Fmt :=
  match b with
  | 0 => (fp32, 32, .int true 32)
  | 1 => (fp32, 32, .int false 32)
  | 2 => (.int true 32, 32, fp32)
  | 3 => (.int false 32, 32, fp32)
  | 4 => (fp32, 32, fp16)
  | 5 => (fp16, 16, fp32)
  | 6 => (fp32, 32, bf16)
  | _ => (bf16, 16, fp32)

/-- `fcvt`: one conversion by R69 and R70, a 16-bit result zero-extended (R187). -/
def execFcvt (sl : SSlot) (f : RForm) (s : State) : Host.Outcome State Fault Refusal :=
  fpOp (.fcvt sl f) sl 3 (fun c =>
    let k := fcvtCode f.b.toNat
    let x := (c.opA f).toNat % 2 ^ k.2.1
    let r := convVal k.2.2 0 (c.mode (f.fn.toNat % 8)) k.1.isInt (decodeVal k.1 0 x)
    (destS c f.d (BitVec.ofNat 32 r.1), r.2)) s

/-- `nop`: an all-zero slot does nothing (R160). -/
def execNop (sl : SSlot) (s : State) : Host.Outcome State Fault Refusal :=
  slotOp (.nop sl) (sNum sl) s fun s => .ok s

end Sys2Proof.Machine
end

