-- ==== Sys2Proof/Machine/LoadStore.lean ====
section
/-! DEFINITION. Scratchpad loads and stores of S0 and S1 with their attic forms (07, R181 to R184; 04, R100, R101). -/

namespace Sys2Proof.Machine

/-- What an attic offset resolves to (R101): a partition address, an offset in the overflow area, or nothing. -/
inductive AtticPlace where
  | inside (a : Nat)
  | over (o : Nat)
  | beyond
  deriving DecidableEq, Repr

/-- R101: resolves an attic offset. -/
def Room.attic (r : Room) (t : Nat) : AtticPlace :=
  let size := r.atticSize.toNat % 2 ^ 25
  let ovsz := bitsOf r.atticOvf.toNat 59 52
  if t < size then .inside (r.atticBase.toNat % 2 ^ 25 + t)
  else if t < size + 65536 * ovsz then .over (t - size)
  else .beyond

/-- Where a scalar access goes after the checks of R182 and R184, in their order. -/
def Room.resolve (r : Room) (slot engine : Nat) (write attic : Bool) (ea size : Nat) : Except Cause AtticPlace :=
  let ordinary (a : Nat) : Except Cause AtticPlace :=
    if r.spSize < a + size then .error (escapes slot)
    else if r.ctx.footprint.allows engine write { lo := a, hi := (a + size : Nat) - 1 } then .ok (.inside a)
    else .error (escapes slot)
  if ea % size != 0 then .error (misaligned slot)
  else if attic then
    match r.attic ea with
    | .inside a => ordinary a
    | .over o => .ok (.over o)
    | .beyond => .error (atticOut slot)
  else ordinary ea

/-- The bytes of an overflow range, from its line if that is resident (R101). -/
def Room.overBytes (r : Room) (o n : Nat) : Option (List Byte) :=
  match r.overflow.find? (fun l => l.num == o / 256) with
  | some l => some ((l.bytes.drop (o % 256)).take n)
  | none => none

/-- Notes a line that is not resident, unless one is already noted (R101). -/
def Room.noteMiss (r : Room) (m : Miss) : Room :=
  match r.miss with | some _ => r | none => { r with miss := some m }

/-- Lands each value in turn (R158). -/
def Ctx.landAll (c : Ctx) (slot lat : Nat) : List LandVal → Except Cause Ctx
  | [] => .ok c
  | v :: vs => match c.landAt slot lat v Raised.none with
    | .ok c' => c'.landAll slot lat vs
    | .error k => .error k

/-- The effective location of R182. -/
def effective (c : Ctx) (f : IForm) : Nat := (addrPlus (c.readA f.a.toNat) (immSigned f.imm)).toNat

/-- A load of `size` bytes on the engine port: its landings after three cycles, which SLOT_BUSY looks at before the other
checks (R158, R159), and one access; an access that collides does not take place and lands nothing (R181 to R184, R96). -/
def loadOp (i : Instr) (sl : SSlot) (f : IForm) (size : Nat) (mk : Ctx → Nat → List LandVal) (s : State) :
    Host.Outcome State Fault Refusal :=
  roomOp i (sNum sl) s fun r =>
    let slot := sNum sl
    match r.ctx.landAll slot 3 (mk r.ctx 0) with
    | .error k => .error k
    | .ok _ =>
    match r.resolve slot 0 false (f.fn.getLsbD 0) (effective r.ctx f) size with
    | .error k => .error k
    | .ok (.inside a) =>
      let addrs := (List.range size).map (a + ·)
      let acc := r.engAccess slot r.ctx.ic false false addrs
      if acc.2 then
        let rd := acc.1.readChecked (s.coreOf r.core) addrs
        let v := if rd.2.2 then 0 else fromBytes rd.2.1
        match rd.1.ctx.landAll slot 3 (mk r.ctx v) with
        | .ok c => .ok { rd.1 with ctx := c }
        | .error k => .error k
      else .ok acc.1
    | .ok (.over o) =>
      match r.overBytes o size with
      | some bs =>
        match r.ctx.landAll slot 3 (mk r.ctx (fromBytes bs)) with
        | .ok c => .ok { r with ctx := c }
        | .error k => .error k
      | none => .ok (r.noteMiss (.overflow (o / 256)))
    | .ok .beyond => .error (atticOut slot)

/-- A store of `size` bytes: with its guard false nothing at all (R152, R182); else checks, one access, and bytes that
engine reads see from the next cycle on (R183). -/
def storeOp (i : Instr) (sl : SSlot) (f : IForm) (size : Nat) (val : Ctx → Nat) (s : State) :
    Host.Outcome State Fault Refusal :=
  roomOp i (sNum sl) s fun r =>
    let slot := sNum sl
    if !r.ctx.guard f.gi f.gn then .ok r
    else
      match r.resolve slot 0 true (f.fn.getLsbD 0) (effective r.ctx f) size with
      | .error k => .error k
      | .ok (.inside a) =>
        let acc := r.engAccess slot r.ctx.ic false true ((List.range size).map (a + ·))
        if acc.2 then
          match acc.1.ctx.landAt slot 1 (.store (cellsAt a (toBytes size (val r.ctx)))) Raised.none with
          | .ok c => .ok { acc.1 with ctx := c }
          | .error k => .error k
        else .ok acc.1
      | .ok (.over o) =>
        match r.overBytes o size with
        | some _ =>
          match r.ctx.landAt slot 1 (.overflow (cellsAt o (toBytes size (val r.ctx)))) Raised.none with
          | .ok c => .ok { r with ctx := c }
          | .error k => .error k
        | none => .ok (r.noteMiss (.overflow (o / 256)))
      | .ok .beyond => .error (atticOut slot)

/-- The register that holds the second word of `ldq` and `stq`: s[D + 1], mapped on its own (R181). -/
def nextS (d : BitVec 6) : BitVec 6 := d + 1

/-- `ldb`: a byte, sign-extended (R181). -/
def execLdb (sl : SSlot) (f : IForm) (s : State) : Host.Outcome State Fault Refusal :=
  loadOp (.ldb sl f) sl f 1 (fun c v => [destS c f.d (BitVec.ofInt 32 (sext v 8))]) s

/-- `ldbu`: a byte, zero-extended (R181). -/
def execLdbu (sl : SSlot) (f : IForm) (s : State) : Host.Outcome State Fault Refusal :=
  loadOp (.ldbu sl f) sl f 1 (fun c v => [destS c f.d (BitVec.ofNat 32 v)]) s

/-- `ldh`: a half-word, sign-extended (R181). -/
def execLdh (sl : SSlot) (f : IForm) (s : State) : Host.Outcome State Fault Refusal :=
  loadOp (.ldh sl f) sl f 2 (fun c v => [destS c f.d (BitVec.ofInt 32 (sext v 16))]) s

/-- `ldhu`: a half-word, zero-extended (R181). -/
def execLdhu (sl : SSlot) (f : IForm) (s : State) : Host.Outcome State Fault Refusal :=
  loadOp (.ldhu sl f) sl f 2 (fun c v => [destS c f.d (BitVec.ofNat 32 v)]) s

/-- `ldw`: a word (R181). -/
def execLdw (sl : SSlot) (f : IForm) (s : State) : Host.Outcome State Fault Refusal :=
  loadOp (.ldw sl f) sl f 4 (fun c v => [destS c f.d (BitVec.ofNat 32 v)]) s

/-- `ldq`: two words into s[D] and s[D + 1] (R181). -/
def execLdq (sl : SSlot) (f : IForm) (s : State) : Host.Outcome State Fault Refusal :=
  loadOp (.ldq sl f) sl f 8 (fun c v => [destS c f.d (BitVec.ofNat 32 v), destS c (nextS f.d) (BitVec.ofNat 32 (v / 2 ^ 32))]) s

/-- `lda`: eight bytes into a[D] (R181). -/
def execLda (sl : SSlot) (f : IForm) (s : State) : Host.Outcome State Fault Refusal :=
  loadOp (.lda sl f) sl f 8 (fun _c v => [destA f.d (BitVec.ofNat 64 v)]) s

/-- `ldd`: a descriptor image, not checked (R154) (R181). -/
def execLdd (sl : SSlot) (f : IForm) (s : State) : Host.Outcome State Fault Refusal :=
  loadOp (.ldd sl f) sl f 16 (fun _c v => [.d (f.d.truncate 5) (BitVec.ofNat 128 v)]) s

/-- `stb`: stores the low byte of s[D] (R181). -/
def execStb (sl : SSlot) (f : IForm) (s : State) : Host.Outcome State Fault Refusal :=
  storeOp (.stb sl f) sl f 1 (fun c => (c.readS f.d).toNat) s

/-- `sth`: stores the low half-word of s[D] (R181). -/
def execSth (sl : SSlot) (f : IForm) (s : State) : Host.Outcome State Fault Refusal :=
  storeOp (.sth sl f) sl f 2 (fun c => (c.readS f.d).toNat) s

/-- `stw`: stores s[D] (R181). -/
def execStw (sl : SSlot) (f : IForm) (s : State) : Host.Outcome State Fault Refusal :=
  storeOp (.stw sl f) sl f 4 (fun c => (c.readS f.d).toNat) s

/-- `stq`: stores s[D], then s[D + 1] (R181). -/
def execStq (sl : SSlot) (f : IForm) (s : State) : Host.Outcome State Fault Refusal :=
  storeOp (.stq sl f) sl f 8 (fun c => (c.readS f.d).toNat + (c.readS (nextS f.d)).toNat * 2 ^ 32) s

/-- `sta`: stores a[D] (R181). -/
def execSta (sl : SSlot) (f : IForm) (s : State) : Host.Outcome State Fault Refusal :=
  storeOp (.sta sl f) sl f 8 (fun c => (c.readA f.d.toNat).toNat) s

/-- `std`: stores the image of d[D] (R181). -/
def execStd (sl : SSlot) (f : IForm) (s : State) : Host.Outcome State Fault Refusal :=
  storeOp (.std sl f) sl f 16 (fun c => (c.readD (f.d.truncate 5)).toNat) s

end Sys2Proof.Machine
end

