-- ==== Sys2Proof/Machine/Control.lean ====
section
/-! DEFINITION. The instruction store, stepped fields, branches, loops, repeats and the sequencer, trap, halt and the
system registers (07, R188 to R204; 06, R162). -/

namespace Sys2Proof.Machine

/-! ### The instruction store (R188, R357) -/

/-- What the instruction store gives at a code address: a bundle, a page that is not resident, or nothing, outside the
code range of the load. -/
inductive Fetched where
  | word (w : BitVec 256)
  | miss (page : Nat)
  | outside
  deriving DecidableEq, Repr

def State.load? (s : State) (h : Nat) : Option LoadedObj := s.loads.find? fun l => l.handle == h

/-- The bundle that a core's loop buffer holds for a room at an address (R196). -/
def Core.buffered (k : Core) (r : Room) (a : DWord) : Option (BitVec 256) :=
  match k.loopBuf with
  | some b =>
    if b.room = r.id && b.load == r.loadH then (b.bundles.find? fun x => x.1 == a).map Prod.snd else none
  | none => none

/-- R188, R357, R196: the fetch of the bundle at a code address by a room. -/
def State.codeAt (s : State) (r : Room) (a : DWord) : Fetched :=
  match s.load? r.loadH with
  | none => .outside
  | some l =>
    if l.lb ≤ a.toNat && decide (a.toNat < l.lb + l.codeSize) then
      let o := a.toNat - l.lb
      match (s.coreOf r.core).buffered r a with
      | some w => .word w
      | none =>
      match s.pages.find? (fun p => p.core == r.core && p.load == r.loadH && p.page == o / 4096) with
      | some p => .word (p.bundles.getD (o % 4096 / 32) 0)
      | none => .miss (o / 4096)
    else .outside

/-! ### Stepped fields (R197, R198) -/

/-- The s-, a-, g- or d-register file a field names, by its size (R150). -/
def fileS : Nat := 64
def fileA : Nat := 16
def fileG : Nat := 8
def fileD : Nat := 32

/-- The stepped fields of an R-format instruction with the size of the file of each. -/
def stepsR (f : RForm) (fd fa fb : Nat) : List (Nat × Nat) :=
  (if f.td = 1 then [(f.d.toNat, fd)] else []) ++ (if f.ta = 1 then [(f.a.toNat, fa)] else []) ++
  (if f.tb = 1 then [(f.b.toNat, fb)] else [])

def stepsI (f : IForm) (fd fa : Nat) : List (Nat × Nat) :=
  (if f.td = 1 then [(f.d.toNat, fd)] else []) ++ (if f.ta = 1 then [(f.a.toNat, fa)] else [])

/-- R162: the file of the register that `mfs` writes. -/
def sysFile (f : IForm) : Nat := if sysWidth (immNat f.imm) = some 64 then fileA else fileS

/-- R197: the stepped fields of an S-slot instruction, each with the size of its file. -/
def stepsOf : Instr → List (Nat × Nat)
  | .add _ f | .sub _ f | .mul _ f | .mulh _ f | .mulhu _ f | .min _ f | .max _ f | .minu _ f | .maxu _ f
  | .adds _ f | .addus _ f | .subs _ f | .subus _ f | .abs _ f | .neg _ f | .and _ f | .or _ f | .xor _ f
  | .andn _ f | .shl _ f | .shr _ f | .sar _ f | .clz _ f | .popc _ f | .bext _ f | .bins _ f | .bperm _ f
  | .sel _ f | .fadd _ f | .fsub _ f | .fmul _ f | .ffma _ f | .fcvt _ f => stepsR f fileS fileS fileS
  | .ceq _ f | .cne _ f | .clt _ f | .cle _ f | .cltu _ f | .cleu _ f | .fcmp _ f => stepsR f fileG fileS fileS
  | .gand _ f | .gor _ f => stepsR f fileG fileG fileG
  | .addi _ f | .andi _ f | .ori _ f | .xori _ f | .shli _ f | .shri _ f | .sari _ f => stepsI f fileS fileS
  | .ceqi _ f | .clti _ f | .cltui _ f => stepsI f fileG fileS
  | .seth _ f => if f.td = 1 then [(f.d.toNat, fileS)] else []
  | .aadd _ f => stepsR f fileA fileA fileS
  | .aaddi _ f => stepsI f fileA fileA
  | .ldb _ f | .ldbu _ f | .ldh _ f | .ldhu _ f | .ldw _ f | .ldq _ f | .stb _ f | .sth _ f | .stw _ f
  | .stq _ f => stepsI f fileS fileA
  | .lda _ f | .sta _ f => stepsI f fileA fileA
  | .ldd _ f | .std _ f => stepsI f fileD fileA
  | .mfs _ f => stepsI f (sysFile f) fileS
  | _ => []

/-- R197: adds an offset to the fields whose stride bit is set. -/
def stepR (f : RForm) (k : BitVec 6) : RForm :=
  { f with d := if f.td = 1 then f.d + k else f.d, a := if f.ta = 1 then f.a + k else f.a,
           b := if f.tb = 1 then f.b + k else f.b }

def stepI (f : IForm) (k : BitVec 6) : IForm :=
  { f with d := if f.td = 1 then f.d + k else f.d, a := if f.ta = 1 then f.a + k else f.a }

/-- R197: the S-slot instruction of an iteration whose offset j·k is given. -/
def stepped (k : BitVec 6) : Instr → Instr
  | .add sl f => .add sl (stepR f k)
  | .sub sl f => .sub sl (stepR f k)
  | .mul sl f => .mul sl (stepR f k)
  | .mulh sl f => .mulh sl (stepR f k)
  | .mulhu sl f => .mulhu sl (stepR f k)
  | .min sl f => .min sl (stepR f k)
  | .max sl f => .max sl (stepR f k)
  | .minu sl f => .minu sl (stepR f k)
  | .maxu sl f => .maxu sl (stepR f k)
  | .adds sl f => .adds sl (stepR f k)
  | .addus sl f => .addus sl (stepR f k)
  | .subs sl f => .subs sl (stepR f k)
  | .subus sl f => .subus sl (stepR f k)
  | .abs sl f => .abs sl (stepR f k)
  | .neg sl f => .neg sl (stepR f k)
  | .and sl f => .and sl (stepR f k)
  | .or sl f => .or sl (stepR f k)
  | .xor sl f => .xor sl (stepR f k)
  | .andn sl f => .andn sl (stepR f k)
  | .shl sl f => .shl sl (stepR f k)
  | .shr sl f => .shr sl (stepR f k)
  | .sar sl f => .sar sl (stepR f k)
  | .clz sl f => .clz sl (stepR f k)
  | .popc sl f => .popc sl (stepR f k)
  | .bext sl f => .bext sl (stepR f k)
  | .bins sl f => .bins sl (stepR f k)
  | .bperm sl f => .bperm sl (stepR f k)
  | .ceq sl f => .ceq sl (stepR f k)
  | .cne sl f => .cne sl (stepR f k)
  | .clt sl f => .clt sl (stepR f k)
  | .cle sl f => .cle sl (stepR f k)
  | .cltu sl f => .cltu sl (stepR f k)
  | .cleu sl f => .cleu sl (stepR f k)
  | .gand sl f => .gand sl (stepR f k)
  | .gor sl f => .gor sl (stepR f k)
  | .sel sl f => .sel sl (stepR f k)
  | .aadd sl f => .aadd sl (stepR f k)
  | .fadd sl f => .fadd sl (stepR f k)
  | .fsub sl f => .fsub sl (stepR f k)
  | .fmul sl f => .fmul sl (stepR f k)
  | .ffma sl f => .ffma sl (stepR f k)
  | .fcmp sl f => .fcmp sl (stepR f k)
  | .fcvt sl f => .fcvt sl (stepR f k)
  | .addi sl f => .addi sl (stepI f k)
  | .andi sl f => .andi sl (stepI f k)
  | .ori sl f => .ori sl (stepI f k)
  | .xori sl f => .xori sl (stepI f k)
  | .shli sl f => .shli sl (stepI f k)
  | .shri sl f => .shri sl (stepI f k)
  | .sari sl f => .sari sl (stepI f k)
  | .ceqi sl f => .ceqi sl (stepI f k)
  | .clti sl f => .clti sl (stepI f k)
  | .cltui sl f => .cltui sl (stepI f k)
  | .aaddi sl f => .aaddi sl (stepI f k)
  | .ldb sl f => .ldb sl (stepI f k)
  | .ldbu sl f => .ldbu sl (stepI f k)
  | .ldh sl f => .ldh sl (stepI f k)
  | .ldhu sl f => .ldhu sl (stepI f k)
  | .ldw sl f => .ldw sl (stepI f k)
  | .ldq sl f => .ldq sl (stepI f k)
  | .stb sl f => .stb sl (stepI f k)
  | .sth sl f => .sth sl (stepI f k)
  | .stw sl f => .stw sl (stepI f k)
  | .stq sl f => .stq sl (stepI f k)
  | .lda sl f => .lda sl (stepI f k)
  | .sta sl f => .sta sl (stepI f k)
  | .ldd sl f => .ldd sl (stepI f k)
  | .std sl f => .std sl (stepI f k)
  | .mfs sl f => .mfs sl (stepI f k)
  | .seth sl f => .seth sl { f with d := if f.td = 1 then f.d + k else f.d }
  | i => i

/-- R198: with last offset `ofs` some stepped field leaves its file, or the D of a pair turns odd. -/
def repeatRange (i : Instr) (ofs : Nat) : Bool :=
  (stepsOf i).any (fun x => decide (x.2 ≤ x.1 + ofs)) ||
  (match i with
   | .ldq _ f | .stq _ f => f.td == 1 && (f.d.toNat + ofs) % 2 == 1
   | _ => false)

/-- The S0 opcode of a bundle. -/
def s0Op (w : BitVec 256) : Nat := (w.extractLsb' 56 8).toNat

/-- R198: what the repeated bundle w raises for n iterations of step k from offset `ofs`. -/
def repeatCheck (w : BitVec 256) (n k ofs : Nat) : Option Cause :=
  if 0x60 ≤ s0Op w && decide (s0Op w ≤ 0x6B) && s0Op w != 0x69 then some (illegal 0)
  else
    match Decode.bundle w with
    | none => none
    | some b =>
      let last := ofs + (n - 1) * k
      let bad (i : Option Instr) : Bool := match i with | some i => repeatRange i last | none => false
      if n = 0 then none else if bad b.s0 then some (cause 0x06 0) else if bad b.s1 then some (cause 0x06 0) else none

/-! ### REPC and the sequencer (R190, R191, R194, R195, R199) -/

def repK (r : Word) : Nat := bitsOf r.toNat 11 6
def repOfs (r : Word) : Nat := bitsOf r.toNat 5 0
/-- R199: the image of REM, K and OFS. -/
def repWord (rem k ofs : Nat) : Word := BitVec.ofNat 32 (rem % 2 ^ 16 * 2 ^ 16 + k % 64 * 64 + ofs % 64)

/-- What the sequencer decides at the end of a cycle. -/
structure Seq where
  pc : DWord
  loops : List LoopEntry
  /-- Rotations of R195, and whether an iteration ended. -/
  rots : Nat
  ended : Bool
  repc : Word
  /-- R199: the same bundle issues again. -/
  again : Bool
  deriving DecidableEq, Repr

/-- R194: the iteration end of the bundle at an address: the loop stack after it, the rotations, and where the loop
that continues starts. -/
def iterEnd (pc : DWord) : List LoopEntry → List LoopEntry × Nat × Option DWord
  | [] => ([], 0, none)
  | e :: es =>
    if e.last = pc then
      if e.count ≤ 1 then
        let x := iterEnd pc es
        (x.1, x.2.1 + b2n e.rot, x.2.2)
      else ({ e with count := e.count - 1 } :: es, b2n e.rot, some e.start)
    else (e :: es, 0, none)

/-- R191: the loop entries left once those whose range does not hold the target are popped. -/
def popOutside (t : DWord) : List LoopEntry → List LoopEntry
  | [] => []
  | e :: es => if e.start.toNat ≤ t.toNat && decide (t.toNat ≤ e.last.toNat) then e :: es else popOutside t es

/-- R191: the cycle in which the target of a taken branch issues: its redirection is over, and `br` and `jr` pop. -/
def Ctx.arrive (c : Ctx) : Ctx :=
  let x := c.redirects.find? fun x => decide (x.due ≤ c.ic)
  { c with redirects := c.redirects.filter fun x => decide (c.ic < x.due)
           loops := match x with | some x => if x.pops then popOutside x.target c.loops else c.loops | none => c.loops }

/-- R190: what follows the bundle just issued. An iteration ends where that bundle is the END of the top entry; after a `loop`
bundle that is the entry it has just pushed (DESIGN CHOICE, log 80). A branch's pops wait for its target to issue (R191). -/
def Ctx.seqNext (c : Ctx) (ctl : Ctl) : Seq :=
  let rem := repRem c.repc
  if 1 < rem then
    { pc := c.pc, loops := c.loops, rots := 0, ended := false,
      repc := repWord (rem - 1) (repK c.repc) (repOfs c.repc + repK c.repc), again := true }
  else
    let repc := if rem = 1 then 0 else c.repc
    let it := iterEnd c.pc c.loops
    let ended := match c.loops with | e :: _ => e.last == c.pc | [] => false
    match c.redirects.find? (fun x => x.due == c.ic + 1) with
    | some x => { pc := x.target, loops := it.1, rots := it.2.1, ended := ended, repc := repc, again := false }
    | none =>
      let pc := match it.2.2 with
        | some t => t
        | none => match ctl with | .skip t => t | _ => c.pc + 32
      { pc := pc, loops := it.1, rots := it.2.1, ended := ended, repc := repc, again := false }

/-- WINB.BASE moved by an amount modulo 32 (R195, R202). -/
def winbAdd (w : Word) (k : Int) : Word := BitVec.ofNat 32 (wrapTo 5 ((w.toNat % 32 : Nat) + k))

/-- The number under which the effect of a `rep` waits for the end of its cycle. -/
def repNumber : Nat := 0x1021

/-- R201, R197: one system-register write made for bundles issued from the next cycle on. -/
def Ctx.sysWrite (c : Ctx) (w : Nat × Word) : Ctx :=
  match w.1 with
  | 0x001 => { c with fx := w.2 &&& fxWritable }
  | 0x002 => { c with qx := w.2 &&& qxWritable }
  | 0x020 => { c with winb := w.2 &&& 0x1F }
  | 0x021 => { c with repc := w.2 &&& 0xFFFF0FFF, repFresh := decide (repRem w.2 ≠ 0), repZero := false }
  | 0x1021 => { c with repc := if repRem w.2 = 0 then 0 else w.2, repFresh := false,
                       repZero := decide (repRem w.2 = 0) }
  | _ => c

/-- The end of an issue cycle: the sequencer picks the next bundle, then the system-register writes, `rot` and the
rotations of ended iterations are made (R190, R195, R201, R202), and the issue cycle is counted (R156). `sp` is the
header's SP bit (R143, R375). A WINB that `mts` writes in such an END bundle is written first and the -1 applied to it (DESIGN
CHOICE, log 80). -/
def Room.advance (r : Room) (sp : Bool) : Room :=
  let c := r.ctx
  let q := c.seqNext r.ctl
  let c1 := c.sysWrites.foldl Ctx.sysWrite { c with repc := q.repc, repZero := false, repFresh := false }
  let winb := winbAdd c1.winb (c.rotBy - (q.rots : Int))
  let c2 : Ctx := { c1 with
    sysWrites := [], rotBy := 0, winb := winb, ic := c.ic + 1
    redirects := c.redirects.filter fun x => decide (c.ic + 1 < x.due) || (!q.again && x.due == c.ic + 1)
    sinceSp := if sp && !q.again then 0 else c.sinceSp + 1
    sinceStop := if (sp && !q.again) || q.ended then 0 else c.sinceStop + 1 }
  let here (again ended : Bool) (r : Room) : Room :=
    { r with ctl := .none, spHere := sp && !again, stopHere := (sp && !again) || ended }
  let x : Room := match r.ctl with
    | .halts => { here q.again q.ended r with life := .halting, bkptPassed := false,
                                              ctx := { c2 with pc := c.pc, loops := q.loops, redirects := [] } }
    | .returned again ended =>
      { here again ended r with ctx := { c with
          ic := c.ic + 1, sinceSp := if sp && !again then 0 else c.sinceSp + 1,
          sinceStop := if (sp && !again) || ended then 0 else c.sinceStop + 1 } }
    | _ => { here q.again q.ended r with bkptPassed := q.again, ctx := { c2 with pc := q.pc, loops := q.loops } }
  let y := x.landStores
  if y.snapDue then y.takeSnap else y

/-! ### Branches (R188, R189) -/

/-- A taken branch: its target issues three cycles on (R189). -/
def Ctx.redirect (c : Ctx) (t : DWord) (pops : Bool) : Ctx :=
  { c with redirects := c.redirects ++ [{ due := c.ic + 3, target := t, pops := pops }] }

/-- R188: the target of `br` and `call`. -/
def Ctx.relTarget (c : Ctx) (f : BForm) : DWord := c.pc + 32 * (f.off.signExtend 64)

/-- A branch: not taken, nothing; taken, the target's alignment, the redirection and the link (R188). -/
def branchOp (i : Instr) (f : BForm) (target : Ctx → DWord) (pops link : Bool) (s : State) :
    Host.Outcome State Fault Refusal :=
  roomOp i 0 s fun r =>
    let c := r.ctx
    if !c.guard f.gi f.gn then .ok r
    else
      match (if link then c.landAt 0 1 (.a 15 (c.pc + 96)) Raised.none else .ok c) with
      | .error k => .error k
      | .ok c1 =>
        if (target c).toNat % 32 != 0 then .error (misaligned 0)
        else .ok { r with ctx := c1.redirect (target c) pops }

/-- `br` (R188, R191). -/
def execBr (f : BForm) (s : State) : Host.Outcome State Fault Refusal :=
  branchOp (.br f) f (fun c => c.relTarget f) true false s

/-- `jr` (R188, R191). -/
def execJr (f : BForm) (s : State) : Host.Outcome State Fault Refusal :=
  branchOp (.jr f) f (fun c => c.readA f.a.toNat) true false s

/-- `call` (R188). -/
def execCall (f : BForm) (s : State) : Host.Outcome State Fault Refusal :=
  branchOp (.call f) f (fun c => c.relTarget f) false true s

/-- `callr` (R188): the target is the old value when it is a15. -/
def execCallr (f : BForm) (s : State) : Host.Outcome State Fault Refusal :=
  branchOp (.callr f) f (fun c => c.readA f.a.toNat) false true s

/-- `ret` (R188). -/
def execRet (f : BForm) (s : State) : Host.Outcome State Fault Refusal :=
  branchOp (.ret f) f (fun c => c.readA 15) false false s

/-! ### Loops and repeats (R193, R197, R198, R202) -/

/-- R193: the count of a loop. -/
def Ctx.loopCount (c : Ctx) (f : LForm) : Nat :=
  if f.cr = 0 then f.cnt.toNat else (c.readS (f.cnt.truncate 6)).toNat

/-- `loop` and `loop.rot` (R193). -/
def execLoop (f : LForm) (s : State) : Host.Outcome State Fault Refusal :=
  roomOp (.loop f) 0 s fun r =>
    let c := r.ctx
    let last := c.pc + BitVec.ofNat 64 (32 * f.endB.toNat)
    if c.redirects != [] then .error (illegal 0)
    else if c.loopCount f = 0 then .ok { r with ctl := .skip (last + 32) }
    else if 6 ≤ c.loops.length then .error (cause 0x05 0)
    else .ok { r with ctx.loops :=
      { start := c.pc + 32, last := last, count := c.loopCount f, rot := f.rot == 1 } :: c.loops }

/-- `rep`: the checks of R198 on the bundle that R190 selects next, then the repeat armed for it (R197). A bundle
whose page is not resident holds the room before any effect. -/
def execRep (f : PForm) (s : State) : Host.Outcome State Fault Refusal :=
  slotOp (.rep f) 0 s fun s =>
    let r := s.me
    let c := r.ctx
    let arm : State :=
      { s with me := { r with ctx.sysWrites := c.sysWrites ++ [(repNumber, repWord f.n.toNat f.k.toNat 0)] } }
    if c.redirects != [] then .error (illegal 0)
    else
      match s.codeAt r (c.seqNext r.ctl).pc with
      | .miss p => .ok { s with me := r.noteMiss (.codePage p) }
      | .outside => .ok arm
      | .word w =>
        match repeatCheck w f.n.toNat f.k.toNat 0 with
        | some k => .error k
        | none => .ok arm

/-- `rot` (R202). -/
def execRot (f : IForm) (s : State) : Host.Outcome State Fault Refusal :=
  roomOp (.rot f) 0 s fun r => .ok { r with ctx.rotBy := immSigned f.imm }

/-- `trap`: TRAP_INSN is due at the boundary that follows (R203). -/
def execTrap (f : IForm) (s : State) : Host.Outcome State Fault Refusal :=
  roomOp (.trap f) 0 s fun r =>
    .ok { r with ctx.due := r.ctx.due ++ [{ code := 0x2A, slot := 0, sub := 0, aux := 0, index := immNat f.imm }] }

/-- `halt`: the room issues nothing more (R204). -/
def execHalt (f : BForm) (s : State) : Host.Outcome State Fault Refusal :=
  roomOp (.halt f) 0 s fun r => .ok { r with ctl := .halts }

/-! ### System registers (R162, R201) -/

/-- TBSTAT (R44). -/
def State.tbstat (s : State) (core : Nat) : Nat :=
  s.hall.src % 4 + 4 * b2n s.hall.lock + 8 * b2n (s.coreOf core).aligned

/-- STATUS (R385). -/
def Room.status (r : Room) : Nat :=
  b2n r.ctx.poison + 2 * b2n r.ctx.hmode + 8 * b2n r.snap.isSome + 256 * min r.pendLatches 255

/-- The value that `mfs` reads (R162, R201). -/
def State.sysRead (s : State) (n : Nat) : Nat :=
  let r := s.me
  let c := r.ctx
  match n with
  | 0x001 => c.fx.toNat | 0x002 => c.qx.toNat
  | 0x010 => (s.coreOf r.core).tb / 2 ^ 16 % 2 ^ 64 | 0x011 => (s.coreOf r.core).tb % 2 ^ 16
  | 0x012 => s.tbstat r.core
  | 0x020 => c.winb.toNat | 0x021 => c.repc.toNat
  | 0x030 => r.roomid.toNat | 0x031 => r.roomxy.toNat | 0x032 => r.roomz.toNat | 0x033 => r.teamid.toNat
  | 0x034 => r.teamxy.toNat | 0x035 => r.teamz.toNat | 0x036 => r.spsize.toNat
  | 0x037 => c.phase.toNat
  | 0x040 => r.dm[0].toNat | 0x041 => r.dm[1].toNat | 0x042 => r.dm[2].toNat | 0x043 => r.dm[3].toNat
  | 0x044 => r.dm[4].toNat | 0x045 => r.dm[5].toNat | 0x046 => r.dm[6].toNat | 0x047 => r.dm[7].toNat
  | 0x050 => r.atticBase.toNat | 0x051 => r.atticSize.toNat | 0x052 => r.atticOvf.toNat
  | 0x060 => c.trapc.toNat | 0x061 => c.trappc.toNat
  | 0x062 => Config.ctxVersion.toNat | 0x063 => r.status
  | _ => 0

/-- `mfs`: a system register read in its issue cycle (R201). -/
def execMfs (sl : SSlot) (f : IForm) (s : State) : Host.Outcome State Fault Refusal :=
  slotOp (.mfs sl f) (sNum sl) s fun s =>
    let n := immNat f.imm
    let v := s.sysRead n
    let dst : LandVal := if sysWidth n = some 64 then destA f.d (BitVec.ofNat 64 v) else destS s.me.ctx f.d (BitVec.ofNat 32 v)
    match s.me.ctx.landAt (sNum sl) 1 dst Raised.none with
    | .ok c => .ok { s with me := { s.me with ctx := c } }
    | .error k => .error k

/-- The system-register write of an `mts`, made at the end of the cycle (R201). -/
def Room.queueSys (r : Room) (n : Nat) (v : Word) : Room := { r with ctx.sysWrites := r.ctx.sysWrites ++ [(n, v)] }

/-- `mts` to FX, QX or WINB; an illegal rounding mode raises ILLEGAL_BUNDLE (R201, R56). -/
def execMts (f : IForm) (s : State) : Host.Outcome State Fault Refusal :=
  roomOp (.mts f) 0 s fun r =>
    let v := r.ctx.readS f.a
    if immNat f.imm = 0x001 && decide (5 ≤ fxRm v) then .error (illegal 0)
    else .ok (r.queueSys (immNat f.imm) v)

/-- `mts` to REPC: arms or cancels a repeat of the next bundle (R200). -/
def execRepcWrite (f : IForm) (s : State) : Host.Outcome State Fault Refusal :=
  roomOp (.repcWrite f) 0 s fun r => .ok (r.queueSys 0x021 (r.ctx.readS f.a))

end Sys2Proof.Machine
end

