-- ==== Sys2Proof/Machine/VectorValues.lean ====
section
/-! DEFINITION. The value functions of the V instructions (08, R218 to R231, R236, R238): destination encoding and flags
from the source encodings. -/

namespace Sys2Proof.Machine

/-- Format, ES and a way to read a source encoding of a region. -/
def descVal (d enc : Nat) : Val := decodeVal (descFmt d) (descEs d) enc

/-- A result written in the format of DD, rounded once (R207, R218). -/
def writeVal (dd : Nat) (rm : RM) (v : Val × Fl) : Nat × Fl :=
  let r := convVal (descFmt dd) (descEs dd) rm false v.1
  (r.1, Fl.or v.2 r.2)

/-- The canonical quiet NaN in the format of a region (R58). -/
def qnanOf (dd : Nat) : Nat := match descFmt dd with | .ieee eb fb => ieeeQnan eb fb | _ => 0

/-- The integer value of an encoding in an integer format. -/
def intOf (d enc : Nat) : Int :=
  match descFmt d with
  | .int true b => sext enc b
  | _ => ((enc % 2 ^ (descFmt d).bits : Nat) : Int)

/-- R218: integer results wrap; others round once. -/
def arithFn (int3 : Int → Int → Int → Int) (real : RM → Val → Val → Val → Val × Fl) (rm : RM) (dd da db dc ea eb ec : Nat) :
    Nat × Fl :=
  match descFmt dd with
  | .int _ b => (wrapTo b (int3 (intOf da ea) (intOf db eb) (intOf dc ec)), Fl.none)
  | _ => writeVal dd rm (real rm (descVal da ea) (descVal db eb) (descVal dc ec))

/-- R219: the lesser (or the greater) of two encodings; `num` is the .num form. -/
def minMaxFn (greater num : Bool) (dd da db ea eb : Nat) : Nat × Fl :=
  let a := descVal da ea
  let b := descVal db eb
  let first := if greater then valLess b a else !(valLess b a)
  match descFmt dd with
  | .int _ bits => ((if first then ea else eb) % 2 ^ bits, Fl.none)
  | .ieee _ _ =>
    let fl : Fl := Fl.or a.nanFl b.nanFl
    if a.isNan && b.isNan then (qnanOf dd, fl)
    else if a.isNan then (if num then eb else qnanOf dd, fl)
    else if b.isNan then (if num then ea else qnanOf dd, fl)
    else (if first then ea else eb, fl)
  | _ => writeVal dd .rne (if first then a else b, Fl.none)

/-- R220. -/
def absFn (dd da ea : Nat) : Nat × Fl :=
  match descFmt dd with
  | .int signed b => (wrapTo b (if signed then (intOf da ea).natAbs else intOf da ea), Fl.none)
  | .ieee eb fb => (ea % 2 ^ (eb + fb), Fl.none)
  | _ =>
    let v := descVal da ea
    writeVal dd .rne (if v.isNegative then v.neg else v, Fl.none)

def negFn (dd da ea : Nat) : Nat × Fl :=
  match descFmt dd with
  | .int _ b => (wrapTo b (-(intOf da ea)), Fl.none)
  | .ieee eb fb => (ea ^^^ 2 ^ (eb + fb), Fl.none)
  | _ => writeVal dd .rne ((descVal da ea).neg, Fl.none)

/-- R221: a silent saturating sum or difference. -/
def satFn (minus : Bool) (dd da db ea eb : Nat) : Nat × Fl :=
  match descFmt dd with
  | .int signed b =>
    let x := if minus then intOf da ea - intOf db eb else intOf da ea + intOf db eb
    (wrapTo b (clampI x (intMin signed b) (intMax signed b)), Fl.none)
  | _ => (0, Fl.none)

/-- R221: shifts by b mod N. -/
def vshlFn (dd ea eb : Nat) : Nat × Fl :=
  let n := (descFmt dd).bits
  ((ea <<< (eb % 2 ^ n % n)) % 2 ^ n, Fl.none)
def vshrFn (dd da ea eb : Nat) : Nat × Fl :=
  let n := (descFmt dd).bits
  (wrapTo n (intOf da ea / ((2 ^ (eb % 2 ^ n % n) : Nat) : Int)), Fl.none)

/-- R222: conversion into a non-block format (R69, R70). -/
def cvtFn (rm : RM) (dd da ea : Nat) : Nat × Fl :=
  convVal (descFmt dd) (descEs dd) rm (descFmt da).isInt (descVal da ea)

/-- R223. -/
def rintFn (x : Bool) (rm : RM) (dd da ea : Nat) : Nat × Fl :=
  match descVal da ea, descFmt dd with
  | .nan s, _ => (qnanOf dd, if s then Fl.signalling else Fl.none)
  | .fin neg m e, .ieee eb fb =>
    if 0 ≤ e then (ea, Fl.none)
    else
      let r := roundAt rm neg m e 0
      ((roundIeee eb fb .rne neg r.1 0).1, { nx := x && r.2 })
  | _, _ => (ea, Fl.none)

/-- A faithful result (R225, R229): one of the two neighbours of the exact value, which neighbour being the free
choice `fn` of the stepping; beyond the largest finite value an infinity with OF and NX. -/
def faithful (fn : Nat) (dd enc : Nat) (v : Val) : Nat × Fl :=
  match descFmt dd with
  | .ieee eb fb =>
    let r := roundFaithful eb fb (Config.faithfulUp fn (descFmtCode dd) enc) v
    if r.2.of then (ieeeInf eb fb v.isNegative, { of := true, nx := true }) else r
  | _ => (0, Fl.none)

/-- A special result in the format of DD. -/
def special (dd : Nat) (v : Val) (fl : Fl) : Nat × Fl :=
  match descFmt dd with
  | .ieee eb fb => ((convVal (.ieee eb fb) 0 .rne false v).1, fl)
  | _ => (0, fl)

/-- The canonical quiet NaN, with NV. -/
def invalidRes (dd : Nat) : Nat × Fl := (qnanOf dd, Fl.invalid)
/-- A NaN operand's result: NV only for a signalling one (R58). -/
def nanRes (dd : Nat) (s : Bool) : Nat × Fl := (qnanOf dd, if s then Fl.signalling else Fl.none)

/-- R225: 2^a on [−1, 1]. -/
def fexpFn (dd da ea : Nat) : Nat × Fl :=
  match descVal da ea with
  | .fin neg m e =>
    if m = 0 then special dd Val.one Fl.none
    else
      match valCmp (.fin false m e) Val.one with
      | .gt => invalidRes dd
      | .eq => special dd (if neg then .fin false 1 (-1) else .fin false 2 0) Fl.none
      | .lt => let r := faithful 0 dd ea (exp2Val neg m e); (r.1, { nx := true })
  | .nan s => (qnanOf dd, if s then Fl.signalling else Fl.invalid)
  | _ => invalidRes dd

/-- R226: the exponent taken from DB, none for a NaN. -/
def scaleExp (db eb : Nat) : Option Int :=
  let lim : Int := 2 ^ 20
  match descFmt db with
  | .int _ _ => some (clampI (intOf db eb) (-lim) lim)
  | _ =>
    match descVal db eb with
    | .fin neg m e =>
      let t : Int := if neg then -((roundAt .rtz neg m e 0).1 : Int) else (roundAt .rtz neg m e 0).1
      some (clampI t (-lim) lim)
    | .inf neg => some (if neg then -lim else lim)
    | _ => none

/-- R226: a·2^e rounded once. -/
def scaleFn (rm : RM) (dd da db ea eb : Nat) : Nat × Fl :=
  let a := descVal da ea
  let bFl := match descFmt db with | .int _ _ => Fl.none | _ => (descVal db eb).nanFl
  let fl := Fl.or a.nanFl bFl
  match scaleExp db eb, a with
  | none, _ => (qnanOf dd, fl)
  | _, .nan _ => (qnanOf dd, fl)
  | some e, .fin neg m x => if m = 0 then (ea, Fl.none) else writeVal dd rm (.fin neg m (x + e), Fl.none)
  | _, _ => (ea, Fl.none)

/-- R227. -/
def getexpFn (dd da ea : Nat) : Nat × Fl :=
  match descVal da ea with
  | .fin _ m _ =>
    if m = 0 then special dd (.inf true) { dz := true } else special dd (Val.ofInt (descVal da ea).lg) Fl.none
  | .inf _ => special dd (.inf false) Fl.none
  | .nan s => nanRes dd s
  | .nar => (0, Fl.none)

def getmanFn (dd da ea : Nat) : Nat × Fl :=
  match descVal da ea with
  | .fin neg m _ => if m = 0 then (ea, Fl.none) else special dd (.fin neg m (-(flog2 m : Int))) Fl.none
  | .inf _ => invalidRes dd
  | .nan s => nanRes dd s
  | .nar => (0, Fl.none)

/-- R228: the class codes. -/
def classFn (da ea : Nat) : Nat × Fl :=
  let sub := match descFmt da with | .ieee eb fb => bitsOf ea (eb + fb - 1) fb == 0 | _ => false
  let code := match descVal da ea with
    | .nan s => if s then 0 else 1
    | .inf neg => if neg then 2 else 9
    | .nar => 10
    | .fin neg m _ =>
      if m = 0 then (if neg then 5 else 6)
      else if sub then (if neg then 4 else 7)
      else if neg then 3 else 8
  (code, Fl.none)

/-- R229: 1/a. -/
def rcpFn (dd da ea : Nat) : Nat × Fl :=
  match descVal da ea with
  | .nan s => nanRes dd s
  | .inf neg => special dd (.fin neg 0 0) Fl.none
  | .fin neg m e =>
    if m = 0 then special dd (.inf neg) { dz := true } else faithful 1 dd ea (divFin false 1 0 neg m e)
  | .nar => (0, Fl.none)

/-- R229: 1/√a. -/
def rsqrtFn (dd da ea : Nat) : Nat × Fl :=
  match descVal da ea with
  | .nan s => nanRes dd s
  | .inf neg => if neg then invalidRes dd else special dd .zero Fl.none
  | .fin neg m e =>
    if m = 0 then special dd (.inf neg) { dz := true }
    else if neg then invalidRes dd
    else faithful 2 dd ea (rsqrtVal m e)
  | .nar => (0, Fl.none)

/-- R229: log2 a. -/
def flogFn (dd da ea : Nat) : Nat × Fl :=
  match descVal da ea with
  | .nan s => nanRes dd s
  | .inf neg => if neg then invalidRes dd else special dd (.inf false) Fl.none
  | .fin neg m e =>
    if m = 0 then special dd (.inf true) { dz := true }
    else if neg then invalidRes dd
    else faithful 3 dd ea (log2Val m e)
  | .nar => (0, Fl.none)

/-- NaR in the format of DD, with NR. -/
def narRes (dd : Nat) : Nat × Fl := (2 ^ ((descFmt dd).bits - 1), { nr := true })

/-- R230: division. -/
def divFn (rm : RM) (dd da db ea eb : Nat) : Nat × Fl :=
  let a := descVal da ea
  let b := descVal db eb
  if (descFmt dd).isTap && b.isZero && a != .nar then narRes dd else writeVal dd rm (valDiv a b)

/-- R230: square root. -/
def sqrtFn (rm : RM) (dd da ea : Nat) : Nat × Fl :=
  let a := descVal da ea
  if (descFmt dd).isTap && a.isNegative then narRes dd else writeVal dd rm (valSqrt a)

/-- R231. -/
def cmpFn (code da db ea eb : Nat) : Nat × Fl :=
  let r := valCond code (descVal da ea) (descVal db eb)
  (b2n r.1, r.2)

/-! ### Random numbers (R238) -/

/-- The rounds of Philox-4×32. -/
def philoxGo : Nat → Nat → Nat → Nat → Nat → Nat → Nat → Nat × Nat × Nat × Nat
  | 0, _, _, x0, x1, x2, x3 => (x0, x1, x2, x3)
  | n + 1, k0, k1, x0, x1, x2, x3 =>
    let p0 := 0xD2511F53 * x0
    let p1 := 0xCD9E8D57 * x2
    philoxGo n ((k0 + 0x9E3779B9) % 2 ^ 32) ((k1 + 0xBB67AE85) % 2 ^ 32)
      (bitsOf p1 63 32 ^^^ x1 ^^^ k0) (bitsOf p1 31 0) (bitsOf p0 63 32 ^^^ x3 ^^^ k1) (bitsOf p0 31 0)

/-- Philox(K, h). -/
def philox (k h : Nat) : Nat × Nat × Nat × Nat :=
  philoxGo 10 (bitsOf k 31 0) (bitsOf k 63 32) (bitsOf h 31 0) (bitsOf h 63 32) (bitsOf k 95 64) (bitsOf k 127 96)

/-- The 32-bit word of a global coordinate. -/
def philoxWord (k g : Nat) : Nat :=
  let p := philox k (g / 4)
  match g % 4 with | 0 => p.1 | 1 => p.2.1 | 2 => p.2.2.1 | _ => p.2.2.2

/-- R238: the value of (row, k) under a key and the raw parameters. -/
def randFn (mask : Bool) (dd key par row k : Nat) : Nat × Fl :=
  let g := (bitsOf par 63 0 + row * bitsOf par 95 64 + k) % 2 ^ 64
  let w := philoxWord key g
  let unit (m : Nat) (e : Int) : Nat := (convVal (descFmt dd) 0 .rne false (.fin false m e)).1
  let v := if mask then b2n (decide (w < bitsOf par 127 96))
    else match descFmt dd with
      | .int _ b => w >>> (32 - b)
      | .ieee _ fb =>
        if fb = 52 then unit w (-32) else if fb = 23 then unit (w >>> 8) (-24)
        else if fb = 10 then unit (w >>> 21) (-11) else unit (w >>> 24) (-8)
      | _ => 0
  (v, Fl.none)

end Sys2Proof.Machine
end

