-- ==== Sys2Proof/Machine/VectorOps.lean ====
section
/-! DEFINITION. The V slot (08, R206 to R217, R222 to R240): shapes, beats, the cycle-by-cycle run of an operation, and
the V instructions. -/

namespace Sys2Proof.Machine

/-! ### What each instruction uses (R217) -/

/-- Its regions, whether it works into a q-register, its depth P and rate factor 1/den. -/
structure VInfo where
  a : Bool := true
  b : Bool := false
  c : Bool := false
  d : Bool := true
  q : Bool := false
  depth : Nat
  den : Nat := 1

/-- R217. -/
def vInfo (i : Instr) (isInt : Bool) : VInfo :=
  match i with
  | .vadd _ | .vsub _ => { b := true, depth := if isInt then 2 else 4 }
  | .vmul _ => { b := true, depth := if isInt then 3 else 4 }
  | .vfma _ => { b := true, c := true, depth := if isInt then 3 else 5 }
  | .vmin _ | .vmax _ | .vadds _ | .vsubs _ | .vand _ | .vor _ | .vxor _ | .vshl _ | .vshr _ | .vcmp _ =>
    { b := true, depth := 2 }
  | .vabs _ | .vneg _ | .vmov _ | .vclass _ => { depth := 2 }
  | .vcvt _ | .vrint _ | .vgetexp _ | .vgetman _ | .vbmax _ | .vrmax _ | .vrmin _ => { depth := 4 }
  | .vfexp _ | .vrcp _ | .vrsqrt _ | .vflog _ => { depth := 8, den := 2 }
  | .vscale _ => { b := true, depth := 4 }
  | .vdiv _ => { b := true, depth := 12, den := 4 }
  | .vsqrt _ => { depth := 12, den := 4 }
  | .vsel _ => { b := true, c := true, depth := 2 }
  | .vperm _ => { b := true, depth := 3 }
  | .vgather _ | .vscatter _ => { b := true, depth := 6 }
  | .vsplit _ => { b := true, depth := 6, den := 4 }
  | .vrand _ => { a := false, depth := 6 }
  | .vsum _ => { d := false, q := true, depth := 6 }
  | .vdot _ => { b := true, d := false, q := true, depth := 6 }
  | _ => { a := false, d := false, depth := 2 }

/-- The V format of a V instruction. -/
def vFormOf : Instr → Option VForm
  | .vadd f | .vsub f | .vmul f | .vfma f | .vmin f | .vmax f
  | .vabs f | .vneg f | .vadds f | .vsubs f | .vand f | .vor f
  | .vxor f | .vshl f | .vshr f | .vcvt f | .vrint f | .vmov f
  | .vfexp f | .vscale f | .vgetexp f | .vgetman f | .vclass f | .vrcp f
  | .vrsqrt f | .vdiv f | .vsqrt f | .vflog f | .vcmp f | .vsel f
  | .vperm f | .vgather f | .vscatter f | .vbmax f | .vsplit f | .vrand f
  | .vsum f | .vdot f | .vrmax f | .vrmin f => some f
  | _ => none

/-! ### Shapes (R206 to R210) -/

/-- R210: the capacity of a stream, none when unlimited. -/
def streamCap (d : Nat) : Option Nat :=
  let f := descFmt d
  let z := f.elemBytes
  let dbl := if f.isNibble then 2 else 1
  if f.isBlk then some 64
  else if descStride d = 0 then none
  else if descStride d = z && descBase d % 64 == 0 && (descRows d == 1 || descRstride d % 64 == 0) then
    some (256 / z * dbl)
  else if (descStride d).natAbs = z then some (128 / z * dbl)
  else some (4 * dbl)

/-- R208: the common number of values of a row of regions that agree, none when they do not. -/
def agreeNv (ds : List Nat) : Option Nat :=
  let plain := ds.filter fun d => !(descFmt d).isBlk
  let blocks := ds.filter fun d => (descFmt d).isBlk
  let nrOk := match ds with | [] => true | d :: _ => ds.all fun x => descRows x == descRows d
  if !nrOk then none
  else
    match plain, blocks with
    | p :: _, _ =>
      if plain.all (fun x => descVals x == descVals p) && blocks.all (fun x => descCount x == cdiv (descVals p) 32) then
        some (descVals p)
      else none
    | [], b :: _ => if blocks.all fun x => descCount x == descCount b then some (descVals b) else none
    | [], [] => none

/-- The schedule of an operation (R210): values per beat, rows, values of a row, beats of a row, and beats. -/
structure VPlan where
  n : Nat
  nr : Nat
  nv : Nat
  b : Nat
  nb : Nat
  deriving DecidableEq, Repr

/-- R210: beats of n values. -/
def planOf (n nr nv : Nat) : VPlan := { n := n, nr := nr, nv := nv, b := cdiv nv n, nb := nr * cdiv nv n }

/-- R210: the beat size of streams at rate 1/den. -/
def beatSize (den nv : Nat) (streams : List Nat) : Nat :=
  match (streams.filterMap streamCap) with
  | [] => max 1 nv
  | c :: cs => max 1 ((cs.foldl min c) / den)

/-- An operation with its four descriptors. -/
structure VRegs where
  dd : Nat
  da : Nat
  db : Nat
  dc : Nat
  deriving DecidableEq, Repr

/-- The regions an instruction names, in the order DA, DB, DC, DD (R213). -/
def vRegions (i : Instr) (g : VRegs) : List Nat :=
  let v := vInfo i (descFmt g.dd).isInt
  (if v.a then [g.da] else []) ++ (if v.b then [g.db] else []) ++ (if v.c then [g.dc] else []) ++
  (if v.d then [g.dd] else [])

/-- The FMT code each region must carry (R207, "CFMT on"). -/
def vFmtOk (i : Instr) (cf : Nat) (g : VRegs) : Bool :=
  let a := descFmtCode g.da; let b := descFmtCode g.db; let c := descFmtCode g.dc; let d := descFmtCode g.dd
  match i with
  | .vadd _ | .vsub _ | .vmul _ | .vmin _ | .vmax _ | .vadds _ | .vsubs _ | .vand _ | .vor _ | .vxor _ | .vshl _
  | .vshr _ | .vdiv _ => a == cf && b == cf && d == cf
  | .vfma _ => a == cf && b == cf && c == cf && d == cf
  | .vabs _ | .vneg _ | .vrint _ | .vmov _ | .vfexp _ | .vgetexp _ | .vgetman _ | .vrcp _ | .vrsqrt _ | .vsqrt _
  | .vflog _ | .vrmax _ | .vrmin _ => a == cf && d == cf
  | .vcvt _ => d == cf
  | .vscale _ => a == cf && d == cf && (b == 0x04 || b == cf)
  | .vclass _ | .vbmax _ => a == cf && d == 0x01
  | .vcmp _ => a == cf && b == cf && d == 0x01
  | .vsel _ => a == cf && b == cf && d == cf && c == 0x01
  | .vperm _ => a == cf && d == cf && b == 0x01
  | .vgather _ | .vscatter _ => a == cf && d == cf && (b == 0x01 || b == 0x03 || b == 0x05)
  | .vsplit _ => a == cf && d == 0x00 && b == 0x02
  | .vrand _ => d == cf
  | .vsum _ => a == cf
  | .vdot _ => a == cf && FmtSet.sum.holds b
  | _ => false

/-- One-dimensional (R153): ROWS at most 1. -/
def oneDim (d : Nat) : Bool := descRowsField d == 0

/-- R208, R210, R233, R234, R236, R237, R240: the schedule of an operation; none when its shape is refused. -/
def vPlan (i : Instr) (g : VRegs) : Option VPlan :=
  let v := vInfo i (descFmt g.dd).isInt
  let ds := vRegions i g
  let nrA := descRows g.da
  let nvA := descVals g.da
  match i with
  | .vperm _ =>
    let pn := descCount g.db
    let cap := match streamCap g.da, streamCap g.dd with
      | some x, some y => min x y | some x, none => x | none, some y => y | none, none => 0
    let z : Int := (descFmt g.da).elemBytes
    if !oneDim g.db || descStride g.db != 1 || pn == 0 || decide (256 < pn) || descStride g.da != z ||
        descStride g.dd != z || decide (cap < pn) then none
    else match agreeNv [g.da, g.dd] with
      | some nv => if nv % pn = 0 then some (planOf (pn * (cap / pn)) nrA nv) else none
      | none => none
  | .vgather _ => match agreeNv [g.db, g.dd] with
    | some nv => some (planOf 1 (descRows g.dd) nv)
    | none => none
  | .vscatter _ => match agreeNv [g.db, g.da] with
    | some nv => some (planOf 1 nrA nv)
    | none => none
  | .vbmax _ =>
    if descRows g.dd = nrA && descCount g.dd = cdiv nvA 32 then some (planOf (beatSize v.den nvA ds) nrA nvA) else none
  | .vsplit _ =>
    if descRows g.dd = 8 * nrA && descVals g.dd = nvA && oneDim g.db && descCount g.db = nrA then
      let p := planOf (beatSize v.den nvA ds) nrA nvA
      some { p with nb := 2 * p.nb }
    else none
  | .vrand _ =>
    let nv := descVals g.dd
    some (planOf (min 64 (beatSize v.den nv ds)) (descRows g.dd) nv)
  | .vrmax _ | .vrmin _ =>
    if oneDim g.dd && descCount g.dd = nrA then some (planOf (beatSize v.den nvA ds) nrA nvA) else none
  | _ => match agreeNv ds with
    | some nv => some (planOf (beatSize v.den nv ds) (match ds with | d :: _ => descRows d | [] => 1) nv)
    | none => none

/-! ### Values in scratchpad (R206, R51, R66) -/

/-- The bytes of value i of a row of a region; of a block value, the shared exponent and the bytes of its mantissa. -/
def valBytes (d : Nat) (v : Nat × Nat) : List Nat :=
  let f := descFmt d
  let base := (elemAddr d v.1 (v.2 / f.valsPerElem)).toNat
  match f with
  | .blk w =>
    let lo := w * (v.2 % 32)
    base :: (List.range ((lo + w - 1) / 8 + 1 - lo / 8)).map fun j => base + 1 + lo / 8 + j
  | _ => (List.range f.elemBytes).map (base + ·)

/-- The encoding of a value as the scratchpad holds it. -/
def Room.encAt (r : Room) (d : Nat) (v : Nat × Nat) : Nat :=
  let f := descFmt d
  let base := (elemAddr d v.1 (v.2 / f.valsPerElem)).toNat
  match f with
  | .blk w => (blockEncs w (Memory.read r.scratch base (4 * w + 1))).getD (v.2 % 32) 0
  | _ =>
    let x := Memory.readNat r.scratch base f.elemBytes
    if f.isNibble then laneOf 4 x (v.2 % 2) else x

/-- The bytes of a poison value of one element (R71). -/
def poisonBytes (f : Fmt) : List Byte :=
  match f with
  | .blk w => blockBytes w 255 []
  | _ => if f.isNibble then [0] else toBytes f.elemBytes (poisonEnc f)

/-- The bytes of an element as a read delivers them: those of its poison value when one is uncorrectable (R97, R99). -/
def Room.elemSeen (r : Room) (k : Core) (f : Fmt) (src : Nat) : List Byte :=
  if (List.range f.elemBytes).any fun j => r.byteBad k (src + j) then poisonBytes f
  else Memory.read (r.seen k).scratch src f.elemBytes

/-- Reads the values of a beat of one stream: its engine-port accesses, then the encodings, poison values where the
check found an uncorrectable byte (R97, R99, R213). False when an access did not take place. -/
def Room.readStream (r : Room) (k : Core) (slot c0 : Nat) (lost : Bool) (d : Nat) (vals : List (Nat × Nat)) :
    Room × List Nat × Bool :=
  let addrs := vals.flatMap (valBytes d)
  let acc := r.engAccess slot c0 lost false addrs
  if acc.2 then
    let rd := acc.1.readChecked k addrs
    let enc (v : Nat × Nat) : Nat :=
      if rd.2.2 && (valBytes d v).any (r.byteBad k) then poisonEnc (descFmt d) else (r.seen k).encAt d v
    (rd.1, vals.map enc, true)
  else (acc.1, [], false)

/-- The cells of encodings written to values of a region, with the halves of i4 and n4 bytes apart. -/
def valCells (d : Nat) (vals : List (Nat × Nat)) (encs : List Nat) : List Host.Cell × List (Nat × Bool × Nat) :=
  let f := descFmt d
  let pairs := vals.zip encs
  if f.isNibble then
    ([], pairs.map fun p => ((elemAddr d p.1.1 (p.1.2 / 2)).toNat, p.1.2 % 2 == 1, p.2 % 16))
  else (pairs.flatMap fun p => cellsAt (elemAddr d p.1.1 p.1.2).toNat (toBytes f.elemBytes p.2), [])

/-- Merges halves into the bytes that the scratchpad holds now. -/
def Room.halfCells (r : Room) (hs : List (Nat × Bool × Nat)) : List Host.Cell :=
  (hs.foldl (fun m h =>
    let old := (Memory.get m h.1).toNat
    let new := if h.2.1 then old % 16 + 16 * h.2.2 else old / 16 * 16 + h.2.2
    Memory.put m h.1 (BitVec.ofNat 8 new)) r.scratch) |> fun m => hs.map fun h => (h.1, Memory.get m h.1)

/-! ### One beat (R211, R213) -/

/-- The values that beat j covers, the row, and whether they end it. -/
def VPlan.beat (p : VPlan) (j : Nat) : List (Nat × Nat) :=
  let row := j / p.b
  let m := j % p.b
  (List.range (min p.n (p.nv - m * p.n))).map fun x => (row, m * p.n + x)

/-- Value-wise result (R218 to R232). -/
def vValue (i : Instr) (f : VForm) (rm : RM) (g : VRegs) (ea eb ec : Nat) : Nat × Fl :=
  match i with
  | .vadd _ => arithFn (fun a b _ => a + b) (fun rm a b _ => valAdd rm a b) rm g.dd g.da g.db g.dc ea eb ec
  | .vsub _ => arithFn (fun a b _ => a - b) (fun rm a b _ => valAdd rm a b.neg) rm g.dd g.da g.db g.dc ea eb ec
  | .vmul _ => arithFn (fun a b _ => a * b) (fun _ a b _ => valMul a b) rm g.dd g.da g.db g.dc ea eb ec
  | .vfma _ => arithFn (fun a b c => a * b + c) (fun rm a b c => valFma rm a b c) rm g.dd g.da g.db g.dc ea eb ec
  | .vmin _ => minMaxFn false (f.fn == 1) g.dd g.da g.db ea eb
  | .vmax _ => minMaxFn true (f.fn == 1) g.dd g.da g.db ea eb
  | .vabs _ => absFn g.dd g.da ea
  | .vneg _ => negFn g.dd g.da ea
  | .vadds _ => satFn false g.dd g.da g.db ea eb
  | .vsubs _ => satFn true g.dd g.da g.db ea eb
  | .vand _ => (ea &&& eb, Fl.none)
  | .vor _ => (ea ||| eb, Fl.none)
  | .vxor _ => (ea ^^^ eb, Fl.none)
  | .vshl _ => vshlFn g.dd ea eb
  | .vshr _ => vshrFn g.dd g.da ea eb
  | .vcvt _ => cvtFn rm g.dd g.da ea
  | .vrint _ => rintFn (f.fn == 1) rm g.dd g.da ea
  | .vmov _ => (ea, Fl.none)
  | .vfexp _ => fexpFn g.dd g.da ea
  | .vscale _ => scaleFn rm g.dd g.da g.db ea eb
  | .vgetexp _ => getexpFn g.dd g.da ea
  | .vgetman _ => getmanFn g.dd g.da ea
  | .vclass _ => classFn g.da ea
  | .vrcp _ => rcpFn g.dd g.da ea
  | .vrsqrt _ => rsqrtFn g.dd g.da ea
  | .vdiv _ => divFn rm g.dd g.da g.db ea eb
  | .vsqrt _ => sqrtFn rm g.dd g.da ea
  | .vflog _ => flogFn g.dd g.da ea
  | .vcmp _ => cmpFn f.fn.toNat g.da g.db ea eb
  | .vsel _ => (if ec = 0 then eb else ea, Fl.none)
  | _ => (0, Fl.none)

/-- What a beat makes of the encodings it read: the operation with its row state, and the write it forms. -/
structure BeatOut where
  flight : Flight
  cells : List Host.Cell
  halves : List (Nat × Bool × Nat)
  raised : Raised

def BeatOut.nothing (f : Flight) : BeatOut := { flight := f, cells := [], halves := [], raised := Raised.none }

/-- A plain write of encodings to values of DD. -/
def outValues (f : Flight) (d : Nat) (vals : List (Nat × Nat)) (encs : List Nat) (raised : Raised) : BeatOut :=
  let c := valCells d vals encs
  { flight := f, cells := c.1, halves := c.2, raised := raised }

/-- The flags of values with their value indices. -/
def raiseVals (nv : Nat) (vals : List (Nat × Nat)) (fls : List Fl) : Raised :=
  (vals.zip fls).foldl (fun r x => r.add (x.1.1 * nv + x.1.2) x.2) Raised.none

/-- R222: the blocks of a destination whose last source value has been read. `buf` holds the encodings of the row
read so far and not yet in a written block; `at` is the first value they stand for. -/
def quantOut (p : VPlan) (g : VRegs) (f : Flight) (row k0 : Nat) (encs : List Nat) (rowEnd : Bool) : BeatOut :=
  let all := f.buf ++ encs
  let first := k0 - f.buf.length
  let full := if rowEnd then cdiv all.length 32 else all.length / 32
  let w := match descFmt g.dd with | .blk w => w | _ => 8
  let blocks := (List.range full).map fun b =>
    let src := (all.drop (32 * b)).take 32
    let vs := src.map (descVal g.da)
    let q := quantBlock w (vs ++ List.replicate (32 - vs.length) Val.zero)
    let addr := (elemAddr g.dd row (first / 32 + b)).toNat
    (cellsAt addr (blockBytes w q.1 q.2.1), first + 32 * b, q.2.2.take src.length)
  let raised := blocks.foldl (fun r x => r.addList (row * p.nv + x.2.1) x.2.2) Raised.none
  { flight := { f with buf := all.drop (32 * full) }, cells := blocks.flatMap fun x => x.1, halves := [], raised := raised }

/-- R224: blocks copied whole in the beat that covers their last value. -/
def blockMove (r : Room) (k : Core) (p : VPlan) (g : VRegs) (f : Flight) (vals : List (Nat × Nat)) : BeatOut :=
  let done := vals.filter fun v => v.2 % 32 == 31 || v.2 + 1 == p.nv
  let cells := done.flatMap fun v =>
    cellsAt (elemAddr g.dd v.1 (v.2 / 32)).toNat (r.elemSeen k (descFmt g.da) (elemAddr g.da v.1 (v.2 / 32)).toNat)
  { flight := f, cells := cells, halves := [], raised := Raised.none }

/-- R240: the extreme of a row by the ordering of R219. -/
def rowExtreme (greater num : Bool) (g : VRegs) : List Nat → Nat × Fl
  | [] => (0, Fl.none)
  | e :: es =>
    let pick (x y : Nat) : Nat := (minMaxFn greater num g.da g.da g.da x y).1
    (es.foldl pick e, Fl.none)

/-- R240: the encoding written for a row. A one-value row is its own extreme, canonical when it is a NaN. -/
def rowResult (greater num : Bool) (g : VRegs) (encs : List Nat) : Nat × Fl :=
  let x := (rowExtreme greater num g encs).1
  match descFmt g.dd with
  | .tap _ => writeVal g.dd .rne (descVal g.da x, Fl.none)
  | .ieee _ _ => (if (descVal g.da x).isNan then qnanOf g.dd else x, Fl.none)
  | _ => (x, Fl.none)

/-- R236: the exponents of the blocks whose last value has been read. -/
def bmaxOut (p : VPlan) (g : VRegs) (f : Flight) (row k0 : Nat) (encs : List Nat) (rowEnd : Bool) : BeatOut :=
  let all := f.buf ++ encs
  let first := k0 - f.buf.length
  let full := if rowEnd then cdiv all.length 32 else all.length / 32
  let done := (List.range full).map fun b => blockExp (((all.drop (32 * b)).take 32).map (descVal g.da))
  let raised := (encs.zipIdx).foldl (fun r x =>
    if (descVal g.da x.1).isSnan then r.add (row * p.nv + k0 + x.2) Fl.signalling else r) Raised.none
  let vals := (List.range full).map fun b => (row, first / 32 + b)
  let c := valCells g.dd vals done
  { flight := { f with buf := all.drop (32 * full) }, cells := c.1, halves := c.2, raised := raised }

/-- R237: the first pass forms the row's exponent, the second writes the digits. -/
def splitOut (p : VPlan) (g : VRegs) (f : Flight) (row k0 : Nat) (second : Bool) (encs : List Nat) (rowEnd : Bool) :
    BeatOut :=
  if second then
    let digits := encs.map fun e => splitDigits f.rowInvalid f.rowExp (descVal g.da e)
    let cells := (List.range 8).flatMap fun q =>
      (valCells g.dd ((List.range encs.length).map fun x => (8 * row + q, k0 + x))
        (digits.map fun ds => wrapTo 8 (ds.getD q 0))).1
    { flight := f, cells := cells, halves := [], raised := Raised.none }
  else
    let all := f.buf ++ encs
    if rowEnd then
      let s := splitExp (all.map (descVal g.da))
      let c := valCells g.db [(0, row)] [wrapTo 16 s.2.1]
      { flight := { f with buf := [], rowInvalid := s.1, rowExp := s.2.1 }, cells := c.1, halves := c.2,
        raised := Raised.addList Raised.none (row * p.nv) s.2.2 }
    else BeatOut.nothing { f with buf := all }

/-- R239, R83: adds the values of a beat to the operation's exact sum. -/
def sumOut (p : VPlan) (dot : Bool) (g : VRegs) (f : Flight) (vals : List (Nat × Nat)) (as bs : List Nat) : BeatOut :=
  let one : Val := Val.one
  let cls := (if dot then classOf2 (descFmt g.da) (descEs g.da) (descFmt g.db) (descEs g.db)
    else classOf (descFmt g.da) (descEs g.da)).getD .clear
  let r := (vals.zip (as.zip (if dot then bs else as))).foldl (fun (st : Quire × Raised) x =>
    let y := st.1.gather cls (descVal g.da x.2.1) (if dot then descVal g.db x.2.2 else one)
    (y.1, st.2.add (x.1.1 * p.nv + x.1.2) y.2)) (f.acc, Raised.none)
  { flight := { f with acc := r.1 }, cells := [], halves := [], raised := r.2 }

/-- R234: the shape of a table. -/
def tableSize (d : Nat) : Nat := descRows d * descVals d

/-- R234: one gathered or scattered value; what is written and the escape. -/
def tableOut (r : Room) (p : VPlan) (gather : Bool) (g : VRegs) (f : Flight) (v : Nat × Nat) (idx data : Nat) : BeatOut :=
  let tbl := if gather then g.da else g.dd
  let at_ := (idx / descVals tbl, idx % descVals tbl)
  if idx < tableSize tbl then
    if gather then outValues f g.dd [v] [r.encAt tbl at_] Raised.none
    else outValues f g.dd [at_] [data] Raised.none
  else
    let f1 := { f with escape := minOpt f.escape (some (v.1 * p.nv + v.2)) }
    if gather then outValues f1 g.dd [v] [0] Raised.none else BeatOut.nothing f1

/-! ### The run of an operation (R211, R213, R215, R235) -/

/-- Reads of beat j and the write it forms; lost when an access did not take place. -/
def vRead (r : Room) (k : Core) (fv : VForm) (g : VRegs) (p : VPlan) (f : Flight) (j : Nat) : Room × BeatOut × Bool :=
  let v := vInfo f.op (descFmt g.dd).isInt
  let isSplit := match f.op with | .vsplit _ => true | _ => false
  let isPerm := match f.op with | .vperm _ => true | _ => false
  let second := isSplit && (j / p.b) % 2 == 1
  let jj := if isSplit then j / (2 * p.b) * p.b + j % p.b else j
  let vals := p.beat jj
  let row := jj / p.b
  let k0 := jj % p.b * p.n
  let rowEnd := jj % p.b + 1 == p.b
  let rd (r : Room) (on : Bool) (d : Nat) (vs : List (Nat × Nat)) : Room × List Nat × Bool :=
    if on then r.readStream k 2 f.c0 f.lost d vs else (r, [], true)
  match f.op with
  | .vgather _ =>
    let b := rd r true g.db vals
    let idx := b.2.1.getD 0 0
    let tblV := (idx / descVals g.da, idx % descVals g.da)
    let inside := decide (idx < tableSize g.da)
    let r1 := if inside && b.2.2 then
        let m : Room := match b.1.miss with | some _ => b.1 | none => { b.1 with miss := b.1.missOf (valBytes g.da tblV) }
        ((m.watchHits 2 false (valBytes g.da tblV)).readChecked k (valBytes g.da tblV)).1
      else b.1
    let bad := inside && (valBytes g.da tblV).any (r.byteBad k)
    let o := tableOut (r.seen k) p true g f (vals.getD 0 (0, 0)) idx 0
    let o' := if bad then outValues f g.dd vals [poisonEnc (descFmt g.da)] Raised.none else o
    (r1, o', b.2.2)
  | .vscatter _ =>
    let a := rd r true g.da vals
    let b := rd a.1 true g.db vals
    (b.1, tableOut r p false g f (vals.getD 0 (0, 0)) (b.2.1.getD 0 0) (a.2.1.getD 0 0), a.2.2 && b.2.2)
  | .vmov _ =>
    if (descFmt g.da).isBlk then
      let done := vals.filter fun v => v.2 % 32 == 31 || v.2 + 1 == p.nv
      let whole := done.flatMap fun v =>
        (List.range (descFmt g.da).elemBytes).map ((elemAddr g.da v.1 (v.2 / 32)).toNat + ·)
      let acc := r.engAccess 2 f.c0 f.lost false whole
      let rc := if acc.2 then (acc.1.readChecked k whole).1 else acc.1
      (rc, blockMove r k p g f vals, acc.2)
    else
      let a := rd r true g.da vals
      (a.1, outValues f g.dd vals a.2.1 Raised.none, a.2.2)
  | _ =>
    let bVals := if isPerm then (if j = 0 then (List.range (descCount g.db)).map fun x => (0, x) else [])
      else if isSplit then [] else vals
    let a := rd r v.a g.da vals
    let b := rd a.1 v.b g.db bVals
    let c := rd b.1 v.c g.dc vals
    let ok := a.2.2 && b.2.2 && c.2.2
    let o : BeatOut := match f.op with
      | .vrand _ =>
        outValues f g.dd vals (vals.map fun x => (randFn (fv.fn == 1) g.dd g.db g.dc x.1 x.2).1) Raised.none
      | .vsum _ => sumOut p false g f vals a.2.1 []
      | .vdot _ => sumOut p true g f vals a.2.1 b.2.1
      | .vbmax _ => bmaxOut p g f row k0 a.2.1 rowEnd
      | .vsplit _ => splitOut p g f row k0 second a.2.1 rowEnd
      | .vperm _ =>
        let pat := if j = 0 then b.2.1 else f.buf
        let pn := descCount g.db
        let encs := (List.range vals.length).map fun x => a.2.1.getD (x / pn * pn + pat.getD (x % pn) 0 % pn) 0
        outValues { f with buf := pat } g.dd vals encs Raised.none
      | .vrmax _ | .vrmin _ =>
        let greater := match f.op with | .vrmax _ => true | _ => false
        let all := f.buf ++ a.2.1
        let sn := (a.2.1.zipIdx).foldl (fun r x =>
          if (descVal g.da x.1).isSnan then r.add (row * p.nv + k0 + x.2) Fl.signalling else r) Raised.none
        if rowEnd then
          let x := rowResult greater (fv.fn == 1) g all
          outValues { f with buf := [] } g.dd [(0, row)] [x.1] (sn.merge (Raised.of1 row x.2))
        else { flight := { f with buf := all }, cells := [], halves := [], raised := sn }
      | .vcvt _ =>
        if (descFmt g.dd).isBlk then quantOut p g f row k0 a.2.1 rowEnd
        else
          let xs := a.2.1.map fun e => cvtFn f.rm g.dd g.da e
          outValues f g.dd vals (xs.map Prod.fst) (raiseVals p.nv vals (xs.map Prod.snd))
      | _ =>
        let xs := (List.range vals.length).map fun x =>
          vValue f.op fv f.rm g (a.2.1.getD x 0) (b.2.1.getD x 0) (c.2.1.getD x 0)
        outValues f g.dd vals (xs.map Prod.fst) (raiseVals p.nv vals (xs.map Prod.snd))
    (c.1, o, ok)

/-- The writes of this cycle: an access that does not take place withholds them and every later one (R213). A table
written by a scatter lies in banks the operation holds (R235). -/
def flightWrites (r : Room) (f : Flight) (slot : Nat) (held : Bool) : Room × Flight :=
  let now := f.writes.filter fun w => decide (w.cycle ≤ r.ctx.ic)
  let later := f.writes.filter fun w => !decide (w.cycle ≤ r.ctx.ic)
  now.foldl (fun (acc : Room × Flight) w =>
    let addrs := w.cells.map Prod.fst ++ w.halves.map fun h => h.1
    let a : Room × Bool := if held then
        ({ acc.1.watchHits slot true addrs with
            miss := match acc.1.miss with | some m => some m | none => acc.1.missOf addrs }, true)
      else acc.1.engAccess slot f.c0 acc.2.lost true addrs
    if a.2 then
      let cells := w.cells ++ a.1.halfCells w.halves
      let l : Landing := { due := r.ctx.ic + 1, val := .bytes cells, slot := slot, raised := Raised.none, escape := none }
      ({ a.1 with ctx.landings := if cells.isEmpty then a.1.ctx.landings else a.1.ctx.landings ++ [l] },
       { acc.2 with raised := acc.2.raised.merge w.raised })
    else (a.1, { acc.2 with lost := true, writes := [] })) (r, { f with writes := later })

/-- The landing of an operation that has formed what it lands, at c + L: its flags and escape, or the sum held to R81, whose
guard overflow is raised at value 0 (R83, log 68). -/
def finishV (r : Room) (fv : VForm) (isQ : Bool) (f : Flight) (nb : Nat) : Room :=
  let sum := f.acc.close
  let val : LandVal := if isQ && !f.lost && nb != 0 then .q fv.qd sum.1 else .flagsOnly
  let raised := if isQ then (if f.lost || nb = 0 then Raised.none else f.raised.merge (Raised.of1 0 sum.2)) else f.raised
  if val = .flagsOnly && raised = Raised.none && f.escape = none then r
  else
    { r with ctx.landings := r.ctx.landings ++
        [{ due := f.c0 + f.lat, val := val, slot := 2, raised := raised, escape := f.escape }] }

/-- One issue cycle of a V operation in flight; none when it has finished. A `vscatter` that loses its hold makes none of its
writes that are still to come, those of earlier beats among them (DESIGN CHOICE, log 80). -/
def vRun (r : Room) (k : Core) (f : Flight) : Room × Option Flight :=
  match vFormOf f.op with
  | none => (r, none)
  | some fv =>
    let g : VRegs := { dd := f.dd, da := f.da, db := f.db, dc := f.dc }
    match vPlan f.op g with
    | none => (r, none)
    | some p =>
      let v := vInfo f.op (descFmt g.dd).isInt
      let held := !f.hold.isEmpty
      let isScatter := match f.op with | .vscatter _ => true | _ => false
      let h := if held then r.holdGroups 2 f.c0 f.hold else (r, true)
      let f0 : Flight := { f with lost := f.lost || !h.2, writes := if isScatter && !h.2 then [] else f.writes }
      let j := r.ctx.ic - f.c0
      let x : Room × Flight :=
        if j < p.nb then
          let y := vRead h.1 k fv g p f0 j
          if y.2.2 && !f0.lost then
            let o := y.2.1
            let isQ := v.q
            let w : BeatWrite := { cycle := r.ctx.ic + v.depth - 1, cells := o.cells, halves := o.halves, raised := o.raised }
            (y.1, { o.flight with
                      writes := if isQ then o.flight.writes else o.flight.writes ++ [w]
                      raised := if isQ then o.flight.raised.merge o.raised else o.flight.raised })
          else (y.1, { f0 with lost := true })
        else (h.1, f0)
      let z := flightWrites x.1 { x.2 with next := j + 1 } 2 isScatter
      let last := f.c0 + f.lat
      if last ≤ r.ctx.ic then (h.1, none)
      else if (if v.q then j + 1 == max 1 p.nb else r.ctx.ic + 1 == last) then (finishV z.1 fv v.q z.2 p.nb, some z.2)
      else (z.1, some z.2)

/-! ### Issue of a V instruction (R158, R206 to R209, R83) -/

/-- R83: whether an operation in flight or a pending landing will write q-register n. -/
def Room.qBusy (r : Room) (n : BitVec 3) : Bool := r.pends (.q n)

/-- The bank groups an interval touches (R94, R235). -/
def Room.groupsOf (r : Room) (a : Iv) : List Nat :=
  let lo := r.groupOf a.lo.toNat
  let hi := r.groupOf a.hi.toNat
  (List.range (hi + 1 - lo)).map (lo + ·)

/-- R209: a region's interval lies within the footprint of an engine; no bytes pass. -/
def Room.regionOk (r : Room) (engine : Nat) (write : Bool) (d : Nat) : Bool :=
  match descIv d with
  | none => true
  | some a => r.mayAccess engine write a

/-- Whether a region is written: DD, and DB of `vsplit`. -/
def vWrites (i : Instr) (g : VRegs) : List Nat :=
  match i with
  | .vsplit _ => [g.dd, g.db]
  | .vsum _ | .vdot _ => []
  | _ => [g.dd]

def vReads (i : Instr) (g : VRegs) : List Nat :=
  let v := vInfo i false
  let isSplit := match i with | .vsplit _ => true | _ => false
  (if v.a then [g.da] else []) ++ (if v.b && !isSplit then [g.db] else []) ++ (if v.c then [g.dc] else [])

/-- The checks of an issued V instruction, in the order of R159, and its schedule; a region with COUNT = 0 passes those of
R154 and R209. -/
def vCheck (i : Instr) (f : VForm) (r : Room) (g : VRegs) : Except Cause VPlan :=
  let regions := vReads i g ++ vWrites i g
  let checks := (regions.filter fun d => descCount d != 0).map descCheck
  let permBase := match i with | .vperm _ => descBase g.db % 64 != 0 | _ => false
  if checks.contains .illegal || !vFmtOk i f.cfmt.toNat g then .error (illegal 2)
  else
    match vPlan i g with
    | none => .error (illegal 2)
    | some p =>
      let v := vInfo i (descFmt g.dd).isInt
      if r.ctx.ic < r.ctx.vFree || (v.q && r.qBusy f.qd) then .error (busy 2)
      else if checks.contains .misaligned || permBase then .error (misaligned 2)
      else if (vReads i g).all (r.regionOk 0 false) && (vWrites i g).all (r.regionOk 0 true) then .ok p
      else .error (escapes 2)

/-- The issue of a V instruction: its checks, then the operation in flight with its first beat in the issue cycle. -/
def vIssue (i : Instr) (f : VForm) (s : State) : Host.Outcome State Fault Refusal :=
  roomOp i 2 s fun r =>
    let c := r.ctx
    let g : VRegs := { dd := (c.readD f.dd).toNat, da := (c.readD f.da).toNat, db := (c.readD f.db).toNat,
                       dc := (c.readD f.dc).toNat }
    match vCheck i f r g with
    | .error k => .error k
    | .ok p =>
      let v := vInfo i (descFmt g.dd).isInt
      let occ := max 1 p.nb
      let lat := occ + v.depth - 1
      let tbl := match i with | .vgather _ => some g.da | .vscatter _ => some g.dd | _ => none
      let hold := match tbl with
        | some d => (match descIv d with | some a => r.groupsOf a | none => [])
        | none => []
      let fl : Flight := { op := i, slot := 2, pc := c.pc, tile := none, fill := [], c0 := c.ic, occ := occ, lat := lat, rm := c.mode f.rm.toNat, dd := g.dd,
                           da := g.da, db := g.db, dc := g.dc, next := 0, lost := false, hold := hold,
                           holdEnd := c.ic + lat, buf := [], rowInvalid := false, rowExp := 0, acc := c.readQ f.qd,
                           raised := Raised.none, escape := none, writes := [] }
      let x := vRun { r with ctx.vFree := c.ic + occ } (s.coreOf r.core) fl
      .ok { x.1 with ctx.flights := x.1.ctx.flights ++ x.2.toList }

/-- `vnop` (R142). -/
def execVnop (s : State) : Host.Outcome State Fault Refusal := .next s

/-- `vadd` (R218). -/
def execVadd (f : VForm) (s : State) : Host.Outcome State Fault Refusal := vIssue (.vadd f) f s

/-- `vsub` (R218). -/
def execVsub (f : VForm) (s : State) : Host.Outcome State Fault Refusal := vIssue (.vsub f) f s

/-- `vmul` (R218). -/
def execVmul (f : VForm) (s : State) : Host.Outcome State Fault Refusal := vIssue (.vmul f) f s

/-- `vfma` (R218). -/
def execVfma (f : VForm) (s : State) : Host.Outcome State Fault Refusal := vIssue (.vfma f) f s

/-- `vmin` (R219). -/
def execVmin (f : VForm) (s : State) : Host.Outcome State Fault Refusal := vIssue (.vmin f) f s

/-- `vmax` (R219). -/
def execVmax (f : VForm) (s : State) : Host.Outcome State Fault Refusal := vIssue (.vmax f) f s

/-- `vabs` (R220). -/
def execVabs (f : VForm) (s : State) : Host.Outcome State Fault Refusal := vIssue (.vabs f) f s

/-- `vneg` (R220). -/
def execVneg (f : VForm) (s : State) : Host.Outcome State Fault Refusal := vIssue (.vneg f) f s

/-- `vadds` (R221). -/
def execVadds (f : VForm) (s : State) : Host.Outcome State Fault Refusal := vIssue (.vadds f) f s

/-- `vsubs` (R221). -/
def execVsubs (f : VForm) (s : State) : Host.Outcome State Fault Refusal := vIssue (.vsubs f) f s

/-- `vand` (R221). -/
def execVand (f : VForm) (s : State) : Host.Outcome State Fault Refusal := vIssue (.vand f) f s

/-- `vor` (R221). -/
def execVor (f : VForm) (s : State) : Host.Outcome State Fault Refusal := vIssue (.vor f) f s

/-- `vxor` (R221). -/
def execVxor (f : VForm) (s : State) : Host.Outcome State Fault Refusal := vIssue (.vxor f) f s

/-- `vshl` (R221). -/
def execVshl (f : VForm) (s : State) : Host.Outcome State Fault Refusal := vIssue (.vshl f) f s

/-- `vshr` (R221). -/
def execVshr (f : VForm) (s : State) : Host.Outcome State Fault Refusal := vIssue (.vshr f) f s

/-- `vcvt` (R222). -/
def execVcvt (f : VForm) (s : State) : Host.Outcome State Fault Refusal := vIssue (.vcvt f) f s

/-- `vrint` (R223). -/
def execVrint (f : VForm) (s : State) : Host.Outcome State Fault Refusal := vIssue (.vrint f) f s

/-- `vmov` (R224). -/
def execVmov (f : VForm) (s : State) : Host.Outcome State Fault Refusal := vIssue (.vmov f) f s

/-- `vfexp` (R225). -/
def execVfexp (f : VForm) (s : State) : Host.Outcome State Fault Refusal := vIssue (.vfexp f) f s

/-- `vscale` (R226). -/
def execVscale (f : VForm) (s : State) : Host.Outcome State Fault Refusal := vIssue (.vscale f) f s

/-- `vgetexp` (R227). -/
def execVgetexp (f : VForm) (s : State) : Host.Outcome State Fault Refusal := vIssue (.vgetexp f) f s

/-- `vgetman` (R227). -/
def execVgetman (f : VForm) (s : State) : Host.Outcome State Fault Refusal := vIssue (.vgetman f) f s

/-- `vclass` (R228). -/
def execVclass (f : VForm) (s : State) : Host.Outcome State Fault Refusal := vIssue (.vclass f) f s

/-- `vrcp` (R229). -/
def execVrcp (f : VForm) (s : State) : Host.Outcome State Fault Refusal := vIssue (.vrcp f) f s

/-- `vrsqrt` (R229). -/
def execVrsqrt (f : VForm) (s : State) : Host.Outcome State Fault Refusal := vIssue (.vrsqrt f) f s

/-- `vdiv` (R230). -/
def execVdiv (f : VForm) (s : State) : Host.Outcome State Fault Refusal := vIssue (.vdiv f) f s

/-- `vsqrt` (R230). -/
def execVsqrt (f : VForm) (s : State) : Host.Outcome State Fault Refusal := vIssue (.vsqrt f) f s

/-- `vflog` (R229). -/
def execVflog (f : VForm) (s : State) : Host.Outcome State Fault Refusal := vIssue (.vflog f) f s

/-- `vcmp` (R231). -/
def execVcmp (f : VForm) (s : State) : Host.Outcome State Fault Refusal := vIssue (.vcmp f) f s

/-- `vsel` (R232). -/
def execVsel (f : VForm) (s : State) : Host.Outcome State Fault Refusal := vIssue (.vsel f) f s

/-- `vperm` (R233). -/
def execVperm (f : VForm) (s : State) : Host.Outcome State Fault Refusal := vIssue (.vperm f) f s

/-- `vgather` (R234, R235). -/
def execVgather (f : VForm) (s : State) : Host.Outcome State Fault Refusal := vIssue (.vgather f) f s

/-- `vscatter` (R234, R235). -/
def execVscatter (f : VForm) (s : State) : Host.Outcome State Fault Refusal := vIssue (.vscatter f) f s

/-- `vbmax` (R236). -/
def execVbmax (f : VForm) (s : State) : Host.Outcome State Fault Refusal := vIssue (.vbmax f) f s

/-- `vsplit` (R237). -/
def execVsplit (f : VForm) (s : State) : Host.Outcome State Fault Refusal := vIssue (.vsplit f) f s

/-- `vrand` (R238). -/
def execVrand (f : VForm) (s : State) : Host.Outcome State Fault Refusal := vIssue (.vrand f) f s

/-- `vsum` (R239). -/
def execVsum (f : VForm) (s : State) : Host.Outcome State Fault Refusal := vIssue (.vsum f) f s

/-- `vdot` (R239). -/
def execVdot (f : VForm) (s : State) : Host.Outcome State Fault Refusal := vIssue (.vdot f) f s

/-- `vrmax` (R240). -/
def execVrmax (f : VForm) (s : State) : Host.Outcome State Fault Refusal := vIssue (.vrmax f) f s

/-- `vrmin` (R240). -/
def execVrmin (f : VForm) (s : State) : Host.Outcome State Fault Refusal := vIssue (.vrmin f) f s

end Sys2Proof.Machine
end

