-- ==== Sys2Proof/Machine/MatrixOps.lean ====
section
/-! DEFINITION. The matrix array (09, R241 to R258): tiles and bays, operands, the cycle-by-cycle run of an operation,
and the MA instructions. -/

namespace Sys2Proof.Machine

/-! ### Tiles (R241 to R243) -/

/-- Element e of a tile as a quire. -/
def Tile.elem (t : Tile) (e : Nat) : Quire :=
  match t.elems.find? (fun x => x.idx == e) with
  | some x => { cls := t.cls, sigma := t.sigma, state := x.state, raw := x.raw }
  | none => { cls := t.cls, sigma := t.sigma, state := .finite, raw := 0 }

/-- Puts an element in its place; a finite zero is not listed. -/
def putElem (e : Nat) (q : Quire) : List TileElem → List TileElem
  | [] => if q.state = .finite && q.raw = 0 then [] else [{ idx := e, state := q.state, raw := q.raw }]
  | x :: xs =>
    if e < x.idx then
      if q.state = .finite && q.raw = 0 then x :: xs else { idx := e, state := q.state, raw := q.raw } :: x :: xs
    else if e = x.idx then
      if q.state = .finite && q.raw = 0 then xs else { idx := e, state := q.state, raw := q.raw } :: xs
    else x :: putElem e q xs

def Tile.setElem (t : Tile) (e : Nat) (q : Quire) : Tile := { t with elems := putElem e q t.elems }

/-- Whether a tile holds a bay name. -/
def Tile.covers (t : Tile) (n : Nat) : Bool := decide (t.head ≤ n) && decide (n < t.head + t.cls.bays)

/-- R242: the w names from h may be named as one tile. -/
def Room.tileNamesOk (r : Room) (h w : Nat) : Bool :=
  decide (h + w ≤ r.nb) && h % w == 0 &&
  (List.range w).all fun i => r.tiles.all fun t => !t.covers (h + i) || (t.head == h && t.cls.bays == w)

/-- R243: a tile or a sill is pending. -/
def Room.tilePending (r : Room) (h : Nat) : Bool := r.pends (.tile h)
def Room.sillPending (r : Room) (w : BitVec 2) : Bool := r.pends (.sill w)

/-- A fresh binding (R242). -/
def Tile.fresh (h : Nat) (c : QCls) (sigma : Int) : Tile :=
  { head := h, cls := c, sigma := sigma, elems := [], writer := 0, issued := 0 }

/-- R243: a tile as the writers issued so far leave it, landed or not. -/
def Room.tileNow (r : Room) (h : Nat) : Option Tile :=
  r.ctx.landings.foldl (fun (b : Option Tile) l => match l.val with
    | .tile t =>
      if t.head = h then
        (match b with | some x => if x.issued ≤ t.issued then some t else b | none => some t)
      else b
    | _ => b) (r.tile? h)

/-- R242: the names of a tile are bound from the issue of its first writer on. -/
def Room.bindTile (r : Room) (t : Tile) : Room :=
  if (r.tile? t.head).isSome then r else r.setTile (Tile.fresh t.head t.cls t.sigma)

/-- A tile that an operation of this bundle writes (R243). -/
def Room.written (r : Room) (t : Tile) : Tile := { t with writer := r.ctx.pc, issued := r.writers + 1 }

/-! ### Operands (R244 to R246) -/

/-- R246: the width class of an operand format. -/
def widthClass (f : Fmt) : Nat :=
  match f with
  | .int _ b => b
  | .ieee eb fb => if 1 + eb + fb ≤ 16 then 16 else 32
  | .tap n => n
  | .blk w => if w ≤ 2 then 2 else if w ≤ 4 then 4 else 8

/-- R246: K per cycle of a pair of formats, as a fraction. -/
def arrayRate (f g : Fmt) : Nat × Nat :=
  let a := max (widthClass f) (widthClass g)
  let b := min (widthClass f) (widthClass g)
  if a ≤ 2 then (32, 1)
  else if a ≤ 4 then (8, 1)
  else if a ≤ 8 then (if b ≤ 4 then (4, 1) else (2, 1))
  else if a ≤ 16 then (1, 2)
  else (2, 9)

/-- R244: STRIDE = +z, or the block size. -/
def denseStride (d : Nat) : Bool := descStride d == ((descFmt d).elemBytes : Int)
/-- R244: BASE and RSTRIDE are multiples of 64. -/
def arrayAligned (d : Nat) : Bool := descBase d % 64 == 0 && descRstride d % 64 == 0

/-- R251: the packed size of a shape in a sill. -/
def packedSize (d : Nat) : Nat :=
  let f := descFmt d
  if f.isNibble then cdiv (descRows d * descVals d) 2 else descRows d * descCount d * f.elemBytes

/-- The encoding of value (row, k) of a packed sill (R251). -/
def sillEnc (m : List Host.Cell) (d row k : Nat) : Nat :=
  let f := descFmt d
  let i := row * descVals d + k
  match f with
  | .blk w =>
    let j := row * descCount d + k / 32
    (blockEncs w (Memory.read m (j * (4 * w + 1)) (4 * w + 1))).getD (k % 32) 0
  | _ =>
    if f.isNibble then laneOf 4 (Memory.get m (i / 2)).toNat (i % 2)
    else Memory.readNat m (i * f.elemBytes) f.elemBytes

/-- One operand value of an array operation, poison where the check finds an uncorrectable byte (R99). -/
def Room.arrayEnc (r : Room) (k : Core) (sill : Option Nat) (d row i : Nat) : Nat :=
  match sill with
  | some w => sillEnc (r.sills.getD w []) d row i
  | none =>
    if (valBytes d (row, i)).any (r.byteBad k) then poisonEnc (descFmt d) else (r.seen k).encAt d (row, i)

/-- The sill that B comes from, if it does (R244). -/
def sillOf (f : MAForm) : Option Nat := if f.ws = 1 then some f.w.toNat else none

/-- R245: the bank groups of a scratchpad operand. -/
def Room.operandGroups (r : Room) (d : Nat) : List Nat :=
  match descIv d with | some a => r.groupsOf a | none => []

/-- R245, R381: BANK_CONFLICT of an operand placement. The offending operand's first byte is BASE, also where a negative
RSTRIDE or the LAYOUT puts its lowest byte elsewhere (DESIGN CHOICE, log 80). -/
def Room.placementCause (r : Room) (d : Nat) : Cause :=
  { code := 0x04, slot := 3, sub := 1, aux := (r.bankOf (descBase d)).1 + 256 * 3, index := 0 }

/-- R245: the offending operand of a placement, if any: the first in the order given that spans two groups; else the
second of two that share one. -/
def Room.badPlacement (r : Room) (ds : List Nat) (apart : Bool) : Option Cause :=
  match ds.find? (fun d => decide (1 < (r.operandGroups d).length)) with
  | some d => some (r.placementCause d)
  | none =>
    match apart, ds with
    | true, [a, b] =>
      if (r.operandGroups a).any (fun g => (r.operandGroups b).contains g) then some (r.placementCause b) else none
    | _, _ => none

/-! ### Contributions (R248, R252, R253) -/

/-- Applies a function to every element of an M × N tile part. -/
def Tile.accum (t : Tile) (m n : Nat) (fn : Nat → Nat → Quire → Quire × Fl) : Tile × Raised :=
  ((List.range m).flatMap fun a => (List.range n).map fun b => (a, b)).foldl
    (fun (st : Tile × Raised) x =>
      let e := 128 * x.1 + x.2
      let y := fn x.1 x.2 (st.1.elem e)
      (st.1.setElem e y.1, st.2.add e y.2)) (t, Raised.none)

/-- R252: adds the products of K positions lo to hi − 1 to the operation's exact sums. -/
def mmacPart (r : Room) (k : Core) (f : MAForm) (da db : Nat) (lo hi : Nat) (t : Tile) : Tile × Raised :=
  let cls := (classOf2 (descFmt da) (descEs da) (descFmt db) (descEs db)).getD .clear
  t.accum (descRows da) (descRows db) fun a b q =>
    (List.range (hi - lo)).foldl (fun (st : Quire × Fl) x =>
      let y := st.1.gather cls (descVal da (r.arrayEnc k none da a (lo + x)))
        (descVal db (r.arrayEnc k (sillOf f) db b (lo + x)))
      (y.1, Fl.or st.2 y.2)) (q, Fl.none)

/-- R253: the slice pairs an instruction applies, in order. -/
def slicePairs (f : MAForm) : List (Nat × Nat) :=
  let all := (List.range 8).flatMap fun i => (List.range 8).map fun j => (i, j)
  match f.fn.toNat with
  | 0 => [(f.pi.toNat, f.pj.toNat)]
  | 1 => all
  | _ => all.filter fun p => decide (p.1 + p.2 ≤ 7)

/-- A digit times 2^(−8n). -/
def digitVal (x : Nat) (n : Nat) : Val :=
  match Val.ofInt (sext x 8) with
  | .fin s m e => .fin s m (e - 8 * n)
  | v => v

/-- R253: the products of one pair for K positions lo to hi − 1. -/
def mslicePart (r : Room) (k : Core) (f : MAForm) (da db : Nat) (p : Nat × Nat) (lo hi : Nat) (t : Tile) : Tile × Raised :=
  t.accum (descRows da / 8) (descRows db / 8) fun a b q =>
    (List.range (hi - lo)).foldl (fun (st : Quire × Fl) x =>
      let y := st.1.gather .q512 (digitVal (r.arrayEnc k none da (8 * a + p.1) (lo + x)) (p.1 + p.2))
        (digitVal (r.arrayEnc k (sillOf f) db (8 * b + p.2) (lo + x)) 0)
      (y.1, Fl.or st.2 y.2)) (q, Fl.none)

/-- R83, R248: the sums that an array operation has formed in the elements of its product, held to R81. -/
def Tile.close (t : Tile) (m n : Nat) : Tile × Raised := t.accum m n fun _ _ q => q.close

/-! ### Tile images (R257) -/

/-- Bytes of a tile image of a class. -/
def imageSize (c : QCls) : Nat := 64 + 2048 * c.width + 8 * 16384

/-- Byte b of the image of a tile. -/
def Tile.imageByte (t : Tile) (b : Nat) : Byte :=
  let nq := t.cls.width / 8
  let at_ (x i : Nat) : Byte := BitVec.ofNat 8 (x >>> (8 * i))
  if b < 16 then at_ (quireHeader t.cls t.sigma .finite 0) b
  else if b < 64 then 0
  else if b < 64 + 16384 * nq then at_ (t.elem ((b - 64) / nq)).body ((b - 64) % nq)
  else
    let o := b - 64 - 16384 * nq
    let q := t.elem (o / 8)
    at_ (wrapTo 32 q.excess + q.state.code * 2 ^ 32) (o % 8)

/-- Element e of an image read from memory at base: its quire, none when it breaks R257. -/
def imageElem (m : List Host.Cell) (base : Nat) (c : QCls) (sigma : Int) (e : Nat) : Option Quire :=
  let body := Memory.readNat m (base + 64 + e * (c.width / 8)) (c.width / 8)
  let side := Memory.readNat m (base + 64 + 16384 * (c.width / 8) + 8 * e) 8
  let st := QState.ofCode (bitsOf side 33 32)
  let xs := sext side 32
  if side / 2 ^ 34 != 0 || (st != .finite && (body != 0 || xs != 0)) then none
  else some { cls := c, sigma := sigma, state := st, raw := sext body c.width + xs * ((2 ^ c.width : Nat) : Int) }

/-- R257: the tile an image gives, or the all-invalid tile of a rejected one with NV; an image with an uncorrectable byte
is rejected (log 17). -/
def loadImage (m : List Host.Cell) (base : Nat) (c : QCls) (bad : Bool) (t : Tile) : Tile × Fl :=
  let h := Memory.readNat m base 16
  let sigma := sext (bitsOf h 95 80) 16
  let elems := (List.range 16384).map fun e => imageElem m base c sigma e
  if !bad && h % 4 = c.rank && bitsOf h 79 2 = 0 && h >>> 96 = 0 && Memory.readNat m (base + 16) 48 = 0 &&
      elems.all Option.isSome then
    ({ t with sigma := sigma,
              elems := (elems.zipIdx).filterMap fun x => match x.1 with
                | some q => if q.state = .finite && q.raw = 0 then none
                  else some { idx := x.2, state := q.state, raw := q.raw }
                | none => none }, Fl.none)
  else
    ({ t with sigma := 0, elems := (List.range 16384).map fun e => { idx := e, state := .invalid, raw := 0 } }, Fl.invalid)

/-- The class that a suffix names (R250). -/
def suffixCls (f : MAForm) : QCls := QCls.ofRank (f.fn.toNat % 4)

/-! ### The run of an operation (R245, R247, R251, R255 to R258) -/

/-- The MA format of an M instruction. -/
def maFormOf : Instr → Option MAForm
  | .msill f | .mmul f | .mmac f | .mslice f | .mscale f | .mround f | .mrel f | .mzero f | .msave f | .mload f
  | .msplit f => some f
  | _ => none

/-- R255: the rounded value of element (a, b) of a tile, with the exponents of the slice form. -/
def roundElem (f : MAForm) (rm : RM) (dd : Nat) (exps : List Nat) (t : Tile) (a b : Nat) : Nat × Fl :=
  let q := t.elem (128 * a + b)
  if f.fmt = 0x13 then
    let ea := sext (exps.getD a 0) 16
    let eb := sext (exps.getD (descRows dd + b) 0) 16
    if ea = -32768 || eb = -32768 then (ieeeQnan 11 52, Fl.none)
    else let v := sliceValue q ea eb; roundQVal fp64 0 .rne v.1 v.2
  else roundQ (descFmt dd) (descEs dd) rm q

/-- R255, R256: chunk j of an `mround`: its cells, halves and flags. -/
def roundChunk (f : MAForm) (rm : RM) (dd : Nat) (exps : List Nat) (t : Tile) (j : Nat) :
    List Host.Cell × List (Nat × Bool × Nat) × Raised :=
  let n := if f.fmt = 0x13 then 64 else 128
  let nv := descVals dd
  let count := min n (descRows dd * nv - j * n)
  let vals := (List.range count).map fun x => ((j * n + x) / nv, (j * n + x) % nv)
  match descFmt dd with
  | .blk w =>
    let ends := vals.filter fun v => v.2 % 32 == 31 || v.2 + 1 == nv
    let blocks := ends.map fun v =>
      let c0 := v.2 / 32 * 32
      let cnt := v.2 + 1 - c0
      let vs := (List.range cnt).map fun x => (t.elem (128 * v.1 + c0 + x)).value
      let q := quantBlock w (vs.map Prod.fst ++ List.replicate (32 - cnt) Val.zero)
      let fls := (vs.map Prod.snd).zipWith Fl.or q.2.2
      (cellsAt (elemAddr dd v.1 (v.2 / 32)).toNat (blockBytes w q.1 q.2.1), 128 * v.1 + c0, fls)
    (blocks.flatMap (fun x => x.1), [], blocks.foldl (fun r x => r.addList x.2.1 x.2.2) Raised.none)
  | _ =>
    let res := vals.map fun v => roundElem f rm dd exps t v.1 v.2
    let c := valCells dd vals (res.map Prod.fst)
    (c.1, c.2, (vals.zip res).foldl (fun r x => r.add (128 * x.1.1 + x.1.2) x.2.2) Raised.none)

/-- The K positions lo to hi − 1 that an array operation applies in cycle t (R246, R253). -/
def kSpan (fl : Flight) (t : Nat) : Nat × Nat :=
  let kk := descVals fl.da
  match fl.op with
  | .mslice _ =>
    let per := max 1 (cdiv kk 2)
    (min kk (2 * (t % per)), min kk (2 * (t % per) + 2))
  | _ =>
    let rate := arrayRate (descFmt fl.da) (descFmt fl.db)
    (min kk (t * rate.1 / rate.2), min kk ((t + 1) * rate.1 / rate.2))

/-- R253: the slice pair of cycle t. -/
def pairAt (f : MAForm) (fl : Flight) (t : Nat) : Nat × Nat :=
  (slicePairs f).getD (t / max 1 (cdiv (descVals fl.da) 2)) (0, 0)

/-- R251: the elements that `msill` moves in cycle t. -/
def sillSpan (d t : Nat) : Nat × Nat :=
  let z := (descFmt d).elemBytes
  (t * 256 / z, min (descRows d * descCount d) (cdiv ((t + 1) * 256) z))

/-- R251: the first byte of element i of the region of an `msill`. -/
def sillSource (d i : Nat) : Nat := (elemAddr d (i / descCount d) (i % descCount d)).toNat

/-- R258: the row, the chunk of 32 values and the pass of cycle t of an `msplit`. -/
def splitAt (d t : Nat) : Nat × Nat × Bool :=
  let per := cdiv (descVals d) 32
  (t / (2 * per), t % per, (t / per) % 2 == 1)

/-- The values of a chunk of 32 of a row of K. -/
def chunkVals (d row m : Nat) : List (Nat × Nat) :=
  (List.range (min 32 (descVals d - 32 * m))).map fun x => (row, 32 * m + x)

/-- The scratchpad bytes that an array operation reads in cycle t: for lines that are not resident (R105), watchpoints
(R396) and the error check (R97, R99). -/
def Room.cycleReads (f : MAForm) (fl : Flight) (t : Nat) : List Nat :=
  let rows (d unit digit : Nat) (span : Nat × Nat) : List Nat :=
    (List.range (descRows d / unit)).flatMap fun a =>
      (List.range (span.2 - span.1)).flatMap fun x => valBytes d (unit * a + digit, span.1 + x)
  match fl.op with
  | .mmul _ | .mmac _ =>
    rows fl.da 1 0 (kSpan fl t) ++ (if f.ws = 1 then [] else rows fl.db 1 0 (kSpan fl t))
  | .mslice _ =>
    let p := pairAt f fl t
    rows fl.da 8 p.1 (kSpan fl t) ++ (if f.ws = 1 then [] else rows fl.db 8 p.2 (kSpan fl t))
  | .msill _ =>
    let s := sillSpan fl.db t
    (List.range (s.2 - s.1)).flatMap fun x =>
      (List.range (descFmt fl.db).elemBytes).map (sillSource fl.db (s.1 + x) + ·)
  | .msplit _ =>
    let c := splitAt fl.db t
    (chunkVals fl.db c.1 c.2.1).flatMap (valBytes fl.db)
  | .mload _ =>
    (List.range (min 512 (imageSize (suffixCls f) - 512 * t))).map fun b => descBase fl.da + 512 * t + b
  | .mround _ =>
    if t = 0 && f.fmt = 0x13 then (List.range (descCount fl.db)).flatMap fun x => valBytes fl.db (0, x) else []
  | _ => []

/-- The reads of cycle t: a line that is not resident, watchpoints, and the check, whose uncorrectable bytes set POISON. -/
def Room.noteReads (r : Room) (k : Core) (f : MAForm) (fl : Flight) (t : Nat) : Room × Bool :=
  if r.windows.isEmpty && r.watch.isEmpty && k.clean then (r, false)
  else
    let addrs := Room.cycleReads f fl t
    let r1 := match r.miss with | some _ => r | none => { r with miss := r.missOf addrs }
    let rd := (r1.watchHits 3 false addrs).readChecked k addrs
    (rd.1, rd.2.2)

/-- One cycle t of an operation that still has its accesses: the room after it, and the operation with what it has
formed. -/
def mCycle (r0 : Room) (k : Core) (f : MAForm) (fl : Flight) (t : Nat) : Room × Flight :=
  let h := f.bd.toNat
  let n := r0.noteReads k f fl t
  let r := n.1
  let withTile (g : Tile → Tile × Raised) : Room × Flight :=
    match fl.tile with
    | some x => let y := g x; (r, { fl with tile := some y.1, raised := fl.raised.merge y.2 })
    | none => (r, fl)
  match fl.op with
  | .mmul _ | .mmac _ => let s := kSpan fl t; withTile (mmacPart r k f fl.da fl.db s.1 s.2)
  | .mslice _ => let s := kSpan fl t; withTile (mslicePart r k f fl.da fl.db (pairAt f fl t) s.1 s.2)
  | .msill _ =>
    let d := fl.db
    let z := (descFmt d).elemBytes
    let s := sillSpan d t
    let cells := (List.range (s.2 - s.1)).flatMap fun x => cellsAt ((s.1 + x) * z) (r.elemSeen k (descFmt d) (sillSource d (s.1 + x)))
    let now := cells.filter fun c => decide (256 * t ≤ c.1) && decide (c.1 < min (packedSize d) (256 * (t + 1)))
    (r, { fl with fill := fl.fill ++ now })
  | .mround _ =>
    match r.tile? h with
    | some x =>
      let c := roundChunk f fl.rm fl.da fl.buf x t
      (r, { fl with writes := fl.writes ++ [{ cycle := r.ctx.ic + 7, cells := c.1, halves := c.2.1, raised := c.2.2 }] })
    | none => (r, fl)
  | .msave _ =>
    match r.tile? h with
    | some x =>
      let base := descBase fl.da
      let cnt := min 512 (imageSize x.cls - 512 * t)
      let cells := (List.range cnt).map fun b => (base + 512 * t + b, x.imageByte (512 * t + b))
      (r, { fl with writes := fl.writes ++ [{ cycle := r.ctx.ic + 4, cells := cells, halves := [], raised := Raised.none }] })
    | none => (r, fl)
  | .mload _ =>
    let bad := fl.rowInvalid || n.2
    if t + 1 = fl.occ then
      withTile fun x => let y := loadImage (r.seen k).scratch (descBase fl.da) x.cls bad x; (y.1, Raised.of1 0 y.2)
    else (r, { fl with rowInvalid := bad })
  | .msplit _ =>
    let d := fl.db
    let kk := descVals d
    let c := splitAt d t
    let encs := (chunkVals d c.1 c.2.1).map fun v => r.arrayEnc k none d v.1 v.2
    if c.2.2 then
      let cells := (encs.zipIdx).flatMap fun x =>
        ((splitDigits fl.rowInvalid fl.rowExp (descVal d x.1)).zipIdx).map fun y =>
          ((8 * c.1 + y.2) * kk + 32 * c.2.1 + x.2, (BitVec.ofInt 8 y.1 : Byte))
      (r, { fl with fill := fl.fill ++ cells })
    else
      let all := fl.buf ++ encs
      if c.2.1 + 1 = cdiv kk 32 then
        let s := splitExp (all.map (descVal d))
        let cells := cellsAt (elemAddr fl.da 0 c.1).toNat (toBytes 2 (wrapTo 16 s.2.1))
        let w : BeatWrite := { cycle := fl.c0 + fl.lat - 1, cells := (fl.writes.flatMap fun w => w.cells) ++ cells,
                               halves := [], raised := Raised.none }
        (r, { fl with buf := [], rowInvalid := s.1, rowExp := s.2.1, writes := [w],
                      raised := fl.raised.merge (Raised.addList Raised.none (c.1 * kk) s.2.2) })
      else (r, { fl with buf := all })
  | _ => (r, fl)

/-- What an operation lands at c + L once its last cycle has run (R243, R248, R251, R258): its tile with every sum held to
R81, or the bytes of its sill, and its flags. -/
def mLanding (f : MAForm) (fl : Flight) : LandVal × Raised :=
  match fl.op, fl.tile with
  | .mmul _, some t | .mmac _, some t =>
    let y := t.close (descRows fl.da) (descRows fl.db); (.tile y.1, fl.raised.merge y.2)
  | .mslice _, some t => let y := t.close (descRows fl.da / 8) (descRows fl.db / 8); (.tile y.1, fl.raised.merge y.2)
  | .mload _, some t => (.tile t, fl.raised)
  | .msill _, _ | .msplit _, _ => (.sill f.w fl.fill, fl.raised)
  | _, _ => (.flagsOnly, fl.raised)

/-- One issue cycle of an M operation in flight; none when it has finished. An `msplit` with K = 0 has no cycle of its own and
writes no exponent (DESIGN CHOICE, log 80). -/
def mRun (r : Room) (k : Core) (fl : Flight) : Room × Option Flight :=
  let t := r.ctx.ic - fl.c0
  if fl.c0 + fl.lat ≤ r.ctx.ic then (r, none)
  else match maFormOf fl.op with
  | none => (r, some { fl with next := t + 1 })
  | some f =>
    let toEnd := match fl.op with | .mround _ => true | .msave _ => true | .mload _ => true | _ => false
    let h := if r.ctx.ic ≤ fl.holdEnd then r.holdGroups 3 fl.c0 fl.hold else (r, true)
    let f0 : Flight := { fl with lost := fl.lost || !h.2, writes := if toEnd && !h.2 then [] else fl.writes }
    let x := if t < fl.occ && !f0.lost then mCycle h.1 k f f0 t else (h.1, f0)
    let y := flightWrites x.1 x.2 3 toEnd
    let next : Flight := { y.2 with next := t + 1 }
    let at_ := if fl.target.isSome then t + 1 == max 1 fl.occ else r.ctx.ic + 1 == fl.c0 + fl.lat
    let v := mLanding f y.2
    if at_ && (v.1 != .flagsOnly || v.2 != Raised.none) then
      ({ y.1 with ctx.landings := y.1.ctx.landings ++
          [{ due := fl.c0 + fl.lat, val := v.1, slot := 3, raised := v.2, escape := none }] }, some next)
    else (y.1, some next)

/-! ### Issue (R158, R242 to R245) -/

/-- The checks an M instruction makes in the order of R159, each a Bool that must hold. -/
def mGuard (r : Room) (legalOk busyOk alignOk footOk : Bool) : Except Cause Unit :=
  if !legalOk then .error (illegal 3)
  else if r.ctx.ic < r.ctx.mFree || !busyOk then .error (busy 3)
  else if !alignOk then .error (misaligned 3)
  else if !footOk then .error (escapes 3)
  else .ok ()

/-- Occupies the M engine and starts an operation; `tile` is the tile it writes, as its cycles find it. A placement that
breaks R245 changes nothing but the occupancy. -/
def mStart (i : Instr) (s : State) (r : Room) (da db occ lat : Nat) (rm : RM) (bad : Option Cause) (groups : List Nat)
    (holdTo : Nat) (buf : List Nat) (tile : Option Tile) : Room :=
  let c := r.ctx
  let r1 : Room := { r with ctx.mFree := c.ic + occ, lastM := some c.pc }
  match bad with
  | some k => { r1 with ctx.due := r1.ctx.due ++ [k] }
  | none =>
    let fl : Flight := { op := i, slot := 3, pc := c.pc, tile := tile, fill := [], c0 := c.ic, occ := occ, lat := lat, rm := rm, dd := 0, da := da, db := db,
                         dc := 0, next := 0, lost := false, hold := groups, holdEnd := holdTo, buf := buf,
                         rowInvalid := false, rowExp := 0, acc := Quire.clear, raised := Raised.none, escape := none,
                         writes := [] }
    let r2 := match tile with | some t => { r1.bindTile t with writers := r.writers + 1 } | none => r1
    let x := mRun r2 (s.coreOf r.core) fl
    { x.1 with ctx.flights := x.1.ctx.flights ++ x.2.toList }

/-- R244: what an array operand must be: a format other than fp64, a dense stride, 1 to 128 rows of its unit. -/
def operandShape (d unit : Nat) (sill : Bool) : Bool :=
  descCheck d != .illegal && descFmt d != fp64 && (sill || denseStride d) &&
  descRows d % unit == 0 && decide (unit ≤ descRows d) && decide (descRows d ≤ 128 * unit) &&
  (!sill || decide (packedSize d ≤ 8192))

/-- R242, R252, R253: the class of the partial products of two operands. -/
def arrayClass (slice : Bool) (da db : Nat) : Option QCls :=
  if slice then some QCls.q512 else classOf2 (descFmt da) (descEs da) (descFmt db) (descEs db)

/-- R244, R252, R253: the operands fit together. -/
def arrayShapeOk (f : MAForm) (slice : Bool) (da db : Nat) : Bool :=
  let sill := f.ws == 1
  let unit := if slice then 8 else 1
  operandShape da unit false && operandShape db unit sill && descVals da == descVals db &&
    (!slice || (descFmtCode da == 0 && descFmtCode db == 0)) && (arrayClass slice da db).isSome

/-- R242: the class a tile has, or takes when the operation binds it. -/
def Room.arrayTileClass (r : Room) (f : MAForm) (slice : Bool) (da db : Nat) : QCls :=
  match r.tile? f.bd.toNat with | some t => t.cls | none => (arrayClass slice da db).getD .clear

/-- R242, R252, R253: the tile named can take the products. -/
def Room.arrayTileOk (r : Room) (f : MAForm) (slice : Bool) (da db : Nat) : Bool :=
  r.tileNamesOk f.bd.toNat (r.arrayTileClass f slice da db).bays &&
  (match r.tileNow f.bd.toNat, arrayClass slice da db with
   | some t, some k => if slice then t.cls == .q512 && t.sigma == -112 else decide (k.rank ≤ t.cls.rank)
   | _, _ => true)

/-- R244: the operands are aligned. -/
def arrayAlignOk (f : MAForm) (da db : Nat) : Bool :=
  arrayAligned da && descCheck da != .misaligned && (f.ws == 1 || (arrayAligned db && descCheck db != .misaligned))

/-- R244, R252, R253: the occupancy of an array operation. -/
def arrayOcc (f : MAForm) (slice : Bool) (da db : Nat) : Nat :=
  let kk := descVals da
  let rate := arrayRate (descFmt da) (descFmt db)
  if slice then (slicePairs f).length * max 1 (cdiv kk 2) else max 1 (cdiv (kk * rate.2) rate.1)

/-- The operands that an array operation reads from scratchpad. -/
def arrayOps (f : MAForm) (da db : Nat) : List Nat := if f.ws == 1 then [da] else [da, db]

/-- `mmul`, `mmac` and `mslice` (R244, R245, R252, R253). -/
def arrayIssue (i : Instr) (f : MAForm) (zero slice : Bool) (s : State) : Host.Outcome State Fault Refusal :=
  roomOp i 3 s fun r =>
    let c := r.ctx
    let da := (c.readD f.da).toNat
    let db := (c.readD f.db).toNat
    let sill := f.ws == 1
    let h := f.bd.toNat
    match mGuard r (arrayShapeOk f slice da db && r.arrayTileOk f slice da db) (!sill || !r.sillPending f.w)
        (arrayAlignOk f da db) (r.regionOk 1 false da && (sill || r.regionOk 1 false db)) with
    | .error k => .error k
    | .ok _ =>
      let occ := arrayOcc f slice da db
      let ops := arrayOps f da db
      .ok (mStart i s r da db occ (occ + 12) .rne (r.badPlacement ops (!sill)) (ops.flatMap r.operandGroups)
        (c.ic + occ - 1) [] (some (
          let t := (r.tileNow h).getD (Tile.fresh h (r.arrayTileClass f slice da db) (if slice then -112 else 0))
          r.written (if zero then { t with elems := [] } else t))))

/-- `mmul` (R252). -/
def execMmul (f : MAForm) (s : State) : Host.Outcome State Fault Refusal := arrayIssue (.mmul f) f true false s

/-- `mmac` (R252). -/
def execMmac (f : MAForm) (s : State) : Host.Outcome State Fault Refusal := arrayIssue (.mmac f) f false false s

/-- `mslice` (R253). -/
def execMslice (f : MAForm) (s : State) : Host.Outcome State Fault Refusal := arrayIssue (.mslice f) f false true s

/-- R251: what the region of a sill must be. -/
def sillShapeOk (db : Nat) : Bool := descCheck db != .illegal && denseStride db && decide (packedSize db ≤ 8192)

/-- `msill` (R251). -/
def execMsill (f : MAForm) (s : State) : Host.Outcome State Fault Refusal :=
  roomOp (.msill f) 3 s fun r =>
    let db := (r.ctx.readD f.db).toNat
    let size := packedSize db
    match mGuard r (sillShapeOk db) true
        (arrayAligned db && descCheck db != .misaligned) (r.regionOk 1 false db) with
    | .error k => .error k
    | .ok _ =>
      let occ := cdiv size 256
      .ok (mStart (.msill f) s r 0 db occ (occ + 2) .rne (r.badPlacement [db] false) (r.operandGroups db)
        (r.ctx.ic + occ - 1) [] none)

/-- The class and zeroing of `mzero` and `mscale` (R254): an operation of one cycle. -/
def zeroIssue (i : Instr) (f : MAForm) (sigma : Option Int) (s : State) : Host.Outcome State Fault Refusal :=
  roomOp i 3 s fun r =>
    let h := f.bd.toNat
    let cls := suffixCls f
    let classOk := match r.tile? h with | some t => t.cls == cls | none => true
    match mGuard r (classOk && r.tileNamesOk h cls.bays) true true true with
    | .error k => .error k
    | .ok _ =>
      let t := (r.tileNow h).getD (Tile.fresh h cls 0)
      let t1 : Tile := r.written { t with elems := [], sigma := sigma.getD t.sigma }
      let r1 := r.bindTile t1
      .ok { r1 with lastM := some r.ctx.pc, writers := r.writers + 1, ctx := { r1.ctx with
        mFree := r.ctx.ic + 1
        landings := r1.ctx.landings ++
          [{ due := r.ctx.ic + 1, val := .tile t1, slot := 3, raised := Raised.none, escape := none }] } }

/-- `mscale` (R254). -/
def execMscale (f : MAForm) (s : State) : Host.Outcome State Fault Refusal :=
  zeroIssue (.mscale f) f (some (sext (s.me.ctx.readD f.da).toNat 16)) s

/-- `mzero` (R254). -/
def execMzero (f : MAForm) (s : State) : Host.Outcome State Fault Refusal := zeroIssue (.mzero f) f none s

/-- The width an instruction that reads or releases a tile gives its name: the bound tile's, else one name (R242). -/
def Room.namedWidth (r : Room) (h : Nat) : Nat := match r.tile? h with | some t => t.cls.bays | none => 1

/-- `mrel`: unbinds; on an unbound tile nothing (R254). -/
def execMrel (f : MAForm) (s : State) : Host.Outcome State Fault Refusal :=
  roomOp (.mrel f) 3 s fun r =>
    let h := f.bd.toNat
    match mGuard r (r.tileNamesOk h (r.namedWidth h)) (!r.tilePending h) true true with
    | .error k => .error k
    | .ok _ =>
      .ok { r with ctx.mFree := r.ctx.ic + 1, lastM := some r.ctx.pc, tiles := r.tiles.filter fun t => t.head != h }

/-- R255, R256: the tile that `mround` can round. -/
def Room.roundTileOk (r : Room) (f : MAForm) : Bool :=
  (match r.tile? f.bd.toNat with
   | some t => f.fmt != 0x13 || (t.cls == .q512 && t.sigma == -112)
   | none => false) && r.tileNamesOk f.bd.toNat (r.namedWidth f.bd.toNat)

/-- R255, R256: the destination, and for fp64 the exponents and the mode. -/
def roundShapeOk (f : MAForm) (rm : RM) (dd de : Nat) : Bool :=
  descCheck dd != .illegal && descFmtCode dd == f.fmt.toNat && denseStride dd &&
    decide (1 ≤ descVals dd) && decide (descVals dd ≤ 128) && decide (descRows dd ≤ 128) &&
  (f.fmt != 0x13 || (descCheck de != .illegal && oneDim de && descFmtCode de == 0x02 &&
    descCount de == descRows dd + descVals dd && rm == .rne))

/-- R255, R256: the regions of `mround` are aligned. -/
def roundAlignOk (f : MAForm) (dd de : Nat) : Bool :=
  arrayAligned dd && descCheck dd != .misaligned && (f.fmt != 0x13 || descCheck de != .misaligned)

/-- `mround` (R255, R256). -/
def execMround (f : MAForm) (s : State) : Host.Outcome State Fault Refusal :=
  roomOp (.mround f) 3 s fun r =>
    let c := r.ctx
    let dd := (c.readD f.da).toNat
    let de := (c.readD f.db).toNat
    let h := f.bd.toNat
    let f64 := f.fmt == 0x13
    let rm := c.mode f.rm.toNat
    let m := descRows dd
    let n := descVals dd
    match mGuard r (r.roundTileOk f && roundShapeOk f rm dd de) (!r.tilePending h) (roundAlignOk f dd de)
        (r.regionOk 1 true dd && (!f64 || r.regionOk 1 false de)) with
    | .error k => .error k
    | .ok _ =>
      let occ := max 1 (cdiv (m * n) (if f64 then 64 else 128))
      let exps := if f64 then (List.range (m + n)).map fun x => r.arrayEnc (s.coreOf r.core) none de 0 x else []
      .ok (mStart (.mround f) s r dd de occ (occ + 7) rm (r.badPlacement (if f64 then [dd, de] else [dd]) false)
        (r.operandGroups dd) (c.ic + occ + 6) exps none)

/-- The image interval of R257. -/
def imageIv (d : Nat) (c : QCls) : Iv := { lo := descBase d, hi := descBase d + imageSize c - 1 }

/-- `msave` (R257). -/
def execMsave (f : MAForm) (s : State) : Host.Outcome State Fault Refusal :=
  roomOp (.msave f) 3 s fun r =>
    let d := (r.ctx.readD f.da).toNat
    let h := f.bd.toNat
    let cls := match r.tile? h with | some t => t.cls | none => .q128
    match mGuard r ((r.tile? h).isSome && r.tileNamesOk h cls.bays) (!r.tilePending h) (descBase d % 64 == 0)
        (r.mayAccess 1 true (imageIv d cls)) with
    | .error k => .error k
    | .ok _ =>
      let occ := cdiv (imageSize cls) 512
      .ok (mStart (.msave f) s r d 0 occ (occ + 4) .rne none (r.groupsOf (imageIv d cls)) (r.ctx.ic + occ + 3) [] none)

/-- `mload` (R257). -/
def execMload (f : MAForm) (s : State) : Host.Outcome State Fault Refusal :=
  roomOp (.mload f) 3 s fun r =>
    let d := (r.ctx.readD f.da).toNat
    let h := f.bd.toNat
    let cls := suffixCls f
    let classOk := match r.tile? h with | some t => t.cls == cls | none => true
    match mGuard r (classOk && r.tileNamesOk h cls.bays) true (descBase d % 64 == 0)
        (r.mayAccess 1 false (imageIv d cls)) with
    | .error k => .error k
    | .ok _ =>
      let occ := cdiv (imageSize cls) 512
      .ok (mStart (.mload f) s r d 0 occ (occ + 4) .rne none (r.groupsOf (imageIv d cls)) (r.ctx.ic + occ + 3) []
        (some (r.written ((r.tileNow h).getD (Tile.fresh h cls 0)))))

/-- R258: the source and the exponents of `msplit`. -/
def msplitShapeOk (da db : Nat) : Bool :=
  descCheck da != .illegal && descCheck db != .illegal && descFmtCode db == 0x13 && denseStride db &&
    decide (8 * descRows db * descVals db ≤ 8192) && oneDim da && descFmtCode da == 0x02 && descCount da == descRows db

/-- `msplit` (R258). -/
def execMsplit (f : MAForm) (s : State) : Host.Outcome State Fault Refusal :=
  roomOp (.msplit f) 3 s fun r =>
    let da := (r.ctx.readD f.da).toNat
    let db := (r.ctx.readD f.db).toNat
    let n := descRows db
    let kk := descVals db
    match mGuard r (msplitShapeOk da db) true (arrayAligned db && descCheck db != .misaligned && descCheck da != .misaligned)
        (r.regionOk 1 false db && r.regionOk 1 true da) with
    | .error k => .error k
    | .ok _ =>
      let occ := 2 * n * cdiv kk 32
      .ok (mStart (.msplit f) s r da db occ (occ + 6) .rne (r.badPlacement [da, db] false)
        (r.operandGroups da ++ r.operandGroups db) (r.ctx.ic + occ - 1) [] none)

/-- `mnop` (R142). -/
def execMnop (s : State) : Host.Outcome State Fault Refusal := .next s

end Sys2Proof.Machine
end

