-- ==== Sys2Proof/Machine/QuireUnit.lean ====
section
/-! DEFINITION. The quire-unit instructions of the M slot (09, R259 to R263). -/

namespace Sys2Proof.Machine

/-- The engine and q-register checks of an MQ instruction, then its landings after L cycles (R158, R83, R260). -/
def quireOp (i : Instr) (dest : Option (BitVec 3)) (lat : Nat) (body : Ctx → List (LandVal × Raised)) (s : State) :
    Host.Outcome State Fault Refusal :=
  roomOp i 3 s fun r =>
    let c := r.ctx
    let qb := match dest with | some n => r.qBusy n | none => false
    if c.ic < c.mFree || qb then .error (busy 3)
    else
      let go := (body c).foldl (fun (acc : Except Cause Ctx) x => match acc with
        | .ok c => c.landAt 3 lat x.1 x.2
        | .error k => .error k) (.ok { c with mFree := c.ic + 1 })
      match go with
      | .ok c' => .ok { r with ctx := c', lastM := some c.pc }
      | .error k => .error k

/-- The q-register landing of a result with the flags of lane or element 0. -/
def qLand (n : BitVec 3) (v : Quire × Fl) : List (LandVal × Raised) := [(.q n v.1, Raised.of1 0 v.2)]

/-- `qclr` (R260). -/
def execQclr (f : MQForm) (s : State) : Host.Outcome State Fault Refusal :=
  quireOp (.qclr f) (some f.qd) 1 (fun c => qLand f.qd (Quire.clearAt (sext (c.readS f.sa).toNat 16), Fl.none)) s

/-- The format and ES of an MQ instruction (R259). -/
def mqFmt (f : MQForm) : Fmt := (fmtOf f.fmt.toNat).getD (.int true 8)
def mqEs (f : MQForm) : Nat := f.db.toNat % 4

/-- R260, R83: the exact sum of the products of the first `lanes` lanes of two words, held to R81 when it is complete, whose
guard overflow is raised at lane 0 (log 68). -/
def laneSum (f : MQForm) (lanes : Nat) (q : Quire) (x y : Word) : Quire × Raised :=
  let g := mqFmt f
  let n := g.bits
  let cls := (classOf g (mqEs f)).getD .clear
  let sum := (List.range lanes).foldl (fun (st : Quire × Raised) l =>
    let z := st.1.gather cls (decodeVal g (mqEs f) (laneOf n x.toNat l)) (decodeVal g (mqEs f) (laneOf n y.toNat l))
    (z.1, st.2.add l z.2)) (q, Raised.none)
  (sum.1.close.1, sum.2.merge (Raised.of1 0 sum.1.close.2))

/-- `qfma`: the low lanes (R260). -/
def execQfma (f : MQForm) (s : State) : Host.Outcome State Fault Refusal :=
  quireOp (.qfma f) (some f.qd) 4 (fun c =>
    let z := laneSum f 1 (c.readQ f.qd) (c.readS f.sa) (c.readS f.sb)
    [(.q f.qd z.1, z.2)]) s

/-- `qdot`: every lane pair (R260). -/
def execQdot (f : MQForm) (s : State) : Host.Outcome State Fault Refusal :=
  quireOp (.qdot f) (some f.qd) 4 (fun c =>
    let z := laneSum f (32 / (mqFmt f).bits) (c.readQ f.qd) (c.readS f.sa) (c.readS f.sb)
    [(.q f.qd z.1, z.2)]) s

/-- `qadd` (R260, R84). -/
def execQadd (f : MQForm) (s : State) : Host.Outcome State Fault Refusal :=
  quireOp (.qadd f) (some f.qd) 3 (fun c => qLand f.qd ((c.readQ f.qd).merge (c.readQ f.qs))) s

/-- `qsub`: the negated source merged (R260, R84). -/
def execQsub (f : MQForm) (s : State) : Host.Outcome State Fault Refusal :=
  quireOp (.qsub f) (some f.qd) 3 (fun c =>
    let n := (c.readQ f.qs).negate
    let m := (c.readQ f.qd).merge n.1
    qLand f.qd (m.1, Fl.or n.2 m.2)) s

/-- `qneg` (R260). -/
def execQneg (f : MQForm) (s : State) : Host.Outcome State Fault Refusal :=
  quireOp (.qneg f) (some f.qd) 3 (fun c => qLand f.qd (c.readQ f.qs).negate) s

/-- `qround`: RoundQ into s[SA], and s[SA + 1] for fp64 (R261). -/
def execQround (f : MQForm) (s : State) : Host.Outcome State Fault Refusal :=
  quireOp (.qround f) none 4 (fun c =>
    let z := roundQ (mqFmt f) (mqEs f) (c.mode f.rm.toNat) (c.readQ f.qs)
    let low : LandVal × Raised := (destS c f.sa (BitVec.ofNat 32 z.1), Raised.of1 0 z.2)
    if f.fmt = 0x13 then [low, (destS c (nextS f.sa) (BitVec.ofNat 32 (z.1 / 2 ^ 32)), Raised.none)] else [low]) s

/-! ### Quire images on the canal port (R262) -/

/-- The address of `qst` and `qld`. -/
def qAddr (c : Ctx) (f : MQForm) : Nat := (c.readA f.sa.toNat + (c.readS f.sb).signExtend 64).toNat

/-- R262: where each byte of an image lies, after the checks in their order; `none` when a line is not resident. -/
def Room.qPlaces (r : Room) (write attic : Bool) (ea : Nat) : Except Cause (List AtticPlace) :=
  let ordinary (lo hi : Nat) : Except Cause Unit :=
    if r.spSize ≤ hi then .error (escapes 3)
    else if r.ctx.footprint.allows 1 write { lo := lo, hi := hi } then .ok ()
    else .error (escapes 3)
  if ea % 16 != 0 then .error (misaligned 3)
  else if attic then
    let places := (List.range 144).map fun i => r.attic (ea + i)
    let inside := places.filterMap fun p => match p with | .inside a => some a | _ => none
    let bad := match inside with
      | [] => false
      | a :: as => match ordinary a ((a :: as).getLast?.getD a) with | .ok _ => false | .error _ => true
    if bad then .error (escapes 3)
    else if places.contains .beyond then .error (atticOut 3)
    else .ok places
  else
    match ordinary ea (ea + 143) with
    | .ok _ => .ok ((List.range 144).map fun i => .inside (ea + i))
    | .error k => .error k

/-- The first line of the overflow range that is not resident (R101). -/
def Room.overMiss (r : Room) (ps : List AtticPlace) : Option Miss :=
  ps.findSome? fun p => match p with
    | .over o => if r.overflow.any fun l => l.num == o / 256 then none else some (.overflow (o / 256))
    | _ => none

/-- The partition and overflow cells of an image written to its places. -/
def placedCells (ps : List AtticPlace) (bs : List Byte) : List Host.Cell × List Host.Cell :=
  ((ps.zip bs).filterMap fun x => match x.1 with | .inside a => some (a, x.2) | _ => none,
   (ps.zip bs).filterMap fun x => match x.1 with | .over o => some (o, x.2) | _ => none)

/-- The flight that keeps the interval of a `qst` or `qld` for R35 until it completes. -/
def quireFlight (i : Instr) (c : Ctx) (ea lat : Nat) : Flight :=
  { op := i, slot := 3, pc := c.pc, tile := none, fill := [], c0 := c.ic, occ := 1, lat := lat, rm := .rne, dd := 0, da := ea, db := 0, dc := 0, next := 1,
    lost := false, hold := [], holdEnd := 0, buf := [], rowInvalid := false, rowExp := 0, acc := Quire.clear,
    raised := Raised.none, escape := none, writes := [] }

/-- `qst`: the image as it stands at issue (R262). -/
def execQst (f : MQForm) (s : State) : Host.Outcome State Fault Refusal :=
  roomOp (.qst f) 3 s fun r =>
    let c := r.ctx
    let ea := qAddr c f
    if c.ic < c.mFree then .error (busy 3)
    else
      match r.qPlaces true (f.db.getLsbD 0) ea with
      | .error k => .error k
      | .ok ps =>
        let cells := placedCells ps (c.readQ f.qs).image
        let addrs := cells.1.map Prod.fst
        match r.overMiss ps with
        | some m => .ok (r.noteMiss m)
        | none =>
          match r.missOf addrs with
          | some m => .ok (r.noteMiss m)
          | none =>
            let l (v : LandVal) : Landing := { due := c.ic + 1, val := v, slot := 3, raised := Raised.none, escape := none }
            let r1 := r.watchHits 3 true addrs
            .ok { r1 with lastM := some c.pc, ctx := { r1.ctx with
              mFree := c.ic + 1
              landings := r1.ctx.landings ++ (if cells.1.isEmpty then [] else [l (.store cells.1)]) ++
                (if cells.2.isEmpty then [] else [l (.overflow cells.2)]) } }

/-- The byte of a place as it stands now. -/
def Room.placeByte (r : Room) (p : AtticPlace) : Byte :=
  match p with
  | .inside a => Memory.get r.scratch a
  | .over o => match r.overBytes o 1 with | some (b :: _) => b | _ => 0
  | .beyond => 0

/-- `qld`: reads an image and validates it by R75; it lands after four cycles (R262). An uncorrectable byte makes it a
rejected image with POISON set (R99). -/
def execQld (f : MQForm) (s : State) : Host.Outcome State Fault Refusal :=
  roomOp (.qld f) 3 s fun r =>
    let c := r.ctx
    let ea := qAddr c f
    if c.ic < c.mFree || r.qBusy f.qd then .error (busy 3)
    else
      match r.qPlaces false (f.db.getLsbD 0) ea with
      | .error k => .error k
      | .ok ps =>
        let addrs := ps.filterMap fun p => match p with | .inside a => some a | _ => none
        match r.overMiss ps with
        | some m => .ok (r.noteMiss m)
        | none =>
          match r.missOf addrs with
          | some m => .ok (r.noteMiss m)
          | none =>
            let rd := (r.watchHits 3 false addrs).readChecked (s.coreOf r.core) addrs
            let q := if rd.2.2 then (Quire.rejected, Fl.invalid) else Quire.load (ps.map (r.seen (s.coreOf r.core)).placeByte)
            match rd.1.ctx.landAt 3 4 (.q f.qd q.1) (Raised.of1 0 q.2) with
            | .error k => .error k
            | .ok c1 =>
              let fl : Flight := { quireFlight (.qld f) c (addrs.headD 0) 4 with db := addrs.length }
              .ok { rd.1 with lastM := some c.pc, ctx := { c1 with mFree := c.ic + 1, flights := c1.flights ++ [fl] } }

end Sys2Proof.Machine
end

