-- ==== Sys2Proof/Machine/Berth.lean ====
section
/-! DEFINITION. Global memory: berth words, placement, translation, poisoned lines, keys and the restow's part in an
access (04, R106 to R113, R446; 05, R124; 19, R399 to R403, R407; 21, R442, R443). -/

namespace Sys2Proof.Machine

/-! ### The berth word (R107 to R109) -/

def berthTier (w : Nat) : Nat := bitsOf w 1 0
def berthStacks (w : Nat) : Nat := bitsOf w 9 2
def berthChw (w : Nat) : Nat := bitsOf w 12 10
def berthChb (w : Nat) : Nat := bitsOf w 17 13
def berthSidw (w : Nat) : Nat := bitsOf w 19 18
def berthBkw (w : Nat) : Nat := bitsOf w 22 20
def berthGran (w : Nat) : Nat := bitsOf w 27 24
def berthProp (w : Nat) : Nat := bitsOf w 29 28
def berthSle (w : Nat) : Bool := w.testBit 30
def berthKey (w : Nat) : Nat := bitsOf w 40 32
def berthGen (w : Nat) : Nat := bitsOf w 44 41

/-- The rules of R108 and R109 that hold for every access through a berth word. -/
def berthOk (w : Nat) : Bool :=
  let st := berthStacks w
  let n := popc 8 st
  bitsOf w 63 45 == 0 && !w.testBit 31 && !w.testBit 23 && berthTier w != 3 && berthProp w != 3 &&
  decide (berthGran w ≤ 5) && decide (berthChw w ≤ 5) && decide (berthBkw w ≤ 4) &&
  (match berthTier w with
   | 0 => n == 1 || n == 2 || n == 4 || n == 8
   | 1 => bitsOf st 7 6 == 0 && (n == 1 || n == 2 || n == 4) && decide (berthChw w ≤ 3) && decide (berthChb w ≤ 7) &&
          berthSidw w == 0
   | _ => n == 1 && berthChw w == 0 && berthChb w == 0 && berthSidw w == 0 && berthBkw w == 0) &&
  (!berthSle w || (berthTier w == 0 && berthKey w == 0))

/-! ### Placement (R110 to R113) -/

/-- XOR of some bits of a physical address. -/
def xorBits (pa : Nat) (l : List Nat) : Nat := l.foldl (fun x b => x ^^^ b2n (pa.testBit b)) 0

/-- R111: hash fields, lowest bit first. -/
def hashOf (pa : Nat) (bits : List (List Nat)) : Nat := packLanes 1 (bits.map (xorBits pa))
def hashCh (pa : Nat) : Nat := hashOf pa [[28, 33, 38], [29, 34], [30, 35], [31, 36], [32, 37]]
def hashPc (pa : Nat) : Nat := hashOf pa [[28, 29, 30, 31, 32]]
def hashSt (pa : Nat) : Nat := hashOf pa [[33, 36], [34, 37], [35, 38]]
def hashBk (pa : Nat) : Nat := hashOf pa [[29, 31, 33], [30, 32, 34], [31, 35, 37], [28, 36, 38]]
def hashSid (pa : Nat) : Nat := hashOf pa [[30, 33, 37], [32, 35, 38]]

/-- Position of the n-th set bit. -/
def nthSetBit (mask n : Nat) : Nat := ((List.range 8).filter fun b => mask.testBit b).getD n 0

/-- R110: s, and the number k of target-index bits. -/
def berthS (w : Nat) : Nat := flog2 (popc 8 (berthStacks w))
def berthK (w : Nat) : Nat := berthS w + berthChw w + 1 + berthBkw w + berthSidw w

/-- R112: the target index of an address with its hash bits applied. -/
def targetOf (w pa : Nat) : Nat :=
  let chw := berthChw w; let s := berthS w; let bkw := berthBkw w
  let r := (pa >>> (berthGran w + 8)) % 2 ^ berthK w
  let h := hashCh pa % 2 ^ chw + (hashPc pa <<< chw) + ((hashSt pa % 2 ^ s) <<< (chw + 1)) +
    ((hashBk pa % 2 ^ bkw) <<< (chw + 1 + s)) + ((hashSid pa % 2 ^ berthSidw w) <<< (chw + 1 + s + bkw))
  r ^^^ h

/-- R112: the offset within the bank. For an LPDDR-6 page the address is counted from the tier's base (log 5). -/
def offsetOf (w pa : Nat) : Nat :=
  let a := if berthTier w = 1 then pa - Config.lpddrBase else pa
  ((a >>> (berthGran w + 8 + berthK w)) <<< (berthGran w + 8)) + pa % 2 ^ (berthGran w + 8)

/-- First place number of the LPDDR-6 tier. -/
def lpddrPlace : Nat := 2 ^ 40

/-- The capacity of a bank (R108, R113). -/
def bankLimit (w : Nat) : Nat := if berthTier w = 1 then Config.lpddrBankBytes else Config.hbmBankBytes

/-- R112, R113: the place of a byte as one number: bank number times the bank's capacity plus the offset, the LPDDR-6
tier above the HBM tier. None when the offset lies beyond the bank. With SIDW = 3 stack IDs 4 to 7 run on into the places of
the next pseudo-channel, for a stack has four and no rule faults more (log 74). -/
def placeIn (w pa : Nat) : Option Nat :=
  let x := targetOf w pa
  let chw := berthChw w; let s := berthS w; let bkw := berthBkw w
  let ch := x % 2 ^ chw
  let pc := (x >>> chw) % 2
  let st := nthSetBit (berthStacks w) ((x >>> (chw + 1)) % 2 ^ s)
  let bk := (x >>> (chw + 1 + s)) % 2 ^ bkw
  let sid := x >>> (chw + 1 + s + bkw)
  let off := offsetOf w pa
  if bankLimit w ≤ off then none
  else if berthTier w = 1 then
    some (lpddrPlace + (((8 * st + (berthChb w + ch) % 8) * 2 + pc) * 16 + bk) * Config.lpddrBankBytes + off)
  else
    some (((((st * 32 + (berthChb w + ch) % 32) * 2 + pc) * 4 + sid) * 16 + bk) * Config.hbmBankBytes + off)

/-- The place of a physical address, which from 2^48 on is one of another package, whose memory is its own (log 48). -/
def placeOf (w pa : Nat) : Option Nat :=
  if pa < 2 ^ 48 then placeIn w pa else (placeIn w (pa % 2 ^ 48)).map fun p => p + pa / 2 ^ 48 * 2 ^ 44

/-- The bank a place lies in, and the die that is its home: 5 + n for lockhouse Ln, 4 for the hall, 13 for another package
(R124, R428). -/
def bankOfPlace (p : Nat) : Nat :=
  let q := p % 2 ^ 44
  p / 2 ^ 44 * 2 ^ 20 +
    if q < lpddrPlace then q / Config.hbmBankBytes else 2 ^ 16 + (q - lpddrPlace) / Config.lpddrBankBytes
def dieOfPlace (p : Nat) : Nat := if 2 ^ 44 ≤ p then 13 else if p < lpddrPlace then 5 + p / 2 ^ 36 % 8 else 4

/-- R119: the physical address that a berth maps to the same bank as pa at another offset. -/
def addrAtOffset (w pa off : Nat) : Nat :=
  let g := berthGran w + 8
  let hi := (off >>> g) <<< (g + berthK w)
  let x := targetOf w pa
  hi + ((x ^^^ targetOf w hi) <<< g) + off % 2 ^ g

/-! ### Bytes under keys (R106, R442, R443) -/

/-- The key material of a berth: 0 for a plaintext page, else the number of the material in its slot. A request made before
a KEYLOAD of the slot completes uses either key (R443, log 4). -/
def State.material (s : State) (w : Nat) : Nat :=
  let n := berthKey w
  let old := assocGet s.mem.keys n (s.mem.keyBase + n + 1)
  if berthSle w then 0
  else match s.mgmt.keyPending.find? fun x => x.1 == n with
    | some x => if Config.newKey s.free n then x.2 else old
    | none => old

/-- R106: what enciphers a line: its key material, and its physical address as the tweak. -/
def State.cipher (s : State) (w pa : Nat) : Nat × Nat := if berthSle w then (0, 0) else (s.material w, pa / 64)

/-- R443: a request takes its own choice of key while a KEYLOAD is not complete. -/
def State.request (s : State) : State := if s.mgmt.keyPending.isEmpty then s else { s with free := s.free + 1 }

/-- R442: the key of some material: loaded, or the fresh random one of a slot. -/
def materialKey (n : Nat) : BitVec 512 := if 2 ^ 512 ≤ n then BitVec.ofNat 512 (n - 2 ^ 512) else Config.randomKey n

/-- R106: the stored bits of a line of plain bytes under a cipher, or the reverse. -/
def applyCipher (decipher : Bool) (c : Nat × Nat) (line : List Nat) : List Nat :=
  if c.1 = 0 then line else xtsLine decipher (materialKey c.1) (64 * c.2) line

/-- R443: a line stored under one cipher reads under another as the decryption of its stored bits. -/
def recipher (old new : Nat × Nat) (line : List Nat) : List Nat := applyCipher true new (applyCipher false old line)

/-- The plain bytes of the store at a line. -/
def GlobalMem.plain (m : GlobalMem) (line : Nat) : List Nat := (Memory.read m.cells (64 * line) 64).map fun b => b.toNat

/-- The plain byte at a place as read under some cipher. -/
def GlobalMem.byte (m : GlobalMem) (c : Nat × Nat) (p : Nat) : Byte :=
  let b := Memory.get m.cells p
  match m.tags.find? (fun t => t.1 == p / 64) with
  | some t => if t.2 = c then b else BitVec.ofNat 8 ((recipher t.2 c (m.plain (p / 64))).getD (p % 64) 0)
  | none => b

/-- Stores bytes of one line under some cipher: the other bytes keep what they read as under it. -/
def GlobalMem.storeLine (m : GlobalMem) (c : Nat × Nat) (line : Nat) (cells : List Host.Cell) : GlobalMem :=
  let old := match m.tags.find? (fun t => t.1 == line) with
    | some t => if t.2 = c then [] else cellsAt (64 * line) ((recipher t.2 c (m.plain line)).map (BitVec.ofNat 8))
    | none => []
  { m with cells := Memory.putAll (Memory.putAll m.cells old) cells, tags := (line, c) :: m.tags.filter fun t => t.1 != line }

/-! ### Vector clocks (R124) -/

/-- A message from agent a to agent b carries a's clock, and b merges it. The sender's own entry advances at every message
(DESIGN CHOICE, log 77). -/
def State.clockMsg (s : State) (a b : Nat) : State :=
  let ca := modAt (· + 1) a (s.clocks.getD a [])
  { s with clocks := modAt (fun cb => cb.zipWith max ca) b (modAt (fun _ => ca) a s.clocks) }

/-! ### Reads and writes at places -/

/-- A byte at a physical address under a berth; zero when it has no place. -/
def State.gByte (s : State) (w pa : Nat) : Byte :=
  match placeOf w pa with | some p => s.mem.byte (s.cipher w pa) p | none => 0

def State.gBytes (s : State) (w pa n : Nat) : List Byte := (List.range n).map fun i => s.gByte w (pa + i)
def State.gNat (s : State) (w pa n : Nat) : Nat := fromBytes (s.gBytes w pa n)

/-- R446: the line of a byte is poisoned. -/
def State.gPoisoned (s : State) (w pa : Nat) : Bool :=
  match placeOf w pa with | some p => s.mem.poisoned.contains (p / 64) | none => false

/-- R428: a line that the line check found corrected (0x50) or uncorrectable (0x51) is counted by its home. -/
def State.countLine (s : State) (line index : Nat) : State := s.count (counterNo (dieOfPlace (64 * line)) 0xFF index) 1

/-- R446: a line found uncorrectable is poisoned, which is counted. -/
def State.poisonPlace (s : State) (line : Nat) : State :=
  if s.mem.poisoned.contains line then s
  else
    State.countLine { s with mem := { s.mem with poisoned := line :: s.mem.poisoned
                                                 failing := s.mem.failing.filter fun x => x != line
                                                 weak := s.mem.weak.filter fun x => x != line } } line 0x51

/-- R446: fresh data and check bits of a whole line. -/
def State.freshLine (s : State) (line : Nat) : State :=
  { s with mem := { s.mem with poisoned := s.mem.poisoned.filter fun x => x != line
                               failing := s.mem.failing.filter fun x => x != line
                               weak := s.mem.weak.filter fun x => x != line } }

/-- R446: the line of a byte holds an error that no read has found yet. -/
def State.gFailing (s : State) (w pa : Nat) : Bool :=
  match placeOf w pa with | some p => s.mem.failing.contains (p / 64) | none => false

/-- The lines that an access touches, each once. -/
def linesAt (l : List (Nat × Nat)) : List Nat := ((l.filterMap fun x => placeOf x.1 x.2).map fun p => p / 64).eraseDups

/-- R446, R428: what a read finds in a line: one that the line check corrects is counted, one that it cannot correct is counted
and poisoned. -/
def State.readLine (s : State) (line : Nat) : State :=
  if s.mem.failing.contains line then s.poisonPlace line
  else if s.mem.weak.contains line then s.countLine line 0x50
  else s

/-- R446, R428: what a demand read finds in the lines it touches. -/
def State.discover (s : State) (l : List (Nat × Nat)) : State :=
  if s.mem.failing.isEmpty && s.mem.weak.isEmpty then s
  else
    (linesAt l).foldl State.readLine s

/-- R407: the restow that moves a byte addressed under the berth given. -/
def State.restowOf (s : State) (w pa : Nat) : Option Restow :=
  s.restows.find? fun r => r.srcBerth == w && decide (r.srcPa ≤ pa) && decide (pa < r.srcPa + r.size)

/-- The bytes of one written line: physical address of its first byte and its berth. -/
structure LineWrite where
  w : Nat
  pa : Nat
  /-- Byte position and value. -/
  bytes : List (Nat × Byte)
  deriving DecidableEq, Repr

/-- Groups bytes (berth, address, value) by line. -/
def lineWrites : List (Nat × Nat × Byte) → List LineWrite
  | [] => []
  | (w, pa, b) :: rest =>
    let ls := lineWrites rest
    if ls.any fun l => l.w == w && l.pa == pa / 64 * 64 then
      mapIf (fun l => l.w == w && l.pa == pa / 64 * 64) (fun l => { l with bytes := (pa % 64, b) :: l.bytes }) ls
    else { w := w, pa := pa / 64 * 64, bytes := [(pa % 64, b)] } :: ls

/-- Writes a line's bytes in place without any check. -/
def State.storeAt (s : State) (l : LineWrite) : State :=
  match placeOf l.w l.pa with
  | some p =>
    { s with mem := s.mem.storeLine (s.cipher l.w l.pa) (p / 64) (l.bytes.map fun b => (p + b.1, b.2)) }
  | none => s

/-! ### Requests of the host that wait (R407, R417) -/

/-- The queue pair of a request of the host, and the key it names. -/
def hostRequest : Instr → Option (Nat × Nat)
  | .rdmaRead qp _ key _ _ => some (qp, key)
  | .rdmaWrite qp _ key _ _ => some (qp, key)
  | .atomicFetchAndAdd qp _ key _ _ => some (qp, key)
  | .atomicCompareAndSwap qp _ key _ _ _ => some (qp, key)
  | _ => none

/-- R407, R417: a request is accepted and waits, before any WINCLOSE that waits for requests. -/
def State.hostWait (s : State) (i : Instr) : State :=
  if s.hostWaits.contains i then s
  else if (hostRequest i).isSome then
    { s with hostWaits := (s.hostWaits.filter fun j => (hostRequest j).isSome) ++ [i] ++ s.hostWaits.filter fun j => (hostRequest j).isNone }
  else { s with hostWaits := s.hostWaits ++ [i] }

/-! ### The abort of a restow (R409) -/

def State.restow? (s : State) (id : Nat) : Option Restow := s.restows.find? fun r => r.id == id
def State.onRestow (s : State) (id : Nat) (f : Restow → Restow) : State :=
  { s with restows := mapIf (fun r => r.id == id) f s.restows }
def Restow.lines (r : Restow) : Nat := r.size / 64

/-- R409: the destination after an abort: each byte written there is the earlier one or the later one. -/
def State.freeDestination (s : State) (r : Restow) : State :=
  let back := (r.old.zipIdx).filterMap fun b => if Config.freeChoice (s.free + b.2) then none else some (r.dstBerth, b.1.1, b.1.2)
  let s1 := (lineWrites back).foldl State.storeAt s
  { s1 with free := s1.free + r.old.length }

/-- R446: poisons the line of a physical address. -/
def State.poisonLine (s : State) (w pa : Nat) : State :=
  match placeOf w pa with
  | some p => s.poisonPlace (p / 64)
  | none => s

/-- R407, R409: the requests that a restow held are tried again, in their order of arrival, and then the host's that wait behind
one. -/
def State.wakeHeld (s : State) (restow : Nat) : State :=
  let mine := (s.held.filter fun h => h.restow == restow).map fun h => h.event
  { s with held := s.held.filter fun h => h.restow != restow, hostWaits := []
           agenda := mine ++ (s.hostWaits.filter fun i => !mine.contains i) ++ s.agenda }

/-- R409: the abort of a restow before its flip, for its line `i` of the source or the destination. -/
def State.abortRestow (s : State) (r : Restow) (reason i : Nat) : State :=
  let src := r.srcPa + 64 * i
  let s1 := s.freeDestination r
  let s2 := if reason = 1 then s1.poisonLine r.srcBerth src else s1
  (State.post { s2 with restows := s2.restows.filter fun x => x.id != r.id }
    (.restowAbort r.id reason (if reason = 2 then r.dstPa + 64 * i else src))).wakeHeld r.id

/-- R407, R409: a line below the copy pointer is also written to the destination, which reads the source line. What arrives
between Close and the flip is mirrored too where no room waits for it. -/
def State.mirrorLine (s : State) (w pa : Nat) : State :=
  match s.restowOf w pa with
  | some r =>
    let i := (pa - r.srcPa) / 64
    let src := r.srcPa + 64 * i
    if r.step = .flipped || r.p ≤ i then s
    else if s.gFailing w src then s.abortRestow r 1 i
    else
      s.storeAt { w := r.dstBerth, pa := r.dstPa + 64 * i, bytes := (List.range 64).map fun j => (j, s.gByte w (src + j)) }
  | none => s

/-- Writes one line (R446): `cover` says whether the bytes, with those one card wrote before, make up the whole line (2),
or belong to a card that will (1). A shorter write of a poisoned line is discarded and counted. -/
def State.writeLine (s : State) (cover : Nat) (l : LineWrite) : State :=
  match placeOf l.w l.pa with
  | none => s
  | some p =>
    let whole := cover == 2 || (List.range 64).all fun i => l.bytes.any fun b => b.1 == i
    if s.mem.poisoned.contains (p / 64) then
      if whole then
        ((s.storeAt l).freshLine (p / 64)).mirrorLine l.w l.pa
      else if cover = 1 then s.storeAt l
      else s.count (counterNo (dieOfPlace p) 0xFF 0x51) 1
    else (if whole then (s.storeAt l).freshLine (p / 64) else s.storeAt l).mirrorLine l.w l.pa

/-- Writes bytes (berth, physical address, value) issued by an agent. -/
def State.gWrite (s : State) (agent : Nat) (cover : Nat → Nat) (bytes : List (Nat × Nat × Byte)) : State :=
  (lineWrites bytes).foldl (fun s l =>
    let s1 := match placeOf l.w l.pa with | some p => s.clockMsg agent (dieOfPlace p) | none => s
    s1.writeLine (cover l.pa) l) s

/-! ### Translation (R399 to R403) -/

/-- The result of a translation: physical address, berth word, and the virtual base and size of the page; or a fault
code with its SUB. -/
inductive Trans where
  | ok (pa w : Nat) (pageVa size w0 : Nat)
  | fault (code sub : Nat)
  deriving DecidableEq, Repr

/-- R402: the permissions an access needs. -/
def permitted (k : AccessKind) (w0 : Nat) : Bool :=
  match k with
  | .read => w0.testBit 2
  | .write => w0.testBit 3
  | .readWrite => w0.testBit 2 && w0.testBit 3
  | .fetch => w0.testBit 4

/-- R402: the tier range of a page. -/
def tierRangeOk (w pa size : Nat) : Bool :=
  match berthTier w with
  | 0 => decide (pa + size ≤ Config.hbmBytes)
  | 1 => decide (Config.lpddrBase ≤ pa) && decide (pa + size ≤ Config.lpddrBase + Config.lpddrBytes)
  | _ => true

/-- R108, R109: what a berth forbids one access: a write, atomic or sluice command at a remote page, a sluice command (`sl`)
where SLE is 0, an offset beyond the bank. -/
def berthRefuses (w pa : Nat) (k : AccessKind) (sl : Bool) : Bool :=
  (sl && !berthSle w) ||
  (if berthTier w = 2 then (match k with | .write => true | .readWrite => true | _ => false) else (placeOf w pa).isNone)

/-- Page size and lowest index bit of a level (R400). -/
def levelShift (level : Nat) : Nat := match level with | 0 => 40 | 1 => 28 | _ => 16

/-- R400 to R402: the walk from a table, by a sluice command or not; `fuel` is the number of levels left. -/
def State.walkFrom (s : State) (tb va : Nat) (k : AccessKind) (sl : Bool) : Nat → Nat → Trans
  | 0, _ => .fault 0x20 2
  | fuel + 1, table =>
    let level := 2 - fuel
    let sh := levelShift level
    let at_ := table + 16 * (va >>> sh % 4096)
    if (placeOf tb at_).isNone then .fault 0x21 0
    else
      let w0 := s.gNat tb at_ 8
      let w1 := s.gNat tb (at_ + 8) 8
      let leaf := w0.testBit 1
      let frame := bitsOf w0 47 16
      let size := 2 ^ sh
      if !w0.testBit 0 then .fault 0x20 0
      else if bitsOf w0 63 48 != 0 || bitsOf w0 15 5 != 0 || (!leaf && (level == 2 || w1 != 0)) ||
          (leaf && level == 0 && frame % 2 ^ 24 != 0) || (leaf && level == 1 && frame % 2 ^ 12 != 0) then .fault 0x20 2
      else if leaf then
        if !berthOk w1 || !tierRangeOk w1 (frame * 65536) size || berthRefuses w1 (frame * 65536 + va % size) k sl then .fault 0x21 0
        else if !permitted k w0 then .fault 0x20 1
        else .ok (frame * 65536 + va % size) w1 (va / size * size) size w0
      else s.walkFrom tb va k sl fuel (frame * 65536)

/-- R399, R402: a walk for an ASID. -/
def State.walk (s : State) (asid va : Nat) (k : AccessKind) (sl : Bool := false) : Trans :=
  match s.roots.find? fun r => r.asid == asid with
  | some r => if r.valid then s.walkFrom r.tberth va k sl 3 r.root else .fault 0x20 3
  | none => .fault 0x20 3

/-- R408: a fresh walk of an address gives the GEN just refused. -/
def State.stillRefused (s : State) (asid va gen : Nat) (k : AccessKind) : Bool :=
  match s.walk asid va k with
  | .ok _ w _ _ _ => berthGen w == gen
  | .fault _ _ => false

/-- The table entries that a walk reads: table berth and physical address of each. -/
def State.walkReads (s : State) (tb va : Nat) : Nat → Nat → List (Nat × Nat)
  | 0, _ => []
  | fuel + 1, table =>
    let at_ := table + 16 * (va >>> levelShift (2 - fuel) % 4096)
    let w0 := s.gNat tb at_ 8
    (tb, at_) :: (if w0.testBit 0 && !w0.testBit 1 then s.walkReads tb va fuel (bitsOf w0 47 16 * 65536) else [])

/-- R124: the replies from the homes of some places carry their clocks to the agent that reads. -/
def State.clockReplies (s : State) (agent : Nat) (l : List (Nat × Nat)) : State :=
  ((l.filterMap fun x => (placeOf x.1 x.2).map dieOfPlace).eraseDups).foldl (fun s d => s.clockMsg d agent) s

/-- R124, R403: the replies to a walk come to the walker: the die of its floor, the hall, or another package. -/
def State.walkClock (s : State) (floor asid va : Nat) : State :=
  match s.roots.find? fun r => r.asid == asid && r.valid with
  | some r => s.clockReplies (if floor ≤ 4 then floor else 13) (s.walkReads r.tberth va 3 r.root)
  | none => s

/-! ### Translation caches (R403, R404) -/

/-- Who translates: a core by its number, or the hall, whose number lies above every core's. -/
def hallMmu : Nat := 2 ^ 20

/-- The floor of a translating agent: 4 for the hall, from 8 on that of another package's core. -/
def mmuFloor (mmu : Nat) : Nat := if mmu = hallMmu then 4 else floorOf mmu + 8 * pkgOf mmu

/-- A cached translation of an address of a floor. -/
def Tlb.covers (t : Tlb) (floor asid va : Nat) : Bool :=
  t.floor == floor && t.asid == asid && decide (t.va ≤ va) && decide (va < t.va + t.size)

/-- R404: the victim entry reads as uncorrectable. -/
def State.victimBad (s : State) (v : Victim) : Bool :=
  match v.line with
  | .scratch core _ word => (List.range 64).any fun j => (s.coreOf core).eccOf (word / 8) j == .bad
  | .code core line => (s.coreOf core).badCode.contains line

/-- R408, R405, R404: drops translations from every cache. -/
def State.dropCached (s : State) (p : Tlb → Bool) : State :=
  { s with l1 := s.l1.filter fun t => !p t.2, tlb := s.tlb.filter fun t => !p t, victims := s.victims.filter fun v => !p v.entry }

/-- The entries that `dropCached` drops. -/
def State.cachedBy (s : State) (p : Tlb → Bool) : List Tlb :=
  ((s.l1.map Prod.snd) ++ s.tlb ++ s.victims.map Victim.entry).filter p

/-- R408: a refused requester drops its floor's translations of the page, those that a shootdown has dropped among them. -/
def State.dropTlb (s : State) (floor asid va : Nat) : State :=
  let s1 := s.dropCached fun t => t.covers floor asid va
  { s1 with shootdowns := s.shootdowns.map fun d => { d with old := d.old.filter fun t => !t.covers floor asid va } }

/-- R404: the 64 B lines of one code page. -/
def codeFrameLines : Nat := 64

/-- R404: the victim store may borrow a line: of scratchpad outside every partition, or of an instruction store where no resident
code page lies. -/
def State.borrowable (s : State) (l : VictimLine) : Bool :=
  match l with
  | .scratch core g word => s.rooms.all fun r => r.core != core ||
      (let base := r.pg.getD g 0 / 64; decide (word < base) || decide (base + r.spSize / 256 ≤ word))
  | .code core line => s.pages.all fun p => p.core != core || p.frame != line / codeFrameLines

/-- R404: lines that their stores need go back, and the entries in them are dropped. -/
def State.takeBack (s : State) : State := { s with victims := s.victims.filter fun v => s.borrowable v.line }

/-- A number of n free bits from the k-th on. -/
def State.freeNat (s : State) (k n : Nat) : Nat :=
  packLanes 1 ((List.range n).map fun j => b2n (Config.freeChoice (s.free + k + j)))

/-- The line that a victim is offered; the manual leaves the choice open (log 71). -/
def State.victimLine (s : State) (floor : Nat) : VictimLine :=
  let core := 32 * floor + s.freeNat 14 5
  if Config.freeChoice (s.free + 19) then .scratch core (s.freeNat 20 2) (s.freeNat 22 16)
  else .code core (s.freeNat 22 16)

/-- R404: a full L2 evicts an entry, and may keep it in the victim store, two entries to a line (log 71). -/
def State.evictL2 (s : State) (floor : Nat) : State :=
  let mine := s.tlb.filter fun t => t.floor == floor
  if mine.length < Config.l2Entries then s
  else
    match mine[s.freeNat 0 13 % mine.length]? with
    | none => s
    | some t =>
      let line := s.victimLine floor
      let keep := Config.freeChoice (s.free + 13) && s.borrowable line &&
        decide ((s.victims.filter fun v => v.line == line).length < 2) &&
        decide ((s.victims.filter fun v => v.entry.floor == floor).length < Config.l2Entries)
      let s1 : State := { s with tlb := s.tlb.filter fun x => x != t, free := s.free + 38
                                 victims := if keep then { line := line, entry := t } :: s.victims else s.victims }
      match line with
      | .scratch core g word => if keep then s1.onCore core fun k => k.healed [(word / 8, 8 * g + word % 8)] else s1
      | .code core n => if keep then s1.onCore core fun k => { k with badCode := k.badCode.filter fun x => x != n } else s1

/-- R403: an entry comes into the L1 of a core; a full one evicts an entry chosen freely (log 71). -/
def State.fillL1 (s : State) (core : Nat) (t : Tlb) : State :=
  let rest := s.l1.filter fun x => !(x.1 == core && x.2.covers t.floor t.asid t.va)
  let mine := rest.filter fun x => x.1 == core
  if mine.length < Config.l1Entries then { s with l1 := (core, t) :: rest }
  else match mine[s.freeNat 0 6 % mine.length]? with
    | some x => { s with l1 := (core, t) :: rest.filter fun y => y != x, free := s.free + 6 }
    | none => { s with l1 := (core, t) :: rest }

/-- R403: caches a successful walk on a floor, in place of any older entry for the address. -/
def State.cacheWalk (s : State) (floor asid va : Nat) (t : Trans) : State :=
  match t with
  | .ok _ w pageVa size w0 =>
    let s1 : State := { s with tlb := s.tlb.filter fun t => !t.covers floor asid va
                               victims := s.victims.filter fun v => !v.entry.covers floor asid va }
    let s2 := s1.evictL2 floor
    { s2 with tlb := { floor := floor, asid := asid, va := pageVa, size := size, w0 := w0, w1 := w } :: s2.tlb }
  | .fault _ _ => s

/-- R404: a victim entry that reads as uncorrectable is dropped when it is met. -/
def State.dropBadVictims (s : State) (floor asid va : Nat) : State :=
  { s with victims := s.victims.filter fun v => !(v.entry.covers floor asid va && s.victimBad v) }

/-- R403: the cached translation of a core: of its L1, else of the L2 of its floor, else of the victim store. -/
def State.cached (s : State) (core asid va : Nat) : State × Option Tlb :=
  let floor := mmuFloor core
  match s.l1.find? fun t => t.1 == core && t.2.covers floor asid va with
  | some t => (s, some t.2)
  | none =>
    let s1 := s.dropBadVictims floor asid va
    let hit := match s1.tlb.find? fun t => t.covers floor asid va with
      | some t => some t
      | none => (s1.victims.find? fun v => v.entry.covers floor asid va).map Victim.entry
    match hit with
    | some t => (s1.fillL1 core t, some t)
    | none => (s1, none)

/-- R405: until SHOOTDOWN_DONE an access freely uses a translation that the shootdown dropped. -/
def State.oldChoice (s : State) (floor asid va : Nat) : State × Option Tlb :=
  match s.shootdowns.findSome? fun d => d.old.find? fun t => t.covers floor asid va with
  | some t => ({ s with free := s.free + 1 }, if Config.freeChoice s.free then some t else none)
  | none => (s, none)

/-- R402: an address of another package (log 48). -/
def Trans.away (t : Trans) (dist : Nat) : Trans :=
  match t with | .ok pa w v z w0 => .ok (pa + dist * 2 ^ 48) w v z w0 | .fault c sub => .fault c sub

/-- R402: what an entry makes of an address. -/
def Tlb.trans (t : Tlb) (va : Nat) (k : AccessKind) (sl : Bool) : Trans :=
  let pa := bitsOf t.w0 47 16 * 65536 + (va - t.va)
  if berthRefuses t.w1 pa k sl then .fault 0x21 0
  else if permitted k t.w0 then .ok pa t.w1 t.va t.size t.w0
  else .fault 0x20 1

/-- R402, R403: the translation an agent uses: a cached one, else a walk, which is counted and cached. The hall walks each
time; data of a room of another package lies in that package. -/
def State.translate (s : State) (mmu asid va : Nat) (k : AccessKind) (sl : Bool := false) : State × Trans :=
  let floor := mmuFloor mmu
  if floor < 4 then
    let valid := s.roots.any fun r => r.asid == asid && r.valid
    let o := s.oldChoice floor asid va
    match (if valid then o.2 else none) with
    | some t => (o.1, t.trans va k sl)
    | none =>
      let c := o.1.cached mmu asid va
      match (if valid then c.2 else none) with
      | some t => (c.1, t.trans va k sl)
      | none =>
        let r := c.1.walk asid va k sl
        let s1 := (((c.1.count (counterNo floor 0xFF 0x21) 1).walkClock floor asid va).cacheWalk floor asid va r)
        (match s1.tlb.find? fun t => t.covers floor asid va, r with
         | some t, .ok _ _ _ _ _ => s1.fillL1 mmu t
         | _, _ => s1, r)
  else
    let r := s.walk asid va k sl
    (s.walkClock floor asid va, if k = .fetch then r else r.away (floor / 8))

/-! ### Reads at peers (R113, R422) -/

/-- The 64 B lines at peers that an access touches, in the order in which it first touches them. -/
def peerLines (l : List (Nat × Nat)) : List (Nat × Nat) :=
  (l.filterMap fun x => if berthTier x.1 = 2 then some (x.1, x.2 / 64) else none).eraseDups

/-- R422, R113: read requests for lines at peers leave by the ports of the lockhouses that their berths name. -/
def State.askPeers (s : State) (l : List (Nat × Nat)) : State :=
  { s with peerAsks := s.peerAsks ++ (peerLines l).map fun x => { port := Nat.log2 (berthStacks x.1), pa := 64 * x.2 } }

/-! ### One access (R108, R402, R407, R408) -/

/-- R123: the bank is held by an alert back-off. -/
def State.bankHeld (s : State) (bank : Nat) : Bool := s.refresh.any fun b => b.bank == bank && b.backOff

/-- What becomes of an access at its home. -/
inductive Reach where
  /-- Each byte's berth and physical address. -/
  | ok (bytes : List (Nat × Nat))
  | fault (code sub : Nat)
  /-- R407, R123: held by a restow between Close and the flip, with its number and the die that holds the request, or while the
  bank is held. -/
  | held (by_ : Option (Nat × Nat))
  /-- R407: refused, with the die of the refusing controller and the GEN it refused. -/
  | refused (die gen : Nat)
  /-- Some of the bytes lie behind a lockhouse port (R113, R424). -/
  | remote (bytes : List (Nat × Nat))
  deriving DecidableEq, Repr

/-- Goes through so far. -/
def Reach.open (o : Reach) : Bool := match o with | .ok _ => true | .remote _ => true | _ => false

/-- One more byte of an access that goes through. -/
def Reach.add (o : Reach) (b : Nat × Nat) (peer : Bool) : Reach :=
  match o with
  | .ok l => if peer then .remote (l ++ [b]) else .ok (l ++ [b])
  | .remote l => .remote (l ++ [b])
  | o => o

/-- R410: the place lies in an arena that a handle restow has moved away. -/
def State.movedAway (s : State) (w pa : Nat) : Bool :=
  s.moved.any fun m => m.w == w && decide (m.pa ≤ pa) && decide (pa < m.pa + m.size)

/-- The home of one more byte of an access is asked (R108, R123, R407, R410). -/
def State.askHome (s : State) (o : Reach) (w pa : Nat) (k : AccessKind) : Reach :=
  if berthRefuses w pa k false then .fault 0x21 0
  else if berthTier w = 2 then o.add (w, pa) true
  else
    match placeOf w pa with
    | none => .fault 0x21 0
    | some p =>
      if s.bankHeld (bankOfPlace p) then .held none
      else match s.restowOf w pa with
      | some r =>
        match r.step with
        | .copy => o.add (w, pa) false
        | .flipped => .refused (dieOfPlace p) (berthGen w)
        | _ => .held (some (r.id, dieOfPlace p))
      | none => if s.movedAway w pa then .refused (dieOfPlace p) (berthGen w) else o.add (w, pa) false

/-- R446: what an access that reads finds in the lines here. -/
def State.found (s : State) (k : AccessKind) (o : Reach) : State :=
  match k, o with
  | .write, _ => s
  | _, .ok l => s.discover l
  | _, .remote l => s.discover (l.filter fun x => berthTier x.1 != 2)
  | _, _ => s

/-- Translates the bytes of an access, page by page, and asks the homes (R108, R402, R407). -/
def State.reach (s : State) (mmu asid va n : Nat) (k : AccessKind) : State × Reach :=
  let step (acc : State × Reach) (i : Nat) : State × Reach :=
    if acc.2.open then
      let t := acc.1.translate mmu asid ((va + i) % 2 ^ 52) k
      match t.2 with
      | .fault c sub => (t.1, .fault c sub)
      | .ok pa w _ _ _ => (t.1, t.1.askHome acc.2 w pa k)
    else acc
  let x := (List.range n).foldl step (s.request, .ok [])
  (x.1.found k x.2, x.2)

/-- The bytes that an access reads, and whether any line of them is poisoned (R446). -/
def State.readReach (s : State) (l : List (Nat × Nat)) : List Byte × Bool :=
  (l.map fun x => s.gByte x.1 x.2, l.any fun x => s.gPoisoned x.1 x.2)

end Sys2Proof.Machine
end

