-- ==== Sys2Proof/Machine/Cards.lean ====
section
/-! DEFINITION. Barge cards as the bytes of their record: fields, rules, units and intervals (10, R269 to R274; 05,
R138). -/

namespace Sys2Proof.Machine

/-! ### The X slot's operations by kind (R161, R265) -/

/-- The X format of an X instruction. -/
def xFormOf : Instr → Option XForm
  | .bcopy f | .bconv f | .bquant f | .bgather f | .bscatter f | .bfill f | .bnext f | .bchain f | .put f | .putQ f
  | .putT f | .sinit f | .sinc f | .swait f | .twait f | .tbsync f | .slAdd f | .slMin f | .slMax f | .slAnd f
  | .slOr f | .slXor f | .slFadd f | .slCas f | .slFill f | .slSum f | .amoAdd f | .amoMin f | .amoMax f | .amoAnd f
  | .amoOr f | .amoXor f | .amoSwap f | .amoCas f | .amoFadd f | .fenceAcq f | .fenceRel f | .fenceAr f | .fenceBank f
  | .fenceBankAll f | .fenceGeo f | .phase f | .dbar f | .collSum f | .collSumQ f | .collBcast f | .wmap f | .wflush f
  | .wflushAll f | .tret f => some f
  | _ => none

def XForm.nil : XForm := { ch := 0, aa := 0, ab := 0, sa := 0, ms := 0, sc := 0, gi := 0, gn := 0, da := 0, fn := 0 }

/-- The X opcode of an operation (R161), as TRAPC.AUX records it. -/
def xOpcode (i : Instr) : Nat :=
  match Decode.encodeSlot i with | some (_, w) => (Decode.opOf w).toNat | none => 0

def isCardOp (i : Instr) : Bool := decide (1 ≤ xOpcode i) && decide (xOpcode i ≤ 8)
def isPutOp : Instr → Bool | .put _ | .putQ _ | .putT _ => true | _ => false
def isSluiceOp : Instr → Bool
  | .slAdd _ | .slMin _ | .slMax _ | .slAnd _ | .slOr _ | .slXor _ | .slFadd _ | .slCas _ | .slFill _ | .slSum _ => true
  | _ => false
def isAmoOp : Instr → Bool
  | .amoAdd _ | .amoMin _ | .amoMax _ | .amoAnd _ | .amoOr _ | .amoXor _ | .amoSwap _ | .amoCas _ | .amoFadd _ => true
  | _ => false
def isFenceOp : Instr → Bool
  | .fenceAcq _ | .fenceRel _ | .fenceAr _ | .fenceBank _ | .fenceBankAll _ | .fenceGeo _ => true
  | _ => false
def isCollOp : Instr → Bool | .collSum _ | .collSumQ _ | .collBcast _ => true | _ => false
def isWindowOp : Instr → Bool | .wmap _ | .wflush _ | .wflushAll _ => true | _ => false

def XEntry.form (e : XEntry) : XForm := (xFormOf e.op).getD XForm.nil
def XEntry.isCard (e : XEntry) : Bool := match e.op with
  | .bcopy _ | .bconv _ | .bquant _ | .bgather _ | .bscatter _ | .bfill _ | .bnext _ | .bchain _ => true
  | _ => false
/-- The barge channel of a card. -/
def XEntry.channel (e : XEntry) : Nat := e.form.ch.toNat

/-! ### Fields of a card (R269) -/

/-- A card as the natural number of its 64 bytes, C0 lowest. -/
def cGva (n : Nat) : Nat := bitsOf n 51 0
def cLdesc (n : Nat) : Nat := bitsOf n 191 64
def cRowStride (n : Nat) : Int := sext (bitsOf n 255 192) 64
def cStride (n : Nat) : Int := sext (bitsOf n 287 256) 32
def cFmt (n : Nat) : Nat := bitsOf n 293 288
def cEs (n : Nat) : Nat := bitsOf n 295 294
def cRm (n : Nat) : Nat := bitsOf n 298 296
def cHandle (n : Nat) : Bool := n.testBit 299
/-- DIR = 1: scratchpad to global. -/
def cOut (n : Nat) : Bool := n.testBit 300
def cKind (n : Nat) : Nat := bitsOf n 303 301
def cArg0 (n : Nat) : Nat := bitsOf n 383 320
def cArg1 (n : Nat) : Nat := bitsOf n 447 384
def cArgs (n : Nat) : Nat := bitsOf n 447 320
/-- Tile extent in dimension d, 1 to 4, with 0 read as 1. -/
def cShape (n d : Nat) : Nat := max 1 (bitsOf n (448 + 16 * d - 1) (448 + 16 * (d - 1)))
/-- Tile origin in dimension d, 0 to 4. -/
def cOrigin (n d : Nat) : Int :=
  match d with
  | 0 => sext (bitsOf n 223 192) 32
  | 1 => sext (bitsOf n 255 224) 32
  | 2 => cStride n
  | 3 => sext (bitsOf n 351 320) 32
  | _ => sext (bitsOf n 383 352) 32
/-- R274: STAGE and NV of a quantising card. -/
def cStage (n : Nat) : Nat := bitsOf n 343 320
def cNv (n : Nat) : Nat := bitsOf n 415 384

def cGlobalFmt (n : Nat) : Fmt := (fmtOf (cFmt n)).getD (.int true 8)

/-- R273: a fill of the global side uses COUNT and ROWS of LDESC alone. -/
def cFillOut (n : Nat) : Bool := cKind n == 5 && cOut n
/-- R273: which sides a card touches. -/
def cLocalSide (n : Nat) : Bool := !cFillOut n
def cGlobalSide (n : Nat) : Bool := !(cKind n == 5 && !cOut n)
def cGathers (n : Nat) : Bool := cKind n == 3 || cKind n == 4

/-! ### What R272 checks of a card that was read -/

/-- Whether an index region is a fit for gather or scatter (R273). -/
def indexOk (idesc ldesc : Nat) : Bool :=
  (descFmtCode idesc == 0x03 || descFmtCode idesc == 0x05) && descRows idesc == descRows ldesc &&
  descVals idesc == descVals ldesc

/-- R273, R274: the rule of a kind. -/
def cardKindOk (n : Nat) : Bool :=
  let l := cLdesc n
  let gf := cGlobalFmt n
  let same := cFmt n == descFmtCode l && cEs n == descEs l
  let noArgs := cHandle n || (cArg0 n == 0 && cArg1 n == 0)
  let real (f : Fmt) : Bool := f.isIeee || f.isTap
  match cKind n with
  | 0 => same && cRm n == 0 && noArgs
  | 1 => !gf.isBlk && !(descFmt l).isBlk && noArgs
  | 2 =>
    cRm n == 0 && bitsOf n 383 344 == 0 && cStage n % 64 == 0 && bitsOf n 447 416 == 0 && decide (1 ≤ cNv n) &&
    decide (cNv n ≤ 2097120) &&
    (if cOut n then real (descFmt l) && gf.isBlk && descVals l == cNv n
     else real gf && (descFmt l).isBlk && descCount l == cdiv (cNv n) 32)
  | 3 => !cOut n && same && !(descFmt l).isBlk && !(descFmt l).isNibble && indexOk (cArgs n) l && cRm n == 0 &&
         cRowStride n == 0
  | 4 => cOut n && same && !(descFmt l).isBlk && !(descFmt l).isNibble && indexOk (cArgs n) l && cRm n == 0 &&
         cRowStride n == 0
  | 5 => !(if cOut n then gf else descFmt l).isBlk && cRm n == 0 && cArg1 n == 0
  | _ => false

/-- R271: the extents of a tile agree with LDESC. -/
def cardTileOk (n : Nat) : Bool :=
  !cHandle n ||
  (let p := cShape n 1 * cShape n 2 * cShape n 3 * cShape n 4
   let rows := descRowsField (cLdesc n)
   rows == p || (p == 1 && rows == 0))

/-- R272: a card that is not ILLEGAL_BUNDLE, for an instruction with opcode `op`. -/
def cardLegal (op n : Nat) : Bool :=
  bitsOf n 63 52 == 0 && bitsOf n 319 304 == 0 && decide (cKind n ≤ 5) &&
  (decide (6 < op) || cKind n + 1 == op) &&
  (match fmtOf (cFmt n) with | some f => esValid f (cEs n) | none => false) &&
  rmFieldOk (cRm n) &&
  (if cHandle n then decide (cKind n ≤ 1) && bitsOf n 51 12 == 0 && cArg1 n == 0 else n >>> 448 == 0) &&
  (cFillOut n || descCheck (cLdesc n) == .ok) &&
  cardKindOk n && cardTileOk n && (!cGathers n || descCheck (cArgs n) != .illegal)

/-- R270, R154: the alignment of the global side and of the index region. -/
def cardAligned (n : Nat) : Bool :=
  let z := (cGlobalFmt n).elemBytes
  (cHandle n || !cGlobalSide n || (cGlobalFmt n).isBlk || z < 2 ||
    (cGva n % z == 0 && cStride n % z == 0 && cRowStride n % z == 0)) &&
  (!cGathers n || descCheck (cArgs n) != .misaligned)

/-! ### Units and intervals -/

/-- Values of a row on the side that numbers a card's units (R206, R270, R273). -/
def cardPerRow (n : Nat) : Nat :=
  let l := cLdesc n
  match cKind n with
  | 0 => descCount l
  | 1 => min (descVals l) (descCount l * (cGlobalFmt n).valsPerElem)
  | 2 => cdiv (cNv n) 32
  | 5 => if cOut n then descCount l * (cGlobalFmt n).valsPerElem else descVals l
  | _ => descVals l

/-- The units of a card: descriptor elements of a copy, blocks of a quantising card, values of the others. -/
def cardUnits (n : Nat) : Nat := descRows (cLdesc n) * cardPerRow n

/-- Values of one global element that a unit stands for. -/
def cardGlobalPer (n : Nat) : Nat := match cKind n with | 0 => 1 | 2 => 1 | _ => (cGlobalFmt n).valsPerElem

/-- R270: the unwrapped global address of element k of a row in direct mode. -/
def cardElemVa (n row k : Nat) : Int := (cGva n : Int) + cRowStride n * row + cStride n * k

/-- An address modulo 2^52 (R270). -/
def va52 (x : Int) : Nat := wrapTo 52 x

/-- The global side of a card as R138 compares it. -/
inductive GSpan where
  | none
  | va (lo hi : Nat)
  | handle (num : Nat)
  deriving DecidableEq, Repr

/-- R138: whether two global sides overlap; two cards of one handle are taken to. -/
def GSpan.meets (a b : GSpan) : Bool :=
  match a, b with
  | .va lo hi, .va lo' hi' => decide (lo ≤ hi') && decide (lo' ≤ hi)
  | .handle n, .handle m => n == m
  | _, _ => false

/-- An interval of unwrapped addresses as one of addresses modulo 2^52; all of them when it wraps. -/
def wrapSpan (lo hi : Int) : GSpan :=
  let w : Int := 2 ^ 52
  if lo / w = hi / w then .va (lo % w).toNat (hi % w).toNat else .va 0 (2 ^ 52 - 1)

/-- R138: the global interval of a card. -/
def cardSpan (n : Nat) : GSpan :=
  if !cGlobalSide n || cardUnits n = 0 then .none
  else if cHandle n then .handle (cGva n % 4096)
  else
    let z : Int := (cGlobalFmt n).elemBytes
    let base : Int := cGva n
    if cGathers n then
      let top : Int := if descFmtCode (cArgs n) = 0x03 then 2 ^ 16 - 1 else 2 ^ 32 - 1
      let e := cStride n * top
      wrapSpan (base + min 0 e) (base + max 0 e + z - 1)
    else
      let per := cdiv (if cKind n = 2 && !cOut n then cNv n else cardPerRow n) (cardGlobalPer n)
      let k := cStride n * (per - 1 : Nat)
      let r := cRowStride n * (descRows (cLdesc n) - 1 : Nat)
      wrapSpan (base + min 0 k + min 0 r) (base + max 0 k + max 0 r + z - 1)

/-- R138: the scratchpad interval of a card: LDESC's, with IDESC's when it gathers or scatters. -/
def cardLocalIv (n : Nat) : Option Iv :=
  if !cLocalSide n then none
  else
    match descIv (cLdesc n), (if cGathers n then descIv (cArgs n) else none) with
    | some a, some b => some { lo := min a.lo b.lo, hi := max a.hi b.hi }
    | a, none => a
    | none, b => b

/-- The scratchpad bytes of its interval that a card writes: its index list is only read (R273). -/
def cardLocalWrite (n : Nat) : Option Iv := if cLocalSide n && !cOut n then descIv (cLdesc n) else none

/-- R138: an edge joins an earlier card to a later one: where their intervals overlap, one of them writes. -/
def cardEdge (a b : Nat) : Bool :=
  let writes (x y : Nat) : Bool :=
    match cardLocalWrite x, cardLocalIv y with | some u, some v => u.overlaps v | _, _ => false
  writes a b || writes b a ||
  ((cardSpan a).meets (cardSpan b) && (cOut a || cOut b))

/-- R274: the staging area. -/
def stageIv (n : Nat) : Iv :=
  let z := (if cOut n then descFmt (cLdesc n) else cGlobalFmt n).elemBytes
  { lo := cStage n, hi := (cStage n + 2048 * z : Nat) - 1 }

/-- R35, R266: the scratchpad intervals a card at an address reads. -/
def cardReads (addr n : Nat) : List Iv :=
  [{ lo := addr, hi := (addr + 63 : Nat) }] ++
  (if cLocalSide n && cOut n then (descIv (cLdesc n)).toList else []) ++
  (if cGathers n then (descIv (cArgs n)).toList else [])

/-- R35, R266: the scratchpad intervals a card writes. -/
def cardWrites (n : Nat) : List Iv :=
  (if cLocalSide n && !cOut n then (descIv (cLdesc n)).toList else []) ++ (if cKind n = 2 then [stageIv n] else [])

end Sys2Proof.Machine
end

