-- ==== Sys2Proof/Machine/Transfer.lean ====
section
/-! DEFINITION. The X slot at issue: cards, puts, semaphores, waits, sluice commands, atomics, fences, phases,
barriers, collectives, windows and the return from a trap (10, R264 to R305). -/

namespace Sys2Proof.Machine

/-! ### Checks at issue (R264 to R266) -/

def slotX : Nat := 4

/-- R265: SLOT_BUSY for a full transfer queue. -/
def queueFull : Cause := { busy slotX with sub := 1 }

def Room.queueIsFull (r : Room) : Bool :=
  decide (Config.queueEntries ≤ (r.ctx.xq.filter fun e => e.status == .queued).length)

/-- R266: intervals an entry reads lie in R(e) or W(e), those it writes in W(e), all below SPSIZE. -/
def Room.setsOk (r : Room) (engine : Nat) (reads writes : List Iv) : Bool :=
  (reads.all fun a => r.mayAccess engine false a) && writes.all fun a => r.mayAccess engine true a

/-- A new entry of an operation with its register operands read (R264). -/
def Ctx.entryOf (c : Ctx) (id : Nat) (i : Instr) (f : XForm) : XEntry :=
  { id := id, op := i, aa := (c.readA f.aa.toNat).toNat, ab := (c.readA f.ab.toNat).toNat,
    ac := (c.readA (f.ab.toNat + 1)).toNat, sv := (c.readS f.sa).toNat, desc := (c.readD f.da).toNat, rm := .rne,
    card := [], shadow := false, after := [], status := .queued, next := 0, staged := [], fault := none,
    replay := none, heldBy := none, again := false, fenced := none, home := none, raised := Raised.none, poisoned := false, payload := [], result := none, ordinal := 0,
    tbIssue := 0, source := 0, seq := 0, via := none, writeBack := [], reads := [], writes := [] }

/-- Puts an entry at the end of the queue with the intervals it keeps (R35, R265). -/
def Room.enqueue (r : Room) (e : XEntry) (engine : Nat) (reads writes : List Iv) : Room :=
  { r with entries := r.entries + 1,
           ctx.xq := r.ctx.xq ++ [{ e with reads := reads.map fun a => (engine, a),
                                           writes := writes.map fun a => (engine, a) }] }

/-- An X instruction that takes one entry: ILLEGAL_BUNDLE, then a full queue, then MISALIGNED, then the intervals
(R159, R265, R266); `fill` completes the entry. -/
def entryOp (i : Instr) (f : XForm) (ok aligned : Ctx → XEntry → Bool) (reads writes : Ctx → XEntry → List Iv)
    (fill : State → XEntry → XEntry) (s : State) : Host.Outcome State Fault Refusal :=
  slotOp i slotX s fun s =>
    let r := s.me
    let e := r.ctx.entryOf (r.entries + 1) i f
    if !ok r.ctx e then .error (illegal slotX)
    else if r.queueIsFull then .error queueFull
    else if !aligned r.ctx e then .error (misaligned slotX)
    else if !r.setsOk 2 (reads r.ctx e) (writes r.ctx e) then .error (escapes slotX)
    else .ok { s with me := r.enqueue (fill s e) 2 (reads r.ctx e) (writes r.ctx e) }

/-- The interval of n bytes at an address; none for no bytes. -/
def spanIv (a n : Nat) : List Iv := if n = 0 then [] else [{ lo := a, hi := (a + n : Nat) - 1 }]

/-! ### Barge cards (R272 to R280) -/

/-- The uncompleted cards of a channel, in issue order (R276). -/
def Ctx.channelCards (c : Ctx) (ch : Nat) : List XEntry :=
  c.xq.filter fun e => e.isCard && e.channel == ch && e.status != .applied

/-- R265, R276, R278: SLOT_BUSY of a card instruction. -/
def Room.cardBusy (r : Room) (ch : Nat) (isNext : Bool) : Option Cause :=
  let mine := r.ctx.channelCards ch
  if r.queueIsFull then some queueFull
  else if Config.channelCards ≤ mine.length then some { busy slotX with sub := 2, aux := ch }
  else if isNext && mine.any (fun e => e.shadow) then some { busy slotX with sub := 3 }
  else none

/-- R279, R280: the cards that must complete before a new one starts: those it has an edge from, and the card issued most
recently to channel P, unless that has completed. -/
def Ctx.cardAfter (c : Ctx) (n : Nat) (chain : Option Nat) : List Nat :=
  ((c.xq.filter fun e => e.isCard && e.status != .applied && cardEdge (fromBytes e.card) n).map fun e => e.id) ++
  (match chain with
   | some p => (match (c.xq.filter fun e => e.isCard && e.channel == p).getLast? with
     | some e => if e.status = .applied then [] else [e.id]
     | none => [])
   | none => [])

/-- A card instruction (R272): the checks of the card's address, the card read whole, its own checks, and one entry.
An uncorrectable card is fatal and takes no entry (R390). -/
def cardOp (i : Instr) (f : XForm) (isNext : Bool) (chain : Option Nat) (s : State) :
    Host.Outcome State Fault Refusal :=
  slotOp i slotX s fun s =>
    let r := s.me
    let c := r.ctx
    let ch := f.ch.toNat
    let addr := (c.readA f.aa.toNat).toNat
    let b := r.cardBusy ch isNext
    let orBusy (k : Cause) : Except Cause State := .error (b.getD k)
    if chain = some ch then .error (illegal slotX)
    else if addr % 64 != 0 then orBusy (misaligned slotX)
    else if !r.setsOk (3 + ch) (spanIv addr 64) [] then orBusy (escapes slotX)
    else
      let addrs := (List.range 64).map (addr + ·)
      match r.missOf addrs with
      | some m => .ok { s with me := r.noteMiss m }
      | none =>
        let rd := (r.watchHits slotX false addrs).readChecked (s.coreOf r.core) addrs
        let n := fromBytes rd.2.1
        if rd.2.2 then
          .ok { s with me := { rd.1 with ctx.due := rd.1.ctx.due ++ [{ cause 0x22 slotX with sub := 2 }] } }
        else if !cardLegal (xOpcode i) n then .error (illegal slotX)
        else
          match b with
          | some k => .error k
          | none =>
            if !cardAligned n then .error (misaligned slotX)
            else if !r.setsOk (3 + ch) (cardReads addr n) (cardWrites n) then .error (escapes slotX)
            else
              let e : XEntry := { c.entryOf (r.entries + 1) i f with
                card := rd.2.1, rm := c.mode (cRm n), shadow := isNext, after := c.cardAfter n chain }
              .ok { s with me := rd.1.enqueue e (3 + ch) (cardReads addr n) (cardWrites n) }

/-- `bcopy` (R273, R275). -/
def execBcopy (f : XForm) (s : State) : Host.Outcome State Fault Refusal := cardOp (.bcopy f) f false none s

/-- `bconv` (R273, R275). -/
def execBconv (f : XForm) (s : State) : Host.Outcome State Fault Refusal := cardOp (.bconv f) f false none s

/-- `bquant` (R274, R275). -/
def execBquant (f : XForm) (s : State) : Host.Outcome State Fault Refusal := cardOp (.bquant f) f false none s

/-- `bgather` (R273, R275). -/
def execBgather (f : XForm) (s : State) : Host.Outcome State Fault Refusal := cardOp (.bgather f) f false none s

/-- `bscatter` (R273, R275). -/
def execBscatter (f : XForm) (s : State) : Host.Outcome State Fault Refusal := cardOp (.bscatter f) f false none s

/-- `bfill` (R273, R275). -/
def execBfill (f : XForm) (s : State) : Host.Outcome State Fault Refusal := cardOp (.bfill f) f false none s

/-- `bnext`: the channel's shadow card (R278). -/
def execBnext (f : XForm) (s : State) : Host.Outcome State Fault Refusal := cardOp (.bnext f) f true none s

/-- `bchain`: the successor of the last card of channel P (R279). -/
def execBchain (f : XForm) (s : State) : Host.Outcome State Fault Refusal :=
  cardOp (.bchain f) f false (some (f.fn.toNat % 4)) s

/-! ### Puts (R282 to R285) -/

/-- R282: the reserved bits of a target word. -/
def targetOk (w : Nat) : Bool := w >>> 56 == 0 && bitsOf w 39 24 == 0
/-- Receiver and address of a target word. -/
def targetLin (w : Nat) : Nat := bitsOf w 55 40
def targetAddr (w : Nat) : Nat := bitsOf w 23 0

/-- `put` (R283, R284). -/
def execPut (f : XForm) (s : State) : Host.Outcome State Fault Refusal :=
  entryOp (.put f) f (fun _ e => targetOk e.aa && decide (e.sv ≤ 65536) && decide (e.ab < 2 ^ 24)) (fun _ _ => true)
    (fun _ e => spanIv e.ab e.sv) (fun _ _ => []) (fun _ e => e) s

/-- `put.q`: the image as it stands at issue (R283). -/
def execPutQ (f : XForm) (s : State) : Host.Outcome State Fault Refusal :=
  entryOp (.putQ f) f (fun _ e => targetOk e.aa) (fun _ e => targetAddr e.aa % 16 == 0) (fun _ _ => [])
    (fun _ _ => []) (fun s e => { e with payload := (s.me.ctx.readQ (f.sa.truncate 3)).image }) s

/-- R285: the index of a timed entry for a destination with a window open at a TB and not used, and its window. -/
def openWindow (tb lin : Nat) (l : List TimedEntry) : Option (Nat × Nat) :=
  let ns := tb / 2 ^ 16
  (l.zipIdx).findSome? fun x =>
    let e := x.1
    if e.dst = lin && e.tofs ≤ ns && e.tper != 0 then
      let j := (ns - e.tofs) / e.tper
      let used := match e.lastUsed with | some u => decide (j ≤ u) | none => false
      if ns < e.tofs + j * e.tper + 32 && !used then some (x.2, j) else none
    else none

/-- R24, R49: a TIMED_MISS of the X slot at the boundary after its bundle. -/
def timedMiss (sub : Nat) : Cause := { cause 0x30 slotX with sub := sub }

/-- `put.t`: sent in an open window of the room's schedule; else nothing is sent, no entry is taken and TIMED_MISS is due
(R285, R49, R24). Bytes outside X's sets raise FOOTPRINT_ESCAPE at issue first, whether or not the put would be sent (DESIGN
CHOICE, log 80). -/
def execPutT (f : XForm) (s : State) : Host.Outcome State Fault Refusal :=
  slotOp (.putT f) slotX s fun s =>
    let r := s.me
    let e := r.ctx.entryOf (r.entries + 1) (.putT f) f
    let tb := (s.coreOf r.core).tb
    let missed (sub : Nat) : Except Cause State :=
      .ok { s with me := { r with ctx.due := r.ctx.due ++ [timedMiss sub] } }
    let shares := decide (1 < s.sharing r)
    let w := openWindow tb (targetLin e.aa) r.ctx.timed
    if !(targetOk e.aa && decide (1 ≤ e.sv) && decide (e.sv ≤ 4096) && decide (e.ab < 2 ^ 24)) then .error (illegal slotX)
    else if !shares && w.isSome && r.queueIsFull then .error queueFull
    else if !r.setsOk 2 (spanIv e.ab e.sv) [] then .error (escapes slotX)
    else if shares then missed 2
    else
      match w with
      | none => missed 0
      | some w =>
        let r1 : Room := { r with ctx.timed := modAt (fun t => { t with lastUsed := some w.2 }) w.1 r.ctx.timed }
        .ok { s with me := r1.enqueue { e with tbIssue := tb } 2 (spanIv e.ab e.sv) [] }

/-! ### Semaphores and time (R286 to R288) -/

/-- `sinit` (R286). -/
def execSinit (f : XForm) (s : State) : Host.Outcome State Fault Refusal :=
  roomOp (.sinit f) slotX s fun r =>
    match r.ctx.landAt slotX 1 (.mSet f.ms (r.ctx.readS f.sa)) Raised.none with
    | .ok c => .ok { r with ctx := c }
    | .error k => .error k

/-- `sinc` (R286): the increments that arrive before it lands count too. -/
def execSinc (f : XForm) (s : State) : Host.Outcome State Fault Refusal :=
  roomOp (.sinc f) slotX s fun r =>
    match r.ctx.landAt slotX 1 (.mAdd f.ms (r.ctx.readS f.sa)) Raised.none with
    | .ok c => .ok { r with ctx := c }
    | .error k => .error k

/-- `swait`: the hold begins after its bundle (R287). -/
def execSwait (f : XForm) (s : State) : Host.Outcome State Fault Refusal :=
  roomOp (.swait f) slotX s fun r =>
    .ok { r with ctx.wait := .swait f.ms (r.ctx.readS f.sa) (f.fn.getLsbD 0) }

/-- The release of a held `swait`, with the subtraction of `.dec` (R287). -/
def Ctx.release (c : Ctx) : Ctx :=
  match c.wait with
  | .swait m v dec =>
    { c with wait := .none, m := if dec then c.m.set m.toNat (c.m[m.toNat] - v) else c.m }
  | _ => c

/-- `twait`: holds until TB reaches a[AA]; in a room that shares its core, TIMED_MISS (R288, R47, R24). -/
def execTwait (f : XForm) (s : State) : Host.Outcome State Fault Refusal :=
  slotOp (.twait f) slotX s fun s =>
    let r := s.me
    if 1 < s.sharing r then .ok { s with me := { r with ctx.due := r.ctx.due ++ [timedMiss 2] } }
    else .ok { s with me := { r with ctx.wait := .twait (r.ctx.readA f.aa.toNat) } }

/-- R45: a realignment of the package at a distance runs. -/
def HallTime.aligning (h : HallTime) (dist : Nat) : Bool := if dist = 0 then h.realign.isSome else h.realignAway.contains dist

/-- R45: the realignment of a package begins, or goes on. -/
def HallTime.align (h : HallTime) (dist : Nat) : HallTime :=
  if dist = 0 then { h with realign := some (h.realign.getD h.tb) }
  else { h with realignAway := dist :: h.realignAway.filter fun d => d != dist }

/-- `tbsync` (R45, R288): ALIGNED clears on every core of the package and one realignment runs. -/
def execTbsync (f : XForm) (s : State) : Host.Outcome State Fault Refusal :=
  slotOp (.tbsync f) slotX s fun s =>
    if s.me.timePriv then
      .ok { s with cores := mapIf (fun k => pkgOf k.num == pkgOf s.me.core) (fun k => { k with aligned := false }) s.cores,
                   hall := s.hall.align (pkgOf s.me.core) }
    else .error { cause 0x23 slotX with sub := 3 }

/-! ### Sluice commands (R289, R290) -/

/-- Scratchpad address of the operand, and the lane mask. -/
def slAddr (e : XEntry) : Nat := bitsOf e.sv 23 0
def slMask (e : XEntry) : Nat := bitsOf e.sv 31 24
/-- Whether the command replies. -/
def slReplies (f : XForm) : Bool := f.fn.getLsbD 3

/-- A sluice command at issue (R289, R290). -/
def sluiceOp (i : Instr) (f : XForm) (counted : Bool) (s : State) : Host.Outcome State Fault Refusal :=
  entryOp i f (fun _ e => !counted || e.ab >>> 16 == 0) (fun _ e => e.aa % 32 == 0 && slAddr e % 32 == 0)
    (fun _ e => spanIv (slAddr e) 32) (fun _ e => if slReplies f then spanIv (slAddr e + 32) 8 else [])
    (fun _ e => e) s

/-- `sl.add` (R289). -/
def execSlAdd (f : XForm) (s : State) : Host.Outcome State Fault Refusal := sluiceOp (.slAdd f) f false s

/-- `sl.min` (R289). -/
def execSlMin (f : XForm) (s : State) : Host.Outcome State Fault Refusal := sluiceOp (.slMin f) f false s

/-- `sl.max` (R289). -/
def execSlMax (f : XForm) (s : State) : Host.Outcome State Fault Refusal := sluiceOp (.slMax f) f false s

/-- `sl.and` (R289). -/
def execSlAnd (f : XForm) (s : State) : Host.Outcome State Fault Refusal := sluiceOp (.slAnd f) f false s

/-- `sl.or` (R289). -/
def execSlOr (f : XForm) (s : State) : Host.Outcome State Fault Refusal := sluiceOp (.slOr f) f false s

/-- `sl.xor` (R289). -/
def execSlXor (f : XForm) (s : State) : Host.Outcome State Fault Refusal := sluiceOp (.slXor f) f false s

/-- `sl.fadd` (R289). -/
def execSlFadd (f : XForm) (s : State) : Host.Outcome State Fault Refusal := sluiceOp (.slFadd f) f false s

/-- `sl.cas` (R289). -/
def execSlCas (f : XForm) (s : State) : Host.Outcome State Fault Refusal := sluiceOp (.slCas f) f false s

/-- `sl.fill` (R289). -/
def execSlFill (f : XForm) (s : State) : Host.Outcome State Fault Refusal := sluiceOp (.slFill f) f true s

/-- `sl.sum` (R289). -/
def execSlSum (f : XForm) (s : State) : Host.Outcome State Fault Refusal := sluiceOp (.slSum f) f true s

/-! ### Atomics (R291) -/

/-- The bytes of an atomic's operand by its type. -/
def amoSize (f : XForm) : Nat := match f.fn.toNat % 8 with | 2 => 8 | 3 => 8 | 5 => 8 | _ => 4

/-- An atomic at issue: with its guard false nothing at all (R264, R152). -/
def amoOp (i : Instr) (f : XForm) (s : State) : Host.Outcome State Fault Refusal :=
  if i.wellFormed && !s.me.ctx.guard f.gi f.gn then .next s
  else
    let rep := f.fn.getLsbD 3
    entryOp i f (fun _ _ => true)
      (fun _ e => e.aa % amoSize f == 0 && (!rep || e.sv % amoSize f == 0)) (fun _ _ => [])
      (fun _ e => if rep then spanIv e.sv (amoSize f) else []) (fun _ e => e) s

/-- `amo.add` (R291). -/
def execAmoAdd (f : XForm) (s : State) : Host.Outcome State Fault Refusal := amoOp (.amoAdd f) f s

/-- `amo.min` (R291). -/
def execAmoMin (f : XForm) (s : State) : Host.Outcome State Fault Refusal := amoOp (.amoMin f) f s

/-- `amo.max` (R291). -/
def execAmoMax (f : XForm) (s : State) : Host.Outcome State Fault Refusal := amoOp (.amoMax f) f s

/-- `amo.and` (R291). -/
def execAmoAnd (f : XForm) (s : State) : Host.Outcome State Fault Refusal := amoOp (.amoAnd f) f s

/-- `amo.or` (R291). -/
def execAmoOr (f : XForm) (s : State) : Host.Outcome State Fault Refusal := amoOp (.amoOr f) f s

/-- `amo.xor` (R291). -/
def execAmoXor (f : XForm) (s : State) : Host.Outcome State Fault Refusal := amoOp (.amoXor f) f s

/-- `amo.swap` (R291). -/
def execAmoSwap (f : XForm) (s : State) : Host.Outcome State Fault Refusal := amoOp (.amoSwap f) f s

/-- `amo.cas` (R291). -/
def execAmoCas (f : XForm) (s : State) : Host.Outcome State Fault Refusal := amoOp (.amoCas f) f s

/-- `amo.fadd` (R291). -/
def execAmoFadd (f : XForm) (s : State) : Host.Outcome State Fault Refusal := amoOp (.amoFadd f) f s

/-! ### Fences (R293, R294) -/

/-- A fence takes one entry (R293). -/
def fenceOp (i : Instr) (f : XForm) (s : State) : Host.Outcome State Fault Refusal :=
  entryOp i f (fun _ _ => true) (fun _ _ => true) (fun _ _ => []) (fun _ _ => []) (fun _ e => e) s

/-- `fence.acq` (R127, R293). -/
def execFenceAcq (f : XForm) (s : State) : Host.Outcome State Fault Refusal := fenceOp (.fenceAcq f) f s

/-- `fence.rel` (R127, R293). -/
def execFenceRel (f : XForm) (s : State) : Host.Outcome State Fault Refusal := fenceOp (.fenceRel f) f s

/-- `fence.ar` (R127, R293). -/
def execFenceAr (f : XForm) (s : State) : Host.Outcome State Fault Refusal := fenceOp (.fenceAr f) f s

/-- `fence.bank` (R127, R293). -/
def execFenceBank (f : XForm) (s : State) : Host.Outcome State Fault Refusal := fenceOp (.fenceBank f) f s

/-- `fence.bank.all` (R127, R293). -/
def execFenceBankAll (f : XForm) (s : State) : Host.Outcome State Fault Refusal := fenceOp (.fenceBankAll f) f s

/-- `fence.geo` (R127, R293). -/
def execFenceGeo (f : XForm) (s : State) : Host.Outcome State Fault Refusal := fenceOp (.fenceGeo f) f s

/-! ### Phases (R295, R296, R35) -/

/-- Descriptor counts of a footprint record's header for engine e: read and write (R295). -/
def fpCounts (h e : Nat) : Nat × Nat := (bitsOf h (8 * e + 3) (8 * e), bitsOf h (8 * e + 7) (8 * e + 4))

/-- R295: a header whose counts or reserved bits break the rules. -/
def fpHeaderOk (h : Nat) : Bool :=
  ((List.range 7).all fun e => decide ((fpCounts h e).1 ≤ 8) && decide ((fpCounts h e).2 ≤ 8)) && h >>> 57 == 0

/-- R295: bytes of the record. -/
def fpLength (h : Nat) : Nat :=
  64 + 16 * ((List.range 7).foldl (fun n e => n + (fpCounts h e).1 + (fpCounts h e).2) 0)

/-- R295: the first descriptor of engine e. -/
def fpFirst (h e : Nat) : Nat := (List.range e).foldl (fun n e => n + (fpCounts h e).1 + (fpCounts h e).2) 0

/-- R33, R34: the footprint that a whole record declares, from its bytes. -/
def fpParse (rec : List Byte) : Footprint :=
  let h := fromBytes (rec.take 64)
  let desc (k : Nat) : Nat := fromBytes ((rec.drop (64 + 16 * k)).take 16)
  let ivs (first n : Nat) : List Iv := (List.range n).filterMap fun k => descIv (desc (first + k))
  { reads := (List.range 7).map fun e => ivs (fpFirst h e) (fpCounts h e).1
    writes := (List.range 7).map fun e => ivs (fpFirst h e + (fpCounts h e).1) (fpCounts h e).2
    idem := h.testBit 56, empty := false, image := rec }

/-- R295: every descriptor image of a record passes R154. -/
def fpImagesOk (rec : List Byte) : Bool :=
  (List.range (rec.length / 16 - 4)).all fun k => descCheck (fromBytes ((rec.drop (64 + 16 * k)).take 16)) == .ok

/-- R295: what a footprint record raises when it is only judged by its bytes: none when it is accepted. -/
def fpRecordOk (rec : List Byte) : Bool :=
  let h := fromBytes (rec.take 64)
  decide (64 ≤ rec.length) && fpHeaderOk h && decide (fpLength h = rec.length) && fpImagesOk rec

/-- The image class of an `msave` or `mload` of the occupancy given (R257). -/
def classOfOcc (occ : Nat) : QCls :=
  if cdiv (imageSize .q128) 512 = occ then .q128 else if cdiv (imageSize .q512) 512 = occ then .q512 else .q1024

/-- R35: the intervals an operation in flight reads and writes, with its engine. -/
def Flight.intervals (f : Flight) : Nat × List Iv × List Iv :=
  let iv (ds : List Nat) : List Iv := ds.filterMap descIv
  let g : VRegs := { dd := f.dd, da := f.da, db := f.db, dc := f.dc }
  match f.op with
  | .mmul m | .mmac m | .mslice m => (1, iv (if m.ws = 1 then [f.da] else [f.da, f.db]), [])
  | .msill _ => (1, iv [f.db], [])
  | .msplit _ => (1, iv [f.db], iv [f.da])
  | .mround m => (1, if m.fmt = 0x13 then iv [f.db] else [], iv [f.da])
  | .msave _ => (1, [], [imageIv f.da (classOfOcc f.occ)])
  | .mload _ => (1, [imageIv f.da (classOfOcc f.occ)], [])
  | .qld _ => (1, spanIv f.da f.db, [])
  | i => (0, iv (vReads i g), iv (vWrites i g))

/-- R35, R266: what is in flight: engine, whether written, interval. An operation set aside for a handler is still in flight
(R384). An entry keeps its intervals until it completes; a
card that waits for its channel's increments has none left. -/
def Room.inFlight (r : Room) : List (Nat × Bool × Iv) :=
  ((r.ctx.flights ++ (match r.aside with | some a => a.flights | none => [])).flatMap fun f =>
    let x := f.intervals
    x.2.1.map (fun a => (x.1, false, a)) ++ x.2.2.map fun a => (x.1, true, a)) ++
  r.ctx.xq.flatMap fun e =>
    e.reads.map (fun a => (a.1, false, a.2)) ++ e.writes.map fun a => (a.1, true, a.2)

/-- R35: the first pair of engines whose sets overlap, the writing engine first. -/
def Room.overlapPair (r : Room) (fp : Footprint) : Option (Nat × Nat) :=
  let fl := r.inFlight
  let sets (e : Nat) (w : Bool) : List Iv :=
    (if w then fp.writeSet e else fp.readSet e) ++ (fl.filter fun x => x.1 == e && x.2.1 == w).map fun x => x.2.2
  ((List.range 7).flatMap fun e => (List.range 7).map fun f => (e, f)).find? fun x =>
    x.1 != x.2 && (sets x.1 true).any fun a => (sets x.2 false ++ sets x.2 true).any fun b => a.overlaps b

/-- `phase` (R295, R296, R32): the header read and checked, then the whole record, the overlap check of R35, and the new
phase. After an uncorrectable read POISON is due and nothing changes (R390). -/
def execPhase (f : XForm) (s : State) : Host.Outcome State Fault Refusal :=
  slotOp (.phase f) slotX s fun s =>
    let r := s.me
    let c := r.ctx
    let addr := (c.readA f.aa.toNat).toNat
    if addr % 64 != 0 then .error (misaligned slotX)
    else if r.spSize < addr + 64 then .error (escapes slotX)
    else
      let read (n : Nat) : Room × List Byte × Bool :=
        let addrs := (List.range n).map (addr + ·)
        (r.watchHits slotX false addrs).readChecked (s.coreOf r.core) addrs
      let head := read 64
      let h := fromBytes head.2.1
      let all := (List.range (fpLength h)).map (addr + ·)
      let poison (x : Room) : Except Cause State :=
        .ok { s with me := { x with ctx.due := x.ctx.due ++ [{ cause 0x22 slotX with sub := 1 }] } }
      match r.missOf ((List.range 64).map (addr + ·)) with
      | some m => .ok { s with me := r.noteMiss m }
      | none =>
      if head.2.2 then poison head.1
      else if !fpHeaderOk h then .error (illegal slotX)
      else if r.spSize < addr + fpLength h then .error (escapes slotX)
      else
        match r.missOf all with
        | some m => .ok { s with me := r.noteMiss m }
        | none =>
          let rd := read (fpLength h)
          if rd.2.2 then poison rd.1
          else if !fpImagesOk rd.2.1 then .error (illegal slotX)
          else
            let fp := fpParse rd.2.1
            match r.overlapPair fp with
            | some x => .error { cause 0x08 slotX with aux := x.1 + 16 * x.2 }
            | none =>
              let p := c.phase.toNat
              let c1 : Ctx := { rd.1.ctx with footprint := fp, phaseStart := c.ic,
                                              phase := BitVec.ofNat 32 (p / 2 ^ 24 * 2 ^ 24 + (p + 1) % 2 ^ 24) }
              let r1 : Room := { rd.1 with ctx := c1, snap := none, snapAside := none, snapDue := fp.idem, phasePc := c.pc, lastM := none }
              .ok (({ s with me := r1 }.traceRec r1.core 0x02 10 r1 c.pc c1.phase.toNat).flushMacct r1)

/-! ### Barriers (R297) -/

/-- R29: whether DM[i] is defined. -/
def Room.dmDefined (r : Room) (i : BitVec 3) : Bool := (r.dm[i.toNat]).getLsbD 31

/-- `dbar` (R297): the room waits from the next cycle on. -/
def execDbar (f : XForm) (s : State) : Host.Outcome State Fault Refusal :=
  roomOp (.dbar f) slotX s fun r =>
    if r.dmDefined f.sc then .ok { r with ctx.wait := .dbar f.sc.toNat false } else .error (illegal slotX)

/-! ### Collectives (R298 to R301) -/

/-- A collective's ordinal on its domain register (R298), counted at issue. -/
def Ctx.ordinalOf (c : Ctx) (sc : BitVec 3) : Nat := c.collCount.getD sc.toNat 0

/-- A collective at issue. -/
def collOp (i : Instr) (f : XForm) (ok aligned : Ctx → XEntry → Bool) (reads writes : Room → XEntry → List Iv)
    (s : State) : Host.Outcome State Fault Refusal :=
  if s.me.dmDefined f.sc then
    match entryOp i f ok aligned (fun _ e => reads s.me e) (fun _ e => writes s.me e)
        (fun s e => { e with ordinal := s.me.ctx.ordinalOf f.sc, rm := s.me.ctx.mode (f.fn.toNat % 8) }) s with
    | .next t =>
      if s.me.entries < t.me.entries then
        .next { t with me := { t.me with ctx.collCount := modAt (· + 1) f.sc.toNat t.me.ctx.collCount } }
      else .next t
    | o => o
  else .next (s.issueTrap (illegal slotX))

/-- `coll.sum` (R299, R300). -/
def execCollSum (f : XForm) (s : State) : Host.Outcome State Fault Refusal :=
  collOp (.collSum f) f
    (fun _ e => descCheck e.desc != .illegal && !(descFmt e.desc).isBlk && descFmt e.desc != fp64)
    (fun _ e => descCheck e.desc != .misaligned) (fun _ _ => []) (fun _ e => (descIv e.desc).toList) s

/-- `coll.sum.q` (R299, R300). -/
def execCollSumQ (f : XForm) (s : State) : Host.Outcome State Fault Refusal :=
  collOp (.collSumQ f) f (fun _ e => decide (1 ≤ e.sv) && decide (e.sv ≤ 4096)) (fun _ e => e.aa % 16 == 0)
    (fun _ _ => []) (fun _ e => spanIv e.aa (144 * e.sv)) s

/-- `coll.bcast` (R299, R301): the root's region is read, every other member's is written. -/
def execCollBcast (f : XForm) (s : State) : Host.Outcome State Fault Refusal :=
  let root (r : Room) (e : XEntry) : Bool := e.sv == r.id.lin
  collOp (.collBcast f) f (fun _ e => descCheck e.desc != .illegal) (fun _ e => descCheck e.desc != .misaligned)
    (fun r e => if root r e then (descIv e.desc).toList else [])
    (fun r e => if root r e then [] else (descIv e.desc).toList) s

/-! ### Windows (R303, R304, R105) -/

def Room.window? (r : Room) (n : Nat) : Option Window := r.windows.find? fun w => w.num == n

/-- Where the byte of an overflow line stands in a write-back (R101). -/
def overSource (offset : Nat) : Nat := 2 ^ 24 + offset

/-- The written bytes of a window: global and scratchpad address of each (R105). -/
def Window.dirty (w : Window) : List (Nat × Nat) :=
  w.written.map fun a => (va52 (w.gva + (a - w.base) : Nat), a)

/-- R101: the bytes of the dirty overflow lines: global address and source of each. -/
def Room.overflowDirty (r : Room) : List (Nat × Nat) :=
  (r.overflow.filter fun l => l.dirty).flatMap fun l =>
    (List.range 256).map fun i =>
      (va52 (bitsOf r.atticOvf.toNat 51 16 * 65536 + 256 * l.num + i : Nat), overSource (256 * l.num + i))

/-- The byte at a source of the overflow area as its line holds it. -/
def Room.overByte (r : Room) (n : Nat) : Byte :=
  let o := n - 2 ^ 24
  match r.overflow.find? fun l => l.num == o / 256 with
  | some l => l.bytes.getD (o % 256) 0
  | none => 0

def Window.iv (w : Window) : Iv := { lo := w.base, hi := (w.base + w.len : Nat) - 1 }

/-- Clears the dirty bits of some windows (R304). -/
def Room.cleanWindows (r : Room) (ns : List Nat) : Room :=
  { r with windows := mapIf (fun w => ns.contains w.num) (fun w => { w with written := [] }) r.windows
           overflow := r.overflow.map fun l => { l with dirty := false } }

/-- R267: the device adds 1 to a semaphore. -/
def Room.bump (r : Room) (m : BitVec 6) : Room := { r with ctx.m := r.ctx.m.set m.toNat (r.ctx.m[m.toNat] + 1) }

/-- `wmap` (R303): the entry names the old window's dirty bytes, which it reads when it is dispatched (R266); the new window
stands with no line resident. A COUNT of 0 unbinds it whatever the alignment of a[AA] (DESIGN CHOICE, log 80). -/
def execWmap (f : XForm) (s : State) : Host.Outcome State Fault Refusal :=
  slotOp (.wmap f) slotX s fun s =>
    let r := s.me
    let e := r.ctx.entryOf (r.entries + 1) (.wmap f) f
    let n := f.fn.toNat % 8
    let old := r.window? n
    let new := descIv e.desc
    let others := r.windows.filter fun w => w.num != n
    let aligned := match new with
      | some a => decide (a.lo % 256 = 0) && decide ((a.hi - a.lo + 1) % 256 = 0) && e.aa % 256 == 0
      | none => true
    if descCheck e.desc = .illegal then .error (illegal slotX)
    else if r.queueIsFull then .error queueFull
    else if descCheck e.desc = .misaligned || !aligned then .error (misaligned slotX)
    else if (match new with | some a => others.any (fun w => w.iv.overlaps a) | none => false) then
      .error { cause 0x08 slotX with aux := 0x22 }
    else if !(match new with | some a => r.inPartition a | none => true) ||
        !(match old with | some w => r.mayAccess 2 false w.iv | none => true) then .error (escapes slotX)
    else
      let wb := match old with | some w => w.dirty | none => []
      let ws := match new with
        | some a => others ++ [{ num := n, base := a.lo.toNat, len := (a.hi - a.lo + 1).toNat, gva := e.aa % 2 ^ 52,
                                 resident := [], written := [] }]
        | none => others
      let rd := match old with | some w => [w.iv] | none => []
      let r1 : Room := { r with windows := ws }
      .ok { s with me := r1.enqueue { e with writeBack := wb } 2 rd [] }

/-- A write-back of some windows with the overflow lines (R304, R101), whose bytes are read when it is dispatched (R266).
One that names an unbound window completes at once; so does `wflush.all` with nothing to write back. -/
def flushOp (i : Instr) (f : XForm) (all : Bool) (which : Window → Bool) (s : State) : Host.Outcome State Fault Refusal :=
  slotOp i slotX s fun s =>
    let r := s.me
    let ws := r.windows.filter which
    let e := r.ctx.entryOf (r.entries + 1) i f
    let wb := (ws.flatMap Window.dirty) ++ r.overflowDirty
    if ws.isEmpty && (!all || wb.isEmpty) then .ok { s with me := r.bump f.ms }
    else if r.queueIsFull then .error queueFull
    else if !(ws.all fun w => r.mayAccess 2 false w.iv) then .error (escapes slotX)
    else
      let r1 := r.cleanWindows (ws.map fun w => w.num)
      .ok { s with me := r1.enqueue { e with writeBack := wb } 2 (ws.map fun w => w.iv) [] }

/-- `wflush.N` (R304). -/
def execWflush (f : XForm) (s : State) : Host.Outcome State Fault Refusal :=
  flushOp (.wflush f) f false (fun w => w.num == f.fn.toNat % 8) s

/-- `wflush.all` (R304). -/
def execWflushAll (f : XForm) (s : State) : Host.Outcome State Fault Refusal :=
  flushOp (.wflushAll f) f true (fun _ => true) s

/-! ### Returning from a trap (R305, R384) -/

/-- `tret`: outside a handler ILLEGAL_BUNDLE; with landings of the handler's own operations pending SLOT_BUSY; else the
room stands at TRAPPC again. -/
def execTret (f : XForm) (s : State) : Host.Outcome State Fault Refusal :=
  roomOp (.tret f) slotX s fun r =>
    let c := r.ctx
    if !c.hmode then .error (illegal slotX)
    else if c.landings != [] || c.flights != [] then .error (busy slotX)
    else
      let q := c.seqNext .none
      let x := { r with ctx.winb := winbAdd c.winb (-(q.rots : Int)) }.leaveHandler (c.ic + 1)
      .ok { x with ctl := .returned q.again q.ended }

/-- `xnop` (R142). -/
def execXnop (s : State) : Host.Outcome State Fault Refusal := .next s

end Sys2Proof.Machine
end

