-- ==== Sys2Proof/Machine/Barge.lean ====
section
/-! DEFINITION. Entries in flight: what holds them (05, R126 to R128), their dispatch (10, R265), and barge cards element
by element (10, R273 to R281; 04, R114 to R117). -/

namespace Sys2Proof.Machine

/-! ### Entries -/

def Room.entry? (r : Room) (id : Nat) : Option XEntry := r.ctx.xq.find? fun e => e.id == id
def Room.onEntry (r : Room) (id : Nat) (f : XEntry → XEntry) : Room :=
  { r with ctx.xq := mapIf (fun e => e.id == id) f r.ctx.xq }
def Room.dropEntry (r : Room) (id : Nat) : Room := { r with ctx.xq := r.ctx.xq.filter fun e => e.id != id }

/-- Runs a step on an entry that satisfies a condition; otherwise the event is not enabled and nothing changes. -/
def State.withEntry (s : State) (rid : RoomId) (id : Nat) (ok : XEntry → Bool) (f : Room → XEntry → State) : State :=
  match s.room? rid with
  | none => s
  | some r =>
    match r.entry? id with
    | some e => if ok e then f r e else s
    | none => s

def State.setEntry (s : State) (r : Room) (e : XEntry) : State := s.onRoom r.id fun x => x.onEntry e.id fun _ => e

/-- TRAPC.AUX of a cause of a transfer entry: X opcode and channel (R381). -/
def XEntry.aux (e : XEntry) : Nat := xOpcode e.op + 256 * (if e.isCard then e.channel else 0)

/-- R268, R281: an entry stops at a fault, and the room takes it at its next boundary. -/
def State.faultEntry (s : State) (r : Room) (e : XEntry) (code sub index va : Nat) (acc : AccessKind) : State :=
  let k : Cause := { code := code, slot := slotX, sub := sub, aux := e.aux, index := index, va := va, acc := acc }
  (s.onRoom r.id fun x => x.onEntry e.id fun y => { y with fault := some k }).foundCause r.id k

/-- R407, R408: an entry refused at a flip waits for its replay. -/
def State.refuseEntry (s : State) (r : Room) (e : XEntry) (die gen : Nat) : State :=
  (s.count (counterNo die 0xFF 0x53) 1).onRoom r.id fun x => x.onEntry e.id fun y =>
    { y with replay := some gen, heldBy := none, again := isSluiceOp y.op }

/-! ### Requests that a restow holds (R407, R409) -/

/-- What has become of a request that a restow held. -/
inductive HeldNow where
  | free | still | refused (die gen : Nat)
  deriving DecidableEq, Repr

/-- R407, R409: a held request is refused once the restow has flipped, and goes on when it aborted. -/
def State.heldNow (s : State) (h : Option (Nat × Nat)) : HeldNow :=
  match h.bind fun x => (s.restow? x.1).map fun r => (r, x.2) with
  | some (r, die) => if r.step = .flipped then .refused die (berthGen r.srcBerth) else .still
  | none => .free

/-- R409: a request takes its place in the order of arrival of those that restows hold. -/
def State.hold (s : State) (h : Nat × Nat) (event : Instr) : State :=
  if s.held.any fun x => x.restow == h.1 && x.event == event then s
  else { s with held := s.held ++ [{ restow := h.1, die := h.2, event := event }] }

/-- The event with which the request of an entry is tried. -/
def XEntry.event (r : RoomId) (e : XEntry) : Instr :=
  if e.isCard then .bargeElementRequest r e.id
  else if isSluiceOp e.op then .sluiceApply r e.id
  else if isAmoOp e.op then .atomicApply r e.id
  else .entryDispatch r e.id

/-- R407: the request of an entry is held. -/
def State.holdEntry (s : State) (r : Room) (e : XEntry) (h : Nat × Nat) : State :=
  (s.hold h (e.event r.id)).onRoom r.id fun x => x.onEntry e.id fun y => { y with heldBy := some h }

/-- R390: a bad-data case that a room meets: POISON, and ERR_DATA of its core. -/
def State.badData (s : State) (r : Room) : State :=
  (s.count (coreCounter r.core 0x0A) 1).onRoom r.id fun x => { x with ctx.poison := true }

/-- The floor of a room, from 8 on that of a room of another package (R403), and its die-level agent (R124). -/
def Room.floor (r : Room) : Nat := floorOf r.core + 8 * pkgOf r.core
def Room.agent (r : Room) : Nat := if pkgOf r.core = 0 then floorOf r.core else 13

/-- R428: the replays counted for a room. -/
def State.countReplay (s : State) (r : Room) : State := s.count (coreCounter r.core (0x10 + r.slotNo % 8)) 1

/-! ### Rooms of a team and instances of a domain (R17, R27) -/

def State.teamRooms (s : State) (team : Nat) : List Room := s.rooms.filter fun r => r.id.team == team

/-- R27: the instance of DM[i] that a room belongs to. -/
def Room.inst (r : Room) (i : Nat) : Nat × Nat × Nat :=
  let d := (r.dm.toList.getD i 0).toNat
  let xy := r.roomxy.toNat
  ((bitsOf xy 15 0) >>> bitsOf d 14 10, (bitsOf xy 31 16) >>> bitsOf d 9 5, (bitsOf r.roomz.toNat 15 0) >>> bitsOf d 4 0)

/-- R27: the members of a room's instance of DM[i]. -/
def State.members (s : State) (r : Room) (i : Nat) : List Room :=
  (s.teamRooms r.id.team).filter fun x => x.inst i == r.inst i

/-! ### The canal port (R95, R97, R99) -/

/-- R99: a write of a whole 64 B word clears the errors of that word. -/
def State.heal (s : State) (r : Room) (addrs : List Nat) : State :=
  if (s.coreOf r.core).errors.isEmpty then s
  else
    let whole := (wordsOf addrs).filter fun w => (List.range 64).all fun i => addrs.contains (64 * w + i)
    let places := whole.map fun w => ((r.bankOf (64 * w)).2, (r.bankOf (64 * w)).1)
    s.onCore r.core fun k => k.healed places

/-- Bytes written on the canal port; `own` by an operation of the room itself (R105, R396). -/
def State.canalWrite (s : State) (r : Room) (own : Bool) (cells : List Host.Cell) : State :=
  let addrs := cells.map Prod.fst
  (s.heal r addrs).onRoom r.id fun x =>
    let y := if own then (x.markWritten addrs).watchHits slotX true addrs else x
    { y with scratch := Memory.putAll y.scratch cells }

/-- Bytes read on the canal port: the state after the check of the room as it stands, the bytes, and which of them were
uncorrectable. -/
def State.canalRead (s : State) (r : Room) (addrs : List Nat) : State × List Byte × List Bool :=
  let k := s.coreOf r.core
  let x := (s.room? r.id).getD r
  let rd := (x.watchHits slotX false addrs).readChecked k addrs
  (s.onRoom r.id fun _ => rd.1, rd.2.1, addrs.map (x.byteBad k))

/-! ### Tensor handles (R114 to R117) -/

def State.handle? (s : State) (n : Nat) : Option (List Nat) := (s.handles.find? fun h => h.1 == n).map Prod.snd

def hWord (h : List Nat) (i : Nat) : Nat := h.getD i 0
def hValid (h : List Nat) : Bool := (hWord h 0).testBit 63
def hDims (h : List Nat) : Nat := bitsOf (hWord h 0) 62 60
def hFmt (h : List Nat) : Nat := bitsOf (hWord h 0) 59 54
def hEs (h : List Nat) : Nat := bitsOf (hWord h 0) 53 52
def hBase (h : List Nat) : Nat := bitsOf (hWord h 0) 47 0
def hBerth (h : List Nat) : Nat := hWord h 1
def hAsid (h : List Nat) : Nat := bitsOf (hWord h 4) 43 32
def hExt (h : List Nat) (d : Nat) : Nat :=
  match d with
  | 0 => bitsOf (hWord h 2) 31 0 | 1 => bitsOf (hWord h 2) 63 32
  | 2 => bitsOf (hWord h 3) 31 0 | 3 => bitsOf (hWord h 3) 63 32
  | _ => bitsOf (hWord h 4) 31 0
def hPad (h : List Nat) : Nat := hWord h 5
def hTile0 (h : List Nat) : Nat := bitsOf (hWord h 6) 47 32
def hTile1 (h : List Nat) : Nat := bitsOf (hWord h 6) 63 48
def hElemBytes (h : List Nat) : Nat := ((fmtOf (hFmt h)).getD (.int true 8)).elemBytes

/-- R115: the places that the arena holds along dimension d: P0 and P1 with their padding, EXT beyond them. -/
def hPlaces (h : List Nat) (d : Nat) : Nat :=
  match d with
  | 0 => cdiv (hExt h 0) (hTile0 h) * hTile0 h
  | 1 => cdiv (hExt h 1) (hTile1 h) * hTile1 h
  | d => hExt h d

/-- R115: the element offset of a coordinate. -/
def arenaOffset (h : List Nat) (i0 i1 i2 i3 i4 : Nat) : Nat :=
  let t0 := hTile0 h
  let t1 := hTile1 h
  let p0 := hPlaces h 0
  let p1 := hPlaces h 1
  i0 % t0 + t0 * (i1 % t1) +
    t0 * t1 * (i0 / t0 + p0 / t0 * (i1 / t1 + p1 / t1 * (i2 + hExt h 2 * (i3 + hExt h 3 * i4))))

/-- R115: the bytes of an arena. -/
def arenaBytes (h : List Nat) : Nat :=
  hPlaces h 0 * hPlaces h 1 * hExt h 2 * hExt h 3 * hExt h 4 * hElemBytes h

/-- R116, R271: whether a card may use the record of its handle. -/
def handleFits (asid n : Nat) (h : List Nat) : Bool :=
  hValid h && hAsid h == asid && hFmt h == cFmt n && hEs h == cEs n &&
  (List.range 5).all fun d => decide (d < hDims h) || ((d == 0 || cShape n d == 1) && cOrigin n d == 0)

/-! ### The global side of a unit -/

/-- A run of global bytes that a unit touches: virtual, physical under a berth, padding outside the arena with its
bytes, or a handle the room may not use. -/
inductive GPiece where
  | va (a len : Nat)
  | pa (w a len : Nat)
  | pad (bytes : List Byte)
  | denied
  deriving DecidableEq, Repr

/-- R271, R115, R116: an element of a handle's tile: element k of a row. The PAD of a 4-bit element stands in both halves
of its byte (DESIGN CHOICE, log 26). An element between EXT and P0 or P1 is read and written like any other, and only beyond is it PAD
or discarded (DEDUCED, log 78). -/
def tilePiece (h : List Nat) (n row k : Nat) : GPiece :=
  let s1 := cShape n 1; let s2 := cShape n 2; let s3 := cShape n 3
  let c : List Int := [cOrigin n 0 + k, cOrigin n 1 + (row % s1 : Nat), cOrigin n 2 + (row / s1 % s2 : Nat),
    cOrigin n 3 + (row / (s1 * s2) % s3 : Nat), cOrigin n 4 + (row / (s1 * s2 * s3) : Nat)]
  let z := hElemBytes h
  let f := (fmtOf (hFmt h)).getD (.int true 8)
  if (c.zipIdx).all fun x => decide (0 ≤ x.1) && decide (x.1 < hPlaces h x.2) then
    let i (d : Nat) : Nat := (c.getD d 0).toNat
    .pa (hBerth h) (hBase h + arenaOffset h (i 0) (i 1) (i 2) (i 3) (i 4) * z) z
  else .pad (if f.isBlk then List.replicate z 0
             else if f.isNibble then toBytes 1 (hPad h % 16 * 17) else toBytes z (hPad h))

/-- R117: the record of its handle that a request for unit u of a card uses: the one in force, or, while the card was in flight
when that was registered, freely the one before. -/
def State.recordFor (s : State) (r : Room) (n u : Nat) : Option (List Nat) :=
  let num := cGva n % 4096
  match s.oldHandles.find? fun o => o.num == num &&
      r.ctx.xq.any fun e => e.isCard && fromBytes e.card == n && o.cards.contains (r.id, e.id) with
  | some o => if Config.oldRecord o.id u then some o.words else s.handle? num
  | none => s.handle? num

/-- R273, R97: an index of a gather or scatter as a read through the check delivers it: the poison value when it is
uncorrectable (R99). -/
def State.cardIndex (s : State) (r : Room) (n row k : Nat) : Nat :=
  let core := s.coreOf r.core
  if (valBytes (cArgs n) (row, k)).any fun a => r.byteBad core a then poisonEnc (descFmt (cArgs n))
  else (r.seen core).encAt (cArgs n) (row, k)

/-- The global runs of unit u of a card, in order (R270, R271, R273, R274). -/
def State.cardPieces (s : State) (r : Room) (n u : Nat) : List GPiece :=
  let per := cardPerRow n
  let row := u / per
  let k := u % per
  let z := (cGlobalFmt n).elemBytes
  if !cGlobalSide n then []
  else if cHandle n then
    match s.recordFor r n u with
    | some h => if handleFits r.asid n h then [tilePiece h n row (k / cardGlobalPer n)] else [.denied]
    | none => [.denied]
  else
    match cKind n with
    | 2 =>
      if cOut n then [.va (va52 (cardElemVa n row k)) z]
      else (List.range (min 32 (cNv n - 32 * k))).map fun i => .va (va52 (cardElemVa n row (32 * k + i))) z
    | 3 | 4 => [.va (va52 ((cGva n : Int) + cStride n * (s.cardIndex r n row k : Nat))) z]
    | _ => [.va (va52 (cardElemVa n row (k / cardGlobalPer n))) z]

/-- An access to physical bytes under a berth, as `reach` makes it to virtual ones (R108, R402, R407). -/
def State.reachPa (s : State) (w pa n : Nat) (k : AccessKind) : Reach :=
  (List.range n).foldl (fun acc i =>
    if acc.open then
      if !berthOk w || !tierRangeOk w (pa % 2 ^ 48 + i) 1 then .fault 0x21 0 else s.askHome acc w (pa + i) k
    else acc) (.ok [])

def State.pieceReach (s : State) (r : Room) (p : GPiece) (k : AccessKind) : State × Reach :=
  match p with
  | .va a len => s.reach r.core r.asid a len k
  | .pa w a len =>
    let o := if a < 2 ^ 48 then s.reachPa w (a + pkgOf r.core * 2 ^ 48) len k else .fault 0x21 0
    (s.request.found k o, o)
  | .pad _ => (s, .ok [])
  | .denied => (s, .fault 0x23 2)

/-- What an attempt to move a unit's global bytes comes to. -/
inductive Moved where
  | done (bytes : List Byte) (poison : Bool)
  | stop (why : Reach)
  deriving DecidableEq, Repr

/-- Reads the bytes of some runs (R446, R117, R124). -/
def State.piecesRead (s : State) (r : Room) (ps : List GPiece) : State × Moved :=
  ps.foldl (fun acc p =>
    match acc.2 with
    | .stop _ => acc
    | .done bs bad =>
      let x := acc.1.pieceReach r p .read
      match p, x.2 with
      | .pad l, _ => (x.1, .done (bs ++ l) bad)
      | _, .ok l =>
        let y := x.1.readReach l
        (x.1.clockReplies r.agent l, .done (bs ++ y.1) (bad || y.2))
      | _, o => (x.1, .stop o)) (s, .done [] false)

/-- R446: whether the writes of a card up to unit u, or all of them, cover a line: 2 or 1. -/
def State.cardCover (s : State) (r : Room) (n u : Nat) (inLine : GPiece → List Nat) : Nat :=
  if s.mem.poisoned.isEmpty && s.mem.failing.isEmpty then 0
  else
    let bytes (m : Nat) : List Nat := (List.range m).flatMap fun i => (s.cardPieces r n i).flatMap inLine
    let full (l : List Nat) : Bool := (List.range 64).all fun i => l.contains i
    if full (bytes (u + 1)) then 2 else if full (bytes (cardUnits n)) then 1 else 0

/-- The byte positions of a run in the line of address `a` (virtual when `w` is none). -/
def GPiece.inLine (w : Option Nat) (a : Nat) (p : GPiece) : List Nat :=
  let pick (b len : Nat) : List Nat :=
    (List.range len).filterMap fun i => if (b + i) / 64 = a / 64 then some ((b + i) % 64) else none
  match p, w with
  | .va b len, none => pick b len
  | .pa w' b len, some w => if w' = w then pick b len else []
  | _, _ => []

/-- Writes the bytes of one run for unit u of a card. -/
def State.pieceWrite (s : State) (r : Room) (n u : Nat) (p : GPiece) (bytes : List Byte) : State × Moved :=
  let x := s.pieceReach r p .write
  match p, x.2 with
  | .pad _, _ => (x.1, .done [] false)
  | _, .ok l =>
    let s1 := x.1
    let cover (pa : Nat) : Nat :=
      match (l.zipIdx).find? (fun y => y.1.2 / 64 == pa / 64), p with
      | some y, .va a _ => s1.cardCover r n u (GPiece.inLine none ((a + y.2) % 2 ^ 52))
      | some y, .pa w _ _ => s1.cardCover r n u (GPiece.inLine (some w) y.1.2)
      | _, _ => 0
    (s1.gWrite r.agent cover ((l.zip bytes).map fun y => (y.1.1, y.1.2, y.2)), .done [] false)
  | _, o => (x.1, .stop o)

/-! ### The scratchpad side of a unit -/

/-- The encoding that an element's bytes hold for the value at a position in it (R51). -/
def elemEnc (f : Fmt) (half : Nat) (bs : List Byte) : Nat :=
  if f.isNibble then laneOf 4 (fromBytes bs) (half % 2) else fromBytes bs

/-- Writes one value's encoding into the scratchpad side. -/
def State.localValue (s : State) (r : Room) (d row k enc : Nat) : State :=
  let c := valCells d [(row, k)] [enc]
  s.canalWrite r true (c.1 ++ r.halfCells c.2)

/-- Reads one value's encoding from the scratchpad side; the poison value when it is uncorrectable (R99). -/
def State.localEnc (s : State) (r : Room) (d row k : Nat) : State × Nat :=
  let x := s.canalRead r (valBytes d (row, k))
  (x.1, if x.2.2.any id then poisonEnc (descFmt d) else (r.seen (s.coreOf r.core)).encAt d (row, k))

/-- The bytes of descriptor element k of a row of the scratchpad side. -/
def State.localElem (s : State) (r : Room) (d row k : Nat) : State × List Byte :=
  let a := (elemAddr d row k).toNat
  let x := s.canalRead r ((List.range (descFmt d).elemBytes).map (a + ·))
  (x.1, if x.2.2.any id then poisonBytes (descFmt d) else x.2.1)

/-! ### One unit of a card (R273, R274) -/

/-- What a unit did: the state, the flags with their index, and the encodings staged; or why it stopped. -/
inductive UnitEnd where
  | done (s : State) (raised : Raised) (staged : List Nat)
  | stop (s : State) (why : Reach)

/-- The fill pattern of a format (R273). -/
def fillPattern (n : Nat) (f : Fmt) : Nat := cArg0 n % 2 ^ (if f.isNibble then 4 else 8 * f.elemBytes)

/-- Writes a value's encoding to the global side; a nibble is merged into its byte. -/
def State.globalValue (s : State) (r : Room) (n u half enc : Nat) (ps : List GPiece) : UnitEnd :=
  let f := cGlobalFmt n
  let p := ps.headD .denied
  let bytes : List Byte :=
    if f.isNibble then
      let old := match s.pieceReach r p .write with
        | (_, .ok ((w, pa) :: _)) => (s.gByte w pa).toNat
        | _ => 0
      [BitVec.ofNat 8 (if half % 2 = 1 then old % 16 + 16 * (enc % 16) else old / 16 * 16 + enc % 16)]
    else toBytes f.elemBytes enc
  match s.pieceWrite r n u p bytes with
  | (t, .done _ _) => .done t Raised.none []
  | (t, .stop o) => .stop t o

/-- One unit of a card, its global bytes read by `rd`. -/
def State.cardUnitWith (s : State) (r : Room) (e : XEntry) (n u : Nat) (rd : State → List GPiece → State × Moved) :
    UnitEnd :=
  let l := cLdesc n
  let lf := descFmt l
  let gf := cGlobalFmt n
  let per := cardPerRow n
  let row := u / per
  let k := u % per
  let ps := s.cardPieces r n u
  let s := if cKind n = 3 || cKind n = 4 then (s.localEnc r (cArgs n) row k).1 else s
  let poisoned (t : State) (bad : Bool) : State := if bad then t.badData r else t
  match cKind n, cOut n with
  | 5, false => .done (s.localValue r l row k (fillPattern n lf)) Raised.none []
  | 5, true => s.globalValue r n u k (fillPattern n gf) ps
  | 0, false =>
    match rd s ps with
    | (t, .stop o) => .stop t o
    | (t, .done bs bad) =>
      .done ((poisoned t bad).canalWrite r true (cellsAt (elemAddr l row k).toNat (if bad then poisonBytes lf else bs)))
        Raised.none []
  | 0, true =>
    let x := s.localElem r l row k
    (match x.1.pieceWrite r n u (ps.headD .denied) x.2 with
     | (t, .done _ _) => .done t Raised.none []
     | (t, .stop o) => .stop t o)
  | 1, false =>
    (match rd s ps with
     | (t, .stop o) => .stop t o
     | (t, .done bs bad) =>
       let v := if bad then (poisonEnc lf, Fl.none)
         else convVal lf (descEs l) e.rm gf.isInt (decodeVal gf (cEs n) (elemEnc gf k bs))
       .done ((poisoned t bad).localValue r l row k v.1) (Raised.of1 u v.2) [])
  | 1, true =>
    let x := s.localEnc r l row k
    let v := convVal gf (cEs n) e.rm lf.isInt (decodeVal lf (descEs l) x.2)
    (match x.1.globalValue r n u k v.1 ps with
     | .done t _ _ => .done t (Raised.of1 u v.2) []
     | o => o)
  | 2, out =>
    let w := match (if out then gf else lf) with | .blk w => w | _ => 8
    let src := if out then lf else gf
    let cnt := min 32 (cNv n - 32 * k)
    let got : State × Moved × List Nat :=
      if out then
        let x := (List.range cnt).foldl (fun (acc : State × List Nat) i =>
          let y := acc.1.localEnc r l row (32 * k + i)
          (y.1, acc.2 ++ [y.2])) (s, [])
        (x.1, .done [] false, x.2)
      else
        let x := rd s ps
        match x.2 with
        | .done bs bad =>
          let encs := (List.range cnt).map fun i => fromBytes ((bs.drop (src.elemBytes * i)).take src.elemBytes)
          (poisoned x.1 bad, .done [] bad, encs)
        | .stop o => (x.1, .stop o, [])
    (match got.2.1 with
     | .stop o => .stop got.1 o
     | .done _ bad =>
       let vals := got.2.2.map (decodeVal src (if out then descEs l else cEs n))
       let q := quantBlock w (vals ++ List.replicate (32 - cnt) Val.zero)
       let bytes := if bad then poisonBytes (.blk w) else blockBytes w q.1 q.2.1
       let raised := if bad then Raised.none else Raised.none.addList (row * cNv n + 32 * k) (q.2.2.take cnt)
       if out then
         match got.1.pieceWrite r n u (ps.headD .denied) bytes with
         | (t, .done _ _) => .done t raised got.2.2
         | (t, .stop o) => .stop t o
       else .done (got.1.canalWrite r true (cellsAt (elemAddr l row k).toNat bytes)) raised got.2.2)
  | 4, _ =>
    let x := s.localEnc r l row k
    x.1.globalValue r n u k x.2 ps
  | _, _ =>
    match rd s ps with
    | (t, .stop o) => .stop t o
    | (t, .done bs bad) =>
      .done ((poisoned t bad).localValue r l row k (if bad then poisonEnc lf else fromBytes bs)) Raised.none []

/-- One unit of a card. -/
def State.cardUnit (s : State) (r : Room) (e : XEntry) (n u : Nat) : UnitEnd :=
  s.cardUnitWith r e n u fun s ps => s.piecesRead r ps

/-- Flags of a transfer entry, raised when its completion is reached or it meets a fault (R268). -/
def State.raiseEntry (s : State) (r : Room) (e : XEntry) : State :=
  if e.raised = Raised.none then s
  else s.onRoom r.id fun x =>
    let c := x.ctx.raise slotX e.raised
    let due := c.due.zipIdx.map fun k => if x.ctx.due.length ≤ k.2 then { k.1 with aux := e.aux } else k.1
    let y : Room := { x with ctx := { c with due := due } }
    y.onEntry e.id fun y => { y with raised := Raised.none }

/-- The kind of access of an entry (R402). -/
def XEntry.access (e : XEntry) : AccessKind :=
  if e.isCard then (if cOut (fromBytes e.card) then .write else .read)
  else if isSluiceOp e.op || isAmoOp e.op then .readWrite else .write

/-- An access does not go through. -/
def Reach.bad (x : Reach) : Bool := match x with | .ok _ => false | _ => true

/-- The first byte of a virtual range that an access cannot reach. -/
def State.firstBad (s : State) (r : Room) (va n : Nat) (k : AccessKind) : Nat :=
  match (List.range n).find? fun i => (s.reach r.core r.asid (va52 (va + i : Nat)) 1 k).2.bad with
  | some i => va52 (va + i : Nat)
  | none => va

/-- Of the runs of a unit, the first that an access cannot reach: its position and the address that is at fault. -/
def State.badPiece (s : State) (r : Room) (ps : List GPiece) (k : AccessKind) : Nat × Nat :=
  let at_ (p : GPiece) : Nat := match p with | .va a n => s.firstBad r a n k | .pa _ a _ => a | _ => 0
  match (ps.zipIdx).find? fun p => (s.pieceReach r p.1 k).2.bad with
  | some p => (p.2, at_ p.1)
  | none => (0, match ps with | p :: _ => at_ p | [] => 0)

/-- The global address of an entry's access, for the PAGE event (R388): in a unit of a card, or of its operand. -/
def State.entryVa (s : State) (r : Room) (e : XEntry) (index : Nat) : Nat :=
  if e.isCard then (s.badPiece r (s.cardPieces r (fromBytes e.card) index) e.access).2
  else match e.writeBack with
    | b :: _ => (match e.writeBack.find? fun b => (s.reach r.core r.asid b.1 1 .write).2.bad with | some b => b.1 | none => b.1)
    | [] => s.firstBad r (e.aa % 2 ^ 52) (amoSize e.form) e.access

/-- R268: the element index that a fault of a unit reports: the number of the unit, and of a quantising card the number of
the value (R274). -/
def State.faultIndex (s : State) (r : Room) (e : XEntry) (unit : Nat) : Nat :=
  let n := fromBytes e.card
  if e.isCard && cKind n == 2 then
    let per := cardPerRow n
    unit / per * cNv n + 32 * (unit % per) +
      (if cOut n then 0 else (s.badPiece r (s.cardPieces r n unit) .read).1)
  else unit

/-- The bytes of a card's next unit that can be reached, here or at a peer. -/
def State.unitPlaces (s : State) (r : Room) (e : XEntry) : List (Nat × Nat) :=
  (s.cardPieces r (fromBytes e.card) e.next).flatMap fun p =>
    match (s.pieceReach r p .read).2 with | .ok l => l | .remote l => l | _ => []

/-- What becomes of an entry whose access did not go through: it stops at a fault, is refused or held, or its lines are asked
of a peer (R424). -/
def State.stopEntry (s : State) (r : Room) (e : XEntry) (why : Reach) (index : Nat) : State :=
  match why with
  | .fault c sub =>
    (s.raiseEntry r e).faultEntry r e c sub (s.faultIndex r e index) (s.entryVa r e index) e.access
  | .refused die gen => s.refuseEntry r e die gen
  | .held (some h) => s.holdEntry r e h
  | .remote _ => if e.isCard then s.askPeers (s.unitPlaces r e) else s
  | _ => s

/-- What a unit leaves in its entry. -/
def endUnit (r : Room) (e : XEntry) (u : UnitEnd) : State :=
  match u with
  | .done t raised staged =>
    t.onRoom r.id fun x => x.onEntry e.id fun y =>
      { y with next := y.next + 1, heldBy := none, raised := y.raised.merge raised, staged := y.staged ++ staged }
  | .stop t why => t.stopEntry r e why e.next

/-- R277: a channel engine serves one unit of a started card. A unit whose page is held changes nothing, and one whose
page lies at a peer waits for its reply (R424). -/
def State.cardRequestOnce (s : State) (rid : RoomId) (id : Nat) : State :=
  s.withEntry rid id (fun e => e.isCard && e.status == .started && e.fault.isNone && e.replay.isNone) fun r e =>
    let n := fromBytes e.card
    if cardUnits n ≤ e.next then s
    else
      match s.heldNow e.heldBy with
      | .still => s
      | .refused die gen => s.stopEntry r e (.refused die gen) e.next
      | .free => endUnit r e (s.cardUnit r e n e.next)

/-- R125: the unit of i4 and n4 values is their byte: a card that writes such values to global memory stands at the second
value of a byte of its row. -/
def XEntry.halfWritten (e : XEntry) : Bool :=
  let n := fromBytes e.card
  cOut n && (cKind n == 1 || cKind n == 5) && (cGlobalFmt n).isNibble && e.next % cardPerRow n % 2 == 1

/-- A channel engine's request, with both values of a byte of a pair. -/
def State.cardRequest (s : State) (rid : RoomId) (id : Nat) : State :=
  let t := s.cardRequestOnce rid id
  match (t.room? rid).bind fun r => r.entry? id with
  | some e => if e.halfWritten then t.cardRequestOnce rid id else t
  | none => t

/-- `BARGE_ELEMENT_REQUEST` (R277, R268, R281, R407). -/
def execBargeElementRequest (r : RoomId) (id : Nat) (s : State) : Host.Outcome State Fault Refusal :=
  .next (s.cardRequest r id)

/-! ### Channels (R276 to R281) -/

/-- The entries before one, in issue order. -/
def Ctx.before (c : Ctx) (id : Nat) : List XEntry := c.xq.takeWhile fun e => e.id != id

/-- An earlier entry is performed (R127): it has left the queue, or its accesses are all made. -/
def XEntry.performed (e : XEntry) : Bool := e.status == .applied

/-- R281, R389: what has not started yet starts no more while the room's context is away. -/
def Room.here (r : Room) : Bool := match r.stop with | .away _ => false | _ => true

/-- R276, R278 to R281: a dispatched card may start. -/
def Ctx.mayStart (c : Ctx) (e : XEntry) : Bool :=
  let mine := (c.before e.id).filter fun x => x.isCard && x.channel == e.channel
  e.isCard && e.status == .dispatched && !e.shadow &&
  (mine.all fun x => (x.status == .started || x.status == .applied) && x.fault.isNone) &&
  (c.before e.id).all fun x => !e.after.contains x.id || x.performed

/-- R281: a card starts while its room has not been stopped to have its context saved: what has not started is saved with it. -/
def Room.starts (r : Room) : Bool := r.here && r.stop != .preempted

/-- `CARD_START` (R276). -/
def execCardStart (r : RoomId) (id : Nat) (s : State) : Host.Outcome State Fault Refusal :=
  .next (s.withEntry r id (fun e => e.isCard) fun x e =>
    if x.starts && x.ctx.mayStart e then s.setEntry x { e with status := .started } else s)

/-- `SHADOW_CARD_SWAP`: every earlier card of the channel has completed (R278). -/
def execShadowCardSwap (r : RoomId) (ch : BitVec 2) (s : State) : Host.Outcome State Fault Refusal :=
  .next (s.onRoom r fun x =>
    if !x.starts then x else
    match x.ctx.xq.find? (fun e => e.isCard && e.channel == ch.toNat && e.shadow) with
    | some e =>
      if (x.ctx.before e.id).all fun y => !(y.isCard && y.channel == ch.toNat) || y.performed then
        x.onEntry e.id fun y => { y with shadow := false }
      else x
    | none => x)

/-- R276: the completion increments of a channel, in issue order. -/
def Room.drainChannel (r : Room) (ch : Nat) : Room :=
  let mine := r.ctx.xq.filter fun e => e.isCard && e.channel == ch
  (mine.takeWhile fun e => e.status == .applied).foldl (fun r e => (r.bump e.form.ms).dropEntry e.id) r

/-- R274: what the staging area may hold after the card: each byte its earlier contents or one that was staged. -/
def Room.unstage (r : Room) (free : Nat) (e : XEntry) (n : Nat) : Room × Nat :=
  let f := if cOut n then descFmt (cLdesc n) else cGlobalFmt n
  let z := f.elemBytes
  let bytes := (e.staged.zipIdx).flatMap fun x =>
    cellsAt (cStage n + (x.2 % cNv n % 2048) * z) (toBytes z x.1)
  let cells := (bytes.zipIdx).filterMap fun x => if Config.freeChoice (free + x.2) then some x.1 else none
  ({ r with scratch := Memory.putAll r.scratch cells }, free + bytes.length)

/-- `CARD_COMPLETE` (R275, R276): the card's accesses are performed, its flags are raised, and the channel makes the
increments it owes. -/
def execCardComplete (r : RoomId) (id : Nat) (s : State) : Host.Outcome State Fault Refusal :=
  .next (s.withEntry r id
    (fun e => e.isCard && e.status == .started && e.fault.isNone && e.replay.isNone &&
      decide (cardUnits (fromBytes e.card) ≤ e.next)) fun x e =>
      let n := fromBytes e.card
      let y := if cKind n = 2 then x.unstage s.free e n else (x, s.free)
      let s0 : State := { s with free := y.2 }
      let s1 := s0.onRoom r fun z => { z with scratch := y.1.scratch }
      (s1.raiseEntry x e).onRoom r fun z =>
        (z.onEntry id fun w => { w with status := .applied, staged := [], reads := [], writes := [] }).drainChannel e.channel)

/-! ### What holds an entry (R126, R127, R265, R386) -/

/-- R126: a byte of a global page by its virtual address (false) and, where it is mapped, by its place (true). -/
def State.byteKeys (s : State) (r : Room) (places : Bool) (a : Nat) : List (Bool × Nat) :=
  let va := a % 2 ^ 52
  (false, va) :: (if places then
    (match s.walk r.asid va .read, s.walk r.asid va .write with
     | .ok pa w _ _ _, _ => ((placeOf w pa).map fun p => (true, p)).toList
     | _, .ok pa w _ _ _ => ((placeOf w pa).map fun p => (true, p)).toList
     | _, _ => [])
   else [])

/-- R126: some card of the room names a tensor handle, whose bytes are known by their places. -/
def Room.namesHandle (r : Room) : Bool := r.ctx.xq.any fun e => e.isCard && cHandle (fromBytes e.card)

/-- R126, R138: the bytes of global pages that an entry reads or writes. -/
def State.entryBytes (s : State) (r : Room) (e : XEntry) : List (Bool × Nat) :=
  let vas (l : List Nat) : List (Bool × Nat) := l.flatMap (s.byteKeys r r.namesHandle)
  if e.isCard then
    let n := fromBytes e.card
    (List.range (cardUnits n)).flatMap fun u => (s.cardPieces r n u).flatMap fun p =>
      match p with
      | .va a len => vas ((List.range len).map (a + ·))
      | .pa w a len => (List.range len).filterMap fun i => (placeOf w (a + i)).map fun p => (true, p)
      | _ => []
  else if isAmoOp e.op then vas ((List.range (amoSize e.form)).map (e.aa + ·))
  else vas (e.writeBack.map Prod.fst)

def XEntry.isFence (e : XEntry) : Bool := isFenceOp e.op
def XEntry.isSluice (e : XEntry) : Bool := isSluiceOp e.op
def XEntry.isPut (e : XEntry) : Bool := isPutOp e.op
def XEntry.isAmo (e : XEntry) : Bool := isAmoOp e.op

/-- R125: an entry with a shared access; a fill of scratchpad has none. -/
def XEntry.isShared (e : XEntry) : Bool := !(e.isCard && !cGlobalSide (fromBytes e.card))
/-- R127: reads, with the read of each atomic. -/
def XEntry.isRead (e : XEntry) : Bool := e.isAmo || (e.isCard && e.isShared && !cOut (fromBytes e.card))
/-- R127, R302: writes, with atomics, sluice commands, puts and collectives. -/
def XEntry.isWrite (e : XEntry) : Bool := !e.isFence && e.isShared && (!e.isCard || cOut (fromBytes e.card))

/-- R127: whether an earlier fence holds a later entry. -/
def fenceHolds (f e : XEntry) : Bool :=
  match f.op with
  | .fenceRel _ => e.isWrite
  | _ => !e.isFence && e.isShared

/-- R119: virtual, physical address and berth of the sectors of a command; none when the range leaves its page or its
bank. -/
def sectorsOf (va count : Nat) (t : Trans) : Option (List (Nat × Nat × Nat)) :=
  match t with
  | .ok pa w pageVa size _ =>
    let base := pa - (va - pageVa)
    let here := pa % 2 ^ 48
    let o := offsetOf w here
    let l := (List.range count).map fun i => (o + 32 * i, pa - here + addrAtOffset w here (o + 32 * i))
    if l.all fun x => decide (x.1 < bankLimit w) && decide (base ≤ x.2) && decide (x.2 + 32 ≤ base + size) then
      some (l.map fun x => (pageVa + (x.2 - base), x.2, w))
    else none
  | .fault _ _ => none

/-- Sectors of a sluice command (R289). -/
def slCount (e : XEntry) : Nat := match e.op with | .slFill _ | .slSum _ => e.ab % 65536 + 1 | _ => 1

/-- The sectors a command addresses under the current tables; its first alone when it has no legal range. -/
def State.slSectors (s : State) (r : Room) (e : XEntry) : List (Nat × Nat × Nat) :=
  let t := s.walk r.asid (e.aa % 2 ^ 52) .readWrite
  match sectorsOf (e.aa % 2 ^ 52) (slCount e) t with
  | some l => l
  | none => (match t with | .ok pa w _ _ _ => [(e.aa % 2 ^ 52, pa, w)] | .fault _ _ => [(e.aa % 2 ^ 52, 0, 0)])

/-- R294: whether a bank fence covers an earlier sluice command. -/
def State.covers (s : State) (r : Room) (f e : XEntry) : Bool :=
  match f.op with
  | .fenceBank _ => f.ab != 0 && (s.slSectors r e).any fun x => decide (x.1 < f.aa + f.ab) && decide (f.aa < x.1 + 32)
  | _ => true

/-! ### Scope sets (R132) -/

/-- R26: the lowest-numbered defined domain register of a level. -/
def Room.dmOfLevel (r : Room) (level : Nat) : Option Nat :=
  (List.range 8).find? fun i => let d := (r.dm.toList.getD i 0).toNat; d.testBit 31 && bitsOf d 30 28 == level

/-- R132: the rooms of the scope set of a fence of a room; the agents beside them are those of `scopeReachesOut`. -/
def State.scopeRooms (s : State) (r : Room) (sc : Nat) : List Room :=
  let team := s.teamRooms r.id.team
  let package := team.filter fun x => pkgOf x.core == pkgOf r.core
  let floor := match r.dmOfLevel 2 with | some i => s.members r i | none => package
  match sc with
  | 0 => team.filter fun x => x.id == r.id
  | 1 => (match r.dmOfLevel 1 with | some i => s.members r i | none => floor)
  | 2 => floor
  | 3 => package
  | _ => team

/-- R132: a scope set has an observer of global memory beside the fencing room: another room, or from package on a hall. -/
def State.scopeReachesOut (s : State) (r : Room) (sc : Nat) : Bool :=
  decide (3 ≤ sc) || (s.scopeRooms r sc).any fun x => x.id != r.id

/-- R127: an earlier entry that is not performed everywhere is performed at a scope: a write to global memory when nobody
else observes it there, since the room's own later accesses to its bytes come after it (R126); a put whose receiver is not
in the set. -/
def State.performedAt (s : State) (r : Room) (sc : Nat) (e : XEntry) : Bool :=
  e.performed ||
  (if e.isPut then !((s.scopeRooms r sc).any fun x => x.id == { team := r.id.team, lin := targetLin e.aa })
   else !e.isRead && !e.isSluice && !isCollOp e.op && !s.scopeReachesOut r sc)

/-- R127: whether a fence waits for an earlier entry. -/
def State.fenceWaits (s : State) (r : Room) (f e : XEntry) : Bool :=
  !e.isFence && e.isShared && !e.performed &&
  (match f.op with
   | .fenceAcq _ => e.isRead
   | .fenceBank _ | .fenceBankAll _ => e.isSluice && s.covers r f e
   | .fenceGeo _ => true
   | _ => !e.isSluice && !s.performedAt r f.form.sc.toNat e)

/-- R120: two sluice commands of a room to one bank. -/
def State.sameBank (s : State) (r : Room) (a b : XEntry) : Bool :=
  let bank (e : XEntry) : Option Nat :=
    match s.slSectors r e with | (_, pa, w) :: _ => (placeOf w pa).map bankOfPlace | [] => none
  match bank a, bank b with | some x, some y => x == y | _, _ => false

/-- R141: the page of a sluice command of a room that holds another of its commands. -/
def State.samePage (s : State) (r : Room) (a b : XEntry) : Bool :=
  match s.walk r.asid (a.aa % 2 ^ 52) .readWrite with
  | .ok _ _ va size _ => decide (va ≤ b.aa % 2 ^ 52) && decide (b.aa % 2 ^ 52 < va + size)
  | .fault _ _ => false

/-- The bytes of the sectors of a sluice command. -/
def State.sluiceBytes (s : State) (r : Room) (e : XEntry) : List (Bool × Nat) :=
  (s.slSectors r e).flatMap fun x => (List.range 32).flatMap fun i => s.byteKeys r r.namesHandle (x.1 + i)

/-- R127: a write that a completed fence found performed at its scope, though it is not applied, and a later sluice command of
the room to one of its bytes. -/
def State.afterFenced (s : State) (r : Room) (a e : XEntry) : Bool :=
  e.isSluice && (match a.fenced with | some f => decide (f < e.id) | none => false) &&
  (let p := s.entryBytes r a; (s.sluiceBytes r e).any fun x => p.contains x)

/-- R265, R386: an earlier entry holds a later one: as a fence, by a barge edge or chain, as a put to the same receiver, as
a sluice command to the same bank that has not left the queue or has met a fault, or by bytes of one global page, which between
two cards only an edge orders (R138). Sluice commands that have left are applied in order at their bank (log 87). -/
def State.holds (s : State) (r : Room) (a e : XEntry) : Bool :=
  if a.performed then false
  else if a.isFence then fenceHolds a e
  else
    e.after.contains a.id || (a.isPut && e.isPut && targetLin a.aa == targetLin e.aa) || s.afterFenced r a e ||
    (if a.isSluice || e.isSluice then a.isSluice && e.isSluice && (a.status == .queued || a.fault.isSome) && s.sameBank r a e
     else !(a.isCard && e.isCard) && (let p := s.entryBytes r a; (s.entryBytes r e).any fun x => p.contains x))

def State.isHeld (s : State) (r : Room) (e : XEntry) : Bool := (r.ctx.before e.id).any fun a => s.holds r a e

/-- R126, R127, R139: an access to global bytes that the room makes now, outside the transfer queue, waits for the earlier
entries and fences that it stands in preserved order after. -/
def State.accessHeld (s : State) (r : Room) (write : Bool) (vas : List Nat) : Bool :=
  r.ctx.xq.any fun a => !a.performed &&
    (if a.isFence then (match a.op with | .fenceRel _ => write | _ => true)
     else !a.isSluice && (let p := s.entryBytes r a; vas.any fun v => (s.byteKeys r r.namesHandle v).any fun x => p.contains x))

/-- R303, R304, R105: an earlier write-back has still to read some scratchpad bytes. -/
def Room.owesFrom (r : Room) (lo n : Nat) : Bool :=
  r.ctx.xq.any fun a => !a.performed && a.writeBack.any fun x => decide (lo ≤ x.2) && decide (x.2 < lo + n)

/-- R265: an entry may be dispatched: nothing holds it, and every earlier entry of the queue is held. -/
def State.mayDispatch (s : State) (r : Room) (e : XEntry) : Bool :=
  e.status == .queued && !e.isFence && e.fault.isNone && e.replay.isNone && !s.isHeld r e &&
  (r.ctx.before e.id).all fun a => a.status != .queued || a.isFence || a.fault.isSome || a.replay.isSome || s.isHeld r a

/-- `FENCE_COMPLETE` (R127, R141): a write that the fence did not wait for stays ahead of the room's later sluice commands. -/
def execFenceComplete (r : RoomId) (id : Nat) (s : State) : Host.Outcome State Fault Refusal :=
  .next (s.withEntry r id (fun e => e.isFence) fun x e =>
    let before := x.ctx.before id
    if before.any fun a => s.fenceWaits x e a then s
    else
      let ids := (before.filter fun a => !a.performed && a.isWrite && !a.isSluice && a.fenced.isNone).map fun a => a.id
      s.onRoom r fun y =>
        let z := y.dropEntry id
        { z with ctx.xq := mapIf (fun a => ids.contains a.id) (fun a => { a with fenced := some id }) z.ctx.xq })

end Sys2Proof.Machine
end

