-- ==== Sys2Proof/Machine/Shared.lean ====
section
/-! DEFINITION. Shared accesses at their homes: dispatch of entries, puts, sluice commands, atomics, collectives,
barriers, waits, window and overflow lines, and the end of a room (01, R30 to R38, R45 to R49; 04, R101 to R122; 10). -/

namespace Sys2Proof.Machine

/-! ### Residence (R21) -/

/-- A core whose resident room is not ready passes to the next ready room. -/
def State.ensure (s : State) (core : Nat) : State :=
  match s.core? core with
  | none => s
  | some k =>
    match k.resident.bind s.room? with
    | some r => if r.ready then s else s.switch core r.id.lin
    | none => s

def State.ensureAll (s : State) (cores : List Nat) : State := cores.foldl State.ensure s

/-! ### Write-backs (R105, R101, R303, R304) -/

/-- Bytes grouped by the 64 B line of their virtual address, in the order of their first byte. -/
def vaLines : List (Nat × Byte) → List (Nat × List (Nat × Byte))
  | [] => []
  | (a, b) :: rest =>
    let ls := vaLines rest
    if ls.any fun l => l.1 == a / 64 then mapIf (fun l => l.1 == a / 64) (fun l => (l.1, (a, b) :: l.2)) ls
    else (a / 64, [(a, b)]) :: ls

/-- Stores dirty bytes line by line; what is left and why it stopped, if it did. -/
def State.writeBack (s : State) (r : Room) (bytes : List (Nat × Byte)) : State × List (Nat × Byte) × Option Reach :=
  (vaLines bytes).foldl (fun acc l =>
    match acc.2.2 with
    | some _ => (acc.1, acc.2.1 ++ l.2, acc.2.2)
    | none =>
      let x := acc.1.reach r.core r.asid (64 * l.1) 1 .write
      match x.2 with
      | .ok ((w, pa) :: _) =>
        (x.1.gWrite r.agent (fun _ => 0) (l.2.map fun b => (w, pa + b.1 % 64, b.2)), acc.2.1, none)
      | o => (x.1, acc.2.1 ++ l.2, some o)) (s, [], none)

/-- R407: the fill or write-back of a room is held. -/
def State.holdRoom (s : State) (r : Room) (h : Nat × Nat) (event : Instr) : State :=
  (s.hold h event).onRoom r.id fun x => { x with heldBy := some h }

/-- R408: what a room does with no transfer entry was refused: its floor's translation is dropped and one fresh walk is made, which
must not give the GEN refused; the replay is counted. -/
def State.refuseRoom (s : State) (r : Room) (die gen va : Nat) (k : AccessKind) : State × Bool :=
  let s1 := ((s.count (counterNo die 0xFF 0x53) 1).dropTlb r.floor r.asid va).onRoom r.id fun x => { x with heldBy := none }
  if s1.stillRefused r.asid va gen k then (s1, false) else (s1.countReplay r, true)

/-- An access made without a transfer entry, by an event that is tried again when a restow holds it (R407, R408). -/
def State.reachFresh (s : State) (r : Room) (event : Instr) (va n : Nat) (k : AccessKind) : State × Reach :=
  let settle (x : State × Reach) : State × Reach :=
    match x.2 with
    | .held (some h) => (x.1.holdRoom r h event, x.2)
    | .refused _ _ => (x.1, .held none)
    | o => (x.1.onRoom r.id fun y => { y with heldBy := none }, o)
  let again (s : State) (die gen : Nat) : State × Reach :=
    let x := s.refuseRoom r die gen va k
    if x.2 then settle (x.1.reach r.core r.asid va n k) else (x.1, .fault 0x21 0)
  match s.heldNow r.heldBy with
  | .still => (s, .held r.heldBy)
  | .refused die gen => again s die gen
  | .free =>
    let x := s.reach r.core r.asid va n k
    match x.2 with
    | .refused die gen => again x.1 die gen
    | _ => settle x

/-! ### Dispatch (R265, R266, R302) -/

/-- The bytes an entry reads when it is dispatched. -/
def XEntry.payloadAddrs (e : XEntry) : List Nat :=
  match e.op with
  | .put _ | .putT _ => (List.range e.sv).map (e.ab + ·)
  | _ => if e.isSluice then (List.range 32).map (slAddr e + ·) else []

/-- The bytes of every element of a region, in element order. -/
def State.regionBytes (s : State) (r : Room) (d : Nat) : State × List Byte :=
  ((List.range (descRows d)).flatMap fun row => (List.range (descCount d)).map fun k => (row, k)).foldl
    (fun acc v => let x := acc.1.localElem r d v.1 v.2; (x.1, acc.2 ++ x.2)) (s, [])

/-- The encodings of every value of a region, in value order. -/
def State.regionEncs (s : State) (r : Room) (d : Nat) : State × List Nat :=
  ((List.range (descRows d)).flatMap fun row => (List.range (descVals d)).map fun k => (row, k)).foldl
    (fun acc v => let x := acc.1.localEnc r d v.1 v.2; (x.1, acc.2 ++ [x.2])) (s, [])

/-- The k-th free byte of a step: what an uncorrectable or poisoned byte that has no number format is delivered as
(log 4). -/
def State.freeByte (s : State) (k : Nat) : Byte :=
  BitVec.ofNat 8 (packLanes 1 ((List.range 8).map fun j => b2n (Config.freeChoice (s.free + 8 * k + j))))

/-- Bytes with those marked bad replaced by free ones. -/
def State.freeBad (s : State) (bytes : List (Byte × Bool)) : State × List Byte :=
  if bytes.any Prod.snd then
    ({ s with free := s.free + 8 * bytes.length }, bytes.zipIdx.map fun b => if b.1.2 then s.freeByte b.2 else b.1.1)
  else (s, bytes.map Prod.fst)

/-- Reads payload bytes; an uncorrectable byte is delivered as a free value (R99). -/
def State.payloadOf (s : State) (r : Room) (addrs : List Nat) : State × List Byte :=
  let x := s.canalRead r addrs
  x.1.freeBad (x.2.1.zip x.2.2)

/-- R122, R420: an atomic that leaves the queue takes its source ID, [15:7] package and [6:0] core, and the next sequence
number of its core; a replay keeps them. -/
def State.numberAtomic (s : State) (r : Room) (e : XEntry) : State × XEntry :=
  if e.isAmo && e.seq == 0 then
    let n := (s.coreOf r.core).atomicSeq
    (s.onCore r.core fun k => { k with atomicSeq := (n + 1) % 2 ^ 32 },
     { e with source := s.pkgNo (pkgOf r.core) * 128 + r.core % 128, seq := n + 1 })
  else (s, e)

/-- The bytes that a write-back names, as they stand now: those in the partition are read through the check (R266, R99). -/
def State.sourceBytes (s : State) (r : Room) (l : List (Nat × Nat)) : State × List (Nat × Byte) :=
  let here := l.filter fun x => decide (x.2 < 2 ^ 24)
  let above := l.filter fun x => decide (2 ^ 24 ≤ x.2)
  let rd := s.payloadOf r (here.map Prod.snd)
  (rd.1, ((here.map Prod.fst).zip rd.2) ++ above.map fun x => (x.1, r.overByte x.2))

/-- R141: the berth word under which the request of an entry leaves. -/
def State.viaOf (s : State) (r : Room) (e : XEntry) : Option Nat :=
  if e.isSluice || e.isAmo then
    match (s.translate r.core r.asid (e.aa % 2 ^ 52) .readWrite e.isSluice).2 with | .ok _ w _ _ _ => some w | .fault _ _ => none
  else none

/-- What leaving the queue does (R265, R266). -/
def State.dispatch (s0 : State) (r : Room) (e0 : XEntry) : State :=
  let numbered := s0.numberAtomic r e0
  let s := numbered.1
  let e : XEntry := { numbered.2 with via := s.viaOf r e0 }
  let to_ (s : State) (e : XEntry) : State := s.setEntry r { e with status := .dispatched }
  match e.op with
  | .putQ _ => to_ s e
  | .collSum _ => let x := s.regionEncs r e.desc; to_ x.1 { e with staged := x.2 }
  | .collSumQ _ => let x := s.payloadOf r ((List.range (144 * e.sv)).map (e.aa + ·)); to_ x.1 { e with payload := x.2 }
  | .collBcast _ =>
    if e.sv = r.id.lin then let x := s.regionBytes r e.desc; to_ x.1 { e with payload := x.2 } else to_ s e
  | .wmap _ | .wflush _ | .wflushAll _ =>
    let b := s.sourceBytes r e.writeBack
    let x := b.1.writeBack r b.2
    let left : XEntry := { e with writeBack := e.writeBack.filter fun z => x.2.1.any fun y => y.1 == z.1 }
    (match x.2.2 with
     | none => x.1.onRoom r.id fun y => (y.bump e.form.ms).dropEntry e.id
     | some why => (x.1.setEntry r left).stopEntry r left why 0)
  | _ =>
    if e.payloadAddrs.isEmpty then to_ s e
    else let x := s.payloadOf r e.payloadAddrs; to_ x.1 { e with payload := x.2 }

/-! ### Puts over mesh-extension links (R419 to R421) -/

def State.link? (s : State) (n : Nat) : Option Link := s.links.find? fun l => l.num == n
def State.onLink (s : State) (n : Nat) (f : Link → Link) : State := { s with links := mapIf (fun l => l.num == n) f s.links }

/-- R420: the link that carries a link's traffic: itself, or while it retrains a spare of the same pair. -/
def State.carrier (s : State) (link : Nat) : Option Link :=
  let free (n : Nat) : Option Link := (s.link? n).bind fun l => if l.retraining then none else some l
  match free link with
  | some l => some l
  | none => (s.routing.spares.filter fun x => x.1 == link).findSome? fun x => free x.2

/-- R419: beats of 256 B: four for each flit of 1 KiB, the last filled up with zeros. -/
def flitBeats (bytes : List Byte) : List (List Byte) :=
  (List.range (4 * max 1 (cdiv bytes.length 1024))).map fun i => (List.range 256).map fun j => bytes.getD (256 * i + j) 0

/-- R419: a beat goes out, and into the replay buffer. -/
def Link.send (l : Link) (plane : BitVec 2) (stamp : Option Nat) (payload : List Byte) : Link :=
  { l with replay := l.replay ++ [{ seq := l.sendSeq, plane := plane, stamp := stamp, payload := payload }]
           sendSeq := (l.sendSeq + 1) % 65536 }

/-- R419: beats that the replay buffer can hold. -/
def replayBeats : Nat := 2048

/-- R420: the first link of the route of a put that leaves this package. -/
def State.putLink (s : State) (r : Room) (e : XEntry) : Option Nat :=
  match s.room? { team := r.id.team, lin := targetLin e.aa } with
  | some t => if pkgOf r.core = 0 && pkgOf t.core ≠ 0 then (s.route? 0 (pkgOf t.core)).bind List.head? else none
  | none => none

/-- R421: plane 3 of a link carries timed puts alone; the model puts all else on plane 0 (log 84). -/
def XEntry.plane (e : XEntry) : BitVec 2 := match e.op with | .putT _ => 3 | _ => 0

/-- R419, R420: the link of a put can take its beats: otherwise the traffic waits. -/
def State.pathOpen (s : State) (r : Room) (e : XEntry) : Bool :=
  !e.isPut || (match s.putLink r e with
    | none => true
    | some l => (match s.carrier l with
      | some c => decide (c.replay.length + 4 * max 1 (cdiv (match e.op with | .putQ _ => 144 | _ => e.sv) 1024) ≤ replayBeats)
      | none => false))

/-- R419, R420: the beats of a dispatched put go out. -/
def State.sendPut (s : State) (r : RoomId) (id : Nat) : State :=
  s.withEntry r id (fun e => e.isPut && e.status == .dispatched) fun x e =>
    match (s.putLink x e).bind s.carrier with
    | some c => s.onLink c.num fun l => (flitBeats e.payload).foldl (fun l b => l.send e.plane none b) l
    | none => s

/-- R420, R421: a put that its link has still to carry waits while the link retrains and no spare takes its traffic. -/
def State.putArrives (s : State) (r : Room) (e : XEntry) : Bool :=
  match s.putLink r e with
  | none => true
  | some l => (s.carrier l).isSome || (match s.link? l with | some k => k.replay.isEmpty | none => true)

/-- `ENTRY_DISPATCH` (R265). -/
def execEntryDispatch (r : RoomId) (id : Nat) (s : State) : Host.Outcome State Fault Refusal :=
  .next (s.withEntry r id (fun e => e.status == .queued) fun x e =>
    match s.heldNow e.heldBy with
    | .still => s
    | .refused die gen => s.stopEntry x e (.refused die gen) 0
    | .free => if x.here && s.mayDispatch x e && s.pathOpen x e then (s.dispatch x e).sendPut r id else s)

/-! ### Puts (R37, R38, R48, R49, R284) -/

/-- R37: a put of some bytes lands under the receiver's phase. -/
def Room.putLands (r : Room) (a n : Nat) : Bool :=
  let fp := r.ctx.footprint
  let all := (fp.reads ++ fp.writes).flatten
  if fp.empty then false
  else if n = 0 then true
  else
    let iv : Iv := { lo := a, hi := (a + n : Nat) - 1 }
    if r.ctx.phase.getLsbD 31 then fp.allows 2 true iv else !(all.any fun b => b.overlaps iv)

/-- The links of the route between two packages (R420). -/
def State.routeLinks (s : State) (a b : Nat) : Nat :=
  match s.route? a b with | some l => l.length | none => 1

/-- R48: D in nanoseconds. -/
def State.putBound (s : State) (a b : Room) : Nat :=
  if pkgOf a.core = pkgOf b.core then 150 else 1200 * s.routeLinks (pkgOf a.core) (pkgOf b.core)

/-- R426: what a clock exactly on the system reference reads: the hall of the time root, or what this hall is held to. -/
def State.systemTb (s : State) : Nat :=
  if s.hall.root == some s.routing.self || !s.hall.lock then s.hall.tb else s.hall.ref

/-- R48: the reference of a timed put: this package's hall where the path stays in the package, else the system reference
(log 63). -/
def State.putClock (s : State) (a b : Room) : Nat := if pkgOf a.core = pkgOf b.core then s.hall.tb else s.systemTb

/-- The payload bytes of a put. -/
def XEntry.putLen (e : XEntry) : Nat := match e.op with | .putQ _ => 144 | _ => e.sv

/-- R49: a late timed put, for the receiver. -/
def latePut (lin deadline : Nat) : Cause :=
  { code := 0x30, slot := 6, sub := 1, aux := lin % 2 ^ 16, index := deadline % 2 ^ 32 }

/-- `PUT_LANDING` (R37, R38, R49, R135, R284, R421). -/
def execPutLanding (r : RoomId) (id : Nat) (s : State) : Host.Outcome State Fault Refusal :=
  .next (s.withEntry r id (fun e => e.isPut && e.status == .dispatched) fun x e =>
    if !s.putArrives x e then s else
    let s1 := s.onRoom r fun y => y.dropEntry id
    let violation := s1.foundCause r (cause 0x23 slotX)
    match s.room? { team := r.team, lin := targetLin e.aa } with
    | none => violation
    | some t =>
      let a := targetAddr e.aa
      if t.spSize < a + e.putLen || !t.putLands a e.putLen then violation
      else
        let s2 := (s1.clockMsg x.agent t.agent).heal t ((List.range e.putLen).map (a + ·))
        let deadline := e.tbIssue / 2 ^ 16 + s.putBound x t
        let late := match e.op with
          | .putT _ => decide (deadline * 2 ^ 16 < s.putClock x t)
          | _ => false
        let s3 := s2.onRoom t.id fun y =>
          let z : Room := { y with scratch := Memory.putAll y.scratch (cellsAt a e.payload) }
          z.bump e.form.ms
        if late then s3.foundCause t.id (latePut r.lin deadline) else s3)

/-! ### Sluice commands (R118 to R120, R290, R390) -/

/-- The lanes of an operand: lane bytes, and which lanes a mask enables (R118, R290). -/
def slLane (e : XEntry) : Nat :=
  match e.op with
  | .slFill _ => 4
  | _ => if e.form.fn.toNat % 8 = 2 then 8 else 4

/-- The value of one lane after a command (R119). -/
def slLaneValue (op : Instr) (ty m v : Nat) : Nat :=
  let n := if ty = 2 then 64 else 32
  let fp (x : Nat) : Val := decodeVal fp32 0 x
  let pick (greater : Bool) : Nat :=
    if ty = 4 then
      if (fp m).isNan || (fp v).isNan then ieeeQnan 8 23
      else if valLess (fp v) (fp m) = greater then m else v
    else if ty = 0 then (if (sext v 32 < sext m 32) = (greater = true) then m else v)
    else (if (v < m) = (greater = true) then m else v)
  match op with
  | .slAdd _ => (m + v) % 2 ^ n
  | .slMin _ => pick false
  | .slMax _ => pick true
  | .slAnd _ => m &&& v
  | .slOr _ => m ||| v
  | .slXor _ => m ^^^ v
  | .slFadd _ =>
    if (fp m).isNan || (fp v).isNan then ieeeQnan 8 23 else (convVal fp32 0 .rne false (valAdd .rne (fp m) (fp v)).1).1
  | _ => v

/-- The new bytes of a sector under a command, with its operand (R119). -/
def slSector (e : XEntry) (old : List Byte) : List (Nat × Byte) :=
  let z := slLane e
  (List.range (32 / z)).flatMap fun i =>
    if (slMask e).testBit i then
      let m := fromBytes ((old.drop (z * i)).take z)
      let v := fromBytes ((e.payload.drop (z * i)).take z)
      cellsAt (z * i) (toBytes z (slLaneValue e.op (e.form.fn.toNat % 8) m v))
    else []

/-- R290: the word that `sl.cas` names; none unless exactly one mask bit of [3:0] is set. -/
def slCasWord (mask : Nat) : Option Nat :=
  match (List.range 4).filter fun i => mask.testBit i with | [i] => some i | _ => none

/-- The reply of a command over the sectors it reads (R119). -/
def slReply (e : XEntry) (sectors : List (List Byte)) : Nat :=
  match e.op with
  | .slSum _ =>
    let z := if e.form.fn.toNat % 8 = 2 then 8 else 4
    let lanes := sectors.flatMap fun b => (List.range (32 / z)).map fun i => sext (fromBytes ((b.drop (z * i)).take z)) (8 * z)
    wrapTo 64 (lanes.foldl (· + ·) 0)
  | _ => (match slCasWord (slMask e) with
    | some i => fromBytes (((sectors.headD []).drop (8 * i)).take 8)
    | none => 0)

/-- The writes of a command to one sector. -/
def slWrites (e : XEntry) (old : List Byte) : List (Nat × Byte) :=
  match e.op with
  | .slSum _ => []
  | .slCas _ => (match slCasWord (slMask e) with
    | some i =>
      if (old.drop (8 * i)).take 8 = e.payload.take 8 then cellsAt (8 * i) ((e.payload.drop 8).take 8) else []
    | none => [])
  | _ => slSector e old

/-- The end of a command at its bank: one that replies keeps its reply, another is complete. -/
def State.sluiceDone (s : State) (r : Room) (e : XEntry) (reply : Nat) : State :=
  if slReplies e.form then s.setEntry r { e with status := .applied, payload := toBytes 8 reply }
  else s.onRoom r.id fun x => x.dropEntry e.id

/-- R141, R407: the restow whose flip refuses a request that left before it, with the die and the GEN. -/
def State.staleRequest (s : State) (r : Room) (e : XEntry) : Option Reach :=
  let va := e.aa % 2 ^ 52
  s.restows.findSome? fun x =>
    match x.src with
    | .page asid base =>
      if x.step == .flipped && e.via == some x.srcBerth && asid == r.asid && decide (base ≤ va) && decide (va < base + x.size) then
        (placeOf x.srcBerth (x.srcPa + (va - base))).map fun p => .refused (dieOfPlace p) (berthGen x.srcBerth)
      else none
    | .handle _ => none

/-- R120, R141: an earlier command of the room is still to be applied, to the bank that a command is applied to under its
present berth, or to its page when a flip lies between the two: it left under another berth, or was refused. One stopped by a
fault holds back none that was dispatched before (R386). -/
def State.bankTurn (s : State) (r : Room) (e : XEntry) : Bool :=
  (r.ctx.before e.id).all fun a => !a.isSluice || a.status == .queued || a.performed || a.fault.isSome ||
    !(s.sameBank r a e || ((a.again || a.via != e.via) && s.samePage r a e))

/-- R124: a request carries the clock of its agent to the homes of some places. -/
def State.clockRequests (s : State) (agent : Nat) (l : List (Nat × Nat)) : State :=
  ((l.filterMap fun x => (placeOf x.1 x.2).map dieOfPlace).eraseDups).foldl (fun s d => s.clockMsg agent d) s

/-- The home of a place. -/
def homeOf (w pa : Nat) : Option Nat := (placeOf w pa).map dieOfPlace

/-- `SLUICE_APPLY` (R118 to R120, R290, R390, R407). -/
def execSluiceApply (r : RoomId) (id : Nat) (s : State) : Host.Outcome State Fault Refusal :=
  .next (s.withEntry r id (fun e => e.isSluice && e.status == .dispatched && e.fault.isNone && e.replay.isNone) fun x e =>
    let va := e.aa % 2 ^ 52
    let t := s.translate x.core x.asid va .readWrite true
    match s.heldNow e.heldBy, s.staleRequest x e with
    | .still, _ => s
    | .refused die gen, _ => s.stopEntry x e (.refused die gen) 0
    | .free, some o => s.stopEntry x e o 0
    | .free, none =>
    match t.2 with
    | .fault c sub => t.1.stopEntry x e (.fault c sub) 0
    | .ok _ _ _ _ _ =>
      if !s.bankTurn x e then s
      else
        match sectorsOf va (slCount e) t.2 with
        | none => t.1.stopEntry x e (.fault 0x21 0) 0
        | some secs =>
          let reach := secs.foldl (fun (o : Reach) y => match o with | .ok _ => t.1.reachPa y.2.2 y.2.1 1 .readWrite | z => z) (.ok [])
          match reach with
          | .ok _ =>
            if secs.any fun y => (match placeOf y.2.2 y.2.1 with | some p => t.1.bankHeld (bankOfPlace p) | none => false) then s
            else
              let places := secs.map fun y => (y.2.2, y.2.1)
              let e : XEntry := { e with heldBy := none, again := false, home := places.head?.bind fun y => homeOf y.1 y.2 }
              let t1 := t.1.request.discover places
              if secs.any fun y => t1.gPoisoned y.2.2 y.2.1 then ((t1.clockRequests x.agent places).badData x).sluiceDone x e 0
              else
              let olds := secs.map fun y => t1.gBytes y.2.2 y.2.1 32
              let writes := (secs.zip olds).flatMap fun y => (slWrites e y.2).map fun b => (y.1.2.2, y.1.2.1 + b.1, b.2)
              let t2 := if writes.isEmpty then t1.clockRequests x.agent places else t1.gWrite x.agent (fun _ => 0) writes
              t2.sluiceDone x e (slReply e olds)
          | o => t.1.stopEntry x e o 0)

/-- R124: the reply to a sluice command or an atomic carries the clock of its home. -/
def State.replyClock (s : State) (r : Room) (e : XEntry) : State :=
  match e.home with | some d => s.clockMsg d r.agent | none => s

/-- `SLUICE_REPLY` (R290). -/
def execSluiceReply (r : RoomId) (id : Nat) (s : State) : Host.Outcome State Fault Refusal :=
  .next (s.withEntry r id (fun e => e.isSluice && e.status == .applied) fun x e =>
    ((s.replyClock x e).canalWrite x true (cellsAt (slAddr e + 32) e.payload)).onRoom r fun y => (y.bump e.form.ms).dropEntry id)

/-! ### Atomics (R121, R122, R291, R292, R390) -/

/-- R291: the effect of an atomic on its operand. -/
def amoValue (op : Instr) (ty m v v2 : Nat) : Nat :=
  let n := if ty = 2 || ty = 3 || ty = 5 then 64 else 32
  let signed := ty == 0 || ty == 2
  let less (a b : Nat) : Bool := if signed then decide (sext a n < sext b n) else decide (a < b)
  let f : Fmt := if ty = 5 then fp64 else fp32
  match op with
  | .amoAdd _ => (m + v) % 2 ^ n
  | .amoMin _ => if less v m then v else m
  | .amoMax _ => if less m v then v else m
  | .amoAnd _ => m &&& v
  | .amoOr _ => m ||| v
  | .amoXor _ => m ^^^ v
  | .amoSwap _ => v
  | .amoCas _ => if m = v then v2 else m
  | _ => (convVal f 0 .rne false (valAdd .rne (decodeVal f 0 m) (decodeVal f 0 v)).1).1

/-- R71, R390: the poison reply of an atomic's operand format. -/
def amoPoison (ty : Nat) : Nat := if ty = 4 then poisonEnc fp32 else if ty = 5 then poisonEnc fp64 else 0

/-- R122: the window of a source at a home. -/
def State.atomicWindow (s : State) (home source : Nat) : List (Nat × Nat) :=
  match s.atomics.find? fun w => w.home == home && w.source == source with | some w => w.done | none => []

/-- R122: records a completed sequence number with its reply; the last 1,024 are kept. -/
def State.recordAtomic (s : State) (home source seq reply : Nat) : State :=
  let done := ((seq, reply) :: s.atomicWindow home source).take 1024
  { s with atomics := { home := home, source := source, done := done } ::
      s.atomics.filter fun w => !(w.home == home && w.source == source) }

/-- R122: of two 32-bit sequence numbers the first was given before the second: numbers wrap (log 70). -/
def seqBefore (x y : Nat) : Bool := let d := (y + 2 ^ 32 - x % 2 ^ 32) % 2 ^ 32; decide (0 < d) && decide (d < 2 ^ 31)

/-- R122: an arriving sequence number lies below a full window. -/
def olderThanWindow (done : List (Nat × Nat)) (seq : Nat) : Bool :=
  done.length == 1024 && done.all fun d => seqBefore seq d.1

/-! ### Retraining (R419, R122) -/

/-- R427: a counter of a link. -/
def linkCounter (link index : Nat) : Nat := counterNo 4 link index

/-- R419: a link begins to retrain, which is counted. -/
def State.retrain (s : State) (link : Nat) : State :=
  match s.link? link with
  | some l =>
    if l.retraining then s
    else (s.count (linkCounter link 0x41) 1).onLink link fun l => { l with retraining := true, resends := 0, retrainSince := l.tb }
  | none => s

/-- R122, R419: the link over which requests of a room arrive at this package retrains; a room of this package has none. -/
def State.retrainPath (s : State) (r : Room) : State :=
  if pkgOf r.core = 0 then s
  else match (s.route? (pkgOf r.core) 0).bind List.getLast? with | some l => s.retrain l | none => s

/-- `ATOMIC_APPLY` (R121, R122, R292, R390, R407). -/
def execAtomicApply (r : RoomId) (id : Nat) (s : State) : Host.Outcome State Fault Refusal :=
  .next (s.withEntry r id (fun e => e.isAmo && (e.status == .dispatched || e.status == .applied) && e.fault.isNone &&
      e.replay.isNone) fun x e =>
    match (if e.status = .applied then .free else s.heldNow e.heldBy), (if e.status = .applied then none else s.staleRequest x e) with
    | .still, _ => s
    | .refused die gen, _ => s.stopEntry x e (.refused die gen) 0
    | .free, some o => s.stopEntry x e o 0
    | .free, none =>
    let f := e.form
    let size := amoSize f
    let ty := f.fn.toNat % 8
    let va := e.aa % 2 ^ 52
    let t := s.reach x.core x.asid va size .readWrite
    let home := match t.2 with | .ok ((w, pa) :: _) => homeOf w pa | _ => e.home
    let reply (s : State) (v : Nat) : State :=
      s.setEntry x { e with status := .applied, payload := toBytes size v, heldBy := none, home := home }
    match t.2 with
    | .ok ((w, pa) :: _) =>
      (match placeOf w pa with
       | none => s
       | some p =>
         let home := dieOfPlace p
         let done := t.1.atomicWindow home e.source
         match done.find? fun d => d.1 == e.seq with
         | some d => reply (t.1.clockRequests x.agent [(w, pa)]) d.2
         | none =>
           if olderThanWindow done e.seq then
             reply (((t.1.count (counterNo 4 0 0x42) 1).retrainPath x).badData x) (amoPoison ty)
           else if e.status = .applied then t.1
           else if t.1.bankHeld (bankOfPlace p) then s
           else if t.1.gPoisoned w pa then
             reply ((t.1.badData x).recordAtomic home e.source e.seq (amoPoison ty)) (amoPoison ty)
           else
             let m := t.1.gNat w pa size
             let v := amoValue e.op ty m (e.ab % 2 ^ (8 * size)) (e.ac % 2 ^ (8 * size))
             let s1 := t.1.gWrite x.agent (fun _ => 0) ((toBytes size v).zipIdx.map fun b => (w, pa + b.2, b.1))
             reply (s1.recordAtomic home e.source e.seq m) m)
    | .ok [] => s
    | o => t.1.stopEntry x e o 0)

/-- `ATOMIC_REPLY` (R291). -/
def execAtomicReply (r : RoomId) (id : Nat) (s : State) : Host.Outcome State Fault Refusal :=
  .next (s.withEntry r id (fun e => e.isAmo && e.status == .applied) fun x e =>
    let s := s.replyClock x e
    let s1 := if e.form.fn.getLsbD 3 then s.canalWrite x true (cellsAt e.sv e.payload) else s
    s1.onRoom r fun y => (y.bump e.form.ms).dropEntry id)

/-! ### Collectives (R298 to R302, R387) -/

/-- What matched collectives must agree in (R298). -/
def XEntry.collKey (e : XEntry) : List Nat :=
  let d := e.desc
  match e.op with
  | .collSumQ _ => [1, e.sv]
  | .collSum _ => [0, descFmtCode d, descEs d, descRowsField d, descCount d, (match e.rm with
      | .rne => 0 | .rtz => 1 | .rdn => 2 | .rup => 3 | .rna => 4)]
  | _ => [2, descFmtCode d, descEs d, descRowsField d, descCount d, e.sv]

/-- A room's collective of an ordinal on a domain register. -/
def Room.collEntry (r : Room) (sc : BitVec 3) (k : Nat) : Option XEntry :=
  r.ctx.xq.find? fun e => isCollOp e.op && e.form.sc == sc && e.ordinal == k

/-- R300: the merged quire of one index over the members, with its flags. -/
def mergeAll : List (Quire × Fl) → Quire × Fl
  | [] => (Quire.clear, Fl.none)
  | x :: l => l.foldl (fun acc q => let m := acc.1.merge q.1; (m.1, Fl.or (Fl.or acc.2 q.2) m.2)) x

/-- R300: the value form: value i of every member as a product value·1 in a quire, merged and rounded once. -/
def collValues (d : Nat) (rm : RM) (contributions : List (List Nat)) (n : Nat) : List Nat × Raised :=
  let f := descFmt d
  let cls := (classOf f (descEs d)).getD .q1024
  let out := (List.range n).map fun i =>
    let m := mergeAll (contributions.map fun c => Quire.clear.accumulate cls (descVal d (c.getD i 0)) Val.one)
    let z := roundQ f (descEs d) rm m.1
    (z.1, Fl.or m.2 z.2)
  (out.map Prod.fst, Raised.none.addList 0 (out.map Prod.snd))

/-- R300: the quire form: image i of every member, validated as `qld` does and merged. -/
def collImages (contributions : List (List Byte)) (n : Nat) : List Byte × Raised :=
  let out := (List.range n).map fun i =>
    let m := mergeAll (contributions.map fun c => Quire.load ((c.drop (144 * i)).take 144))
    (m.1.image, m.2)
  (out.flatMap Prod.fst, Raised.none.addList 0 (out.map Prod.snd))

/-- The results and flags of matched collectives; `me` is a member's own entry. -/
def collOutcome (es : List (Nat × XEntry)) (e : XEntry) : List Byte × Raised :=
  match e.op with
  | .collSumQ _ => collImages (es.map fun x => x.2.payload) e.sv
  | .collSum _ =>
    let n := descRows e.desc * descVals e.desc
    let x := collValues e.desc e.rm (es.map fun x => x.2.staged) n
    (x.1.flatMap fun v => toBytes 8 v, x.2)
  | _ => ((match es.find? fun x => x.1 == e.sv with | some x => x.2.payload | none => []), Raised.none)

/-- Writes a member's results (R300, R301). -/
def State.collWrite (s : State) (r : Room) (e : XEntry) (bytes : List Byte) : State :=
  let d := e.desc
  match e.op with
  | .collSumQ _ => s.canalWrite r true (cellsAt e.aa bytes)
  | .collSum _ =>
    ((List.range (descRows d)).flatMap fun row => (List.range (descVals d)).map fun k => (row, k)).foldl
      (fun s v => match s.room? r.id with
        | some x => s.localValue x d v.1 v.2 (fromBytes ((bytes.drop (8 * (v.1 * descVals d + v.2))).take 8))
        | none => s) s
  | _ =>
    if e.sv = r.id.lin then s
    else
      let z := (descFmt d).elemBytes
      s.canalWrite r true (((List.range (descRows d)).flatMap fun row => (List.range (descCount d)).flatMap fun k =>
        cellsAt (elemAddr d row k).toNat ((bytes.drop (z * (row * descCount d + k))).take z)))

/-- R124: the hall's die as an agent. -/
def hallAgent : Nat := 4

/-- R298: the collective mismatch, for each member. -/
def collMismatch (sc : BitVec 3) : Cause := { code := 0x01, slot := slotX, sub := 1, aux := sc.toNat, index := 0 }

/-- `COLLECTIVE_COMPLETE`: once every member has dispatched its matched collective, this member's results are written,
its flags raised and its semaphore incremented; on a mismatch every member takes ILLEGAL_BUNDLE (R298, R300 to R302,
R268). A contribution that a fault has stopped stops the collective in every member (R387). -/
def execCollectiveComplete (r : RoomId) (id : Nat) (s : State) : Host.Outcome State Fault Refusal :=
  .next (s.withEntry r id (fun e => isCollOp e.op && e.status == .dispatched) fun x e =>
    let f := e.form
    let ms := s.members x f.sc.toNat
    let finish (s : State) (bytes : List Byte) (raised : Raised) : State :=
      match s.room? r with
      | some y =>
        (((s.clockMsg hallAgent y.agent).collWrite y e bytes).raiseEntry y { e with raised := raised }).onRoom r fun z => (z.bump f.ms).dropEntry id
      | none => s
    match e.result with
    | some bytes => finish s bytes e.raised
    | none =>
      let es := ms.filterMap fun y => (y.collEntry f.sc e.ordinal).map fun g => (y.id.lin, g)
      if es.length < ms.length || es.any fun y => y.2.status == .queued || y.2.fault.isSome then s
      else
        let rootOk := match e.op with | .collBcast _ => ms.any fun y => y.id.lin == e.sv | _ => true
        if es.all (fun y => y.2.collKey == e.collKey) && rootOk then
          let out := collOutcome es e
          let s1 := ms.foldl (fun s y => (s.clockMsg y.agent hallAgent).onRoom y.id fun z =>
            match y.collEntry f.sc e.ordinal with
            | some g => z.onEntry g.id fun w => { w with result := some out.1, raised := out.2 }
            | none => z) s
          finish s1 out.1 out.2
        else
          ms.foldl (fun s y => match y.collEntry f.sc e.ordinal with
            | some g => (s.onRoom y.id fun z => z.dropEntry g.id).foundCause y.id (collMismatch f.sc)
            | none => s) s)

/-! ### Barriers (R30, R31, R297) -/

/-- The wait of a room, which a handler sets aside (R384). -/
def Room.waiting (r : Room) : Wait := match r.aside with | some a => a.wait | none => r.ctx.wait
def Room.setWait (r : Room) (w : Wait) : Room :=
  match r.aside with
  | some a => { r with aside := some { a with wait := w } }
  | none => { r with ctx.wait := w }

/-- R31 item 1: a V or M operation has not landed. -/
def Room.unlanded (r : Room) : Bool :=
  let vm (l : List Landing) : Bool := l.any fun x => x.slot == 2 || x.slot == 3
  !r.ctx.flights.isEmpty || vm r.ctx.landings ||
  (match r.aside with | some a => !a.flights.isEmpty || vm a.landings | none => false)

/-- R31: the conditions of arrival. -/
def Room.mayArrive (r : Room) : Bool :=
  !r.unlanded && r.ctx.xq.all fun e => e.isSluice || e.performed

/-- `DBAR_ARRIVAL` (R31, R297). -/
def execDbarArrival (r : RoomId) (s : State) : Host.Outcome State Fault Refusal :=
  .next (s.onRoom r fun x =>
    match x.waiting with
    | .dbar dm false => if x.mayArrive then x.setWait (.dbar dm true) else x
    | _ => x)

/-- R30: the PHASE image after a barrier on DM[i]. -/
def phaseAfter (p : Word) (comm : Bool) (i : Nat) : Word :=
  BitVec.ofNat 32 (b2n comm * 2 ^ 31 + i % 8 * 2 ^ 24 + p.toNat % 2 ^ 24)

/-- The footprint between a barrier and the next `phase` (R30, R32). -/
def Footprint.afterBarrier : Footprint := { Footprint.nil with empty := true }

/-- R30, R374: a member at the completion of a barrier. -/
def Room.passBarrier (r : Room) (comm : Bool) (i : Nat) : Room :=
  let x := r.setWait .none
  let c : Ctx := { x.ctx with phase := phaseAfter x.ctx.phase comm i, footprint := Footprint.afterBarrier }
  Room.takeSnap { x with ctx := c }

/-- `DBAR_COMPLETE`: every member of the room's instance has arrived; the instance changes kind (R30, R297, R134). -/
def execDbarComplete (r : RoomId) (s : State) : Host.Outcome State Fault Refusal :=
  .next (match s.room? r with
    | none => s
    | some x =>
      match x.waiting with
      | .dbar i true =>
        let ms := s.members x i
        if ms.all fun y => y.waiting == .dbar i true then
          let key (k : DomainKind) : Bool := k.team == r.team && k.dm == i && k.inst == x.inst i
          let comm := match s.kinds.find? key with | some k => !k.comm | none => true
          let kinds := { team := r.team, dm := i, inst := x.inst i, comm := comm } :: s.kinds.filter fun k => !key k
          let ids := ms.map fun y => y.id
          let s1 := ({ s with kinds := kinds }).onRooms (fun y => ids.contains y.id) fun y => y.passBarrier comm i
          s1.ensureAll (ms.map fun y => y.core)
        else s
      | _ => s)

/-! ### The ends of waits (R287, R47, R45) -/

/-- `SWAIT_RELEASE`: the test of a held `swait` holds (R287). -/
def execSwaitRelease (r : RoomId) (s : State) : Host.Outcome State Fault Refusal :=
  .next (match s.room? r with
    | some x =>
      if x.ready && x.ctx.waitHolds then (s.onRoom r fun y => { y with ctx := y.ctx.release }).ensure x.core else s
    | none => s)

/-- R47: a held `twait` may end. -/
def State.twaitOver (s : State) (r : Room) : Bool :=
  match r.ctx.wait with | .twait t => decide (t.toNat ≤ (s.coreOf r.core).tb / 2 ^ 16) | _ => false

/-- `TWAIT_RELEASE` (R47). -/
def execTwaitRelease (r : RoomId) (s : State) : Host.Outcome State Fault Refusal :=
  .next (match s.room? r with
    | some x => if x.ready && s.twaitOver x then s.onRoom r fun y => { y with ctx.wait := .none } else s
    | none => s)

/-- `TB_REALIGN_DONE`: every core of the package stands at the hall's reference (R45, R43). -/
def execTbRealignDone (pkg : Nat) (s : State) : Host.Outcome State Fault Refusal :=
  .next (match (0 :: s.hall.realignAway).find? fun d => s.pkgNo d == pkg && s.hall.aligning d with
    | none => s
    | some d =>
      let mine (k : Core) : Bool := pkgOf k.num == d
      if s.cores.all fun k => !mine k || decide (k.tb ≤ s.hall.tb + 2 * 2 ^ 16) then
        { s with cores := mapIf mine (fun k => { k with tb := max k.tb s.hall.tb, aligned := true }) s.cores,
                 hall := if d = 0 then { s.hall with realign := none }
                         else { s.hall with realignAway := s.hall.realignAway.filter fun x => x != d } }
      else s)

/-! ### Lines a held room waits for (R101, R105, R388) -/

/-- A fault met by a fill: the held room freezes with it (R388). -/
def State.fillFault (s : State) (r : RoomId) (code sub va : Nat) (acc : AccessKind) : State :=
  let s1 := s.focus r
  if s1.me.id = r then s1.takeTrap { code := code, slot := 6, sub := sub, aux := 0, index := 0, va := va, acc := acc } s1.me.ctx.pc else s

/-- Bytes at some places: those of a poisoned 64 B line are free values; and whether there is one (R446). -/
def State.placesRead (s : State) (l : List (Nat × Nat)) : State × List Byte × Bool :=
  let x := s.freeBad (l.map fun x => (s.gByte x.1 x.2, s.gPoisoned x.1 x.2))
  (x.1, x.2, l.any fun x => s.gPoisoned x.1 x.2)

/-- Bytes of a filled line; a poisoned one sets POISON (R446, R390). -/
def State.fillBytes (s : State) (r : Room) (l : List (Nat × Nat)) : State × List Byte :=
  let x := (s.clockReplies r.agent l).placesRead l
  (if x.2.2 then x.1.badData r else x.1, x.2.1)

/-- Ends a hold (R101). -/
def Room.endHold (r : Room) : Room := { r with stop := .none }

/-- The line of a window becomes resident with the bytes given (R105). -/
def State.fillWindow (s : State) (x : Room) (w : Window) (line : Nat) (bytes : List Byte) : State :=
  let a := w.base + 256 * line
  (s.heal x ((List.range 256).map (a + ·))).onRoom x.id fun y =>
    ({ y with scratch := Memory.putAll y.scratch (cellsAt a bytes),
              windows := mapIf (fun v => v.num == w.num) (fun v => { v with resident := line :: v.resident }) y.windows }).endHold

/-- `WINDOW_FILL` (R105): at its position in the room's order (R139, R126, R127). -/
def execWindowFill (r : RoomId) (s : State) : Host.Outcome State Fault Refusal :=
  .next (match s.room? r with
    | none => s
    | some x =>
      match x.stop with
      | .hold (.window n line) =>
        (match x.window? n with
         | none => s.onRoom r Room.endHold
         | some w =>
           let va := va52 (w.gva + 256 * line : Nat)
           if s.accessHeld x false ((List.range 256).map (va + ·)) || x.owesFrom (w.base + 256 * line) 256 then s
           else
           let t := s.reachFresh x (.windowFill r) va 256 .read
           match t.2 with
           | .ok l =>
             let b := t.1.fillBytes x l
             b.1.fillWindow x w line b.2
           | .fault c sub => t.1.fillFault r c sub va .read
           | .remote l => t.1.askPeers l
           | _ => t.1)
      | _ => s)

/-- R101: the global address of an overflow line. -/
def Room.overflowVa (r : Room) (line : Nat) : Nat :=
  va52 (bitsOf r.atticOvf.toNat 51 16 * 65536 + 256 * line : Nat)

/-- `ATTIC_OVERFLOW_FILL` (R101, R184). -/
def execAtticOverflowFill (r : RoomId) (s : State) : Host.Outcome State Fault Refusal :=
  .next (match s.room? r with
    | none => s
    | some x =>
      match x.stop with
      | .hold (.overflow line) =>
        if s.accessHeld x false ((List.range 256).map (x.overflowVa line + ·)) then s
        else
        let t := s.reachFresh x (.atticOverflowFill r) (x.overflowVa line) 256 .read
        (match t.2 with
         | .ok l =>
           let b := t.1.fillBytes x l
           b.1.onRoom r fun y =>
             let z : Room := { y with overflow := y.overflow ++ [{ num := line, bytes := b.2, dirty := false }] }
             z.endHold
         | .fault c sub => t.1.fillFault r c sub (x.overflowVa line) .read
         | .remote l => t.1.askPeers l
         | _ => t.1)
      | _ => s)

/-! ### Landings and the end of a room (R157, R204) -/

/-- The operations in flight make the accesses of this issue cycle (R211, R245). -/
def Room.runFlights (r : Room) (k : Core) : Room :=
  let x : Room × List Flight := r.ctx.flights.foldl (fun (acc : Room × List Flight) f =>
    let y := if f.slot = 2 then vRun acc.1 k f else mRun acc.1 k f
    (y.1, acc.2 ++ y.2.toList)) (r, [])
  let z : Room := x.1
  { z with ctx.flights := x.2 }

/-- The start of an issue cycle: the landings due, then the accesses of operations in flight (R157, R211). -/
def Room.beginCycle (r : Room) (k : Core) : Room :=
  let x : Room := { r with ports := [], eccHits := [] }
  x.landDue.runFlights k

/-- R156, R31: in a cycle of a room that waits at a barrier only V and M operations go on: every other result, and every
redirection, stays latched with its offset; one whose register such an operation would have written after it is not seen
again (R157, log 32). -/
def Room.keepLatched (r : Room) : Room :=
  let c := r.ctx
  let later (n : Nat) : Nat := n + 1
  { r with ctx := { c with
      landings := c.landings.map fun l =>
        if l.slot = 2 || l.slot = 3 then l
        else
          let replaced := c.landings.any fun v => (v.slot == 2 || v.slot == 3) && v.due == l.due && sameReg l.val v.val
          { l with due := later l.due, val := if replaced then .flagsOnly else l.val }
      redirects := c.redirects.map fun d => { d with due := later d.due }
      latchDue := c.latchDue.map fun n => if n.2 then n else (later n.1, false)
      phaseStart := later c.phaseStart } }

/-- A cycle in which a room that has issued `halt`, or waits at a barrier with a V or M operation that has not landed,
issues nothing while its results land (R204, R31). -/
def Room.emptyCycle (r : Room) (k : Core) : Room :=
  let x := (if r.life = .running then r.keepLatched else r).beginCycle k
  let y : Room :=
    { x with ctx.ic := x.ctx.ic + 1, ctx.redirects := x.ctx.redirects.filter fun d => decide (x.ctx.ic + 1 ≤ d.due) }
  y.landStores

/-- Such a cycle, or the hold for a line that an operation in flight needs in it (R105). -/
def Room.drainCycle (r : Room) (k : Core) : Room :=
  let x := r.emptyCycle k
  match x.miss with
  | some m => { r.latchAll with stop := .hold m }
  | none => x

/-- Whether such a cycle is due for a room. -/
def Room.drains (r : Room) : Bool :=
  r.stop == .none && r.ctx.due.isEmpty &&
  ((r.life == .halting && (!r.ctx.flights.isEmpty || !r.ctx.landings.isEmpty)) ||
   (match r.ctx.wait with | .dbar _ _ => r.life == .running && r.unlanded | _ => false))

/-- R204: nothing of a halting room is outstanding but its write-backs. What a handler that halts has set aside is not waited for
and does not land (DESIGN CHOICE, log 80). -/
def Room.mayHalt (r : Room) : Bool :=
  r.life == .halting && r.stop == .none && r.ctx.due.isEmpty && r.ctx.flights.isEmpty && r.ctx.landings.isEmpty &&
  r.ctx.xq.all fun e => !(e.isCard || e.isPut)

/-- The dirty bytes of a room: of its windows and of its overflow lines (R105, R101). -/
def Room.dirtyBytes (r : Room) : List (Nat × Nat) := r.windows.flatMap Window.dirty ++ r.overflowDirty

/-- The room once the dirty bytes with the addresses given have been written back. -/
def Room.flushed (r : Room) (done : List Nat) : Room :=
  { r with windows := r.windows.map fun w => { w with written := (w.dirty.filter fun x => !done.contains x.1).map Prod.snd }
           overflow := r.overflow.map fun l =>
             { l with dirty := l.dirty && (List.range 256).any fun i => !done.contains (va52 (r.overflowVa l.num + i : Nat)) } }

/-- What a write-back of dirty bytes comes to: made, tried again later, or a fault at an address. -/
inductive Flush where
  | made | waits | fault (code sub va : Nat)
  deriving DecidableEq, Repr

/-- Dirty bytes of a room are written back by an event that is tried again when a restow holds or refuses one (R407, R408);
those written before that stand. -/
def State.flushDirty (s : State) (x : Room) (dirty : List (Nat × Nat)) (event : Instr) : State × Flush :=
  let refuse (t : State) (die gen va : Nat) : State × Flush :=
    let y := t.refuseRoom x die gen va .write
    (y.1, if y.2 then .waits else .fault 0x21 0 va)
  match s.heldNow x.heldBy with
  | .still => (s, .waits)
  | .refused die gen => refuse s die gen ((dirty.map Prod.fst).headD 0)
  | .free =>
    let b := s.sourceBytes x dirty
    let w := b.1.writeBack x b.2
    let left := w.2.1.map Prod.fst
    let t := w.1.onRoom x.id fun y =>
      { y.flushed ((dirty.map Prod.fst).filter fun a => !left.contains a) with heldBy := none }
    match w.2.2 with
    | none => (t, .made)
    | some (.fault c sub) => (t, .fault c sub (left.headD 0))
    | some (.refused die gen) => refuse t die gen (left.headD 0)
    | some (.held (some h)) => (t.holdRoom x h event, .waits)
    | some _ => (t, .waits)

/-- `ROOM_HALTED`: the write-backs are made, after the room's earlier accesses to their bytes and the fences that hold them
(R126, R127, R139), and the room is halted (R204, R105, R101). -/
def execRoomHalted (r : RoomId) (s : State) : Host.Outcome State Fault Refusal :=
  .next (match s.room? r with
    | none => s
    | some x =>
      if !x.mayHalt || (!x.dirtyBytes.isEmpty && s.accessHeld x true (x.dirtyBytes.map Prod.fst)) then s
      else
        match s.flushDirty x x.dirtyBytes (.roomHalted r) with
        | (t, .made) => (t.onRoom r fun y => { y with life := .halted }).ensure x.core
        | (t, .fault c sub va) => t.fillFault r c sub va .write
        | (t, .waits) => t)

end Sys2Proof.Machine
end

