-- ==== Sys2Proof/Machine/Health.lean ====
section
/-! DEFINITION. Scratchpad banks in error, the error counters and the accounting of core cycles (04, R97 to R99; 21,
R427, R428, R432, R434, R435). -/

namespace Sys2Proof.Machine

/-- One second in units of TB:TBF. -/
def tbSecond : Nat := 10 ^ 9 * 2 ^ 16

/-! ### Failed banks (R98) -/

/-- R98, R428: a bank is marked failed, counted up to 2 and reported; the second of a core is reported as a degraded core. -/
def State.failBank (s : State) (core bank : Nat) : State :=
  if (s.coreOf core).failed.contains bank || (s.core? core).isNone then s
  else
    let s1 := s.onCore core fun k => { k with failed := bank :: k.failed }
    let n := coreCounter core 0x0B
    let s2 := (if assocGet s1.counters n 0 < 2 then s1.count n 1 else s1).post (.bank core bank)
    if (s1.coreOf core).failed.length = 2 then s2.post (.degraded core) else s2

/-- R98: a corrected error of a bank at the core's present TB; 64 within one second fail the bank. -/
def State.correctedError (s : State) (core bank : Nat) : State :=
  let k := s.coreOf core
  let recent := (bank, k.tb) :: k.corrected.filter fun x => decide (k.tb < x.2 + tbSecond)
  let s1 := s.onCore core fun k => { k with corrected := recent }
  if 64 ≤ (recent.filter fun x => x.1 == bank).length then s1.failBank core bank else s1

/-- R97, R428: counts the reads that the check of the room's core found in error. -/
def State.flushEcc (s : State) : State :=
  let r := s.me
  if r.eccHits.isEmpty then s
  else
    let hits := r.eccHits.foldl (fun (l : List (Nat × Nat × Bool)) h => if l.contains h then l else l ++ [h]) []
    let bad := hits.filter fun h => h.2.2
    let good := hits.filter fun h => !h.2.2
    let k := s.coreOf r.core
    let banks := good.flatMap fun h => k.mended h.1 h.2.1
    let s1 := ((s.count (coreCounter r.core 0x08) good.length).count (coreCounter r.core 0x09) bad.length).count
      (coreCounter r.core 0x0A) bad.length
    let s2 := banks.foldl (fun s b => s.correctedError r.core b) s1
    { s2 with me := { s2.me with eccHits := [] } }

/-! ### Landings (R157, R379, R99) -/

/-- The byte addresses that the landings due in this cycle write (R99). -/
def Ctx.landingBytes (c : Ctx) : List Nat :=
  (c.landings.filter fun l => decide (l.due ≤ c.ic)).flatMap fun l =>
    match l.val with | .bytes cells => cells.map Prod.fst | .store cells => cells.map Prod.fst | _ => []

/-- An empty counted cycle of the room that `me` is, with the errors that its whole-word writes clear and the reads that its
check counts (R97 to R99). -/
def State.drainTurn (s : State) : State :=
  let s1 := s.flushEcc.heal s.me s.me.ctx.landingBytes
  State.flushEcc { s1 with me := s1.me.drainCycle (s1.coreOf s1.me.core) }

/-- `LANDING`: results due in the room's present issue cycle land (R157, R379). -/
def execLanding (r : RoomId) (s : State) : Host.Outcome State Fault Refusal :=
  .next (
    let t := s.focus r
    let x := t.me
    if x.id != r || x.life == .absent then s
    else if x.drains then t.drainTurn
    else if x.life == .running && x.stop == .none && x.ctx.wait == .none && x.ctx.due.isEmpty then
      (t.heal x x.ctx.landingBytes).onRoom r Room.landDue
    else s)

/-! ### Matrix-cycle accounting (R434) -/

/-- R434: the class of an M operation's occupancy: 0 COMPUTE, 1 SILL, 2 DRAIN. -/
def mClass : Instr → Option Nat
  | .mmul _ | .mmac _ | .mslice _ | .mscale _ | .mzero _ | .mrel _ | .qclr _ | .qfma _ | .qdot _ | .qadd _
  | .qsub _ | .qneg _ | .qround _ => some 0
  | .msill _ | .msplit _ | .mload _ => some 1
  | .mround _ | .msave _ => some 2
  | _ => none

/-- The bundle that stands for a room when no operation is charged: its last M operation in the phase, else the bundle
that began the phase. -/
def Room.macctBundle (r : Room) : DWord := r.lastM.getD r.phasePc

/-- R434, R243: the bundle of an operation whose tile has not landed. -/
def Room.pendingWriter (r : Room) : Option DWord :=
  match r.ctx.flights.find? fun f => f.tile.isSome && decide (r.ctx.ic < f.c0 + f.lat) with
  | some f => some f.pc
  | none => r.ctx.landings.findSome? fun l => match l.val with
    | .tile t => if r.ctx.ic < l.due then some t.writer else none
    | _ => none

/-- R434: class and bundle of a cycle of the resident room; `m` is the M operation of the bundle issued in it, and `awaits`
whether the room is held as class 3 says. -/
def Room.macctOf (r : Room) (m : Option Instr) (awaits : Bool) : DWord × Nat :=
  let c := r.ctx.ic
  let running := r.ctx.flights.find? fun f => f.slot == 3 && (mClass f.op).isSome && decide (f.c0 ≤ c) && decide (c < f.c0 + f.occ)
  match running.bind (fun f => (mClass f.op).map fun k => (f.pc, k)), m.bind mClass with
  | some x, _ => x
  | none, some k => (r.ctx.pc, k)
  | none, none =>
    match r.pendingWriter with
    | some b => (b, 2)
    | none => if awaits then (r.macctBundle, 3) else (r.macctBundle, 4)

/-- R434: one charge to the 64-entry table of a core. -/
def chargeMacct (l : List (DWord × Nat × Nat)) (b : DWord) (cls : Nat) : List (DWord × Nat × Nat) :=
  let has (b : DWord) : Bool := l.any fun e => e.1 == b && e.2.1 == cls
  let add (b : DWord) : List (DWord × Nat × Nat) :=
    mapIf (fun e => e.1 == b && e.2.1 == cls) (fun e => (e.1, e.2.1, e.2.2 + 1)) l
  if has b then add b
  else if l.length < 64 then l ++ [(b, cls, 1)]
  else if has 0 then add 0 else l ++ [(0, cls, 1)]

/-- R434: whether a core keeps its table. -/
def State.macctOn (s : State) (core : Nat) : Bool :=
  match s.trace with
  | some t => t.on && decide (core < 128) && t.args.cores.getLsbD (core % 128) && t.args.options.getLsbD 9
  | none => false

/-- R428, R434: charges one core cycle of the matrix engine. -/
def State.chargeCycle (s : State) (core : Nat) (x : DWord × Nat) : State :=
  let s1 := s.count (coreCounter core x.2) 1
  if s.macctOn core then s1.onCore core fun k => { k with macct := chargeMacct k.macct x.1 x.2 } else s1

/-- R432: a SAMPLE record of the bundle that issues, when ISSUE is a multiple of 2^SP. -/
def State.sample (s : State) (r : Room) : State :=
  let n := assocGet s.counters (coreCounter r.core 0x05) 0
  match s.trace with
  | some t =>
    let sp := bitsOf t.args.options.toNat 4 0
    (match (List.range 5).find? (fun b => sp.testBit b) with
     | some b => if n % 2 ^ sp = 0 then s.traceRec r.core 0x01 b r r.ctx.pc n else s
     | none => s)
  | none => s

/-- The counts of one issue cycle (R428, R432, R434). -/
def State.countIssue (s : State) (r : Room) (m : Option Instr) : State :=
  ((s.count (coreCounter r.core 0x05) 1).sample r).chargeCycle r.core (r.macctOf m false)

/-- R434: the cycle of a room's turn in which it traps and issues nothing. -/
def State.chargeTurn (s : State) (r : Room) : State :=
  if (s.coreOf r.core).resident = some r.id then s.chargeCycle r.core (r.macctOf none false) else s

/-! ### Core cycles in which nothing issues (R428, R434, R444) -/

/-- R444: the power hold of the present cycle of a core of this package, from which rooms with the time privilege are exempt until a sample
has exceeded 1,500 W. -/
def State.powerHeld (s : State) (k : Core) (r : Option Room) : Bool :=
  decide (pkgOf k.num = 0) && decide (k.powerPhase < s.power.holdH) &&
  (match r with | some r => !r.timePriv || s.power.excursion | none => true)

/-- R434: a room held as class 3 says. -/
def Room.awaits (r : Room) : Bool :=
  r.ctx.wait != .none || (match r.stop with | .hold (.window _ _) => true | .hold (.overflow _) => true | _ => false)

/-- The counts of a core cycle in which the resident room is held or there is none. -/
def State.countHeld (s : State) (core : Nat) (r : Option Room) (power : Bool) : State :=
  match r with
  | none => s.chargeCycle core (0, 4)
  | some r =>
    let frozen := match r.stop with | .none => false | .hold _ => false | _ => true
    let s1 := if frozen || r.life != .running then s else s.count (coreCounter core 0x06) 1
    s1.chargeCycle core (if power then (r.macctBundle, 4) else r.macctOf none (!frozen && r.awaits))

/-! ### Where a pre-emption lands (R336, R374) -/

/-- R199: a repeat is armed or in progress; the boundary after the bundle that armed it counts as inside it (DESIGN CHOICE,
log 80). -/
def Ctx.inRepeat (c : Ctx) : Bool := decide (repRem c.repc ≠ 0) || c.repZero

/-- R374: the room stands at a point of the mode it was asked to stop for: after a bundle with SP set, after such a
bundle or an iteration end, or at any boundary, or it waits; never inside a repeat, nor before a collective that it was
released to issue (R376). -/
def Room.atStopPoint (r : Room) : Bool :=
  !r.ctx.inRepeat && (r.owes.all fun x => decide (x.2 < r.ctx.collCount.getD x.1 0)) &&
  (match r.stopAsked with
   | none => false
   | some m => r.ctx.wait != .none || (match m with
     | .drain => r.spHere
     | .save => r.stopHere
     | .discard => true))

/-- R374: the room stops for its pre-emption. -/
def Room.preemptHere (tb : Nat) (r : Room) : Room :=
  { r.latchAll with stop := .preempted, stopAsked := none, owes := [], stopTb := tb }

/-! ### The trigger of the counters (R430) -/

/-- R430, R43: TB at a die: of a floor, that of its first core; of the hall and the lockhouses, their own. -/
def State.dieTb (s : State) (die : Nat) : Nat :=
  if die < 4 then (s.coreOf (32 * die)).tb else if die = 4 then s.hall.tb else s.lockTb.getD (die - 5) s.hall.tb

/-- R430: a die that has not fired copies its counters; when every die has, the set is complete. -/
def State.fireDie (s : State) (t die : Nat) : State :=
  if s.fired.any fun x => x.1 == die then s
  else
    let fired := s.fired ++ [(die, s.counters.filter fun c => c.1 / 2 ^ 16 == die)]
    if fired.length = 13 then { s with shadow := some (t, fired.flatMap Prod.snd), armed := none, fired := [] }
    else { s with fired := fired }

/-- R430: in the first core cycle in which its TB is at least T a die copies its counters, before any event of that cycle. -/
def State.triggerDies (s : State) : State :=
  match s.armed with
  | none => s
  | some a =>
    ((List.range 13).filter fun d => !a.late.contains d && decide (a.t ≤ s.dieTb d / 2 ^ 16)).foldl (fun s d => s.fireDie a.t d) s

/-! ### Error events (R435) -/

/-- R428: the counters of errors. -/
def isErrorIndex (n : Nat) : Bool :=
  n = 0x08 || n = 0x09 || n = 0x0A || n = 0x0B || n = 0x40 || n = 0x41 || n = 0x42 || n = 0x50 || n = 0x51

/-- R435: an ERR event of a die whose error counters changed, at most once per second. -/
def State.errEvent (s : State) (die : Nat) : State :=
  let now := s.hall.tb / 2 ^ 16
  let due := match s.errLast.find? fun x => x.1 == die with | some x => decide (x.2 + 10 ^ 9 ≤ now) | none => true
  let changed := s.counters.filter fun c =>
    c.1 / 2 ^ 16 == die && isErrorIndex (c.1 % 256) && assocGet s.errSeen c.1 0 != c.2
  if !due || changed.isEmpty then s
  else
    let s1 := s.post (.err die changed)
    { s1 with errLast := assocSet s1.errLast die now, errSeen := changed.foldl (fun l c => assocSet l c.1 c.2) s1.errSeen }

def State.errEvents (s : State) : State := (List.range 13).foldl State.errEvent s

end Sys2Proof.Machine
end

