-- ==== Sys2Proof/Machine/Sha.lean ====
section
/-! DEFINITION. SHA-384 of a byte list (FIPS 180-4), which the manual names for DATAHASH, PAGEHASH and the measurement
blocks (16, R339, R341, R357; 21, R440). -/

namespace Sys2Proof.Machine

/-- The round constants: fractions of the cube roots of the first eighty primes. -/
def shaK0 : List DWord := [0x428A2F98D728AE22, 0x7137449123EF65CD, 0xB5C0FBCFEC4D3B2F, 0xE9B5DBA58189DBBC,
  0x3956C25BF348B538, 0x59F111F1B605D019, 0x923F82A4AF194F9B, 0xAB1C5ED5DA6D8118, 0xD807AA98A3030242,
  0x12835B0145706FBE, 0x243185BE4EE4B28C, 0x550C7DC3D5FFB4E2, 0x72BE5D74F27B896F, 0x80DEB1FE3B1696B1,
  0x9BDC06A725C71235, 0xC19BF174CF692694]
def shaK1 : List DWord := [0xE49B69C19EF14AD2, 0xEFBE4786384F25E3, 0x0FC19DC68B8CD5B5, 0x240CA1CC77AC9C65,
  0x2DE92C6F592B0275, 0x4A7484AA6EA6E483, 0x5CB0A9DCBD41FBD4, 0x76F988DA831153B5, 0x983E5152EE66DFAB,
  0xA831C66D2DB43210, 0xB00327C898FB213F, 0xBF597FC7BEEF0EE4, 0xC6E00BF33DA88FC2, 0xD5A79147930AA725,
  0x06CA6351E003826F, 0x142929670A0E6E70]
def shaK2 : List DWord := [0x27B70A8546D22FFC, 0x2E1B21385C26C926, 0x4D2C6DFC5AC42AED, 0x53380D139D95B3DF,
  0x650A73548BAF63DE, 0x766A0ABB3C77B2A8, 0x81C2C92E47EDAEE6, 0x92722C851482353B, 0xA2BFE8A14CF10364,
  0xA81A664BBC423001, 0xC24B8B70D0F89791, 0xC76C51A30654BE30, 0xD192E819D6EF5218, 0xD69906245565A910,
  0xF40E35855771202A, 0x106AA07032BBD1B8]
def shaK3 : List DWord := [0x19A4C116B8D2D0C8, 0x1E376C085141AB53, 0x2748774CDF8EEB99, 0x34B0BCB5E19B48A8,
  0x391C0CB3C5C95A63, 0x4ED8AA4AE3418ACB, 0x5B9CCA4F7763E373, 0x682E6FF3D6B2B8A3, 0x748F82EE5DEFB2FC,
  0x78A5636F43172F60, 0x84C87814A1F0AB72, 0x8CC702081A6439EC, 0x90BEFFFA23631E28, 0xA4506CEBDE82BDE9,
  0xBEF9A3F7B2C67915, 0xC67178F2E372532B]
def shaK4 : List DWord := [0xCA273ECEEA26619C, 0xD186B8C721C0C207, 0xEADA7DD6CDE0EB1E, 0xF57D4F7FEE6ED178,
  0x06F067AA72176FBA, 0x0A637DC5A2C898A6, 0x113F9804BEF90DAE, 0x1B710B35131C471B, 0x28DB77F523047D84,
  0x32CAAB7B40C72493, 0x3C9EBE0A15C9BEBC, 0x431D67C49C100D4C, 0x4CC5D4BECB3E42B6, 0x597F299CFC657E2A,
  0x5FCB6FAB3AD6FAEC, 0x6C44198C4A475817]
def shaK : List DWord := shaK0 ++ shaK1 ++ shaK2 ++ shaK3 ++ shaK4

/-- A chaining value of eight words. -/
structure Sha where
  a : DWord
  b : DWord
  c : DWord
  d : DWord
  e : DWord
  f : DWord
  g : DWord
  h : DWord
  deriving DecidableEq, Repr

/-- The initial value of SHA-384. -/
def Sha.init : Sha :=
  { a := 0xCBBB9D5DC1059ED8, b := 0x629A292A367CD507, c := 0x9159015A3070DD17, d := 0x152FECD8F70E5939,
    e := 0x67332667FFC00B31, f := 0x8EB44A8768581511, g := 0xDB0C2E0D64F98FA7, h := 0x47B5481DBEFA4FA4 }

def shaS0 (x : DWord) : DWord := x.rotateRight 28 ^^^ x.rotateRight 34 ^^^ x.rotateRight 39
def shaS1 (x : DWord) : DWord := x.rotateRight 14 ^^^ x.rotateRight 18 ^^^ x.rotateRight 41
def shaG0 (x : DWord) : DWord := x.rotateRight 1 ^^^ x.rotateRight 8 ^^^ (x >>> 7)
def shaG1 (x : DWord) : DWord := x.rotateRight 19 ^^^ x.rotateRight 61 ^^^ (x >>> 6)

/-- The message schedule, latest word first. -/
def shaExtend : Nat → List DWord → List DWord
  | 0, w => w
  | n + 1, w => shaExtend n ((shaG1 (w.getD 1 0) + w.getD 6 0 + shaG0 (w.getD 14 0) + w.getD 15 0) :: w)

/-- One round. -/
def Sha.round (s : Sha) (x : DWord × DWord) : Sha :=
  let t1 := s.h + shaS1 s.e + ((s.e &&& s.f) ^^^ (~~~s.e &&& s.g)) + x.1 + x.2
  let t2 := shaS0 s.a + ((s.a &&& s.b) ^^^ (s.a &&& s.c) ^^^ (s.b &&& s.c))
  { a := t1 + t2, b := s.a, c := s.b, d := s.c, e := s.d + t1, f := s.e, g := s.f, h := s.g }

/-- The big-endian natural of a byte list. -/
def beNat (l : List Byte) : Nat := l.foldl (fun n b => n * 256 + b.toNat) 0

/-- One block of 128 bytes. -/
def Sha.block (s : Sha) (bytes : List Byte) : Sha :=
  let w := ((piecesOf 8 16 bytes).map fun l => BitVec.ofNat 64 (beNat l)).reverse
  let r := (shaK.zip (shaExtend 64 w).reverse).foldl Sha.round s
  { a := s.a + r.a, b := s.b + r.b, c := s.c + r.c, d := s.d + r.d, e := s.e + r.e, f := s.f + r.f, g := s.g + r.g,
    h := s.h + r.h }

/-- The padded message. -/
def shaPad (m : List Byte) : List Byte :=
  m ++ [0x80] ++ List.replicate ((239 - m.length % 128) % 128) 0 ++ (toBytes 16 (8 * m.length)).reverse

/-- The 48 bytes of the digest as one big-endian natural. -/
def sha384 (m : List Byte) : Nat :=
  let p := shaPad m
  let s := (piecesOf 128 (p.length / 128) p).foldl Sha.block Sha.init
  [s.a, s.b, s.c, s.d, s.e, s.f].foldl (fun n x => n * 2 ^ 64 + x.toNat) 0

end Sys2Proof.Machine
end

