-- ==== Sys2Proof/Machine/Command.lean ====
section
/-! DEFINITION. Command sessions and the order of their commands (20, R412 to R415), and the hall's own reads and writes
of global memory (19, R402). -/

namespace Sys2Proof.Machine

/-! ### Replies (R413) -/

/-- What a command answers: STATUS, words and bytes. -/
structure Answer where
  status : Nat
  data : List Nat
  bytes : List Byte
  deriving DecidableEq, Repr

def Answer.done : Answer := { status := 0, data := [], bytes := [] }
def Answer.words (l : List Nat) : Answer := { status := 0, data := l, bytes := [] }
def Answer.code (n : Nat) : Answer := { status := n, data := [], bytes := [] }
/-- STATUS 1 refused, 3 not privileged, 4 busy, 5 malformed (R413). -/
def Answer.refused : Answer := .code 1
def Answer.denied : Answer := .code 3
def Answer.busy : Answer := .code 4
def Answer.malformed : Answer := .code 5

/-- R412: the privilege bits. -/
def privNone : Nat := 0
def privAdmin : Nat := 1
def privTime : Nat := 2
def privDebug : Nat := 4

def State.session? (s : State) (n : Nat) : Option Session := s.sessions.find? fun x => x.num == n
def State.onSession (s : State) (n : Nat) (f : Session → Session) : State :=
  { s with sessions := mapIf (fun x => x.num == n) f s.sessions }

/-! ### Datagrams (R411, R413, R415) -/

/-- R411: the EtherType of IPv6, and the IP MTU of the host port. -/
def ipv6EtherType : BitVec 16 := 0x86DD
def hostMtu : Nat := 9000

/-- R411: the four kinds of traffic of the host port. -/
inductive HostTraffic where
  | command | management | memoryWindow | ptp
  deriving DecidableEq, Repr

/-- R411: the kind of traffic of a UDP destination port. -/
def hostTraffic (udpPort : Nat) : Option HostTraffic :=
  if udpPort = 20289 then some .command
  else if udpPort = 20290 then some .management
  else if udpPort = 4791 then some .memoryWindow
  else if udpPort = 319 || udpPort = 320 then some .ptp
  else none

/-- R411: what a frame carries: an IPv6 packet within the MTU, by its UDP destination port. -/
def HostFrame.traffic (f : HostFrame) : Option HostTraffic :=
  if f.etherType = ipv6EtherType && f.ipBytes ≤ hostMtu then f.udpPort.bind hostTraffic else none

/-- R415: the OPCODE of a command. -/
def commandOpcode : Instr → Option Nat
  | .load _ _ _ _ _ => some 0x0001 | .unload _ _ => some 0x0002 | .launch _ _ _ => some 0x0003
  | .basincfg _ _ _ _ => some 0x0004 | .preempt _ _ _ _ => some 0x0005 | .kill _ _ => some 0x0006
  | .resume _ _ => some 0x0007 | .resumeH _ _ _ => some 0x0007 | .ctxread _ _ => some 0x0008
  | .ctxwrite _ _ _ => some 0x0009 | .dump _ _ => some 0x000A | .dumparea _ _ _ _ => some 0x000B
  | .debugStop _ _ => some 0x000C | .debugStep _ _ => some 0x000C | .debugBkpt _ _ _ _ => some 0x000C
  | .debugWatch _ _ _ _ _ _ => some 0x000C | .debugResume _ _ => some 0x000C | .pagein _ _ => some 0x000D
  | .faultFatal _ _ => some 0x000E | .asidset _ _ _ _ _ => some 0x0010 | .ptewrite _ _ _ _ _ => some 0x0011
  | .shootdown _ _ _ => some 0x0012 | .restow _ _ _ _ => some 0x0013 | .restowcancel _ _ => some 0x0014
  | .handlereg _ _ _ => some 0x0015 | .winopen _ _ _ _ _ => some 0x0018 | .winclose _ _ => some 0x0019
  | .aclset _ _ _ _ => some 0x001A | .evqset _ _ _ _ _ _ => some 0x001B | .linkroute _ _ _ _ => some 0x001C
  | .tbref _ _ => some 0x001D | .arm _ _ => some 0x001E | .read _ _ _ => some 0x001E
  | .tracecfg _ _ => some 0x001E | .tracestop _ => some 0x001E
  | .malformedCommand _ opcode => some opcode.toNat
  | _ => none

/-- R415: the OPCODEs of the table. -/
def opcodeKnown (n : Nat) : Bool :=
  (decide (0x01 ≤ n) && decide (n ≤ 0x0E)) || (decide (0x10 ≤ n) && decide (n ≤ 0x15)) || (decide (0x18 ≤ n) && decide (n ≤ 0x1E))

/-- R413: the header of a command datagram. -/
structure CmdHeader where
  opcode : Nat
  reply : Bool
  session : Nat
  seq : Nat
  len : Nat
  status : Nat
  deriving DecidableEq, Repr

/-- R413: MAGIC, in the order of its bytes. -/
def cmdMagic : List Byte := [0x4F, 0x43, 0x50, 0x1A]

/-- R413: the most bytes of a payload: what the MTU leaves beside the IPv6 and UDP headers, the header and the tag. -/
def maxPayload : Nat := 8904

/-- R413: the 32 bytes of a header. -/
def CmdHeader.bytes (h : CmdHeader) : List Byte :=
  cmdMagic ++ toBytes 2 h.opcode ++ toBytes 2 (b2n h.reply) ++ toBytes 4 h.session ++ toBytes 4 h.seq ++ toBytes 4 h.len ++
    toBytes 2 h.status ++ toBytes 10 0

/-- A little-endian field of a byte list. -/
def leField (b : List Byte) (off n : Nat) : Nat := fromBytes ((b.drop off).take n)

/-- R413: the header that 32 bytes spell, none where they break its layout. -/
def CmdHeader.parse (b : List Byte) : Option CmdHeader :=
  if b.length = 32 && b.take 4 == cmdMagic && decide (leField b 6 2 ≤ 1) && decide (leField b 0x10 4 ≤ maxPayload) && leField b 0x16 10 == 0 then
    some { opcode := leField b 4 2, reply := leField b 6 2 == 1, session := leField b 8 4, seq := leField b 0xC 4,
           len := leField b 0x10 4, status := leField b 0x14 2 }
  else none

/-- The payload of a reply: its words of 8 B, then its bytes (DESIGN CHOICE, log 82). -/
def CmdReply.payload (r : CmdReply) : List Byte := r.data.flatMap (toBytes 8) ++ r.bytes

/-- R413: the datagram of a reply before it is sealed: FLAGS.REPLY set, with its STATUS. -/
def CmdReply.datagram (session : Nat) (r : CmdReply) : List Byte :=
  CmdHeader.bytes { opcode := r.opcode, reply := true, session := session, seq := r.seq, len := r.payload.length, status := r.status } ++
    r.payload

/-! ### The order of a session (R412, R414) -/

/-- The reply to a command. -/
def CmdReply.to (h : CmdHdr) (i : Instr) (a : Answer) : CmdReply :=
  { opcode := (commandOpcode i).getD 0, seq := h.seq, status := a.status, data := a.data, bytes := a.bytes }

/-- R414: records and sends the reply of the command just executed, and lets the held command that follows execute. -/
def State.recordReply (s : State) (h : CmdHdr) (i : Instr) (a : Answer) : State :=
  let rep := CmdReply.to h i a
  let next := match s.session? h.session with
    | some x => (x.held.filter fun y => y.1 == h.seq + 1).map Prod.snd
    | none => []
  let s1 := s.onSession h.session fun x =>
    { x with e := h.seq, replies := (rep :: x.replies).take 256, held := x.held.filter fun y => y.1 != h.seq + 1 }
  { s1 with sent := s1.sent ++ [(h.session, rep)], agenda := next ++ s1.agenda }

/-- R412: a session that holds every privilege a command needs. -/
def Session.may (x : Session) (need : Nat) : Bool := x.privs &&& need == need

/-- A command datagram (R412 to R414): executed in SEQ order, sent again, answered as stale, held, or dropped. A datagram
of no open session fails its tag. -/
def State.command (s : State) (h : CmdHdr) (i : Instr) (need : Nat) (body : State → Session → State × Answer) : State :=
  match s.session? h.session with
  | none => s.count (hallCounter 0x31) 1
  | some x =>
    if h.seq = x.e + 1 then
      let r := if x.may need then body s x else (s, Answer.denied)
      r.1.recordReply h i r.2
    else if h.seq ≤ x.e && decide (x.e ≤ h.seq + 255) then
      match x.replies.find? fun y => y.seq == h.seq with
      | some y => { s with sent := s.sent ++ [(h.session, y)] }
      | none => s
    else if h.seq ≤ x.e then
      { s with sent := s.sent ++ [(h.session, CmdReply.to h i (.code 2))] }
    else if h.seq ≤ x.e + 64 then
      if x.held.any fun y => y.1 == h.seq then s
      else s.onSession h.session fun x => { x with held := x.held ++ [(h.seq, i)] }
    else s.count (hallCounter 0x31) 1

/-- The meaning of a command. -/
def cmdOp (h : CmdHdr) (i : Instr) (need : Nat) (body : State → Session → State × Answer) (s : State) :
    Host.Outcome State Fault Refusal :=
  .next (s.command h i need body)

/-! ### Reads and writes by the hall (R402, R124) -/

/-- R124: the remote peers, and the host with the writes of its commands. -/
def peerAgent : Nat := 14
def hostAgent : Nat := 15

/-- R410, R408: a home refuses the place, which a restow has moved away; a fresh walk that still names it is a fault. -/
def State.gone (s : State) (w pa : Nat) : Bool :=
  s.movedAway w pa || (match s.restowOf w pa with | some r => r.step == .flipped | none => false)

/-- The berth and physical address of a virtual byte for an access by the hall. -/
def State.hallPlace (s : State) (asid va : Nat) (k : AccessKind) : Option (Nat × Nat) :=
  match s.walk asid (va % 2 ^ 52) k with
  | .ok pa w _ _ _ => if berthTier w = 2 || (placeOf w pa).isNone || s.gone w pa then none else some (w, pa)
  | .fault _ _ => none

/-- Bytes of an address space as the hall reads them; none when a byte is not mapped readable here, or its line is
poisoned or in error (log 21). -/
def State.hallRead (s : State) (asid va n : Nat) : Option (List Byte) :=
  (List.range n).mapM fun i =>
    match s.hallPlace asid (va + i) .read with
    | some (w, pa) => if s.gPoisoned w pa || s.gFailing w pa then none else some (s.gByte w pa)
    | none => none

/-- R124: the hall's walks for a run of bytes, whose replies carry clocks. -/
def State.hallWalks (s : State) (asid va n : Nat) : State :=
  (((List.range n).map fun i => (va + i) / 65536).eraseDups).foldl (fun s p => s.walkClock 4 asid (p * 65536 % 2 ^ 52)) s

/-- R124, R428, R446: what the hall's read of a run of bytes leaves: the clocks of the replies, and the errors found and
counted. -/
def State.hallMeets (s : State) (asid va n : Nat) : State :=
  let l := (List.range n).filterMap fun i => s.hallPlace asid (va + i) .read
  ((s.hallWalks asid va n).clockReplies hallAgent l).discover l

/-- Bytes that the hall writes into an address space; false and nothing when a byte is not mapped writable. -/
def State.hallWrite (s : State) (asid va : Nat) (bytes : List Byte) : State × Bool :=
  match (bytes.zipIdx).mapM fun b => (s.hallPlace asid (va + b.2) .write).map fun x => (x.1, x.2, b.1) with
  | some l => ((s.hallWalks asid va bytes.length).gWrite hallAgent (fun _ => 0) l, true)
  | none => (s, false)

/-- R407: a restow between Close and its flip holds the hall's access to some of a run of bytes. -/
def State.hallHeld (s : State) (asid va n : Nat) (k : AccessKind) : Bool :=
  !s.restows.isEmpty &&
  (List.range (cdiv (va % 65536 + n) 65536)).any fun i => match s.hallPlace asid (max va ((va / 65536 + i) * 65536)) k with
    | some (w, pa) => (match s.restowOf w pa with | some r => r.step != .copy | none => false)
    | none => false

/-- R407, R414: a command whose turn has come waits while a restow holds what the hall reads or writes for it. -/
def cmdHeld (h : CmdHdr) (i : Instr) (need : Nat) (held : State → Bool) (body : State → Session → State × Answer) (s : State) :
    Host.Outcome State Fault Refusal :=
  let next := match s.session? h.session with | some x => h.seq == x.e + 1 && x.may need | none => false
  if next && held s then .next (s.hostWait i) else cmdOp h i need body s

end Sys2Proof.Machine
end

