-- ==== Sys2Proof/Machine/Container.lean ====
section
/-! DEFINITION. Context containers (18, R391 to R395): the records of a room's context as bytes, and their reading back.
Where R393 names a record's contents without laying them out, the layout here is the model's (log 7). -/

namespace Sys2Proof.Machine

/-! ### Tokens: naturals of any size as bytes -/

/-- The bytes that a natural needs. -/
def natLen (x : Nat) : Nat := if x = 0 then 0 else flog2 x / 8 + 1

/-- A token: its length in two bytes, then its bytes. -/
def tokenBytes (x : Nat) : List Byte := toBytes 2 (natLen x) ++ toBytes (natLen x) x

/-- The tokens of a byte list, as far as they are whole. -/
def tokensOf : Nat → List Byte → List Nat
  | 0, _ => []
  | fuel + 1, b =>
    if b.length < 2 then []
    else
      let n := leField b 0 2
      leField b 2 n :: tokensOf fuel (b.drop (2 + n))

/-- A reader of tokens. -/
abbrev Rd := StateT (List Nat) Option

def rdN : Rd Nat := fun l => match l with | x :: r => some (x, r) | [] => none
def rdFail {α : Type} : Rd α := fun _ => none
def rdMany {α : Type} (f : Rd α) : Nat → Rd (List α)
  | 0 => pure []
  | n + 1 => do
    let x ← f
    let xs ← rdMany f n
    pure (x :: xs)
def rdL {α : Type} (f : Rd α) : Rd (List α) := do
  let n ← rdN
  rdMany f n
def rdB : Rd Bool := do
  let x ← rdN
  pure (x != 0)
/-- An integer as a natural: even for x ≥ 0. -/
def tkI (x : Int) : Nat := if 0 ≤ x then 2 * x.toNat else 2 * (-x).toNat - 1
def rdI : Rd Int := do
  let x ← rdN
  pure (if x % 2 = 0 then (x / 2 : Nat) else -((x + 1) / 2 : Nat))
def tkO (x : Option Nat) : Nat := match x with | none => 0 | some v => v + 1
def rdO : Rd (Option Nat) := do
  let x ← rdN
  pure (if x = 0 then none else some (x - 1))
def tkL {α : Type} (f : α → List Nat) (l : List α) : List Nat := l.length :: l.flatMap f

/-! ### Parts of records -/

/-- The slot encoding of an instruction: its slot and its word (R142). -/
def tkInstr (i : Instr) : List Nat :=
  match Decode.encodeSlot i with
  | some (p, w) => [(match p with | .s0 => 0 | .s1 => 1 | .v => 2 | .m => 3 | .x => 4), w.toNat]
  | none => [5, 0]

def rdInstr : Rd Instr := do
  let p ← rdN
  let n ← rdN
  let w := BitVec.ofNat 48 n
  let i := match p with | 2 => Decode.slotV w | 3 => Decode.slotM w | 4 => Decode.slotX w | _ => none
  match Decode.checked i with
  | some i => pure i
  | none => rdFail

def tkCell (c : Host.Cell) : List Nat := [c.1, c.2.toNat]
def rdCell : Rd Host.Cell := do
  let a ← rdN
  let v ← rdN
  pure (a, BitVec.ofNat 8 v)

def tkBytes (l : List Byte) : List Nat := l.length :: l.map fun b => b.toNat
def rdBytes : Rd (List Byte) := do
  let l ← rdL rdN
  pure (l.map fun x => BitVec.ofNat 8 x)

def rmNum (r : RM) : Nat := match r with | .rne => 0 | .rtz => 1 | .rup => 2 | .rdn => 3 | .rna => 4
def rmOfNum (n : Nat) : RM := match n with | 0 => .rne | 1 => .rtz | 2 => .rup | 3 => .rdn | _ => .rna

def tkRaised (r : Raised) : List Nat :=
  [tkO r.nv, tkO r.dz, tkO r.of, tkO r.uf, tkO r.nx, tkO r.snan, tkO r.nr, tkO r.qo, tkO r.qr, tkO r.sat]
def rdRaised : Rd Raised := do
  let nv ← rdO
  let dz ← rdO
  let of ← rdO
  let uf ← rdO
  let nx ← rdO
  let sn ← rdO
  let nr ← rdO
  let qo ← rdO
  let qr ← rdO
  let sat ← rdO
  pure { nv := nv, dz := dz, of := of, uf := uf, nx := nx, snan := sn, nr := nr, qo := qo, qr := qr, sat := sat }

/-- A quire as its image (R75). -/
def tkQuire (q : Quire) : List Nat := [fromBytes q.image]
def rdQuire : Rd Quire := do
  let n ← rdN
  match Quire.parse? (toBytes 144 n) with
  | some q => pure q
  | none => rdFail

/-- A quire in the middle of an operation, whose sum R81 does not hold yet (R83). -/
def tkSum (q : Quire) : List Nat := [q.cls.rank, tkI q.sigma, q.state.code, tkI q.raw]
def rdSum : Rd Quire := do
  let c ← rdN
  let sg ← rdI
  let st ← rdN
  let v ← rdI
  if c ≤ 3 && st ≤ 3 then pure { cls := QCls.ofRank c, sigma := sg, state := QState.ofCode st, raw := v } else rdFail

/-- Issue cycles stand in a record as offsets from the room's present one. -/
def tkC (ic n : Nat) : Nat := tkI ((n : Int) - (ic : Int))
def rdC (ic : Nat) : Rd Nat := do
  let x ← rdI
  pure ((ic : Int) + x).toNat

/-- The remaining offset of a latch (R378): the first bundle to issue again has resume cycle 1 (R379). -/
def tkK (ic due : Nat) : Nat := tkI ((due : Int) - (ic : Int) + 1)
def rdK (ic : Nat) : Rd Nat := do
  let x ← rdI
  pure ((ic : Int) + x - 1).toNat

/-- A tile that has a head, a class and rising elements within it (R242, R257). -/
def tileShapeOk (t : Tile) : Bool :=
  let rising := (t.elems.zip (t.elems.drop 1)).all fun x => decide (x.1.idx < x.2.idx)
  t.cls != .clear && decide (t.head + t.cls.bays ≤ 32) && t.head % t.cls.bays == 0 && rising &&
  t.elems.all fun e => decide (e.idx < 16384)

/-- The tile of an operation in flight or of a latch. -/
def tkTile (t : Tile) : List Nat :=
  [t.head, t.cls.rank, tkI t.sigma] ++ tkL (fun e => [e.idx, e.state.code, tkI e.raw]) t.elems ++
  [t.writer.toNat, t.issued]
def rdTile : Rd Tile := do
  let head ← rdN
  let c ← rdN
  let sg ← rdI
  let es ← rdL (do
    let i ← rdN
    let st ← rdN
    let raw ← rdI
    pure ({ idx := i, state := QState.ofCode st, raw := raw } : TileElem))
  let w ← rdN
  let at_ ← rdN
  let t : Tile := { head := head, cls := QCls.ofRank c, sigma := sg, elems := es, writer := BitVec.ofNat 64 w, issued := at_ }
  if tileShapeOk t then pure t else rdFail

def tkLand (v : LandVal) : List Nat :=
  match v with
  | .s p v => [0, p.toNat, v.toNat] | .a n v => [1, n.toNat, v.toNat] | .g n v => [2, n.toNat, b2n v]
  | .q n v => [3, n.toNat] ++ tkQuire v | .d n v => [4, n.toNat, v.toNat] | .mSet n v => [5, n.toNat, v.toNat]
  | .mAdd n v => [6, n.toNat, v.toNat] | .bytes c => 7 :: tkL tkCell c | .overflow c => 8 :: tkL tkCell c
  | .store c => 9 :: tkL tkCell c | .sill w c => [10, w.toNat] ++ tkL tkCell c | .flagsOnly => [11]
  | .tile t => 12 :: tkTile t
def rdLand : Rd LandVal := do
  let t ← rdN
  match t with
  | 3 =>
    let n ← rdN
    let q ← rdQuire
    pure (.q (BitVec.ofNat 3 n) q)
  | 7 =>
    let c ← rdL rdCell
    pure (.bytes c)
  | 8 =>
    let c ← rdL rdCell
    pure (.overflow c)
  | 9 =>
    let c ← rdL rdCell
    pure (.store c)
  | 10 =>
    let n ← rdN
    let c ← rdL rdCell
    pure (.sill (BitVec.ofNat 2 n) c)
  | 11 => pure .flagsOnly
  | 12 =>
    let t ← rdTile
    pure (.tile t)
  | _ =>
    let n ← rdN
    let v ← rdN
    match t with
    | 0 => pure (.s (BitVec.ofNat 6 n) (BitVec.ofNat 32 v))
    | 1 => pure (.a (BitVec.ofNat 4 n) (BitVec.ofNat 64 v))
    | 2 => pure (.g (BitVec.ofNat 3 n) (v != 0))
    | 4 => pure (.d (BitVec.ofNat 5 n) (BitVec.ofNat 128 v))
    | 5 => pure (.mSet (BitVec.ofNat 6 n) (BitVec.ofNat 32 v))
    | 6 => pure (.mAdd (BitVec.ofNat 6 n) (BitVec.ofNat 32 v))
    | _ => rdFail

def tkLanding (ic : Nat) (l : Landing) : List Nat :=
  [tkK ic l.due] ++ tkLand l.val ++ [l.slot] ++ tkRaised l.raised ++ [tkO l.escape]
def rdLanding (ic : Nat) : Rd Landing := do
  let due ← rdK ic
  let v ← rdLand
  let slot ← rdN
  let r ← rdRaised
  let e ← rdO
  pure { due := due, val := v, slot := slot, raised := r, escape := e }

def tkRedirect (ic : Nat) (r : Redirect) : List Nat := [tkK ic r.due, r.target.toNat, b2n r.pops]
def rdRedirect (ic : Nat) : Rd Redirect := do
  let due ← rdK ic
  let t ← rdN
  let p ← rdB
  pure { due := due, target := BitVec.ofNat 64 t, pops := p }

/-- A beat's or chunk's bytes, with the offset at which an engine sees them (R211, R378). -/
def tkBeat (ic : Nat) (b : BeatWrite) : List Nat :=
  [tkK ic (b.cycle + 1)] ++ tkL tkCell b.cells ++ tkL (fun h => [h.1, b2n h.2.1, h.2.2]) b.halves ++ tkRaised b.raised
def rdBeat (ic : Nat) : Rd BeatWrite := do
  let c ← rdK ic
  let cells ← rdL rdCell
  let hs ← rdL (do
    let a ← rdN
    let u ← rdB
    let v ← rdN
    pure (a, u, v))
  let r ← rdRaised
  pure { cycle := c - 1, cells := cells, halves := hs, raised := r }

/-- An interval of the partition. -/
def Iv.inPartition (sp : Nat) (a : Iv) : Bool := decide (0 ≤ a.lo) && decide (a.hi < (sp : Int))

/-- R395: the descriptors of an operation are such as its issue lets through: their shapes, their alignment (R244, R251, R255,
R257, R258) and their place in the partition. -/
def Flight.valid (sp : Nat) (f : Flight) : Bool :=
  let g : VRegs := { dd := f.dd, da := f.da, db := f.db, dc := f.dc }
  let aligned (d : Nat) : Bool := arrayAligned d && descCheck d != .misaligned
  (f.intervals.2.1 ++ f.intervals.2.2).all (Iv.inPartition sp) &&
  (match f.op with
   | .mmul m | .mmac m => arrayShapeOk m false f.da f.db && arrayAlignOk m f.da f.db
   | .mslice m => arrayShapeOk m true f.da f.db && arrayAlignOk m f.da f.db
   | .msill _ => sillShapeOk f.db && aligned f.db
   | .msplit _ => msplitShapeOk f.da f.db && aligned f.db && descCheck f.da != .misaligned
   | .mround m => roundShapeOk m f.rm f.da f.db && roundAlignOk m f.da f.db
   | .msave _ | .mload _ => f.da % 64 == 0
   | .qld _ => true
   | i => (vRegions i g).all (fun d => descCount d == 0 || descCheck d == .ok) && (vPlan i g).isSome)

/-- PROGRESS: an operation in flight (R393); what it has formed and not yet written is in LATCH. -/
def tkFlight (ic : Nat) (f : Flight) : List Nat :=
  tkInstr f.op ++ [f.slot, f.pc.toNat, tkC ic f.c0, f.occ, f.lat, rmNum f.rm, f.dd, f.da, f.db, f.dc, f.next, b2n f.lost] ++
  tkL (fun x => [x]) f.hold ++ [tkC ic f.holdEnd] ++ tkL (fun x => [x]) f.buf ++ [b2n f.rowInvalid, tkI f.rowExp] ++
  tkSum f.acc ++ (match f.tile with | none => [0] | some t => 1 :: tkTile t) ++ tkL tkCell f.fill ++
  tkRaised f.raised ++ [tkO f.escape]
def rdFlight (sp ic : Nat) : Rd Flight := do
  let op ← rdInstr
  let slot ← rdN
  let pc ← rdN
  let c0 ← rdC ic
  let occ ← rdN
  let lat ← rdN
  let rm ← rdN
  let dd ← rdN
  let da ← rdN
  let db ← rdN
  let dc ← rdN
  let next ← rdN
  let lost ← rdB
  let hold ← rdL rdN
  let he ← rdC ic
  let buf ← rdL rdN
  let ri ← rdB
  let re ← rdI
  let acc ← rdSum
  let hasT ← rdB
  let tile ← if hasT then (do
      let t ← rdTile
      pure (some t)) else pure none
  let fill ← rdL rdCell
  let raised ← rdRaised
  let esc ← rdO
  let f : Flight :=
    { op := op, slot := slot, pc := BitVec.ofNat 64 pc, c0 := c0, occ := occ, lat := lat, rm := rmOfNum rm, dd := dd, da := da,
      db := db, dc := dc, next := next, lost := lost, hold := hold, holdEnd := he, buf := buf, rowInvalid := ri, rowExp := re,
      acc := acc, tile := tile, fill := fill, raised := raised, escape := esc, writes := [] }
  if f.valid sp then pure f else rdFail

def tkIv (x : Nat × Iv) : List Nat := [x.1, tkI x.2.lo, tkI x.2.hi]
def rdIv : Rd (Nat × Iv) := do
  let e ← rdN
  let lo ← rdI
  let hi ← rdI
  pure (e, { lo := lo, hi := hi })

def kindNum (k : AccessKind) : Nat := match k with | .read => 0 | .write => 1 | .readWrite => 2 | .fetch => 3
def kindOfNum (n : Nat) : AccessKind := match n with | 0 => .read | 1 => .write | 2 => .readWrite | _ => .fetch

def tkCause (c : Cause) : List Nat := [c.code, c.slot, c.sub, c.aux, c.index, c.va, kindNum c.acc, b2n c.inHandler]
def rdCause : Rd Cause := do
  let code ← rdN
  let slot ← rdN
  let sub ← rdN
  let aux ← rdN
  let index ← rdN
  let va ← rdN
  let k ← rdN
  let h ← rdB
  pure { code := code, slot := slot, sub := sub, aux := aux, index := index, va := va, acc := kindOfNum k, inHandler := h }

def statusNum (s : XStatus) : Nat :=
  match s with | .queued => 0 | .dispatched => 1 | .started => 2 | .applied => 3 | .complete => 4
def statusOfNum (n : Nat) : XStatus :=
  match n with | 0 => .queued | 1 => .dispatched | 2 => .started | 3 => .applied | _ => .complete

/-- R395: the card or the descriptor of an entry is such as its issue lets through. -/
def XEntry.valid (sp : Nat) (e : XEntry) : Bool :=
  ((e.reads ++ e.writes).all fun x => x.2.inPartition sp) &&
  if e.isCard then
    let n := fromBytes e.card
    e.card.length == 64 && cardLegal (xOpcode e.op) n && cardAligned n
  else match e.op with
    | .collSum _ => descCheck e.desc == .ok && !(descFmt e.desc).isBlk && descFmt e.desc != fp64
    | .collBcast _ => descCheck e.desc == .ok
    | _ => true

def tkEntry (e : XEntry) : List Nat :=
  [e.id] ++ tkInstr e.op ++ [e.aa, e.ab, e.ac, e.sv, e.desc, rmNum e.rm] ++ tkBytes e.card ++ [b2n e.shadow] ++
  tkL (fun x => [x]) e.after ++ [statusNum e.status, e.next] ++ tkL (fun x => [x]) e.staged ++
  (match e.fault with | none => [0] | some c => 1 :: tkCause c) ++
  [tkO e.replay, tkO (e.heldBy.map Prod.fst), tkO (e.heldBy.map Prod.snd), b2n e.again, tkO e.fenced, tkO e.home] ++ tkRaised e.raised ++
  [b2n e.poisoned] ++ tkBytes e.payload ++ (match e.result with | none => [0] | some b => 1 :: tkBytes b) ++
  [e.ordinal, e.tbIssue, e.source, e.seq, tkO e.via] ++ tkL (fun x => [x.1, x.2]) e.writeBack ++ tkL tkIv e.reads ++ tkL tkIv e.writes
def rdEntry (sp : Nat) : Rd XEntry := do
  let id ← rdN
  let op ← rdInstr
  let aa ← rdN
  let ab ← rdN
  let ac ← rdN
  let sv ← rdN
  let desc ← rdN
  let rm ← rdN
  let card ← rdBytes
  let shadow ← rdB
  let after ← rdL rdN
  let st ← rdN
  let next ← rdN
  let staged ← rdL rdN
  let hasF ← rdB
  let f ← if hasF then (do
      let c ← rdCause
      pure (some c)) else pure none
  let rep ← rdO
  let h1 ← rdO
  let h2 ← rdO
  let again ← rdB
  let fenced ← rdO
  let home ← rdO
  let raised ← rdRaised
  let poi ← rdB
  let pay ← rdBytes
  let hasR ← rdB
  let res ← if hasR then (do
      let b ← rdBytes
      pure (some b)) else pure none
  let ord ← rdN
  let tb ← rdN
  let src ← rdN
  let sq ← rdN
  let via ← rdO
  let wb ← rdL (do
    let a ← rdN
    let b ← rdN
    pure (a, b))
  let rs ← rdL rdIv
  let ws ← rdL rdIv
  let e : XEntry :=
    { id := id, op := op, aa := aa, ab := ab, ac := ac, sv := sv, desc := desc, rm := rmOfNum rm, card := card,
      shadow := shadow, after := after, status := statusOfNum st, next := next, staged := staged, fault := f,
      replay := rep, heldBy := (match h1, h2 with | some a, some b => some (a, b) | _, _ => none), again := again,
      fenced := fenced, home := home, raised := raised, poisoned := poi, payload := pay, result := res, ordinal := ord,
      tbIssue := tb, source := src, seq := sq, via := via, writeBack := wb, reads := rs, writes := ws }
  if e.valid sp then pure e else rdFail

/-! ### Tiles and windows as bytes (R393) -/

/-- An element with a side entry in TILES: its index, STATE and XS (R393). -/
def sideEntry (e : TileElem) (c : QCls) (sigma : Int) : Option (List Byte) :=
  let q : Quire := { cls := c, sigma := sigma, state := e.state, raw := e.raw }
  if e.state = .finite && q.excess = 0 then none
  else some (toBytes 2 e.idx ++ toBytes 2 e.state.code ++ toBytes 4 (wrapTo 32 q.excess))

/-- The bodies of the elements from i upward. -/
def bodyBytes (c : QCls) (sigma : Int) : Nat → Nat → List TileElem → List Byte
  | 0, _, _ => []
  | n + 1, i, [] => List.replicate (c.width / 8) 0 ++ bodyBytes c sigma n (i + 1) []
  | n + 1, i, e :: es =>
    if e.idx = i then
      toBytes (c.width / 8) ({ cls := c, sigma := sigma, state := e.state, raw := e.raw } : Quire).body ++
        bodyBytes c sigma n (i + 1) es
    else List.replicate (c.width / 8) 0 ++ bodyBytes c sigma n (i + 1) (e :: es)

/-- A bound tile: head, class, σ, the number of its side entries, its writer and number; bodies; side entries. -/
def tileBytes (t : Tile) : List Byte :=
  let side := t.elems.filterMap fun e => sideEntry e t.cls t.sigma
  toBytes 2 t.head ++ toBytes 2 t.cls.rank ++ toBytes 4 (wrapTo 32 t.sigma) ++ toBytes 8 side.length ++
  toBytes 8 t.writer.toNat ++ toBytes 8 t.issued ++ bodyBytes t.cls t.sigma 16384 0 t.elems ++ side.flatten

/-- The elements from i upward of bodies and side entries (index, STATE, XS); none when an entry breaks R257. -/
def readElems (c : QCls) : Nat → Nat → List Byte → List (Nat × Nat × Int) → Option (List TileElem)
  | 0, _, _, side => if side.isEmpty then some [] else none
  | n + 1, i, b, side =>
    let z := c.width / 8
    let body := fromBytes (b.take z)
    let hit := match side with | x :: _ => x.1 == i | [] => false
    let x := side.headD (0, 0, 0)
    let st := QState.ofCode (if hit then x.2.1 else 0)
    let xs := if hit then x.2.2 else 0
    if st != .finite && (body != 0 || xs != 0) then none
    else
      (readElems c n (i + 1) (b.drop z) (if hit then side.drop 1 else side)).map fun l =>
        let raw := sext body c.width + xs * ((2 ^ c.width : Nat) : Int)
        if st = .finite && raw = 0 then l else { idx := i, state := st, raw := raw } :: l

/-- The tiles of a TILES body. -/
def readTiles : Nat → List Byte → Option (List Tile)
  | 0, _ => some []
  | n + 1, b =>
    let c := QCls.ofRank (leField b 2 2 % 4)
    let at_ := leField b 24 8
    let len := 16384 * (c.width / 8)
    let cnt := leField b 8 8
    let sideB := b.drop (32 + len)
    let side := (List.range cnt).map fun k => (leField sideB (8 * k) 2, leField sideB (8 * k + 2) 2, sext (leField sideB (8 * k + 4) 4) 32)
    if 3 < leField b 2 2 || b.length < 32 + len + 8 * cnt || (side.any fun x => decide (3 < x.2.1)) then none
    else
      match readElems c 16384 0 ((b.drop 32).take len) side, readTiles n (sideB.drop (8 * cnt)) with
      | some es, some ts =>
        let t : Tile := { head := leField b 0 2, cls := c, sigma := sext (leField b 4 4) 32, elems := es,
                          writer := BitVec.ofNat 64 (leField b 16 8), issued := at_ }
        if tileShapeOk t then some (t :: ts) else none
      | _, _ => none

/-- Bits as bytes. -/
def bitBytes (n : Nat) (p : Nat → Bool) : List Byte :=
  (List.range (cdiv n 8)).map fun i =>
    BitVec.ofNat 8 (packLanes 1 ((List.range 8).map fun j => b2n (decide (8 * i + j < n) && p (8 * i + j))))

/-- A window: its number, region and global base; resident bits, dirty bits, the bits of lines written whole; and 256 byte
enables for every other dirty line. -/
def windowBytesOf (w : Window) : List Byte :=
  let n := w.len / 256
  let hit (a : Nat) : Bool := w.written.contains (w.base + a)
  let dirty (l : Nat) : Bool := w.written.any fun a => (a - w.base) / 256 == l
  let whole (l : Nat) : Bool := (List.range 256).all fun j => hit (256 * l + j)
  toBytes 8 w.num ++ toBytes 8 w.base ++ toBytes 8 w.len ++ toBytes 8 w.gva ++ bitBytes n w.resident.contains ++
  bitBytes n dirty ++ bitBytes n whole ++
  ((List.range n).filter fun l => dirty l && !whole l).flatMap fun l => bitBytes 256 fun j => hit (256 * l + j)

/-- Bit i of bytes from an offset. -/
def markAt (b : List Byte) (o i : Nat) : Bool := (b.getD (o + i / 8) 0).getLsbD (i % 8)

/-- The windows of a WINDOW body. -/
def readWindows : Nat → List Byte → Option (List Window)
  | 0, _ => some []
  | n + 1, b =>
    let base := leField b 8 8
    let len := leField b 16 8
    let k := len / 256
    let z := cdiv k 8
    let lines := List.range k
    let part := lines.filter fun l => markAt b (32 + z) l && !markAt b (32 + 2 * z) l
    let size := 32 + 3 * z + 32 * part.length
    if b.length < size || 7 < leField b 0 8 || base % 256 != 0 || len % 256 != 0 || len = 0 || 0x1000000 < base + len ||
        leField b 24 8 % 256 != 0 || 2 ^ 52 ≤ leField b 24 8 then none
    else
      (readWindows n (b.drop size)).map fun ws =>
        { num := leField b 0 8, base := base, len := len, gva := leField b 24 8
          resident := lines.filter (markAt b 32)
          written := ((lines.filter (markAt b (32 + 2 * z))).flatMap fun l => (List.range 256).map fun j => base + 256 * l + j) ++
            (part.zipIdx).flatMap fun x => ((List.range 256).filter (markAt b (32 + 3 * z + 32 * x.2))).map fun j => base + 256 * x.1 + j } :: ws

/-! ### Records of fixed layout (R393) -/

def loopBytes (e : LoopEntry) : List Byte :=
  toBytes 8 e.start.toNat ++ toBytes 8 e.last.toNat ++ toBytes 4 e.count ++ toBytes 4 (b2n e.rot)

/-- POSITION. -/
def positionBytes (c : Ctx) (status : Nat) : List Byte :=
  toBytes 8 c.pc.toNat ++ toBytes 8 c.loops.length ++ c.loops.flatMap loopBytes ++
  List.replicate (24 * (6 - c.loops.length)) 0 ++ toBytes 4 c.repc.toNat ++ toBytes 4 c.winb.toNat ++ toBytes 4 status

def loopAt (b : List Byte) (i : Nat) : LoopEntry :=
  let o := 16 + 24 * i
  { start := BitVec.ofNat 64 (leField b o 8), last := BitVec.ofNat 64 (leField b (o + 8) 8), count := leField b (o + 16) 4,
    rot := leField b (o + 20) 4 != 0 }

/-- A POSITION body read back; a new REPC is checked again at its first issue (R200). -/
def readPosition (c : Ctx) (b : List Byte) : Option Ctx :=
  let depth := leField b 8 8
  let repc := BitVec.ofNat 32 (leField b 160 4) &&& 0xFFFF0FFF
  let st := leField b 168 4
  if b.length < 172 || 6 < depth || leField b 0 8 % 32 != 0 then none
  else
    some { c with
      pc := BitVec.ofNat 64 (leField b 0 8), loops := (List.range depth).map (loopAt b), repc := repc
      repFresh := if repc = c.repc then c.repFresh else decide (repRem repc ≠ 0)
      winb := BitVec.ofNat 32 (leField b 164 4) &&& 0x1F, poison := st.testBit 0 }

def vecBytes {n w : Nat} (k : Nat) (v : Vector (BitVec w) n) : List Byte := v.toList.flatMap fun x => toBytes k x.toNat
def readVec (n w k : Nat) (b : List Byte) : Option (Vector (BitVec w) n) :=
  if b.length < k * n then none else some (Vector.ofFn fun i : Fin n => BitVec.ofNat w (leField b (k * i.val) k))

/-- The waits that SYS saves: a held `swait` with its value, a `twait` with its TB, a `dbar`. -/
def waitBytes (w : Wait) : List Byte :=
  match w with
  | .none => toBytes 32 0
  | .swait m v dec => toBytes 8 1 ++ toBytes 8 m.toNat ++ toBytes 8 v.toNat ++ toBytes 8 (b2n dec)
  | .twait t => toBytes 8 2 ++ toBytes 8 t.toNat ++ toBytes 16 0
  | .dbar i a => toBytes 8 3 ++ toBytes 8 i ++ toBytes 8 (b2n a) ++ toBytes 8 0
def readWait (b : List Byte) : Wait :=
  match leField b 0 8 with
  | 1 => .swait (BitVec.ofNat 6 (leField b 8 8)) (BitVec.ofNat 32 (leField b 16 8)) (leField b 24 8 != 0)
  | 2 => .twait (BitVec.ofNat 64 (leField b 8 8))
  | 3 => .dbar (leField b 8 8 % 8) (leField b 16 8 != 0)
  | _ => .none

/-- SYS. -/
def sysBytes (c : Ctx) : List Byte :=
  toBytes 8 (packLanes 1 (c.g.toList.map b2n)) ++ toBytes 4 c.fx.toNat ++ toBytes 4 c.qx.toNat ++ toBytes 4 c.phase.toNat ++
  toBytes 4 0 ++ toBytes 8 c.trapc.toNat ++ toBytes 8 c.trappc.toNat ++ waitBytes c.wait
def readSys (c : Ctx) (b : List Byte) : Option Ctx :=
  let gs := leField b 0 8
  let fx := BitVec.ofNat 32 (leField b 8 4)
  if b.length < 72 || 5 ≤ fxRm fx then none
  else
    some { c with
      g := Vector.ofFn fun i : Fin 8 => i.val == 0 || gs.testBit i.val
      fx := fx &&& fxWritable, qx := BitVec.ofNat 32 (leField b 12 4) &&& qxWritable
      phase := BitVec.ofNat 32 (leField b 16 4), trapc := BitVec.ofNat 64 (leField b 24 8)
      trappc := BitVec.ofNat 64 (leField b 32 8), wait := readWait (b.drop 40) }

def qregBytes (c : Ctx) : List Byte := c.q.toList.flatMap Quire.image
def readQreg (c : Ctx) (b : List Byte) : Option Ctx :=
  let qs := (List.range 8).map fun i => Quire.parse? ((b.drop (144 * i)).take 144)
  if b.length < 1152 || qs.any Option.isNone then none
  else some { c with q := Vector.ofFn fun i : Fin 8 => (qs.getD i.val none).getD Quire.clear }

/-! ### Records of tokens -/

def tokenBody (l : List Nat) : List Byte := l.flatMap tokenBytes
/-- Reads a record's tokens whole. -/
def readTokens {α : Type} (f : Rd α) (b : List Byte) : Option α := (f (tokensOf b.length b)).map Prod.fst

/-- The latches of a context or of what a handler has set aside, counted from an issue cycle, with the bytes that each operation
in flight has formed; and until when the engines are occupied. -/
def tkLatches (ic : Nat) (ls : List Landing) (rs : List Redirect) (fs : List Flight) (vFree mFree : Nat)
    (due : List (Nat × Bool)) : List Nat :=
  tkL (tkLanding ic) ls ++ tkL (tkRedirect ic) rs ++ tkL (fun f => tkL (tkBeat ic) f.writes) fs ++
  [tkC ic vFree, tkC ic mFree] ++ tkL (fun n => [tkK ic n.1, b2n n.2]) due

/-- What operations in flight have formed and not yet written, in the order of the operations. -/
abbrev Formed := List (List BeatWrite)

def withFormed (fs : List Flight) (w : Formed) : List Flight :=
  (fs.zipIdx).map fun x => { x.1 with writes := w.getD x.2 [] }

/-- The latches read back. -/
structure Latches where
  landings : List Landing
  redirects : List Redirect
  formed : Formed
  vFree : Nat
  mFree : Nat
  due : List (Nat × Bool)

def rdLatches (ic : Nat) : Rd Latches := do
  let ls ← rdL (rdLanding ic)
  let rs ← rdL (rdRedirect ic)
  let ws ← rdL (rdL (rdBeat ic))
  let vf ← rdC ic
  let mf ← rdC ic
  let ld ← rdL (do
    let n ← rdK ic
    let b ← rdB
    pure (n, b))
  pure { landings := ls, redirects := rs, formed := ws, vFree := vf, mFree := mf, due := ld }

def tkWait (w : Wait) : List Nat :=
  match w with
  | .none => [0, 0, 0, 0] | .swait m v dec => [1, m.toNat, v.toNat, b2n dec] | .twait t => [2, t.toNat, 0, 0]
  | .dbar i a => [3, i, b2n a, 0]
def rdWait : Rd Wait := do
  let k ← rdN
  let a ← rdN
  let b ← rdN
  let c ← rdN
  pure (match k with
    | 1 => .swait (BitVec.ofNat 6 a) (BitVec.ofNat 32 b) (c != 0) | 2 => .twait (BitVec.ofNat 64 a) | 3 => .dbar (a % 8) (b != 0)
    | _ => .none)

/-- What a handler has set aside (R384), but for its operations in flight, which stand in PROGRESS: loop stack, REPC, latches,
wait and causes. -/
def asideTokens (a : SetAside) : List Nat :=
  tkL (fun e => [e.start.toNat, e.last.toNat, e.count, b2n e.rot]) a.loops ++ [a.repc.toNat, b2n a.repZero, b2n a.repFresh] ++
  tkLatches a.ic a.landings a.redirects a.flights a.vFree a.mFree a.latchDue ++ tkWait a.wait ++ tkL tkCause a.due ++
  [b2n a.bkptPassed] ++ tkL (fun m => [m.1, m.2]) a.tileMarks
def rdAside (ic : Nat) (fs : List Flight) : Rd (SetAside × Formed) := do
  let loops ← rdL (do
    let s ← rdN
    let l ← rdN
    let c ← rdN
    let r ← rdB
    pure ({ start := BitVec.ofNat 64 s, last := BitVec.ofNat 64 l, count := c, rot := r } : LoopEntry))
  let repc ← rdN
  let rz ← rdB
  let rf ← rdB
  let l ← rdLatches ic
  let w ← rdWait
  let due ← rdL rdCause
  let bp ← rdB
  let ms ← rdL (do
    let h ← rdN
    let n ← rdN
    pure (h, n))
  let a : SetAside :=
    { loops := loops, repc := BitVec.ofNat 32 repc, repZero := rz, repFresh := rf, redirects := l.redirects, landings := l.landings,
      flights := withFormed fs l.formed, vFree := l.vFree, mFree := l.mFree, ic := ic, wait := w, due := due, latchDue := l.due,
      bkptPassed := bp, tileMarks := ms }
  if loops.length ≤ 6 then pure (a, l.formed) else rdFail

/-- A context in the course of a restore, with what a handler has set aside and what the operations in flight have formed. -/
structure Restored where
  ctx : Ctx
  aside : Option SetAside
  formed : Formed
  asideFormed : Formed

/-- A context as a restore finds it. -/
def Restored.start (c : Ctx) (a : Option SetAside) : Restored :=
  { ctx := c, aside := a, formed := c.flights.map fun f => f.writes,
    asideFormed := match a with | some a => a.flights.map fun f => f.writes | none => [] }

/-- LATCH. -/
def latchTokens (c : Ctx) (a : Option SetAside) : List Nat :=
  tkLatches c.ic c.landings c.redirects c.flights c.vFree c.mFree c.latchDue ++
  (match a with | none => [0] | some a => 1 :: asideTokens a)
def rdLatch (x : Restored) : Rd Restored := do
  let l ← rdLatches x.ctx.ic
  let has ← rdB
  let a ← if has then (do
      let a ← rdAside x.ctx.ic (match x.aside with | some a => a.flights | none => [])
      pure (some a)) else pure none
  pure { ctx := { x.ctx with landings := l.landings, redirects := l.redirects, flights := withFormed x.ctx.flights l.formed,
                             vFree := l.vFree, mFree := l.mFree, latchDue := l.due, hmode := has }
         aside := a.map Prod.fst, formed := l.formed, asideFormed := match a with | some a => a.2 | none => [] }

/-- PROGRESS: the operations in flight, and those set aside. -/
def progressTokens (c : Ctx) (a : Option SetAside) : List Nat :=
  tkL (tkFlight c.ic) c.flights ++ (match a with | some a => tkL (tkFlight a.ic) a.flights | none => tkL (tkFlight 0) [])
def rdProgress (sp : Nat) (x : Restored) : Rd Restored := do
  let fs ← rdL (rdFlight sp x.ctx.ic)
  let gs ← rdL (rdFlight sp x.ctx.ic)
  pure { x with ctx := { x.ctx with flights := withFormed fs x.formed }
                aside := x.aside.map fun a => { a with flights := withFormed gs x.asideFormed } }

/-- FOOTPRINT. -/
def footTokens (f : Footprint) : List Nat :=
  [b2n f.idem, b2n f.empty] ++ tkBytes f.image ++ tkL (tkL (fun a => [tkI a.lo, tkI a.hi])) f.reads ++
  tkL (tkL (fun a => [tkI a.lo, tkI a.hi])) f.writes
def rdSpan : Rd Iv := do
  let lo ← rdI
  let hi ← rdI
  pure { lo := lo, hi := hi }
def rdFoot : Rd Footprint := do
  let idem ← rdB
  let empty ← rdB
  let image ← rdBytes
  let rs ← rdL (rdL rdSpan)
  let ws ← rdL (rdL rdSpan)
  if image.isEmpty then pure { reads := rs, writes := ws, idem := idem, empty := empty, image := [] }
  else if fpRecordOk image then pure (fpParse image)
  else rdFail

def tkTimed (t : TimedEntry) : List Nat := [t.tofs, t.tper, t.dst, tkO t.lastUsed]
def rdTimed : Rd TimedEntry := do
  let a ← rdN
  let b ← rdN
  let c ← rdN
  let u ← rdO
  pure { tofs := a, tper := b, dst := c, lastUsed := u }

def watchNum (k : WatchKind) : Nat := match k with | .reads => 0 | .writes => 1 | .both => 2
def debugTokens (r : Room) : List Nat :=
  tkL (fun b => [b.1, b.2.toNat]) r.bkpt ++ tkL (fun w => [w.1, w.2.1, w.2.2.1, watchNum w.2.2.2]) r.watch
def rdDebug (r : Room) : Rd Room := do
  let bs ← rdL (do
    let n ← rdN
    let a ← rdN
    pure (n, BitVec.ofNat 64 a))
  let ws ← rdL (do
    let n ← rdN
    let lo ← rdN
    let len ← rdN
    let k ← rdN
    pure (n, lo, len, (match k with | 0 => WatchKind.reads | 1 => WatchKind.writes | _ => WatchKind.both)))
  pure { r with bkpt := bs, watch := ws }

/-! ### The container (R392 to R394) -/

/-- A record: TYPE, FLAGS, LEN, RVER 1 and the body padded to 16 bytes. -/
def recordBytes (type flags : Nat) (body : List Byte) : List Byte :=
  let pad := (16 - body.length % 16) % 16
  toBytes 2 type ++ toBytes 2 flags ++ toBytes 4 (body.length + pad) ++ toBytes 8 1 ++ body ++ List.replicate pad 0

/-- The records 0x0001 to 0x000C of a context; `keep` says which transfer entries they hold. -/
def ctxRecords (status : Nat) (c : Ctx) (a : Option SetAside) : List (List Byte) :=
  let cards := c.xq.filter XEntry.isCard
  let rest := c.xq.filter fun e => !e.isCard
  [recordBytes 0x01 1 (positionBytes c status), recordBytes 0x02 1 (vecBytes 4 c.s), recordBytes 0x03 1 (vecBytes 8 c.a),
   recordBytes 0x04 1 (sysBytes c), recordBytes 0x05 1 (qregBytes c), recordBytes 0x06 1 (vecBytes 16 c.d),
   recordBytes 0x07 1 (vecBytes 4 c.m), recordBytes 0x08 1 (tokenBody (latchTokens c a)),
   recordBytes 0x09 1 (tokenBody (progressTokens c a)), recordBytes 0x0A 1 (tokenBody (footTokens c.footprint)),
   recordBytes 0x0B 1 (tokenBody (tkL tkEntry rest)), recordBytes 0x0C 1 (tokenBody (tkL tkEntry cards))]

/-- The bytes of one sill. -/
def sillBytes (m : List Host.Cell) : List Byte := Memory.read m 0 8192

/-- SILLS, TILES, SCRATCH: their bodies, or flagged INPLACE with none (R394). -/
def bigRecords (r : Room) (inPlace : Bool) : List (List Byte) :=
  if inPlace then [recordBytes 0x0D 3 [], recordBytes 0x0E 3 [], recordBytes 0x0F 3 []]
  else
    [recordBytes 0x0D 1 (r.sills.flatMap sillBytes), recordBytes 0x0E 1 (toBytes 16 r.tiles.length ++ r.tiles.flatMap tileBytes),
     recordBytes 0x0F 1 (Memory.read r.scratch 0 r.spSize)]

/-- Every record of a room's container. -/
def Room.records (r : Room) (inPlace : Bool) : List (List Byte) :=
  ctxRecords r.status r.ctx r.aside ++ bigRecords r inPlace ++
  [recordBytes 0x10 1 (toBytes 16 r.windows.length ++ r.windows.flatMap windowBytesOf)] ++
  (match r.snap with
   | some c => [recordBytes 0x11 1 ((ctxRecords r.status c r.snapAside).take 11).flatten]
   | none => []) ++
  [recordBytes 0x12 0 (tokenBody (debugTokens r)), recordBytes 0x13 1 (tokenBody (tkL tkTimed r.ctx.timed))]

/-- The container of a room with a REASON, at a TB in ns (R392). -/
def Room.container (r : Room) (reason tb : Nat) (inPlace : Bool) : List Byte :=
  let rs := r.records inPlace
  let body := rs.flatten
  toBytes 4 0x1A58434F ++ toBytes 4 Config.ctxVersion.toNat ++ toBytes 8 (64 + body.length) ++ toBytes 4 r.teamid.toNat ++
  toBytes 4 r.id.lin ++ toBytes 4 rs.length ++ toBytes 4 reason ++ toBytes 8 tb ++ List.replicate 24 0 ++ body

/-! ### Restoring (R395) -/

/-- Joins cards and other entries in issue order. -/
def insertEntry (e : XEntry) : List XEntry → List XEntry
  | [] => [e]
  | x :: xs => if e.id < x.id then e :: x :: xs else x :: insertEntry e xs
def mergeEntries (a b : List XEntry) : List XEntry := a.foldl (fun l e => insertEntry e l) b

/-- One record of 0x0001 to 0x000C applied to a context of a room with a partition of `sp` bytes. -/
def applyCtxRecord (sp type : Nat) (b : List Byte) (x : Restored) : Option Restored :=
  let c := x.ctx
  let keep (o : Option Ctx) : Option Restored := o.map fun c => { x with ctx := c }
  match type with
  | 0x01 => keep (readPosition c b)
  | 0x02 => keep ((readVec 64 32 4 b).map fun v => { c with s := v })
  | 0x03 => keep ((readVec 16 64 8 b).map fun v => { c with a := v })
  | 0x04 => keep (readSys c b)
  | 0x05 => keep (readQreg c b)
  | 0x06 => keep ((readVec 32 128 16 b).map fun v => { c with d := v })
  | 0x07 => keep ((readVec 64 32 4 b).map fun v => { c with m := v })
  | 0x08 => readTokens (rdLatch x) b
  | 0x09 => readTokens (rdProgress sp x) b
  | 0x0A => keep ((readTokens rdFoot b).map fun f => { c with footprint := f })
  | 0x0B => keep ((readTokens (rdL (rdEntry sp)) b).map fun l => { c with xq := mergeEntries l (c.xq.filter XEntry.isCard) })
  | 0x0C => keep ((readTokens (rdL (rdEntry sp)) b).map fun l =>
      { c with xq := mergeEntries l (c.xq.filter fun e => !e.isCard) })
  | _ => some x

/-- Walks the records of a body; `f` takes TYPE, FLAGS, body and what is restored so far. A record of higher RVER, or an
unknown one that is mandatory, refuses the restore. -/
def walkRecords {α : Type} (known : Nat → Bool) (f : Nat → List Byte → α → Option α) : Nat → List Byte → α → Option α
  | 0, _, x => some x
  | n + 1, b, x =>
    let type := leField b 0 2
    let flags := leField b 2 2
    let len := leField b 4 4
    let rest := b.drop (16 + len)
    if b.length < 16 + len then none
    else if !known type then (if flags % 2 = 1 then none else walkRecords known f n rest x)
    else if leField b 8 1 != 1 then none
    else if flags / 2 % 2 = 1 then walkRecords known f n rest x
    else
      match f type ((b.drop 16).take len) x with
      | some y => walkRecords known f n rest y
      | none => none

/-- A store filled from bytes. -/
def cellsOf (b : List Byte) : List Host.Cell := Memory.putAll [] (cellsAt 0 b)

/-- A room in the course of a restore. -/
structure RestoredRoom where
  room : Room
  part : Restored

/-- One record applied to a room. -/
def applyRecord (type : Nat) (b : List Byte) (x : RestoredRoom) : Option RestoredRoom :=
  let r := x.room
  let keep (o : Option Room) : Option RestoredRoom := o.map fun r => { x with room := r }
  match type with
  | 0x0D =>
    if b.length < 32768 then none
    else keep (some { r with sills := (List.range 4).map fun i => cellsOf ((b.drop (8192 * i)).take 8192) })
  | 0x0E => if b.length < 16 then none else keep ((readTiles (leField b 0 16) (b.drop 16)).map fun l => { r with tiles := l })
  | 0x0F => if b.length < r.spSize then none else keep (some { r with scratch := cellsOf (b.take r.spSize) })
  | 0x10 => if b.length < 16 then none else keep ((readWindows (leField b 0 16) (b.drop 16)).map fun l => { r with windows := l })
  | 0x11 =>
    keep ((walkRecords (fun t => decide (1 ≤ t) && decide (t ≤ 0x0B)) (applyCtxRecord r.spSize) 11 b
      (Restored.start (r.snap.getD x.part.ctx) r.snapAside)).map fun y => { r with snap := some y.ctx, snapAside := y.aside })
  | 0x12 => keep (readTokens (rdDebug r) b)
  | 0x13 => (readTokens (rdL rdTimed) b).map fun l => { x with part := { x.part with ctx := { x.part.ctx with timed := l } } }
  | t => (applyCtxRecord r.spSize t b x.part).map fun y => { x with part := y }

/-- The number of the last writer among the tiles of a room, landed or not. -/
def Room.topWriter (r : Room) : Nat :=
  let at_ (v : LandVal) : Nat := match v with | .tile t => t.issued | _ => 0
  let lands (l : List Landing) : List Nat := l.map fun x => at_ x.val
  let fl (l : List Flight) : List Nat := l.map fun x => match x.tile with | some t => t.issued | none => 0
  ((r.tiles.map fun t => t.issued) ++ lands r.ctx.landings ++ fl r.ctx.flights ++
    (match r.aside with | some a => lands a.landings ++ fl a.flights | none => [])).foldl max r.writers

/-- The outcome of a restore (R395): the room, or none when the container is refused. -/
def Room.restore (r : Room) (b : List Byte) : Option Room :=
  if b.length < 64 || leField b 0 4 != 0x1A58434F || 1 < leField b 4 1 || leField b 0x10 4 != r.teamid.toNat ||
      leField b 0x14 4 != r.id.lin || b.length < leField b 8 8 then none
  else
    (walkRecords (fun t => decide (1 ≤ t) && decide (t ≤ 0x13)) applyRecord (leField b 0x18 4) (b.drop 64)
      { room := r, part := Restored.start r.ctx r.aside }).map fun x =>
        let y : Room := { x.room with ctx := x.part.ctx, aside := x.part.aside }
        { y with writers := y.topWriter }

/-- R391: CS and the slot of a room in the save area of its team. -/
def ctxSlotSize (spSize nb : Nat) : Nat := 131072 + spSize + 393216 * nb
def ctxSlot (ctxva lin spSize nb : Nat) : Nat := ctxva + lin * ctxSlotSize spSize nb

end Sys2Proof.Machine
end

