-- ==== Sys2Proof/Machine/Loader.lean ====
section
/-! DEFINITION. Code objects: the checks of LOAD, variants and selectors, relocation, UNLOAD and the filling of code
pages (16, R338 to R359). -/

namespace Sys2Proof.Machine

/-! ### The header (R339) -/

/-- The fields of the header. -/
structure OcoHeader where
  nsect : Nat
  sectOff : Nat
  prefBase : Nat
  codeSize : Nat
  dataSize : Nat
  sdb : Nat
  gotOff : Nat
  dataHash : Nat
  deriving DecidableEq, Repr

/-- Every byte of a run is zero. -/
def zeroRun (b : List Byte) (off n : Nat) : Bool := ((b.drop off).take n).all fun x => x == 0

def ocoHeader (b : List Byte) : Option OcoHeader :=
  let h : OcoHeader :=
    { nsect := leField b 8 2, sectOff := leField b 0x10 8, prefBase := leField b 0x18 8, codeSize := leField b 0x20 4,
      dataSize := leField b 0x24 4, sdb := leField b 0x28 4, gotOff := leField b 0x2C 4,
      dataHash := beNat ((b.drop 0x30).take 48) }
  if 128 ≤ b.length && leField b 0 4 == 0x1A4F434F && leField b 4 2 == 1 && leField b 6 2 == 128 &&
      decide (1 ≤ h.nsect) && decide (h.nsect ≤ 256) && zeroRun b 0x0A 6 && h.sectOff % 8 == 0 &&
      decide (h.sectOff + 32 * h.nsect ≤ b.length) && h.prefBase % 65536 == 0 &&
      decide (h.prefBase + h.codeSize ≤ 2 ^ 52) && h.codeSize % 4096 == 0 && decide (4096 ≤ h.codeSize) &&
      decide (h.codeSize ≤ 2 ^ 28) && decide (h.dataSize ≤ 2 ^ 24) && h.sdb % 64 == 0 &&
      decide (h.sdb + h.dataSize ≤ 2 ^ 24) && h.gotOff % 8 == 0 && decide (h.gotOff ≤ h.dataSize) && zeroRun b 0x60 32
  then some h else none

/-! ### Sections (R340, R341) -/

structure Section where
  type : Nat
  ignorable : Bool
  offset : Nat
  size : Nat
  addr : Nat
  deriving DecidableEq, Repr

def sectionAt (b : List Byte) (h : OcoHeader) (i : Nat) : Section :=
  let o := h.sectOff + 32 * i
  { type := leField b o 2, ignorable := leField b (o + 2) 2 % 2 == 1, offset := leField b (o + 8) 8,
    size := leField b (o + 16) 8, addr := leField b (o + 24) 4 }

/-- R341: the section types known, which may appear once at most. -/
def sectionOnce (t : Nat) : Bool := decide (2 ≤ t) && decide (t ≤ 11) && t != 9
def sectionKnown (t : Nat) : Bool := decide (1 ≤ t) && decide (t ≤ 11)

/-- R341: the placement of a section by its type. -/
def sectionFits (h : OcoHeader) (s : Section) : Bool :=
  match s.type with
  | 1 => s.addr % 32 == 0 && s.size % 32 == 0 && decide (s.addr + s.size ≤ h.codeSize)
  | 2 => s.addr == 0 && s.size == 48 * (h.codeSize / 4096)
  | 3 => s.addr == 0 && decide (s.size ≤ h.gotOff)
  | 4 => s.addr == h.gotOff && s.addr + s.size == h.dataSize && s.size % 8 == 0
  | 5 => s.addr == 0 && s.size % 32 == 0
  | 6 => s.addr == 0 && s.size % 80 == 0
  | 7 => s.addr == 0 && s.size % 16 == 0
  | 8 => s.ignorable && s.size % 32 == 0
  | 9 => s.addr == 0
  | 10 => s.addr == 0
  | 11 => s.addr == 0
  | _ => true

/-- The reserved fields of a section entry. -/
def sectionZero (b : List Byte) (h : OcoHeader) (i : Nat) : Bool :=
  let o := h.sectOff + 32 * i
  leField b (o + 2) 2 / 2 == 0 && zeroRun b (o + 4) 4 && zeroRun b (o + 28) 4

/-- R350 step 3: the first section entry that fails, with its code: 2 BAD_SECTION, 3 UNKNOWN_SECTION. The types of which
exactly one is required are missed at the end of the table. -/
def sectionFault (b : List Byte) (h : OcoHeader) : Option (Nat × Nat) :=
  let secs := (List.range h.nsect).map (sectionAt b h)
  let bad (i : Nat) : Option (Nat × Nat) :=
    let s := sectionAt b h i
    let earlier := secs.take i
    if !sectionZero b h i || b.length < s.offset + s.size then some (2, i)
    else if !sectionKnown s.type then (if s.ignorable then none else some (3, i))
    else if !sectionFits h s then some (2, i)
    else if sectionOnce s.type && earlier.any (fun t => t.type == s.type) then some (2, i)
    else if s.type == 1 && earlier.any (fun t => t.type == 1 && decide (t.addr < s.addr + s.size) &&
        decide (s.addr < t.addr + t.size)) then some (2, i)
    else none
  match (List.range h.nsect).findSome? bad with
  | some x => some x
  | none => if [1, 2, 5, 6].all fun t => secs.any fun s => s.type == t then none else some (2, h.nsect)

/-- The bytes of the section of a type; none present, no bytes. -/
def sectionBytes (b : List Byte) (h : OcoHeader) (t : Nat) : List Byte :=
  match ((List.range h.nsect).map (sectionAt b h)).find? fun s => s.type == t with
  | some s => (b.drop s.offset).take s.size
  | none => []

/-- Writes bytes into a list at an offset. -/
def overlay (l : List Byte) (off : Nat) (bs : List Byte) : List Byte := l.take off ++ bs ++ l.drop (off + bs.length)

/-- The stored code segment: the CODE sections, zero in the gaps (R341). -/
def storedCode (b : List Byte) (h : OcoHeader) : List Byte :=
  (((List.range h.nsect).map (sectionAt b h)).filter fun s => s.type == 1).foldl
    (fun l s => overlay l s.addr ((b.drop s.offset).take s.size)) (List.replicate h.codeSize 0)

/-- The stored data segment (R341). -/
def storedData (b : List Byte) (h : OcoHeader) : List Byte :=
  overlay (overlay (List.replicate h.dataSize 0) 0 (sectionBytes b h 3)) h.gotOff (sectionBytes b h 4)

/-! ### Kernels and variants (R343, R344, R17, R28) -/

/-- R343: a name of letters, digits, `_` and `.`, padded with NUL. -/
def nameOk (l : List Byte) : Bool :=
  let body := l.takeWhile fun c => c != 0
  let ok (c : Byte) : Bool :=
    let n := c.toNat
    (decide (48 ≤ n) && decide (n ≤ 57)) || (decide (65 ≤ n) && decide (n ≤ 90)) ||
    (decide (97 ≤ n) && decide (n ≤ 122)) || n == 95 || n == 46
  !body.isEmpty && body.all ok && (l.drop body.length).all fun c => c == 0

structure KernelRec where
  name : List Byte
  first : Nat
  count : Nat
  deriving DecidableEq, Repr

def kernelAt (k : List Byte) (i : Nat) : KernelRec :=
  { name := (k.drop (32 * i)).take 24, first := leField k (32 * i + 24) 2, count := leField k (32 * i + 26) 2 }

/-- R343: kernel record i against the records before it. -/
def kernelOk (k : List Byte) (nv i : Nat) : Bool :=
  let r := kernelAt k i
  nameOk r.name && decide (1 ≤ r.count) && decide (r.count ≤ 16) && decide (r.first + r.count ≤ nv) &&
  zeroRun k (32 * i + 28) 4 &&
  (List.range i).all fun j =>
    let q := kernelAt k j
    q.name != r.name && (decide (q.first + q.count ≤ r.first) || decide (r.first + r.count ≤ q.first))

/-- R25: the rooms of a full instance by level. -/
def levelRooms (level : Nat) : Option (Nat × Nat) :=
  match level with
  | 0 => some (1, 1) | 1 => some (4, 4) | 2 => some (2, 32) | 3 => some (2, 128) | 4 => some (2, 65536) | _ => none

/-- R26: fields of a domain register image. -/
def dmV (d : Nat) : Bool := d.testBit 31
def dmLevel (d : Nat) : Nat := bitsOf d 30 28
def dmLx (d : Nat) : Nat := bitsOf d 14 10
def dmLy (d : Nat) : Nat := bitsOf d 9 5
def dmLz (d : Nat) : Nat := bitsOf d 4 0

/-- R26, R28: one domain register. -/
def domainOk (d : Nat) : Bool :=
  bitsOf d 27 15 == 0 &&
  (!dmV d ||
    (match levelRooms (dmLevel d) with
     | some x => decide (x.1 ≤ 2 ^ (dmLx d + dmLy d + dmLz d)) && decide (2 ^ (dmLx d + dmLy d + dmLz d) ≤ x.2)
     | none => false) &&
    decide (dmLx d ≤ 16) && decide (dmLy d ≤ 16) && decide (dmLz d ≤ 16) &&
    (dmLevel d != 1 || (dmLx d == 1 && dmLy d == 1 && dmLz d == 0)) &&
    (dmLevel d != 0 || (dmLx d == 0 && dmLy d == 0 && dmLz d == 0)))

/-- R28: every defined register against the ones after it, and no gap in the run. -/
def domainsOk (dm : List Nat) : Bool :=
  dm.all domainOk &&
  (List.range 8).all fun j => (List.range j).all fun i =>
    let a := dm.getD i 0
    let b := dm.getD j 0
    !dmV b || (dmV a && decide (dmLevel a ≤ dmLevel b) && decide (dmLx a ≤ dmLx b) && decide (dmLy a ≤ dmLy b) &&
      decide (dmLz a ≤ dmLz b))

/-- R17, R18: the extents of TEAMXY and TEAMZ images. -/
def extents (xy z : Nat) : Nat × Nat × Nat := (bitsOf xy 15 0 + 1, bitsOf xy 31 16 + 1, bitsOf z 15 0 + 1)

/-- The footprint record at an offset of FOOTPRINTS, when R295 accepts it. -/
def footprintAt (f : List Byte) (off : Nat) : Option (List Byte) :=
  if off % 64 != 0 || f.length < off + 64 then none
  else
    let record := (f.drop off).take (fpLength (fromBytes ((f.drop off).take 64)))
    if fpRecordOk record then some record else none

/-- Variant record j: its fields with PROF, SELOFF and SELLEN; none when R344 rejects it. -/
def variantAt (v f : List Byte) (codeSize j : Nat) : Option (Variant × Nat × Nat) :=
  let o := 80 * j
  let x := extents (leField v (o + 0x10) 4) (leField v (o + 0x14) 4)
  let dm := (List.range 8).map fun i => leField v (o + 0x20 + 4 * i) 4
  let entry := leField v o 4
  let prof := leField v (o + 4) 4
  let attic := leField v (o + 0x18) 4
  match footprintAt f (leField v (o + 0x40) 4) with
  | none => none
  | some fp =>
    if entry % 32 == 0 && decide (entry < codeSize) && prof.testBit 0 && attic % 65536 == 0 && zeroRun v (o + 0x0E) 2 &&
        zeroRun v (o + 0x16) 2 && zeroRun v (o + 0x1D) 3 && zeroRun v (o + 0x44) 12 && domainsOk dm &&
        decide (x.1 * x.2.1 * x.2.2 ≤ 65536)
    then some ({ entry := entry, prof := prof, nx := x.1, ny := x.2.1, nz := x.2.2, attic := attic,
                 ovsz := leField v (o + 0x1C) 1, dm := dm, fp0 := fp }, leField v (o + 8) 4, leField v (o + 0x0C) 2)
    else none

/-! ### Selectors (R346 to R348) -/

/-- R98: the cores in service: those with fewer than two failed banks. -/
def State.inService (s : State) : List Nat := (s.cores.filter fun k => decide (k.num < 128) && decide (k.failed.length < 2)).map fun k => k.num

/-- R420: the packages that routes join to this one, itself included. -/
def State.packages (s : State) : Nat :=
  1 + ((s.routing.routes.filter fun r => r.1 == s.routing.self && r.2.1 != s.routing.self).map fun r => r.2.1).eraseDups.length

/-- R347: the quantities, sampled at the LOAD command. -/
def State.quantity (s : State) (q : Nat) : Option Nat :=
  match q with
  | 0 => some s.inService.length
  | 1 => some ((s.inService.map floorOf).eraseDups.length)
  | 2 => some 16777216
  | 3 => some Config.baysPerCore
  | 4 => some Config.profiles
  | 5 => some 0xB0
  | 6 => some s.packages
  | 7 => some Config.hbmBytes
  | _ => none

/-- The outcome of a selector: its truth, or a breach of R348. -/
inductive SelEnd where
  | is (b : Bool) | bad
  deriving DecidableEq, Repr

/-- A binary operation of R348. -/
def selOp (op a b : Nat) : Option Nat :=
  match op with
  | 0x10 => some (b2n (a == b)) | 0x11 => some (b2n (a != b)) | 0x12 => some (b2n (decide (a < b)))
  | 0x13 => some (b2n (decide (a ≤ b))) | 0x14 => some (b2n (decide (b < a))) | 0x15 => some (b2n (decide (b ≤ a)))
  | 0x18 => some (b2n (a != 0 && b != 0)) | 0x19 => some (b2n (a != 0 || b != 0)) | 0x1B => some (a &&& b)
  | _ => none

/-- R348: runs a selector. `unknown` notes a quantity index that R347 does not name. -/
def selRun (q : Nat → Option Nat) : Nat → Bool → List Nat → List Byte → SelEnd
  | 0, _, _, _ => .bad
  | _ + 1, _, _, [] => .bad
  | fuel + 1, unknown, st, c :: rest =>
    let push (u : Bool) (v : Nat) (l : List Byte) : SelEnd :=
      if 16 ≤ st.length then .bad else selRun q fuel u (v :: st) l
    match c.toNat with
    | 0x00 => (match st with | [v] => if rest.isEmpty then .is (v != 0 && !unknown) else .bad | _ => .bad)
    | 0x01 =>
      (match rest with
       | i :: l => (match q i.toNat with | some v => push unknown v l | none => push true 0 l)
       | [] => .bad)
    | 0x02 => if rest.length < 8 then .bad else push unknown (fromBytes (rest.take 8)) (rest.drop 8)
    | 0x1A => (match st with | a :: l => selRun q fuel unknown (b2n (a == 0) :: l) rest | [] => .bad)
    | op =>
      (match st with
       | b :: a :: l => (match selOp op a b with | some v => selRun q fuel unknown (v :: l) rest | none => .bad)
       | _ => .bad)

/-- The selector of a variant; a length of 0 is always true (R344). -/
def selectorOf (q : Nat → Option Nat) (sel : List Byte) (off len : Nat) : SelEnd :=
  if len = 0 then .is true
  else if sel.length < off + len then .bad
  else selRun q (len + 1) false [] ((sel.drop off).take len)

/-! ### Notes (R349) -/

/-- R349: reads the notes of a NOTE section: the index of the first that rejects the load (counted from n), whether one
declares a variation, and how many there are. -/
def notesRun : Nat → Nat → List Byte → Option Nat × Bool × Nat
  | 0, n, _ => (none, false, n)
  | fuel + 1, n, b =>
    if b.isEmpty then (none, false, n)
    else
      let size := leField b 8 4
      let total := 16 + cdiv size 8 * 8
      let type := leField b 0 4
      let flags := leField b 4 2
      let bad := b.length < total || flags / 2 != 0 || !zeroRun b 6 2 || !zeroRun b 12 4 ||
        (type == 2 && flags == 1 && decide (0xB0 < leField b 16 1)) ||
        (flags == 1 && !(type == 1 || type == 2 || type == 3))
      if bad then (some n, false, n)
      else
        let x := notesRun fuel (n + 1) (b.drop total)
        (x.1, x.2.1 || type == 3, x.2.2)

/-- All NOTE sections in table order. -/
def notesOf (b : List Byte) (h : OcoHeader) : Option Nat × Bool × Nat :=
  (((List.range h.nsect).map (sectionAt b h)).filter fun s => s.type == 9).foldl
    (fun acc s => match acc.1 with
      | some _ => acc
      | none => let x := notesRun (s.size + 1) acc.2.2 ((b.drop s.offset).take s.size); (x.1, acc.2.1 || x.2.1, x.2.2))
    (none, false, 0)

/-! ### Relocations (R352 to R355) -/

def relocAt (r : List Byte) (i : Nat) : Reloc :=
  { place := leField r (16 * i) 4, kind := leField r (16 * i + 4) 1, slot := leField r (16 * i + 5) 1,
    seg := leField r (16 * i + 6) 1, tseg := leField r (16 * i + 7) 1, tval := leField r (16 * i + 8) 4,
    addend := sext (leField r (16 * i + 12) 4) 32 }

/-- R352: V = T + ADDEND, exact. -/
def Reloc.value (r : Reloc) (lb : Nat) (h : OcoHeader) : Int :=
  (match r.tseg with
   | 0 => (lb + r.tval : Nat) | 1 => (h.sdb + r.tval : Nat) | _ => (h.sdb + h.gotOff + 8 * r.tval : Nat)) + r.addend

/-- R352: the target lies within its segment or the GOT. -/
def Reloc.targetOk (r : Reloc) (h : OcoHeader) : Bool :=
  match r.tseg with
  | 0 => decide (r.tval < h.codeSize)
  | 1 => decide (r.tval < h.dataSize)
  | 2 => decide (r.tval < (h.dataSize - h.gotOff) / 8)
  | _ => false

/-- R142: the slot field that a code relocation names, in the 32 bytes of its bundle. -/
def slotField (bundle slot : Nat) : Nat := if slot = 1 then bitsOf bundle 111 64 else bitsOf bundle 63 16

/-- R145: place and width of the immediate that a code kind writes in its slot word. -/
def relocField (kind : Nat) : Nat × Nat :=
  match kind with | 1 => (14, 20) | 3 => (14, 20) | 7 => (12, 24) | _ => (7, 12)

/-- R353: the opcodes a code kind may stand at. -/
def relocOpOk (kind op : Nat) : Bool :=
  match kind with
  | 1 => op == 0x3C | 3 => op == 0x3C
  | 7 => op == 0x60 || op == 0x62
  | _ => op == 0x30 || op == 0x41 || (decide (0x48 ≤ op) && decide (op ≤ 0x55))

/-- R353: the required segment and target segment of a kind; none for a kind that is not assigned. -/
def relocShape (r : Reloc) : Bool :=
  match r.kind with
  | 1 => r.seg == 0 && r.tseg == 1 && decide (r.slot ≤ 1)
  | 2 => r.seg == 0 && r.tseg == 1 && decide (r.slot ≤ 1)
  | 3 => r.seg == 0 && r.tseg == 2 && decide (r.slot ≤ 1)
  | 4 => r.seg == 0 && r.tseg == 2 && decide (r.slot ≤ 1)
  | 5 => r.seg == 1 && r.slot == 0 && r.place % 8 == 0
  | 6 => r.seg == 1 && r.slot == 0 && r.place % 4 == 0
  | 7 => r.seg == 0 && r.tseg == 0 && r.slot == 0
  | _ => false

/-- R353: whether the place exists, holds a fitting instruction, and its field is zero. -/
def relocPlaceOk (r : Reloc) (code data : List Byte) : Bool :=
  if r.seg = 0 then
    let w := leField code r.place 32
    let f := slotField w r.slot
    let x := relocField r.kind
    r.place % 32 == 0 && decide (r.place + 32 ≤ code.length) && bitsOf w 15 14 == 0 && relocOpOk r.kind (f >>> 40) &&
    (f >>> x.1) % 2 ^ x.2 == 0
  else
    let n := if r.kind = 5 then 8 else 4
    decide (r.place + n ≤ data.length) && leField data r.place n == 0

/-- R353: the range of V. -/
def relocRangeOk (r : Reloc) (lb : Nat) (v : Int) : Bool :=
  match r.kind with
  | 5 => decide (0 ≤ v) && decide (v < 2 ^ 64)
  | 7 =>
    let d := v - (lb + r.place : Nat)
    d % 32 == 0 && decide (-(2 ^ 23) ≤ d / 32) && decide (d / 32 < 2 ^ 23)
  | _ => decide (0 ≤ v) && decide (v < 2 ^ 32)

/-- R350 step 8: the first relocation record that fails, with its code: 8 BAD_RELOC, 9 RELOC_RANGE. -/
def relocFault (rs : List Reloc) (code data : List Byte) (lb : Nat) (h : OcoHeader) : Option (Nat × Nat) :=
  (rs.zipIdx).findSome? fun x =>
    let r := x.1
    if !relocShape r || !r.targetOk h || !relocPlaceOk r code data then some (8, x.2)
    else if !relocRangeOk r lb (r.value lb h) then some (9, x.2)
    else none

/-- R355: the data segment with its relocations applied. -/
def relocData (rs : List Reloc) (data : List Byte) (lb : Nat) (h : OcoHeader) : List Byte :=
  (rs.filter fun r => r.seg == 1).foldl
    (fun l r => let n := if r.kind = 5 then 8 else 4; overlay l r.place (toBytes n (wrapTo (8 * n) (r.value lb h)))) data

/-- R353, R354: the immediate that a code kind writes. -/
def relocImm (r : Reloc) (lb : Nat) (v : Int) : Nat :=
  let hi : Int := (v + 0x800) / 4096
  match r.kind with
  | 1 => wrapTo 20 hi
  | 3 => wrapTo 20 hi
  | 7 => wrapTo 24 ((v - (lb + r.place : Nat)) / 32)
  | _ => wrapTo 12 (v - 4096 * hi)

/-- Writes a field of a bundle. -/
def setField (w : BitVec 256) (at_ width v : Nat) : BitVec 256 :=
  (w &&& ~~~(BitVec.ofNat 256 ((2 ^ width - 1) <<< at_))) ||| BitVec.ofNat 256 (v <<< at_)

/-- R355: applies a code relocation to the bundles of its page. -/
def relocBundle (l : LoadedObj) (page : Nat) (bs : List (BitVec 256)) (r : Reloc) : List (BitVec 256) :=
  if r.seg = 0 && r.place / 4096 = page then
    let h : OcoHeader := { nsect := 0, sectOff := 0, prefBase := 0, codeSize := l.codeSize, dataSize := l.dataSize,
                           sdb := l.sdb, gotOff := l.gotOff, dataHash := 0 }
    let at_ := (if r.slot = 1 then 64 else 16) + (relocField r.kind).1
    modAt (fun w => setField w at_ (relocField r.kind).2 (relocImm r l.lb (r.value l.lb h))) (r.place % 4096 / 32) bs
  else bs

/-! ### LOAD (R350, R351) -/

/-- R351: LB is aligned and its code range mapped and writable by the loader. -/
def State.loadBaseOk (s : State) (asid lb codeSize : Nat) : Bool :=
  lb % 65536 == 0 && decide (lb + codeSize ≤ 2 ^ 52) &&
  (List.range (cdiv codeSize 65536)).all fun i => (s.hallPlace asid (lb + 65536 * i) .write).isSome

/-- R346: the choice of a kernel among its variants. -/
def chooseVariant (vs : List (Variant × Nat × Nat)) (sel : Variant × Nat × Nat → SelEnd) (k : KernelRec) :
    Option Variant :=
  (((vs.drop k.first).take k.count).find? fun v =>
    v.1.prof &&& Config.profiles == v.1.prof && sel v == .is true).map Prod.fst

/-- What the checks of an object come to: a code with an index, or a load without its handle and the code bytes. -/
inductive LoadEnd where
  | bad (code idx : Nat)
  | good (l : LoadedObj) (code : List Byte) (hashes : List Byte)

/-- R350: the checks in order. -/
def State.checkObject (s : State) (asid : Nat) (b : List Byte) (lbAsked : Nat) : LoadEnd :=
  match ocoHeader b with
  | none => .bad 0x01 0
  | some h =>
    let lb := if lbAsked = 2 ^ 64 - 1 then h.prefBase else lbAsked
    if !s.loadBaseOk asid lb h.codeSize then .bad 0x0A 0
    else
      match sectionFault b h with
      | some x => .bad x.1 x.2
      | none =>
        let code := storedCode b h
        let data := storedData b h
        if sha384 data != h.dataHash then .bad 0x04 0
        else
          let kb := sectionBytes b h 5
          let vb := sectionBytes b h 6
          let fb := sectionBytes b h 11
          let sb := sectionBytes b h 10
          let ph := sectionBytes b h 2
          let nk := kb.length / 32
          let nv := vb.length / 80
          match (List.range nk).find? (fun i => !kernelOk kb nv i) with
          | some i => .bad 0x05 i
          | none =>
            match (List.range nv).find? (fun j => (variantAt vb fb h.codeSize j).isNone) with
            | some j => .bad 0x05 (nk + j)
            | none =>
              let notes := notesOf b h
              match notes.1 with
              | some i => .bad 0x07 i
              | none =>
                let vs := (List.range nv).filterMap (variantAt vb fb h.codeSize)
                let sel (v : Variant × Nat × Nat) : SelEnd := selectorOf s.quantity sb v.2.1 v.2.2
                match (vs.zipIdx).find? (fun v => sel v.1 == .bad) with
                | some v => .bad 0x06 v.2
                | none =>
                  let rb := sectionBytes b h 7
                  let rs := (List.range (rb.length / 16)).map (relocAt rb)
                  match relocFault rs code data lb h with
                  | some x => .bad x.1 x.2
                  | none =>
                    .good { handle := 0, asid := asid, lb := lb, codeSize := h.codeSize, dataSize := h.dataSize,
                            sdb := h.sdb, gotOff := h.gotOff, data := relocData rs data lb h,
                            kernels := (List.range nk).map fun i => chooseVariant vs sel (kernelAt kb i),
                            pageHash := (piecesOf 48 (h.codeSize / 4096) ph).map beNat, relocs := rs,
                            varies := notes.2.1, failed := false, badOffset := 0 } code
                      (((b.drop 0x30).take 48) ++ ph)

/-- R407: a restow holds bytes of an object, or of the code range that its LOAD writes. -/
def State.loadHeld (s : State) (asid objVa size lb : Nat) : Bool :=
  !s.restows.isEmpty &&
  (s.hallHeld asid objVa size .read ||
   (match (s.hallRead asid objVa size).map fun b => s.checkObject asid b lb with
    | some (.good l _ _) => s.hallHeld asid l.lb l.codeSize .write
    | _ => false))

/-- `LOAD` (R350). The reply holds the handle, the LB used, whether a variation is declared, and for each kernel
whether it is available; or the index that a rejection reports. -/
def execLoad (h : CmdHdr) (asid objVa size : Nat) (lb : DWord) (s : State) : Host.Outcome State Fault Refusal :=
  cmdHeld h (.load h asid objVa size lb) privNone (fun s => s.loadHeld asid objVa size lb.toNat) (fun s _ =>
    let m := s.hallMeets asid objVa size
    match s.hallRead asid objVa size with
    | none => (m, .refused)
    | some b =>
      match s.checkObject asid b lb.toNat with
      | .bad code idx => (m, { status := code, data := [idx], bytes := [] })
      | .good l code hashes =>
        let w := m.hallWrite asid l.lb code
        if !w.2 then (m, { status := 0x0A, data := [0], bytes := [] })
        else
          let t := w.1
          ({ t with loads := { l with handle := t.nextHandle } :: t.loads, nextHandle := t.nextHandle + 1,
                    mgmt := { t.mgmt with loadHashes := t.mgmt.loadHashes ++ hashes } },
           .words ([t.nextHandle, l.lb, b2n l.varies] ++ l.kernels.map fun k => b2n k.isSome))) s

/-- A team that is queued or admitted (R359): not yet retired or cancelled. -/
def Team.live (t : Team) : Bool :=
  match t.state with | .retired => false | .cancelled => false | _ => true

/-- `UNLOAD` (R359). -/
def execUnload (h : CmdHdr) (handle : Nat) (s : State) : Host.Outcome State Fault Refusal :=
  cmdOp h (.unload h handle) privNone (fun s _ =>
    if (s.load? handle).isNone || s.teams.any (fun t => t.live && t.launch.loadH == handle) then (s, .refused)
    else ({ s with loads := s.loads.filter fun l => l.handle != handle,
                   pages := s.pages.filter fun p => p.load != handle
                   cores := s.cores.map fun k => { k with loopBuf := k.loopBuf.filter fun b => b.load != handle } }, .done)) s

/-! ### Code pages (R357, R358) -/

/-- R358: the cause of a load whose page at an offset fails. -/
def codeIntegrity (offset : Nat) : Cause := { code := 0x24, slot := 5, sub := 0, aux := 0, index := offset }

/-- R358: a load fails: its queued launches are rejected, and every other room of it takes CODE_INTEGRITY; rooms of a
suspended team take it at their readmission. -/
def State.failLoad (s : State) (handle : Nat) (fetcher : RoomId) (offset : Nat) : State :=
  let k := codeIntegrity offset
  let queued := s.teams.filter fun t => t.state == .queued && t.launch.loadH == handle
  let s1 : State :=
    { s with loads := mapIf (fun l => l.handle == handle) (fun l => { l with failed := true, badOffset := offset }) s.loads
             teams := mapIf (fun t => t.state == .queued && t.launch.loadH == handle) (fun t => { t with state := .cancelled })
               s.teams }
  let s2 := queued.foldl (fun s t => s.post (.reject 0x02 t.sub)) s1
  let s3 := (s2.rooms.filter fun r => r.loadH == handle && r.id != fetcher && r.life != .halted).foldl
    (fun s r => s.foundCause r.id k) s2
  let s4 := s3.focus fetcher
  if s4.me.id = fetcher then s4.takeTrap k s4.me.ctx.pc else s4

/-- The bundles of a page of bytes. -/
def bundlesOf (b : List Byte) : List (BitVec 256) := (piecesOf 32 (b.length / 32) b).map fun l => BitVec.ofNat 256 (fromBytes l)

/-- The lowest of n frames of a core's instruction store, counted from `f`, that no resident page takes. -/
def freeFrame (used : List Nat) : Nat → Nat → Nat
  | 0, f => f
  | n + 1, f => if used.contains f then freeFrame used n (f + 1) else f

/-- R357, R359, R404: a page becomes resident: the fill may evict pages of its core, which, the manual leaves open (log 23), and
takes back the lines of its frame that the victim store borrowed. -/
def State.placePage (s : State) (core load page : Nat) (bundles : List (BitVec 256)) : State :=
  let left := (s.pages.zipIdx).filterMap fun p => if p.1.core == core && Config.freeChoice (s.free + p.2) then none else some p.1
  let used := (left.filter fun p => p.core == core).map fun p => p.frame
  let x : CodePage := { core := core, load := load, page := page, frame := freeFrame used used.length 0, bundles := bundles }
  State.takeBack { s with pages := x :: left, free := s.free + s.pages.length }

/-- R357, R358: the bytes of a page have come for a held room: they are checked, relocated and resident, or the room
freezes. -/
def State.takeCodePage (s : State) (x : Room) (l : LoadedObj) (p : Nat) (bytes : List Byte) (bad : Bool) : State :=
  if bad then
    let s1 := s.focus x.id
    (s1.count (coreCounter x.core 0x0A) 1).takeTrap { cause 0x22 5 with sub := 0 } s1.me.ctx.pc
  else if l.failed then
    let s1 := s.focus x.id
    s1.takeTrap (codeIntegrity l.badOffset) s1.me.ctx.pc
  else if some (sha384 bytes) != l.pageHash[p]? then s.failLoad l.handle x.id (4096 * p)
  else
    let bs := l.relocs.foldl (relocBundle l p) (bundlesOf bytes)
    (s.placePage x.core l.handle p bs).onRoom x.id Room.endHold

/-- `CODE_PAGE_FILL` (R357, R358, R402): the page that a held room needs is filled, or the room freezes with the fault. -/
def execCodePageFill (r : RoomId) (s : State) : Host.Outcome State Fault Refusal :=
  .next (match s.room? r with
    | none => s
    | some x =>
      match x.stop, s.load? x.loadH with
      | .hold (.codePage p), some l =>
        let va := l.lb + 4096 * p
        let t := s.reachFresh x (.codePageFill r) va 4096 .fetch
        (match t.2 with
         | .ok places => let b := t.1.readReach places; t.1.takeCodePage x l p b.1 b.2
         | .fault c sub =>
           let s1 := t.1.focus r
           s1.takeTrap { code := c, slot := 5, sub := sub, aux := 0, index := 0, va := va, acc := .fetch } s1.me.ctx.pc
         | .remote l => t.1.askPeers l
         | _ => t.1)
      | _, _ => s)

end Sys2Proof.Machine
end

