-- ==== Sys2Proof/Machine/Launch.lean ====
section
/-! DEFINITION. From launch to issue: launch records, basins and dependences, admission and placement, pre-emption and
the end of a team (17, R365 to R377; 10, R285). -/

namespace Sys2Proof.Machine

/-! ### The launch record (R365, R366) -/

/-- The footprint list. -/
def footEntryAt (b : List Byte) (i : Nat) : FootEntry :=
  { va := leField b (16 * i) 8, len := bitsOf (leField b (16 * i + 8) 8) 47 0,
    w := (leField b (16 * i + 8) 8).testBit 63 }
def footEntryOk (b : List Byte) (i : Nat) : Bool :=
  let w1 := leField b (16 * i + 8) 8
  decide (leField b (16 * i) 8 < 2 ^ 52) && bitsOf w1 62 48 == 0 && bitsOf w1 47 0 != 0

/-- The preload list. -/
def preloadAt (b : List Byte) (i : Nat) : Preload :=
  let w1 := leField b (32 * i + 8) 8
  { src := leField b (32 * i) 8, kind := bitsOf w1 7 0, room := bitsOf w1 31 16, len := bitsOf w1 63 32,
    dest := leField b (32 * i + 16) 8 }
def preloadOk (b : List Byte) (rooms i : Nat) : Bool :=
  let p := preloadAt b i
  decide (p.src < 2 ^ 52) && bitsOf (leField b (32 * i + 8) 8) 15 8 == 0 && decide (p.kind ≤ 1) &&
  (if p.kind = 0 then decide (p.dest < 2 ^ 24) else decide (p.dest < 32) && p.len == 16) &&
  leField b (32 * i + 24) 8 == 0 && (p.room == 0xFFFF || decide (p.room < rooms))

/-- The timed schedule. -/
def timedAt (b : List Byte) (i : Nat) : TimedSpec :=
  let w1 := leField b (16 * i + 8) 8
  { tofs := leField b (16 * i) 8, src := bitsOf w1 15 0, dst := bitsOf w1 31 16, tper := bitsOf w1 52 32 }
def timedOk (b : List Byte) (i : Nat) : Bool :=
  let t := timedAt b i
  leField b (16 * i + 8) 8 >>> 53 == 0 && decide (64 ≤ t.tper) && decide (t.tper ≤ 2 ^ 20)

/-- R365: the record with its three lists. -/
def launchRecAt (b fl pl tl : List Byte) : LaunchRec :=
  { loadH := leField b 0x00 8, kidx := leField b 0x08 2, basin := leField b 0x0A 1, time := (leField b 0x0B 1).testBit 0,
    noDiscard := (leField b 0x0B 1).testBit 1, stream := leField b 0x0C 2, nb := leField b 0x0E 1,
    argva := leField b 0x10 8, spsize := leField b 0x18 4, fxen := leField b 0x1C 2, qxen := leField b 0x1E 2,
    ovbase := leField b 0x20 8, drainCy := leField b 0x28 4, stopCy := leField b 0x2C 4,
    foot := (List.range (leField b 0x38 2)).map (footEntryAt fl), preload := (List.range (leField b 0x3A 2)).map (preloadAt pl),
    timed := (List.range (leField b 0x3C 2)).map (timedAt tl), ctxva := leField b 0x50 8 }

/-- R365: reserved fields and ranges of the record itself. -/
def launchFixedOk (b : List Byte) : Bool :=
  decide (leField b 0x0A 1 ≤ 63) && decide (leField b 0x0B 1 < 4) && decide (leField b 0x0C 2 ≤ 4095) &&
  decide (leField b 0x0E 1 ≤ 32) && leField b 0x0F 1 == 0 && decide (leField b 0x1C 2 < 32) &&
  decide (leField b 0x1E 2 < 8) && leField b 0x20 8 % 65536 == 0 && decide (leField b 0x38 2 ≤ 64) &&
  decide (leField b 0x3A 2 ≤ 256) && decide (leField b 0x3C 2 ≤ 1024) && leField b 0x3E 2 == 0 && zeroRun b 0x58 40

/-- The record and its lists as the hall reads them; none when bytes are unreadable or a rule of the record breaks
(0x01 BAD_RECORD). The rooms of the kernel bound the rooms a preload entry may name. -/
def State.readLaunch (s : State) (asid recVa : Nat) : Option LaunchRec := do
  let b ← s.hallRead asid recVa 128
  if launchFixedOk b then
    let fl ← s.hallRead asid (leField b 0x30 8) (16 * leField b 0x38 2)
    let pl ← s.hallRead asid (leField b 0x40 8) (32 * leField b 0x3A 2)
    let tl ← s.hallRead asid (leField b 0x48 8) (16 * leField b 0x3C 2)
    let rooms := match s.load? (leField b 0x00 8) with
      | some l => (match l.kernels.getD (leField b 0x08 2) none with | some v => v.nx * v.ny * v.nz | none => 65536)
      | none => 65536
    if (List.range (leField b 0x38 2)).all (footEntryOk fl) && (List.range (leField b 0x3A 2)).all (preloadOk pl rooms) &&
        (List.range (leField b 0x3C 2)).all (timedOk tl)
    then some (launchRecAt b fl pl tl)
    else none
  else none

/-- The runs of bytes that the hall reads for a launch. -/
def State.launchRuns (s : State) (asid recVa : Nat) : List (Nat × Nat) :=
  (recVa, 128) :: (match s.hallRead asid recVa 128 with
    | some b =>
      if launchFixedOk b then
        [(leField b 0x30 8, 16 * leField b 0x38 2), (leField b 0x40 8, 32 * leField b 0x3A 2), (leField b 0x48 8, 16 * leField b 0x3C 2)]
      else []
    | none => [])

/-- R124, R428: what the hall's reads of some runs of bytes leave. -/
def State.runsMeet (s : State) (asid : Nat) (l : List (Nat × Nat)) : State := l.foldl (fun s x => s.hallMeets asid x.1 x.2) s

/-- R407: a restow holds some of the runs that the hall reads. -/
def State.runsHeld (s : State) (asid : Nat) (l : List (Nat × Nat)) : Bool := l.any fun x => s.hallHeld asid x.1 x.2 .read

/-! ### The checks of a launch (R367) -/

def Variant.rooms (v : Variant) : Nat := v.nx * v.ny * v.nz

/-- R3, R420: package, floor, and column and row of a core of a package. -/
def coreCol (core : Nat) : Nat := core % 8
def coreRow (core : Nat) : Nat := let c := core % 128; if c < 64 then c / 8 else c / 8 + 1
/-- R25: the quad of a core. -/
def quadOf (core : Nat) : Nat := core / 32 * 8 + core % 32 / 16 * 4 + core % 8 / 2

/-- The greatest number of rooms of one instance of a domain register in a team (R27). -/
def instanceRooms (v : Variant) (d : Nat) : Nat :=
  min (2 ^ dmLx d) v.nx * (min (2 ^ dmLy d) v.ny * min (2 ^ dmLz d) v.nz)

/-- The most cores of a list that one group holds. -/
def largestGroup (group : Nat → Nat) (cores : List Nat) : Nat :=
  (cores.map fun c => (cores.filter fun x => group x == group c).length).foldl max 0

/-- R25, R20: the cores in service that one instance of a level may use. -/
def State.instanceCores (s : State) (level : Nat) : Nat :=
  let cores := s.inService
  match level with
  | 0 => min 1 cores.length
  | 1 => largestGroup quadOf cores
  | 2 => largestGroup (fun c => c / 32) cores
  | 3 => cores.length
  | _ => cores.length + 128 * (s.packages - 1)

/-- R367 code 0x06. -/
def State.tooBig (s : State) (v : Variant) : Bool :=
  decide (8 * (s.inService.length + 128 * (s.packages - 1)) < v.rooms) ||
  v.dm.any fun d => dmV d && decide (8 * s.instanceCores (dmLevel d) < instanceRooms v d)

/-- R366, R367 code 0x07: what is judged without a room map. -/
def timedBad (l : LaunchRec) (v : Variant) : Bool :=
  (!l.timed.isEmpty && !l.time) ||
  l.timed.any fun t => decide (v.rooms ≤ t.src) || decide (v.rooms ≤ t.dst) ||
    decide (16 < (l.timed.filter fun x => x.src == t.src).length)

/-- R367: code 0x05. -/
def spaceBad (l : LaunchRec) (v : Variant) (o : LoadedObj) : Bool :=
  l.spsize % 65536 != 0 || l.spsize == 0 || decide (0x1000000 < l.spsize) || decide (l.spsize < v.attic) ||
  decide (l.spsize - v.attic < o.sdb + o.dataSize) ||
  l.preload.any fun p => p.kind == 0 && decide (l.spsize < p.dest + p.len)

/-! ### Basins, dependences and eligibility (R368 to R371) -/

def State.team? (s : State) (sub : Nat) : Option Team := s.teams.find? fun t => t.sub == sub
def State.onTeam (s : State) (sub : Nat) (f : Team → Team) : State :=
  { s with teams := mapIf (fun t => t.sub == sub) f s.teams }

/-- Waits in its basin: queued or suspended. -/
def Team.waiting (t : Team) : Bool := match t.state with | .queued => true | .suspended => true | _ => false

/-- R369: overlap on virtual addresses with a write on one side. -/
def footMeets (a b : List FootEntry) : Bool :=
  a.any fun x => b.any fun y => (x.w || y.w) && decide (x.va < y.va + y.len) && decide (y.va < x.va + x.len)

/-- R369: the live launches that a new one depends on. -/
def State.depsOf (s : State) (l : LaunchRec) : List Nat :=
  (s.teams.filter fun t => t.live && t.launch.stream == l.stream && footMeets t.launch.foot l.foot).map fun t => t.sub

/-- R371: a launch whose dependences have all retired becomes eligible. -/
def State.refreshEligible (s : State) : State :=
  let free (t : Team) : Bool :=
    t.state == .queued && t.eligibleAt.isNone && t.deps.all fun d => match s.team? d with | some x => !x.live | none => true
  { s with teams := mapIf free (fun t => { t with eligibleAt := some s.hall.tb }) s.teams }

/-- `BASINCFG` (R368). -/
def execBasincfg (h : CmdHdr) (basin cls weight : Nat) (s : State) : Host.Outcome State Fault Refusal :=
  cmdOp h (.basincfg h basin cls weight) privAdmin (fun s _ =>
    if basin ≤ 63 && cls ≤ 3 && 1 ≤ weight && weight ≤ 255 then
      ({ s with basins := mapIf (fun b => b.num == basin) (fun b => { b with cls := cls, weight := weight }) s.basins, roundDue := true }, .done)
    else (s, .malformed)) s

/-! ### The candidate of a round (R372) -/

/-- R372: the candidate of a basin. -/
def State.candidate (s : State) (basin : Nat) : Option Team :=
  (s.teams.filter fun t => t.waiting && t.launch.basin == basin && t.eligibleAt.isSome).foldl
    (fun (b : Option Team) t => match b with
      | none => some t
      | some x => if t.sub < x.sub then some t else some x) none

/-- R372: the effective class of an eligible launch. -/
def State.effClass (s : State) (t : Team) : Nat :=
  let cls := match s.basins.find? fun b => b.num == t.launch.basin with | some b => b.cls | none => 0
  match t.eligibleAt with
  | some e => min 3 (cls + (s.hall.tb - e) / 2 ^ 16 / 10 ^ 6)
  | none => cls

/-- The basins with a candidate of a class. -/
def State.basinsOf (s : State) (cls : Nat) : List Nat :=
  (List.range 64).filter fun b => match s.candidate b with | some t => s.effClass t == cls | none => false

/-- R372: the basin that the class pointer serves, and the pointer after its admission. -/
def State.servedBasin (s : State) (cls : Nat) : Option (Nat × (Nat × Nat)) :=
  let p := s.pointers.getD cls (0, 0)
  let bs := s.basinsOf cls
  let w := match s.basins.find? fun b => b.num == p.1 with | some b => b.weight | none => 1
  if bs.contains p.1 && p.2 < w then some (p.1, (p.1, p.2 + 1))
  else
    match (bs.filter fun b => decide (p.1 < b)) ++ bs with
    | b :: _ => some (b, (b, 1))
    | [] => none

/-- R372: the current candidate of the round, of the highest class, with its class and the pointer after it. -/
def State.current (s : State) : Option (Team × Nat × (Nat × Nat)) :=
  [3, 2, 1, 0].findSome? fun c => match s.servedBasin c with
    | some (b, p) => (s.candidate b).map fun t => (t, c, p)
    | none => none

/-! ### Placement (R20, R25, R373) -/

/-- Coordinates of a linear index (R17). -/
def coords (v : Variant) (lin : Nat) : Nat × Nat × Nat := (lin % v.nx, lin / v.nx % v.ny, lin / (v.nx * v.ny))

/-- R27: the instance of a domain image that a linear index belongs to. -/
def instOf (v : Variant) (d lin : Nat) : Nat × Nat × Nat :=
  let c := coords v lin
  (c.1 / 2 ^ dmLx d, c.2.1 / 2 ^ dmLy d, c.2.2 / 2 ^ dmLz d)

/-- R25: two rooms of one instance of a level may stand on two cores. -/
def levelAllows (level a b : Nat) : Bool :=
  match level with
  | 0 => a == b | 1 => quadOf a == quadOf b | 2 => a / 32 == b / 32 | 3 => a / 128 == b / 128 | _ => true

/-- R420: the packages a map may use: this one and those that a route joins to it. -/
def State.packageOk (s : State) (p : Nat) : Bool :=
  p == 0 || (s.route? 0 p).isSome

/-- A core of this package is in service; cores of other packages are those that their halls offer. -/
def State.coreUsable (s : State) (core : Nat) : Bool :=
  s.packageOk (core / 128) && (128 ≤ core || s.inService.contains core)

/-- A core that holds no admitted team (R371). -/
def State.coreFree (s : State) (core : Nat) : Bool := !(s.rooms.any fun r => r.core == core && r.life != .ended)

/-- R20, R25, R373: whether a room map may be taken for a launch. -/
def mapFits (l : LaunchRec) (v : Variant) (map : List Placing) : Bool :=
  let on (c : Nat) : Nat := (map.filter fun p => p.core == c).length
  map.length == v.rooms && ((List.range v.rooms).all fun i => map.any fun p => p.lin == i) &&
  (map.all fun p =>
    decide (on p.core ≤ 8) && decide (on p.core * l.spsize ≤ 0x1000000) && decide (on p.core * l.nb ≤ 32)) &&
  v.dm.all fun d => !dmV d || map.all fun p => map.all fun q =>
    instOf v d p.lin != instOf v d q.lin || levelAllows (dmLevel d) p.core q.core

/-- R371, R373: the same on cores that may be used now. -/
def State.mapOk (s : State) (t : Team) (map : List Placing) : Bool :=
  (map.all fun p => s.coreUsable p.core && s.coreFree p.core) && mapFits t.launch t.variant map

/-- Cores with room left for `k` rooms each, that level a core's group at. -/
def spaceLeft (cores : List Nat) (k : Nat) (placed : List Placing) (fits : Nat → Bool) : Nat :=
  ((cores.filter fits).map fun c => k - (placed.filter fun p => p.core == c).length).foldl (· + ·) 0

/-- R25: a room may stand on a core after the rooms placed: there is space for it, and in the core's group for the rest of each
of its instances. -/
def mayStand (v : Variant) (cores : List Nat) (k : Nat) (placed : List Placing) (lin core : Nat) : Bool :=
  decide ((placed.filter fun p => p.core == core).length < k) &&
  v.dm.all fun d => !dmV d ||
    (let same (x : Nat) : Bool := instOf v d x == instOf v d lin
     let mine := placed.filter fun p => same p.lin
     (mine.all fun p => levelAllows (dmLevel d) p.core core) &&
     decide (((List.range v.rooms).filter same).length ≤
       mine.length + spaceLeft cores k placed fun c => levelAllows (dmLevel d) c core))

/-- R373: the map of the lowest core numbers, room by room in ascending linear index, with at most `k` rooms on a core. -/
def placeRooms (v : Variant) (cores : List Nat) (k : Nat) : List Nat → List Placing → Option (List Placing)
  | [], placed => some placed
  | lin :: rest, placed => cores.findSome? fun c =>
      if mayStand v cores k placed lin c then placeRooms v cores k rest (placed ++ [{ lin := lin, core := c }]) else none

/-- The choices of n members of a list, those of earlier members first. -/
def choices : Nat → List Nat → List (List Nat)
  | 0, _ => [[]]
  | _ + 1, [] => []
  | n + 1, x :: xs => ((choices n xs).map fun l => x :: l) ++ choices (n + 1) xs

/-- R373: the map chosen among those that some cores allow: the fewest rooms on the busiest core, then the fewest floors, then
the lowest core numbers (log 47). -/
def chooseMap (l : LaunchRec) (v : Variant) (cores : List Nat) : Option (List Placing) :=
  let floors := (cores.map fun c => c / 32).eraseDups
  ((List.range 8).findSome? fun k => (List.range floors.length).findSome? fun n =>
    (choices (n + 1) floors).findSome? fun fl =>
      let cs := cores.filter fun c => fl.contains (c / 32)
      if v.rooms ≤ (k + 1) * cs.length && decide ((k + 1) * l.spsize ≤ 0x1000000) && decide ((k + 1) * l.nb ≤ 32) then
        placeRooms v cs (k + 1) (List.range v.rooms) []
      else none).filter (mapFits l v)

/-- A number put before the first of an ascending list that is not below it. -/
def insertUp (x : Nat) : List Nat → List Nat
  | [] => [x]
  | y :: l => if x ≤ y then x :: y :: l else y :: insertUp x l

/-- Numbers in ascending order. -/
def ascending (l : List Nat) : List Nat := l.foldr insertUp []

/-- The cores that a round may use, in ascending number: the free ones of this package, and those that the halls of other packages offer. -/
def State.roundCores (s : State) (offered : List Placing) : List Nat :=
  (s.inService ++ ascending ((offered.map fun p => p.core).filter fun c => decide (128 ≤ c))).eraseDups.filter fun c =>
    s.coreUsable c && s.coreFree c

/-! ### The timed schedule against the map (R285, R4, R48) -/

/-- A link of mesh plane 3: a step between two routers of a package by its number, or of a route between packages. -/
inductive MeshLink where
  | mesh (pkg : Nat) (x y x' y' : Nat)
  /-- A mesh-extension link in one direction: the package it leaves (512 and on where the routes do not tell), and its
  number. -/
  | ext (pkg link : Nat)
  deriving DecidableEq, Repr

/-- The routers passed from one coordinate to another, ends included. -/
def spanSteps (a b : Nat) : List (Nat × Nat) :=
  if a ≤ b then (List.range (b - a)).map fun i => (a + i, a + i + 1)
  else (List.range (a - b)).map fun i => (a - i, a - i - 1)

/-- R4: the links from router to router of one package, first along the column, then along the row. -/
def meshPath (pkg : Nat) (a b : Nat × Nat) : List MeshLink :=
  ((spanSteps a.2 b.2).map fun s => .mesh pkg a.1 s.1 a.1 s.2) ++ ((spanSteps a.1 b.1).map fun s => .mesh pkg s.1 b.2 s.2 b.2)

/-- R420: the package that the links of a route have reached after the first ones, where some route of LINKROUTE tells. -/
def State.hopFrom (s : State) (a b : Nat) (links : List Nat) : Nat :=
  if links.isEmpty then a
  else match s.routing.routes.find? fun x => x.1 == a && x.2.2 == links with
    | some x => x.2.1
    | none => 512 + b

/-- The router of the hall at which a mesh-extension link attaches, at both of its ends: the spec does not say which; the model's
choice is the column link / 2 of row 8 (log 75). -/
def linkPort (link : Nat) : Nat × Nat := (link / 2 % 8, 8)

/-- R4, R420: the path from a router to one of package `b` over the links of a route; `before` are the links of the route from
package `a` that lie behind. -/
def State.routePath (s : State) (a b : Nat) (dest : Nat × Nat) : List Nat → List Nat → Nat × Nat → List MeshLink
  | _, [], at_ => meshPath b at_ dest
  | before, l :: rest, at_ =>
    let pkg := s.hopFrom a b before
    meshPath pkg at_ (linkPort l) ++ [.ext pkg l] ++ s.routePath a b dest (before ++ [l]) rest (linkPort l)

/-- The path of a put between two cores: in one package by R4; between packages by the route of LINKROUTE, and by R4 within
each package that it passes (R420). -/
def State.putPath (s : State) (a b : Nat) : Option (List MeshLink) :=
  let pos (c : Nat) : Nat × Nat := (coreCol c, coreRow c)
  let pkg (c : Nat) : Nat := s.pkgNo (c / 128)
  if a / 128 = b / 128 then some (meshPath (pkg a) (pos a) (pos b))
  else (s.route? (a / 128) (b / 128)).map fun links => s.routePath (pkg a) (pkg b) (pos b) [] links (pos a)

/-- R48: D of a path. -/
def pathBound (p : List MeshLink) : Nat :=
  let n := (p.filter fun l => match l with | .ext _ _ => true | _ => false).length
  if n = 0 then 150 else 1200 * n

/-- R285: the windows of two entries, each extended by its D, meet at some time. -/
def windowsMeet (x y : TimedSpec) (dx dy : Nat) : Bool :=
  let g := Nat.gcd x.tper y.tper
  let d := (y.tofs + g * (x.tofs / g + 1) - x.tofs) % g
  g == 0 || decide (d < 32 + dx) || decide (g - d < 32 + dy)

/-- R285: two windows of one entry, extended by D, meet on the links of its path. -/
def meetsItself (x : TimedSpec) (p : List MeshLink) : Bool := !p.isEmpty && decide (x.tper < 32 + pathBound p)

/-- R285, R367: the schedule is refused under a room map. -/
def State.scheduleBad (s : State) (l : LaunchRec) (map : List Placing) : Bool :=
  let coreAt (lin : Nat) : Nat := match map.find? fun p => p.lin == lin with | some p => p.core | none => 0
  let es := (l.timed.map fun t => (t, s.putPath (coreAt t.src) (coreAt t.dst))).zipIdx
  es.any fun a => match a.1.2 with
    | none => true
    | some p => meetsItself a.1.1 p || es.any fun b => decide (a.2 < b.2) && (match b.1.2 with
      | none => true
      | some q => (p.any fun k => q.contains k) && windowsMeet a.1.1 b.1.1 (pathBound p) (pathBound q))

/-- R285, R420: the packages that a team can span: this one and those that a route joins to it. -/
def State.joinedPackages (s : State) : List Nat :=
  ((ascending (s.routing.routes.map fun x => (x.2.1 + 512 - s.routing.self) % 512)).eraseDups).filter fun p =>
    p != 0 && (s.route? 0 p).isSome

/-- R285, R367: the schedule as it stands at acceptance, before a map is chosen: under the map that R373 chooses when every
core in service is free, and where this package's do not do, every core of the packages that a route joins to it (log 46). -/
def State.scheduleRefused (s : State) (l : LaunchRec) (v : Variant) : Bool :=
  !l.timed.isEmpty &&
  (match chooseMap l v s.inService with
   | some m => s.scheduleBad l m
   | none =>
     let far := s.joinedPackages.flatMap fun p => (List.range 128).map fun c => 128 * p + c
     match chooseMap l v (s.inService ++ far) with
     | some m => s.scheduleBad l m
     | none => false)

/-! ### Acceptance (R367 to R369) -/

/-- R367: the first code of the table that applies to a record that was read. -/
def State.launchCode (s : State) (asid : Nat) (l : LaunchRec) (timePriv : Bool) : Except Nat Variant :=
  match s.load? l.loadH with
  | none => .error 0x02
  | some o =>
    if o.failed then .error 0x02
    else
      match o.kernels.getD l.kidx none with
      | none => .error 0x03
      | some v =>
        if asid ≠ o.asid then .error 0x04
        else if spaceBad l v o then .error 0x05
        else if s.tooBig v then .error 0x06
        else if timedBad l v || s.scheduleRefused l v then .error 0x07
        else if l.time && !timePriv then .error 0x08
        else .ok v

/-- `LAUNCH` (R365 to R369). A rejection is posted and is the STATUS of the reply; without the time privilege it is
STATUS 3 (R412). -/
def execLaunch (h : CmdHdr) (asid recVa : Nat) (s : State) : Host.Outcome State Fault Refusal :=
  cmdHeld h (.launch h asid recVa) privNone (fun s => s.runsHeld asid (s.launchRuns asid recVa)) (fun s0 x =>
    let s := s0.runsMeet asid (s0.launchRuns asid recVa)
    let reject (code : Nat) : State × Answer := (s.post (.reject code h.seq), .code (if code = 8 then 3 else code))
    match s0.readLaunch asid recVa with
    | none => reject 0x01
    | some l =>
      match s.launchCode asid l (x.may privTime) with
      | .error code => reject code
      | .ok v =>
        if 256 ≤ (s.teams.filter fun t => t.waiting && t.launch.basin == l.basin).length then reject 0x09
        else
          let t : Team :=
            { sub := s.nextSub, launch := l, variant := v, asid := asid, state := .queued, eligibleAt := none,
              deadline := 0, deps := s.depsOf l, saved := [] }
          (State.refreshEligible { s with teams := s.teams ++ [t], nextSub := s.nextSub + 1, roundDue := true }, .words [s.nextSub])) s

/-! ### Admission (R15, R371, R391, R395) -/

/-- The preload entries that bring bytes. -/
def Team.preloads (t : Team) : List Preload := t.launch.preload.filter fun p => p.len != 0

/-- R371: the first page of a preload source that is not present. -/
def State.absentPage (s : State) (t : Team) : Option Nat :=
  t.preloads.findSome? fun p =>
    ((List.range (cdiv (p.src % 65536 + p.len) 65536)).map fun i => (p.src / 65536 + i) * 65536).find? fun va =>
      (match s.walk t.asid (va % 2 ^ 52) .read with
       | .ok pa w _ _ _ => berthTier w != 2 && (s.hallPlace t.asid va .read).isNone && (placeOf w pa).isNone
       | .fault _ _ => true)

/-- Bytes of a preload source and whether a line of them is poisoned. Those of a poisoned line (R446) and those that a peer
answers (R424, log 56) are free values. -/
def State.preloadBytes (s : State) (asid va n : Nat) : List Byte × Bool :=
  let l := (List.range n).map fun i => match s.hallPlace asid (va + i) .read with
    | some (w, pa) => (s.gByte w pa, s.gPoisoned w pa, false)
    | none => (0, false, true)
  ((s.freeBad (l.map fun x => (x.1, x.2.1 || x.2.2))).2, l.any fun x => x.2.1)

/-- R366, R446, R424: what the reads for the preloads of a team leave: the errors they find, and the requests that go to peers. -/
def State.preloadMeets (s : State) (t : Team) : State :=
  (s.runsMeet t.asid (t.preloads.map fun p => (p.src, p.len))).askPeers
    (t.preloads.flatMap fun p => (List.range p.len).filterMap fun i =>
      match s.walk t.asid ((p.src + i) % 2 ^ 52) .read with | .ok pa w _ _ _ => some (w, pa) | .fault _ _ => none)

/-- The free values that one preload entry of one room may draw. -/
def preloadDraws : Nat := 2 ^ 35

/-- Applies the i-th preload entry to a room (R366). -/
def State.preloadRoom (s : State) (r : Room) (i : Nat) (p : Preload) : Room :=
  if p.room = 0xFFFF || p.room = r.id.lin then
    let b := State.preloadBytes { s with free := s.free + (256 * r.id.lin + i) * preloadDraws } r.asid p.src p.len
    let x : Room := { r with ctx.poison := r.ctx.poison || b.2 }
    if p.kind = 0 then { x with scratch := Memory.putAll x.scratch (cellsAt p.dest b.1) }
    else
      { x with ctx.d := Vector.ofFn fun i : Fin 32 => if i.val = p.dest then BitVec.ofNat 128 (fromBytes b.1) else x.ctx.d[i] }
  else r

/-- A placing with its core slot and its partition offset in each bank group (R94, R428). -/
structure Seat where
  lin : Nat
  core : Nat
  slot : Nat
  off : Nat
  deriving DecidableEq, Repr

def seatOf (map : List Placing) (spsize : Nat) (p : Placing) : Seat :=
  let k := (map.filter fun q => q.core == p.core && decide (q.lin < p.lin)).length
  { lin := p.lin, core := p.core, slot := k, off := k * (spsize / 4) }

/-- R15, R365: a room of a new team. -/
def State.newRoom (s : State) (t : Team) (o : LoadedObj) (q : Seat) : Room :=
  let v := t.variant
  let l := t.launch
  let c := coords v q.lin
  let entry : DWord := BitVec.ofNat 64 (o.lb + v.entry)
  let fp := fpParse v.fp0
  let ctx : Ctx :=
    { Ctx.initial with
      pc := entry, a := Ctx.initial.a.set 0 (BitVec.ofNat 64 l.argva), fx := BitVec.ofNat 32 (l.fxen * 256)
      qx := BitVec.ofNat 32 (l.qxen * 256), footprint := fp
      timed := (l.timed.filter fun e => e.src == q.lin).map fun e =>
        { tofs := e.tofs, tper := e.tper, dst := e.dst, lastUsed := none } }
  let r : Room :=
    { Room.idle with
      id := { team := t.sub, lin := q.lin }, life := .running, ctx := ctx, core := q.core, slotNo := q.slot
      pg := [q.off, q.off, q.off, q.off], asid := t.asid, loadH := l.loadH, timePriv := l.time, nb := l.nb
      roomid := BitVec.ofNat 32 (q.lin % 65536), roomxy := BitVec.ofNat 32 (c.2.1 * 65536 + c.1)
      roomz := BitVec.ofNat 32 c.2.2, teamid := BitVec.ofNat 32 (l.basin * 65536 + t.sub % 65536)
      teamxy := BitVec.ofNat 32 ((v.ny - 1) * 65536 + (v.nx - 1)), teamz := BitVec.ofNat 32 (v.nz - 1)
      spsize := BitVec.ofNat 32 l.spsize, dm := Vector.ofFn fun i : Fin 8 => BitVec.ofNat 32 (v.dm.getD i.val 0)
      atticBase := BitVec.ofNat 32 (l.spsize - v.attic), atticSize := BitVec.ofNat 32 v.attic
      atticOvf := BitVec.ofNat 64 (v.ovsz % 256 * 2 ^ 52 + l.ovbase % 2 ^ 52 / 65536 * 65536)
      scratch := Memory.putAll [] (cellsAt o.sdb o.data), phasePc := entry }
  let r1 := (l.preload.zipIdx).foldl (fun r p => s.preloadRoom r p.2 p.1) r
  if fp.idem then r1.takeSnap else r1

/-- The container in a slot of the save area, as the hall reads it. -/
def State.slotBytes (s : State) (t : Team) (base : Nat) : Option (List Byte) :=
  (s.hallRead t.asid base 64).bind fun b => s.hallRead t.asid base (leField b 8 8)

/-- R124, R390: what the hall's read of a slot leaves: an error it finds poisons the line. -/
def State.slotMeets (s : State) (t : Team) (base : Nat) : State :=
  s.hallMeets t.asid base (match s.hallRead t.asid base 64 with | some b => leField b 8 8 | none => 64)

/-- R390: an uncorrectable word in the container of a slot. -/
def State.slotPoisoned (s : State) (t : Team) (base : Nat) : Bool :=
  let len := match s.hallRead t.asid base 64 with | some b => leField b 8 8 | none => 64
  (List.range len).any fun i => match s.hallPlace t.asid (base + i) .read with
    | some (w, pa) => s.gPoisoned w pa
    | none => false

/-- R391, R395: a saved room placed anew and restored from its slot; a refused restore leaves it frozen, and an
uncorrectable byte is POISON SUB 3 (R390). -/
def State.restoredRoom (s : State) (t : Team) (x : Room) (q : Seat) : Room × Bool :=
  let y : Room := { x with core := q.core, slotNo := q.slot, pg := [q.off, q.off, q.off, q.off] }
  let base := ctxSlot t.launch.ctxva x.id.lin t.launch.spsize t.launch.nb
  if s.slotPoisoned t base then (y, true)
  else
    match (s.slotBytes t base).bind y.restore with
    | some z => (if z.stop = .preempted then { z with stop := .none, spHere := false, stopHere := false } else z, false)
    | none => ({ y with stop := .refused }, false)

/-- R15, R395: the rooms of an admission, with those whose restore met an uncorrectable word. -/
def State.admittedRooms (s : State) (t : Team) (map : List Placing) : List (Room × Bool) :=
  match s.load? t.launch.loadH with
  | none => []
  | some o =>
    map.filterMap fun p =>
      let q := seatOf map t.launch.spsize p
      if t.state = .suspended then
        (t.saved.find? fun x => x.id.lin == p.lin).map fun x => s.restoredRoom t x q
      else some (s.newRoom t o q, false)

/-- R21: a core starts with its room of lowest linear index. -/
def State.seatResident (s : State) (rooms : List Room) (core : Nat) : State :=
  let lead := (rooms.filter fun r => r.core == core).foldl
    (fun (b : Option Room) r => match b with
      | none => some r
      | some x => if r.id.lin < x.id.lin then some r else some x) none
  s.onCore core fun k => { k with resident := lead.map fun r => r.id }

/-- R47, R24: a held `twait` is issued again at the readmission, and in a room that now shares its core it is a TIMED_MISS; one
set aside for a handler, when the handler returns. -/
def twaitAgain (rooms : List Room) (team : Nat) (r : Room) : Room :=
  let held (w : Wait) : Bool := match w with | .twait _ => true | _ => false
  if r.id.team = team && decide (1 < (rooms.filter fun x => x.core == r.core).length) then
    let x := if held r.ctx.wait then { r with ctx.wait := .none, ctx.due := r.ctx.due ++ [timedMiss 2] } else r
    { x with aside := x.aside.map fun a => if held a.wait then { a with wait := .none, due := a.due ++ [timedMiss 2] } else a }
  else r

/-- R358: a readmitted room that has not halted and whose load failed meanwhile. -/
def State.failedAgain (s : State) (r : Room) : Room :=
  match s.load? r.loadH with
  | some l => if l.failed && r.life != .halted then { r with ctx.due := r.ctx.due ++ [codeIntegrity l.badOffset] } else r
  | none => r

/-- The cores of a map, with those of other packages, whose TB follows the same reference (log 48). -/
def State.seatCores (s : State) (map : List Placing) : State :=
  let new := ((map.map fun p => p.core).eraseDups).filter fun c => decide (128 ≤ c) && (s.core? c).isNone
  { s with cores := s.cores ++ new.map fun c => { Core.atReset c with tb := s.hall.tb } }

/-- What the hall's reads at an admission leave: of the preload sources, or of the slots of a suspended team (R366, R390). -/
def State.admissionMeets (s : State) (t : Team) : State :=
  if t.state = .suspended then
    t.saved.foldl (fun s x => s.slotMeets t (ctxSlot t.launch.ctxva x.id.lin t.launch.spsize t.launch.nb)) s
  else s.preloadMeets t

/-- R39, R371: the team's rooms are placed and start together; scratchpad lines that they cover go back from the victim
stores (R404). -/
def State.admitRooms (s0 : State) (t : Team) (map : List Placing) : State :=
  let s := State.admissionMeets (s0.seatCores map) t
  let made := s.admittedRooms t map
  let rooms := made.map fun x => s.failedAgain x.1
  let s1 : State := { s with others := (s.others ++ rooms).map (twaitAgain rooms t.sub), free := s.free + 256 * 65536 * preloadDraws }
  let s2 := ((map.map fun p => p.core).eraseDups).foldl (fun s c => (s.seatResident rooms c).clockMsg hallAgent (floorOf c)) s1.takeBack
  let s3 := (made.filter fun x => x.1.stop == .refused).foldl (fun s x => s.noteFreeze x.1 x.1.ctx.pc)
    (s2.onTeam t.sub fun t => { t with state := .admitted, saved := [] })
  (made.filter Prod.snd).foldl (fun s x =>
    let me := s.me.id
    State.focus (((s.count (coreCounter x.1.core 0x0A) 1).focus x.1.id).takeTrap { code := 0x22, slot := 6, sub := 3, aux := 0, index := 0 } x.1.ctx.pc) me) s3

/-- R371: the map under which a candidate is admitted: the one R373 chooses among the cores of the round. -/
def State.admissionMap (s : State) (t : Team) (offered : List Placing) : Option (List Placing) :=
  chooseMap t.launch t.variant (s.roundCores offered)

/-- R373: the shares of a map are reserved package by package, in ascending package number; `held` are the cores reserved so far,
which one that cannot be reserved releases. -/
def State.reserveShares (s : State) (cores : List Nat) : List Nat → List Nat → Option (List Nat)
  | [], held => some held
  | p :: rest, held =>
    let share := cores.filter fun c => s.pkgNo (c / 128) == p
    if share.all fun c => s.coreUsable c && s.coreFree c then s.reserveShares cores rest (held ++ share) else none

/-- R373: every share of a map can be reserved. -/
def State.reserved (s : State) (map : List Placing) : Bool :=
  let cores := (map.map fun p => p.core).eraseDups
  (s.reserveShares cores (ascending ((cores.map fun c => s.pkgNo (c / 128)).eraseDups)) []).isSome

/-- R285, R367: a queued launch whose schedule breaks R285 under the map chosen for it is rejected (log 46). -/
def State.rejectTimed (s : State) (t : Team) : State :=
  State.refreshEligible ((s.onTeam t.sub fun t => { t with state := .cancelled }).post (.reject 0x07 t.sub))

/-- `ADMISSION_ROUND` (R371 to R373): the next candidate of the round that a case of R372 has begun, with the cores that the
halls of other packages offer. One that may not be admitted ends the round; one with a preload page absent is reported. -/
def execAdmissionRound (offered : List Placing) (s : State) : Host.Outcome State Fault Refusal :=
  .next (if !s.roundDue then s
    else match s.current with
    | none => { s with roundDue := false }
    | some (t, cls, p) =>
      match s.absentPage t, (s.admissionMap t offered).filter s.reserved with
      | some va, _ => State.post { s with roundDue := false } (.preloadWait t.sub va)
      | none, none => { s with roundDue := false }
      | none, some m =>
        if t.state == .queued && s.scheduleBad t.launch m then s.rejectTimed t
        else State.admitRooms { s with pointers := modAt (fun _ => p) cls s.pointers } t m)

/-! ### The end of a team (R370) -/

/-- Takes a team's rooms off their cores, which begins an admission round (R372). Rooms whose dump is still to be written stay, ended, until it is (R398). -/
def State.clearRooms (s : State) (team : Nat) : State :=
  let dumped (r : Room) : Bool := s.dumps.any fun d => d.room == r.id
  let gone (r : Room) : Bool := r.id.team == team && !dumped r
  let mark (r : Room) : Room := if r.id.team = team then { r with life := .ended } else r
  { s with
    me := if gone s.me then Room.idle else mark s.me
    others := (s.others.filter fun r => !gone r).map mark
    queue := s.queue.filter fun i => i.team != team
    roundDue := true
    cores := (s.cores.filter fun k => decide (k.num < 128) || s.rooms.any fun r => r.core == k.num && !gone r).map fun k => match k.resident with
      | some i => if i.team = team then { k with resident := none } else k
      | none => k }

/-- R370: every access of the team is performed: no room of it holds a transfer entry. -/
def State.quietTeam (s : State) (team : Nat) : Bool :=
  (s.teamRooms team).all fun r => r.life == .halted && r.ctx.xq.isEmpty

/-- `TEAM_RETIRE` (R370, R371). A team that was asked to stop and ends first is reported (R376). -/
def execTeamRetire (team : Nat) (s : State) : Host.Outcome State Fault Refusal :=
  .next (match s.team? team with
    | none => s
    | some t =>
      let on := match t.state with | .admitted => true | .stopping _ => true | _ => false
      if on && !(s.teamRooms team).isEmpty && s.quietTeam team then
        let floors := ((s.teamRooms team).map fun r => r.agent).eraseDups
        let s1 := floors.foldl (fun s f => s.clockMsg f hallAgent) s
        let s2 := (s1.clearRooms team).onTeam team fun t => { t with state := .retired }
        let s3 := match t.state with | .stopping _ => s2.post (.retired team) | _ => s2
        s3.refreshEligible
      else s)

/-- R370: the queued launches that depend on an ended one, directly or through others; submission numbers rise, so one
pass finds them. -/
def State.dependents (s : State) (sub : Nat) : List Nat :=
  (s.teams.foldl (fun (l : List Nat) t =>
    if t.live && t.state == .queued && t.deps.any (fun d => l.contains d) then l ++ [t.sub] else l) [sub]).drop 1

/-- R370: cancels the launches that depend on an ended team. -/
def State.cancelDependents (s : State) (sub : Nat) : State :=
  (s.dependents sub).foldl (fun s d => (s.onTeam d fun t => { t with state := .cancelled }).post (.predFailed d)) s

/-- `KILL` (R370, R383). -/
def execKill (h : CmdHdr) (team : Nat) (s : State) : Host.Outcome State Fault Refusal :=
  cmdOp h (.kill h team) privNone (fun s _ =>
    match s.team? team with
    | none => (s, .refused)
    | some t =>
      if !t.live then (s, .refused)
      else
        let s1 := (s.clearRooms team).onTeam team fun t => { t with state := .cancelled, saved := [] }
        (((s1.cancelDependents team)).refreshEligible, .done)) s

/-! ### Pre-emption (R374, R375) -/

/-- R374: the room counts as stopped already. -/
def Room.counted (r : Room) : Bool :=
  r.life == .halted || r.ctx.wait != .none || (match r.stop with | .none => false | .hold _ => false | _ => true)

/-- R375: t(n). -/
def cyclesNs (n : Nat) : Nat := cdiv (n * Config.tbStep) 65536

/-- R375: bound bays of a room. -/
def Room.boundBays (r : Room) : Nat := (r.tiles.map fun t => t.cls.bays).foldl (· + ·) 0

/-- The three estimates of R375, and whether discard is allowed. -/
structure Estimate where
  drain : Nat
  save : Nat
  discard : Nat
  mayDiscard : Bool
  deriving DecidableEq, Repr

def State.estimate (s : State) (t : Team) : Estimate :=
  let rooms := s.teamRooms t.sub
  let running := rooms.filter fun r => !r.counted
  let rd := (running.map fun r => t.launch.drainCy - r.ctx.sinceSp).foldl max 0
  let rs := (running.map fun r => t.launch.stopCy - r.ctx.sinceStop).foldl max 0
  let bc (c : Nat) : Nat :=
    ((rooms.filter fun r => r.core == c).map fun r => t.launch.spsize + 262144 * r.boundBays + 36864).foldl (· + ·) 0
  let bmax := (rooms.map fun r => bc r.core).foldl max 0
  let tsave := 2000 + cdiv bmax 160
  let tq := if (rooms.map fun r => pkgOf r.core).eraseDups.length ≤ 1 then 1000 else 2400
  { drain := cyclesNs rd + tq + tsave, save := cyclesNs rs + tq + tsave, discard := tq + tsave,
    mayDiscard := !t.launch.noDiscard && rooms.all fun r => r.snap.isSome }

/-- R375: the mode chosen for a slack in nanoseconds, and whether the deadline is missed. -/
def Estimate.choose (e : Estimate) (slack : Int) : PreemptMode × Bool :=
  if (e.drain : Int) ≤ slack then (.drain, false)
  else if (e.save : Int) ≤ slack then (.save, false)
  else if e.mayDiscard && decide ((e.discard : Int) ≤ slack) then (.discard, false)
  else if e.drain ≤ e.save && (!e.mayDiscard || e.drain ≤ e.discard) then (.drain, true)
  else if !e.mayDiscard || e.save ≤ e.discard then (.save, true)
  else (.discard, true)

/-- R374: a room of the team that is asked to stop. A room that waits stops where it is. -/
def State.askStop (s : State) (m : PreemptMode) (r : Room) : Room :=
  if r.life == .halted || (match r.stop with | .none => false | .hold _ => false | _ => true) then r
  else if r.ctx.wait != .none && !r.ctx.inRepeat then r.preemptHere (s.coreOf r.core).tb
  else { r with stopAsked := some m, spHere := false, stopHere := false }

/-- `PREEMPT` (R374 to R376). -/
def execPreempt (h : CmdHdr) (team deadline : Nat) (forced : Option PreemptMode) (s : State) :
    Host.Outcome State Fault Refusal :=
  cmdOp h (.preempt h team deadline forced) privNone (fun s _ =>
    match s.team? team with
    | none => (s, .refused)
    | some t =>
      match t.state with
      | .queued => (s, .refused)
      | .suspended => (s, .refused)
      | .retired => (s.post (.retired team), .done)
      | .cancelled => (s.post (.retired team), .done)
      | .stopping _ =>
        let late := (s.teamRooms team).any fun r => r.stop == .preempted
        (s.onTeam team fun t => { t with deadline := deadline }, .words [b2n late])
      | .admitted =>
        if (s.teamRooms team).all fun r => r.life == .halted then (s.post (.retired team), .done)
        else
          let e := s.estimate t
          if forced == some .discard && !e.mayDiscard then (s, .refused)
          else
            let slack : Int := (deadline : Int) - (s.hall.tb / 2 ^ 16 : Nat)
            let c := match forced with | some m => (m, false) | none => e.choose slack
            let s1 := s.onTeam team fun t => { t with state := .stopping c.1, deadline := deadline }
            let s2 := s1.onRooms (fun r => r.id.team == team) (s1.askStop c.1)
            let s3 := s2.ensureAll ((s2.teamRooms team).map fun r => r.core)
            (if c.2 then s3.post (.deadlineMiss team) else s3, .done)) s

/-- `PREEMPT_STOP` (R374): a room asked to stop that stands at a point of its mode stops there, and its core passes
on. -/
def execPreemptStop (r : RoomId) (s : State) : Host.Outcome State Fault Refusal :=
  .next (match s.room? r with
    | none => s
    | some x =>
      let free := match x.stop with | .none => true | .hold _ => true | _ => false
      if x.atStopPoint && x.life == .running && free && x.ctx.due.isEmpty then
        (s.onRoom r (Room.preemptHere (s.coreOf x.core).tb)).leave x
      else s)

/-! ### Saving a stopped team (R376, R281, R391 to R394) -/

/-- The entries of a stopped room that cannot go on before it runs again: a card not started (R281), one that has met a fault, and
what these hold. -/
def State.stuck (s : State) (r : Room) : List Nat :=
  r.ctx.xq.foldl (fun l e =>
    let blocked := r.ctx.xq.any fun a => l.contains a.id && (if e.isFence then s.fenceWaits r e a else s.holds r a e)
    if (e.isCard && (e.status == .queued || e.status == .dispatched)) || e.fault.isSome || blocked then l ++ [e.id] else l) []

/-- R376: a collective that completes before the save: every member of its instance has issued it, and nothing keeps one from
dispatching it. -/
def State.collReady (s : State) (r : Room) (e : XEntry) : Bool :=
  e.result.isSome ||
  (s.members r e.form.sc.toNat).all fun y => match y.collEntry e.form.sc e.ordinal with
    | some g => g.status != .queued || !(s.stuck y).contains g.id
    | none => decide (e.ordinal < y.ctx.ordinalOf e.form.sc)

/-- R376: a collective that some members of its instance have issued and some have not; those that have not, with the
domain register and ordinal of what each still owes. -/
def State.missingMembers (s : State) (r : Room) (e : XEntry) : List (RoomId × Nat × Nat) :=
  ((s.members r e.form.sc.toNat).filter fun y => decide (y.ctx.ordinalOf e.form.sc ≤ e.ordinal) &&
    (y.collEntry e.form.sc e.ordinal).isNone).map fun y => (y.id, e.form.sc.toNat, e.ordinal)

/-- R376, R281: nothing of the room must still complete before the save; on several floors that is the quiet point, at
which no collective is dispatched either. -/
def State.roomQuiesced (s : State) (spans : Bool) (r : Room) : Bool :=
  r.ctx.xq.all fun e =>
    if e.isCard then !(e.status == .started && e.fault.isNone && e.replay.isNone)
    else if e.isPut then e.status == .queued
    else if isCollOp e.op then e.status == .queued || (!spans && !s.collReady r e)
    else true

/-- R376: a stopped room runs on until it has issued the collectives it owes, and stops at its next point of the mode. -/
def Room.released (m : PreemptMode) (owed : List (RoomId × Nat × Nat)) (r : Room) : Room :=
  { r with stop := .none, stopAsked := some m, spHere := false, stopHere := false
           owes := (owed.filter fun x => x.1 == r.id).map Prod.snd }

/-- The room stands stopped: halted, frozen or stopped for the pre-emption. -/
def Room.stoppedForSave (r : Room) : Bool :=
  r.life == .halted || (match r.stop with | .none => false | .hold _ => false | _ => true)

/-- R376: the team's rooms stand on more than one floor. -/
def State.spansFloors (s : State) (team : Nat) : Bool :=
  1 < ((s.teamRooms team).map fun r => r.core / 32).eraseDups.length

/-- R376: a discarded room: its phase snapshot in place of registers and position; of its cards, those that were there
when the phase began and are not complete. POISON stands (R385), and so do the tiles, as older work (R337). -/
def Room.discarded (r : Room) : Room :=
  match r.stop, r.ctx.wait, r.snap with
  | .preempted, .none, some c =>
    let cards := r.ctx.xq.filter fun e => e.isCard && c.xq.any fun x => x.id == e.id
    { r with ctx := { c with poison := r.ctx.poison, xq := mergeEntries cards (c.xq.filter fun e => !e.isCard) }
             aside := r.snapAside, tiles := marked r.snapTiles r.tiles }
  | _, _, _ => r

/-- REASON of a mode (R392). -/
def modeReason (m : PreemptMode) : Nat := match m with | .drain => 1 | .save => 2 | .discard => 3

/-- The overflow bytes that queued write-backs of a room name. -/
def Room.overflowNamed (r : Room) : List (Nat × Nat) :=
  (r.ctx.xq.filter fun e => !e.performed).flatMap fun e => e.writeBack.filter fun x => decide (2 ^ 24 ≤ x.2)

/-- A room's overflow lines are written back (R101), with the bytes that queued write-backs name when `all` is set: in the room's
order (R126 to R128), after every entry that can still go on while the room is stopped. -/
def State.saveOverflow (s : State) (r : Room) (all : Bool) (event : Instr) : State × Flush :=
  let named := if all then r.overflowNamed else []
  let dirty := named ++ r.overflowDirty.filter fun x => !(named.map Prod.fst).contains x.1
  let stuck := s.stuck r
  let live : Room := { r with ctx := { r.ctx with xq := r.ctx.xq.filter fun e => !stuck.contains e.id } }
  if dirty.isEmpty then (s, .made)
  else if !(if all then live.overflowNamed else []).isEmpty || s.accessHeld live true (dirty.map Prod.fst) then (s, .waits)
  else s.flushDirty r dirty event

/-- Writes a room's container to its slot of the save area (R391), unless a restow holds it (R407). One that the CS bytes of the
slot do not hold is a fault of the save: nothing of it is written (log 7). -/
def State.saveContainer (s : State) (t : Team) (r : Room) (reason : Nat) (inPlace : Bool) : State × Flush :=
  let b := r.container reason (r.stopTb / 2 ^ 16) inPlace
  let va := ctxSlot t.launch.ctxva r.id.lin t.launch.spsize t.launch.nb
  if ctxSlotSize t.launch.spsize t.launch.nb < b.length then (s, .fault 0x20 0 va)
  else if s.hallHeld t.asid va b.length .write then (s, .waits)
  else
    let w := s.hallWrite t.asid va b
    (w.1, if w.2 then .made else .fault 0x20 0 va)

/-- What a pre-emption saves of a stopped room (R376, R378): its overflow lines and the write-backs of them have been made. -/
def Room.toSave (r : Room) (m : PreemptMode) : Room :=
  let x := (if m = .discard then r.discarded else r).latchAll
  { x with ctx := { x.ctx with xq := x.ctx.xq.map fun e => { e with writeBack := e.writeBack.filter fun w => decide (w.2 < 2 ^ 24) } } }

/-- The save of one room at a pre-emption (R376, R394): the room saved, once it is. -/
def State.saveRoom (s : State) (t : Team) (m : PreemptMode) (r : Room) : State × Flush × Option Room :=
  match s.saveOverflow r true (.contextSave t.sub) with
  | (u, .made) =>
    (match u.room? r.id with
     | none => (u, .made, none)
     | some y =>
       let x := y.toSave m
       match u.saveContainer t x (modeReason m) false with
       | (v, .made) => (v, .made, some { x with overflow := [] })
       | (v, o) => (v, o, none))
  | (u, o) => (u, o, none)

/-- The save of a stopped team's rooms, one after another, as far as it comes (R391). -/
def State.saveRooms (s : State) (t : Team) (m : PreemptMode) : List Room → State × Flush × List Room
  | [] => (s, .made, [])
  | r :: rest =>
    match s.saveRoom t m r with
    | (u, .made, x) =>
      let y := u.saveRooms t m rest
      (y.1, y.2.1, x.toList ++ y.2.2)
    | (u, o, _) => (u, o, [])

/-- `CONTEXT_SAVE` (R376, R391): the contexts of a stopped team are written and it becomes suspended. While a collective
of a team that spans floors is partial, the stopped members that have not issued it are released. -/
def execContextSave (team : Nat) (s : State) : Host.Outcome State Fault Refusal :=
  .next (match s.team? team with
    | none => s
    | some t =>
      match t.state with
      | .stopping m =>
        let rooms := s.teamRooms team
        let partialNow := rooms.flatMap fun r => (r.ctx.xq.filter fun e => isCollOp e.op).flatMap fun e => s.missingMembers r e
        let spans := s.spansFloors team
        let owing (r : Room) : Bool := r.stop == .preempted && partialNow.any fun x => x.1 == r.id
        if rooms.isEmpty || s.dumps.any (fun d => d.room.team == team) || !(rooms.all Room.stoppedForSave) then s
        else if spans && !partialNow.isEmpty then
          (s.onRooms owing (Room.released m partialNow)).ensureAll (rooms.map fun r => r.core)
        else if !(rooms.all (s.roomQuiesced spans)) then s
        else
          (match s.saveRooms t m rooms with
           | (u, .made, l) =>
             (u.clearRooms team).onTeam team fun t => { t with state := .suspended, saved := l, eligibleAt := some s.hall.tb }
           | (u, .waits, _) => u
           | (u, .fault _ _ _, _) => u.post (.saveFault team))
      | _ => s)

end Sys2Proof.Machine
end

