-- ==== Sys2Proof/Machine/Contexts.lean ====
section
/-! DEFINITION. Traps at a boundary, context moves for page faults, resuming, contexts read and written, debugging and
dumps (18, R382 to R398). -/

namespace Sys2Proof.Machine

/-! ### Freezing and moving a context (R382, R389) -/

/-- Changes one room and lets its core pass on (R21). -/
def State.onRoomThenEnsure (s : State) (r : RoomId) (f : Room → Room) : State :=
  match s.room? r with
  | some x => (s.onRoom r f).ensure x.core
  | none => s

/-- The room stands at a boundary with no stop of its own. -/
def Room.freeStop (r : Room) : Bool := match r.stop with | .none => true | .hold _ => true | _ => false

/-- `BOUNDARY_TRAP`: the first cause due at the room's boundary freezes it (R382, R378, R383). -/
def execBoundaryTrap (r : RoomId) (s : State) : Host.Outcome State Fault Refusal :=
  .next (match s.room? r with
    | some x =>
      if x.freeStop && (x.life == .running || x.life == .halting) && !x.ctx.due.isEmpty then (s.focus r).takeDue else s
    | none => s)

/-- R281: the channels stand at a card boundary. -/
def Room.cardsQuiet (r : Room) : Bool :=
  r.ctx.xq.all fun e => !(e.isCard && e.status == .started && e.fault.isNone && e.replay.isNone)

/-- R389: what comes back from a restored image, and what the core kept meanwhile of the room: semaphores, transfer entries,
waits and barriers passed, the footprint, the causes due, the flags that its entries raised and the window bytes they wrote
(log 69). -/
def Room.returnFrom (x z : Room) : Room :=
  { z with
    aside := match z.aside, x.aside with
      | some a, some b => some { a with wait := b.wait, due := b.due }
      | a, _ => a
    snap := x.snap
    snapAside := x.snapAside
    snapTiles := x.snapTiles
    windows := z.windows.map fun w => match x.windows.find? fun v => v.num == w.num && v.base == w.base && v.gva == w.gva with
      | some v => { w with written := w.written ++ v.written.filter fun a => !w.written.contains a }
      | none => w
    ctx := { z.ctx with m := x.ctx.m, xq := x.ctx.xq, wait := x.ctx.wait, phase := x.ctx.phase,
                        fx := z.ctx.fx ||| (x.ctx.fx &&& 0x1F), qx := z.ctx.qx ||| (x.ctx.qx &&& 0x0F),
                        footprint := x.ctx.footprint, due := x.ctx.due, collCount := x.ctx.collCount,
                        poison := z.ctx.poison || x.ctx.poison } }

/-- `PAGE_FAULT_MOVE`: the context of a room stopped by a page fault goes to its slot, and the driver learns of the page
(R388, R389), once its channels stand at a card boundary (R281). Its partition, sills and bays stay. A save area that faults
is reported (R391). -/
def execPageFaultMove (r : RoomId) (s : State) : Host.Outcome State Fault Refusal :=
  .next (match s.room? r with
    | none => s
    | some x =>
      match x.stop, s.team? r.team with
      | .frozen c, some t =>
        if c.code = 0x20 && !fatal c x.ctx.hmode && x.cardsQuiet then
          (match s.saveOverflow x false (.pageFaultMove r) with
           | (u, .made) =>
             (match u.saveContainer t ((u.room? r).getD x) 4 true with
              | (v, .made) => (v.onRoomThenEnsure r fun z => { z with stop := .away c }).post (.page r c.va c.acc c.sub)
              | (v, .waits) => v
              | (v, .fault _ _ _) => v.post (.saveFault r.team))
           | (u, .waits) => u
           | (u, .fault _ _ _) => u.post (.saveFault r.team))
        else s
      | _, _ => s)

/-- R407: a restow holds the hall's access to the slot of a room whose context is away. -/
def State.slotHeld (s : State) (r : RoomId) (k : AccessKind) : Bool :=
  match s.room? r with
  | none => false
  | some x =>
    match x.stop, s.team? r.team with
    | .away _, some t =>
      s.hallHeld t.asid (ctxSlot t.launch.ctxva r.lin t.launch.spsize t.launch.nb) (ctxSlotSize t.launch.spsize t.launch.nb) k
    | _, _ => false

/-- `PAGEIN` (R389, R379): the context is restored to its core and the room resumes at TRAPPC; a refused restore leaves it
frozen (R395) and an uncorrectable word is fatal (R390). -/
def execPagein (h : CmdHdr) (r : RoomId) (s : State) : Host.Outcome State Fault Refusal :=
  cmdHeld h (.pagein h r) privNone (fun s => s.slotHeld r .read) (fun s _ =>
    match s.room? r with
    | none => (s, .refused)
    | some x =>
      match x.stop, s.team? r.team with
      | .away c, some t =>
        let base := ctxSlot t.launch.ctxva r.lin t.launch.spsize t.launch.nb
        let s := s.slotMeets t base
        if s.slotPoisoned t base then
          (((s.count (coreCounter x.core 0x0A) 1).focus r).takeTrap { code := 0x22, slot := 6, sub := 3, aux := 0, index := 0 } x.ctx.trappc, .done)
        else
          (match (s.slotBytes t base).bind x.restore with
           | some z => (s.onRoomThenEnsure r fun _ => ({ x.returnFrom z with stop := .frozen c } : Room).unfreeze, .done)
           | none => ((s.onRoom r fun z => { z with stop := .frozen c }).noteFreeze x x.ctx.trappc, .refused))
      | _, _ => (s, .refused)) s

/-- R389, R398: a room frozen for good, of whose entries one has met a page fault since: the fault that FAULT_FATAL
answers. -/
def Room.laterFault (r : Room) : Option Cause :=
  if r.deadStop then r.ctx.due.find? fun d => d.code == 0x20 else none

/-- `FAULT_FATAL` (R389): a page fault becomes fatal, and a dump follows; in a room that a fatal cause froze before, it is a
further fault of its dump (R398). -/
def execFaultFatal (h : CmdHdr) (r : RoomId) (s : State) : Host.Outcome State Fault Refusal :=
  cmdOp h (.faultFatal h r) privNone (fun s _ =>
    match s.room? r with
    | none => (s, .refused)
    | some x =>
      let die (c : Cause) : State × Answer :=
        ((s.onRoom r fun z => { z with stop := .fatalPage c }).startDump r 0 x.ctx.trapc.toNat x.ctx.trappc.toNat
          (s.coreOf x.core).tb, .done)
      match x.stop, x.laterFault with
      | .away c, _ => die c
      | .frozen _, some d =>
        ((s.onRoom r fun z => { z with ctx.due := dropCause d z.ctx.due }).startDump r 0 d.word.toNat x.ctx.trappc.toNat
          (s.coreOf x.core).tb, .done)
      | .fatalPage _, some d =>
        ((s.onRoom r fun z => { z with ctx.due := dropCause d z.ctx.due }).startDump r 0 d.word.toNat x.ctx.trappc.toNat
          (s.coreOf x.core).tb, .done)
      | .frozen c, none => if c.code = 0x20 then die c else (s, .refused)
      | _, _ => (s, .refused)) s

/-! ### Resuming (R379, R383, R384) -/

/-- R383: the room is frozen, its context at the core or away for a page fault. -/
def Room.isFrozen (r : Room) : Bool :=
  match r.stop with
  | .frozen _ => true | .away _ => true | .fatalPage _ => true | .debug => true | .refused => true | _ => false

/-- R381, R383: a frozen room that a RESUME lets go on. -/
def Room.resumable (r : Room) : Bool :=
  match r.stop with
  | .frozen c => !fatal c r.ctx.hmode && c.code != 0x20
  | .debug => true
  | _ => false

/-- R379, R380: the room goes on at TRAPPC; after a debug stop in handler mode where it stands. -/
def Room.goOn (r : Room) : Room :=
  match r.stop with
  | .debug => { r with stop := .none, ctx.pc := if r.ctx.hmode then r.ctx.pc else r.ctx.trappc }
  | _ => r.unfreeze

/-- The body of RESUME, and of the debugger's. -/
def State.resumeRoom (s : State) (r : RoomId) : State × Answer :=
  match s.room? r with
  | none => (s, .refused)
  | some x => if x.resumable then (s.onRoomThenEnsure r Room.goOn, .done) else (s, .refused)

/-- `RESUME` (R383, R379). -/
def execResume (h : CmdHdr) (r : RoomId) (s : State) : Host.Outcome State Fault Refusal :=
  cmdOp h (.resume h r) privNone (fun s _ => s.resumeRoom r) s

/-- `RESUME H` (R383, R384). -/
def execResumeH (h : CmdHdr) (r : RoomId) (addr : DWord) (s : State) : Host.Outcome State Fault Refusal :=
  cmdOp h (.resumeH h r addr) privNone (fun s _ =>
    match s.room? r with
    | none => (s, .refused)
    | some x =>
      let inLoad := match s.load? x.loadH with
        | some l => decide (l.lb ≤ addr.toNat) && decide (addr.toNat < l.lb + l.codeSize) && addr.toNat % 32 == 0
        | none => false
      if x.resumable && inLoad then (s.onRoomThenEnsure r fun y => y.enterHandler addr, .done)
      else (s, .refused)) s

/-! ### Contexts read and written (R383, R394, R395) -/

/-- REASON of a stop (R392). -/
def stopReason (r : Room) : Nat :=
  match r.stop with | .debug => 5 | .fatalPage _ => 4 | .away _ => 4 | .frozen c => if c.code = 0x20 then 4 else 0 | _ => 0

/-- `CTXREAD` (R383, R394). -/
def execCtxread (h : CmdHdr) (r : RoomId) (s : State) : Host.Outcome State Fault Refusal :=
  cmdOp h (.ctxread h r) privNone (fun s _ =>
    match s.room? r with
    | none => (s, .refused)
    | some x =>
      if x.isFrozen then (s, { status := 0, data := [], bytes := x.container (stopReason x) (x.stopTb / 2 ^ 16) true })
      else (s, .refused)) s

/-- `CTXWRITE` (R383, R395, R385). -/
def execCtxwrite (h : CmdHdr) (r : RoomId) (image : List Byte) (s : State) : Host.Outcome State Fault Refusal :=
  cmdHeld h (.ctxwrite h r image) privDebug (fun s => s.slotHeld r .write) (fun s _ =>
    match s.room? r with
    | none => (s, .refused)
    | some x =>
      if !x.isFrozen then (s, .refused)
      else
        match x.restore image, x.stop, s.team? r.team with
        | none, _, _ => (s, .refused)
        | some z, .away c, some t =>
          let y := s.saveContainer t z 4 true
          (y.1.onRoom r fun _ => { z with stop := .away c }, if y.2 = .made then .done else .refused)
        | some z, .refused, _ =>
          (s.onRoom r fun _ => { z with stop := .debug, ctx.trappc := if z.ctx.hmode then z.ctx.trappc else z.ctx.pc }, .done)
        | some z, _, _ => (s.onRoom r fun _ => z, .done)) s

/-! ### Dumps (R397, R398) -/

/-- `DUMP` (R397, R398). -/
def execDump (h : CmdHdr) (r : RoomId) (s : State) : Host.Outcome State Fault Refusal :=
  cmdOp h (.dump h r) privNone (fun s _ =>
    match s.room? r with
    | none => (s, .refused)
    | some x =>
      if s.dumps.any fun d => d.room == r then (s, .done)
      else (s.startDump r 6 x.ctx.trapc.toNat x.ctx.trappc.toNat (s.coreOf x.core).tb, .done)) s

/-- `DUMPAREA` (R397). -/
def execDumparea (h : CmdHdr) (asid va size : Nat) (s : State) : Host.Outcome State Fault Refusal :=
  cmdOp h (.dumparea h asid va size) privNone (fun s _ =>
    ({ s with dumpArea := some { asid := asid, va := va, size := size, used := 0 } }, .done)) s

/-- R397: the dump header: REASON, the cause, TB and the team (log 7). -/
def dumpHeader (d : Dump) (x : Room) : List Byte :=
  toBytes 4 d.reason ++ toBytes 4 x.id.lin ++ toBytes 8 x.ctx.trapc.toNat ++ toBytes 8 (x.stopTb / 2 ^ 16) ++
  toBytes 4 x.teamid.toNat ++ List.replicate 36 0

/-- R397: the trailer. -/
def dumpTrailer (d : Dump) (complete : Bool) (bytes : Nat) : List Byte :=
  let es := d.further.flatMap fun e => toBytes 8 e.1 ++ toBytes 8 e.2.1 ++ toBytes 8 (e.2.2 / 2 ^ 16)
  toBytes 4 (b2n complete) ++ toBytes 4 d.nFurther ++ toBytes 8 bytes ++ es ++ List.replicate (240 - es.length) 0

/-- R398: a byte of the room's partition cannot be read. -/
def State.partitionBad (s : State) (x : Room) : Bool :=
  let k := s.coreOf x.core
  let q := x.spSize / 4
  decide (3 ≤ k.failed.length) ||
  k.errors.any fun e => k.eccOf e.1 e.2.1 == .bad &&
    x.pg.any fun p => decide (p / 512 ≤ e.1) && decide (e.1 < (p + q) / 512)

/-- How many bytes from an address the hall may write. -/
def State.writableRun (s : State) (asid va n : Nat) : Nat :=
  let pages := (List.range (cdiv (va % 65536 + n) 65536)).map fun i => max va ((va / 65536 + i) * 65536)
  match pages.find? fun a => (s.hallPlace asid a .write).isNone with
  | some a => a - va
  | none => n

/-- What a dump writes and whether it is complete: as many bytes as the area takes, and the trailer if it can be
written. -/
def State.writeDump (s : State) (d : Dump) (x : Room) : State × Bool × Nat :=
  match s.dumpArea with
  | none => (s, false, 0)
  | some a =>
    let head := dumpHeader d x
    let bad := s.partitionBad x
    let body := head ++ x.container 6 (x.stopTb / 2 ^ 16) false
    let want := if bad then 128 + ((x.records false).take 14).flatten.length else body.length
    let va := a.va + a.used
    let n := min want (min (a.size - a.used) (s.writableRun a.asid va want))
    let s1 := (s.hallWrite a.asid va (body.take n)).1
    let complete := n == body.length && decide (a.used + n + 256 ≤ a.size) && s.writableRun a.asid (va + n) 256 == 256
    let s2 := if a.used + n + 256 ≤ a.size then (s1.hallWrite a.asid (va + n) (dumpTrailer d complete n)).1 else s1
    ({ s2 with dumpArea := some { a with used := min a.size (a.used + n + 256) } }, complete, n)

/-- R407: a restow holds the hall's writes to what is left of the dump area. -/
def State.dumpHeld (s : State) : Bool :=
  match s.dumpArea with
  | none => false
  | some a => s.hallHeld a.asid (a.va + a.used) (a.size - a.used) .write

/-- `DUMP_COMPLETE`: the current dump is written and reported, and the next proceeds (R397, R398). A room of a killed
team goes with its dump. -/
def execDumpComplete (s : State) : Host.Outcome State Fault Refusal :=
  .next (match s.dumps with
    | [] => s
    | d :: rest =>
      match s.room? d.room with
      | none => { s with dumps := rest }
      | some x =>
        if s.dumpHeld then s else
        let w := s.writeDump d x
        let s1 := ({ w.1 with dumps := rest }).post (.dumpDone d.room w.2.1 w.2.2)
        if x.life = .ended then
          { s1 with me := if s1.me.id = d.room && s1.me.life = .ended then Room.idle else s1.me
                    others := s1.others.filter fun r => !(r.id == d.room && r.life == .ended) }
        else s1)

/-! ### The debugger (R396) -/

/-- `DEBUG` STOP (R396): between steps a room stands at a bundle boundary, where it freezes. -/
def execDebugStop (h : CmdHdr) (r : RoomId) (s : State) : Host.Outcome State Fault Refusal :=
  cmdOp h (.debugStop h r) privDebug (fun s _ =>
    match s.room? r with
    | none => (s, .refused)
    | some x =>
      if x.freeStop && x.life == .running then
        ((s.focus r).debugStop, .done)
      else (s, .done)) s

/-- `DEBUG` STEP (R396). -/
def execDebugStep (h : CmdHdr) (r : RoomId) (s : State) : Host.Outcome State Fault Refusal :=
  cmdOp h (.debugStep h r) privDebug (fun s _ =>
    match s.room? r with
    | none => (s, .refused)
    | some x =>
      if x.resumable then (s.onRoomThenEnsure r fun y => { y.goOn with stepOnce := true }, .done) else (s, .refused)) s

/-- `DEBUG` BKPT (R396); no address clears the breakpoint. -/
def execDebugBkpt (h : CmdHdr) (r : RoomId) (n : BitVec 2) (addr : Option DWord) (s : State) :
    Host.Outcome State Fault Refusal :=
  cmdOp h (.debugBkpt h r n addr) privDebug (fun s _ =>
    if (s.room? r).isNone then (s, .refused)
    else
      (s.onRoom r fun y =>
        { y with bkpt := (match addr with | some a => [(n.toNat, a)] | none => []) ++ y.bkpt.filter fun b => b.1 != n.toNat },
       .done)) s

/-- `DEBUG` WATCH (R396); an empty range clears the watchpoint. -/
def execDebugWatch (h : CmdHdr) (r : RoomId) (n : BitVec 2) (lo len : Nat) (kind : WatchKind) (s : State) :
    Host.Outcome State Fault Refusal :=
  cmdOp h (.debugWatch h r n lo len kind) privDebug (fun s _ =>
    if (s.room? r).isNone then (s, .refused)
    else
      (s.onRoom r fun y =>
        { y with watch := (if len = 0 then [] else [(n.toNat, lo, len, kind)]) ++ y.watch.filter fun w => w.1 != n.toNat },
       .done)) s

/-- `DEBUG` RESUME (R396, R383). -/
def execDebugResume (h : CmdHdr) (r : RoomId) (s : State) : Host.Outcome State Fault Refusal :=
  cmdOp h (.debugResume h r) privDebug (fun s _ => s.resumeRoom r) s

end Sys2Proof.Machine
end

