-- ==== Sys2Proof/Machine/Fleet.lean ====
section
/-! DEFINITION. Running a fleet: counters and their trigger, trace, errors of memory, identity and firmware, memory keys,
power and cooling (21, R427 to R445; 04, R98, R123). -/

namespace Sys2Proof.Machine

/-! ### Counters (R427 to R430) -/

/-- R428: the counters of the table. -/
def counterKnown (n : Nat) : Bool :=
  let die := bitsOf n 19 16
  let unit := bitsOf n 15 8
  let i := bitsOf n 7 0
  let self := unit == 0xFF
  decide (n < 2 ^ 20) &&
  (if die < 4 then
     (decide (unit < 32) && (decide (i ≤ 6) || (decide (8 ≤ i) && decide (i ≤ 0x0B)) || (decide (0x10 ≤ i) && decide (i ≤ 0x17)))) ||
     (self && (i == 0x20 || i == 0x21))
   else if die = 4 then
     (self && (i == 0x20 || (decide (0x30 ≤ i) && decide (i ≤ 0x34)) || i == 0x50 || i == 0x51 || i == 0x53)) ||
     (decide (unit < 16) && decide (0x40 ≤ i) && decide (i ≤ 0x42))
   else decide (die ≤ 12) && self && (i == 0x20 || (decide (0x50 ≤ i) && decide (i ≤ 0x55))))

/-- `ARM` (R430): a pending trigger is replaced. A die whose TB has passed T already fires as the command reaches it. -/
def execArm (h : CmdHdr) (t : DWord) (s : State) : Host.Outcome State Fault Refusal :=
  cmdOp h (.arm h t) privNone (fun s _ =>
    let late := (List.range 13).filter fun d => decide (t.toNat ≤ s.dieTb d / 2 ^ 16)
    ({ s with armed := some { t := t.toNat, late := late }, fired := [] }, .done)) s

/-- `COUNTER_TRIGGER` (R430): the ARM of a T already past reaches a die. A die whose TB has still to reach T fires in the core
cycle in which it does. -/
def execCounterTrigger (die : Nat) (s : State) : Host.Outcome State Fault Refusal :=
  .next (match s.armed with
    | some a => if a.late.contains die then s.fireDie a.t die else s
    | none => s)

/-- R428, R430: a shadow value. -/
def shadowValue (sh : List (Nat × Nat)) (n : Nat) : Nat := if counterKnown n then assocGet sh n 0 else 2 ^ 64 - 1

/-- `READ` (R429, R430): the T of the last complete set, then the values of consecutive numbers. -/
def execRead (h : CmdHdr) (first count : Nat) (s : State) : Host.Outcome State Fault Refusal :=
  cmdOp h (.read h first count) privNone (fun s _ =>
    if count = 0 || 1024 < count || 2 ^ 32 ≤ first then (s, .malformed)
    else
      let sh := s.shadow.getD (0, [])
      (s, .words (sh.1 :: (List.range count).map fun i => shadowValue sh.2 (first + i)))) s

/-! ### Trace (R429, R431 to R433) -/

/-- R429: the fields of TRACECFG. -/
def traceArgsOk (a : TraceArgs) : Bool :=
  let o := a.options.toNat
  let sp := bitsOf o 4 0
  let w := a.berth.toNat
  a.paBase % 65536 == 0 && decide (a.paBase < 2 ^ 48) && a.size % 65536 == 0 && (sp == 0 || (decide (10 ≤ sp) && decide (sp ≤ 24))) &&
  bitsOf o 7 5 == 0 && bitsOf o 31 12 == 0 && berthOk w && decide (berthTier w ≤ 1) && !berthSle w

/-- R433: records that are not written are counted in TRACE_LOST. -/
def State.loseRecords (s : State) (n : Nat) : State := s.count (hallCounter 0x33) n

/-- `TRACECFG` (R429, R431): records of an earlier configuration that are not written yet are dropped and counted. -/
def execTracecfg (h : CmdHdr) (args : TraceArgs) (s : State) : Host.Outcome State Fault Refusal :=
  cmdOp h (.tracecfg h args) privDebug (fun s _ =>
    if traceArgsOk args then
      let left := match s.trace with | some t => t.pending.length | none => 0
      ({ s.loseRecords left with trace := some { args := args, on := true, pos := 0, pending := [] } }, .done)
    else (s, .malformed)) s

/-- `TRACESTOP` (R431): records already produced are still written or counted. -/
def execTracestop (h : CmdHdr) (s : State) : Host.Outcome State Fault Refusal :=
  cmdOp h (.tracestop h) privNone (fun s _ => ({ s with trace := s.trace.map fun t => { t with on := false } }, .done)) s

/-- Takes the oldest record of a core from those produced. -/
def takeRecord (core : Nat) : List (Nat × List Nat) → Option (List Nat × List (Nat × List Nat))
  | [] => none
  | x :: xs => if x.1 = core then some (x.2, xs) else (takeRecord core xs).map fun y => (y.1, x :: y.2)

/-- R433, R446: a trace record can be stored in a line: it is neither poisoned nor in error. -/
def State.traceLineOk (s : State) (w pa : Nat) : Bool := (placeOf w pa).isSome && !s.gPoisoned w pa && !s.gFailing w pa

/-- `TRACE_RECORD_WRITE` (R431, R433): the oldest record of a core is written to the ring, or dropped and counted; no other
counter counts. -/
def execTraceRecordWrite (core : Nat) (inTime : Bool) (s : State) : Host.Outcome State Fault Refusal :=
  .next (match s.trace with
    | none => s
    | some t =>
      match takeRecord core t.pending with
      | none => s
      | some (rec, left) =>
        let w := t.args.berth.toNat
        let wrap := t.args.options.getLsbD 8
        let pa := t.args.paBase + (if t.args.size = 0 then 0 else t.pos % t.args.size)
        let room := decide (32 ≤ t.args.size) && (wrap || decide (t.pos + 32 ≤ t.args.size))
        let s1 : State := { s with trace := some { t with pending := left } }
        if inTime && room && s.traceLineOk w pa && tierRangeOk w pa 32 then
          let bytes := (rec.flatMap fun x => toBytes 8 x).zipIdx.map fun b => (w, pa + b.2, b.1)
          let s2 := (lineWrites bytes).foldl (fun s l => s.writeLine 0 l) s1
          { s2 with trace := s2.trace.map fun t => { t with pos := t.pos + 32 } }
        else s1.loseRecords 1)

/-! ### Banks, scrub and refresh (R98, R123, R435 to R437) -/

/-- `BANK_HARD_FAULT` (R98, R435). -/
def execBankHardFault (core bank : Nat) (s : State) : Host.Outcome State Fault Refusal :=
  .next (if bank < 36 then s.failBank core bank else s)

/-- `BANK_SELF_TEST_PASS` (R98): the bank is rewritten with rebuilt contents and unmarked. -/
def execBankSelfTestPass (core bank : Nat) (s : State) : Host.Outcome State Fault Refusal :=
  .next (s.onCore core fun k =>
    if k.failed.contains bank then
      { k with failed := k.failed.filter fun b => b != bank, errors := k.errors.filter fun e => e.2.2.1 != bank }
    else k)

/-- R106: lines of a stack. -/
def stackLines : Nat := 2 ^ 30

/-- R436: the patrol of a stack goes on past the line it scrubbed; the last line ends a pass. -/
def State.scrubOn (s : State) (stack : Nat) : State :=
  let next := s.scrubPos.getD stack 0 + 1
  if next < stackLines then { s with scrubPos := modAt (fun _ => next) stack s.scrubPos }
  else State.count { s with scrubPos := modAt (fun _ => 0) stack s.scrubPos } (counterNo (5 + stack) 0xFF 0x55) 1

/-- R436, R446: what the scrub of a line does: a corrected line is rewritten, one that cannot be corrected is poisoned; both are
counted. -/
def State.scrubLine (s : State) (line : Nat) (found : LineCheck) : State :=
  match found with
  | .clean => s
  | .corrected => State.countLine { s with mem := { s.mem with weak := s.mem.weak.filter fun x => x != line } } line 0x50
  | .uncorrectable => if s.mem.poisoned.contains line then s.countLine line 0x51 else s.poisonPlace line

/-- `PATROL_SCRUB` (R436, R446): one line of a stack, or of the second tier, which the hall checks (none). The patrol of a stack
takes its lines in ascending place (DESIGN CHOICE, log 85), and another line of a stack is not its next. -/
def execPatrolScrub (stack : Option Nat) (line : Nat) (found : LineCheck) (s : State) : Host.Outcome State Fault Refusal :=
  .next (match stack with
    | none => s.scrubLine (lpddrPlace / 64 + line) found
    | some k =>
      if line = s.scrubPos.getD k 0 && k < 8 then (s.scrubLine (k * stackLines + line) found).scrubOn k else s)

/-- The refresh state of a bank. -/
def State.refreshOf (s : State) (bank : Nat) : BankRefresh :=
  (s.refresh.find? fun b => b.bank == bank).getD { bank := bank, owed := 0, backOff := false, lastAbo := none }
def State.setRefresh (s : State) (b : BankRefresh) : State :=
  { s with refresh := b :: s.refresh.filter fun x => x.bank != b.bank }

/-- `ALERT_BACK_OFF` (R123, R437): the bank's demand traffic and sluice queue are held. -/
def execAlertBackOff (bank : Nat) (s : State) : Host.Outcome State Fault Refusal :=
  .next (
    let b := s.refreshOf bank
    if b.backOff || 2 ^ 15 ≤ bank then s
    else
      let now := s.hall.tb / 2 ^ 16
      let post := b.owed == 8 && (match b.lastAbo with | some t => decide (t + 10 ^ 9 ≤ now) | none => true)
      let s1 := (s.count (counterNo (5 + bank / 4096) 0xFF 0x52) 1).setRefresh
        { b with backOff := true, lastAbo := if post then some now else b.lastAbo }
      if post then s1.post (.abo bank) else s1)

/-- `REFRESH_DUE` (R123): at most 8 are postponed. -/
def execRefreshDue (bank : Nat) (canIssue : Bool) (s : State) : Host.Outcome State Fault Refusal :=
  .next (
    let b := s.refreshOf bank
    if canIssue || 8 ≤ b.owed then s else s.setRefresh { b with owed := b.owed + 1 })

/-- `REFRESH_MANAGEMENT_DONE` (R123): with 8 owed, every owed refresh has been issued. -/
def execRefreshManagementDone (bank : Nat) (s : State) : Host.Outcome State Fault Refusal :=
  .next (
    let b := s.refreshOf bank
    if b.backOff then s.setRefresh { b with backOff := false, owed := if b.owed = 8 then 0 else b.owed } else s)

/-! ### Firmware and identity (R438 to R441) -/

/-- R439: both signatures verify. -/
def imageGenuine (i : SignedImage) : Bool := i.ecdsaOk && i.lmsOk

/-- R439: what boots: the first slot whose image is genuine and not below the floor; neither, recovery. -/
def Mgmt.boot (m : Mgmt) : Mgmt :=
  let good (i : Option SignedImage) : Option SignedImage := i.filter fun x => imageGenuine x && decide (m.floor ≤ x.version)
  let run := match good m.slotA with | some i => some i | none => good m.slotB
  { m with running := run, recovery := run.isNone && (m.slotA.isSome || m.slotB.isSome) }

/-- R438, R439: a configuration record that passes both signatures is stored and may raise the floor. -/
def Mgmt.takeRecord (m : Mgmt) (r : ConfigRecord) : Mgmt :=
  if imageGenuine r.image then { m with record := some r, floor := max m.floor r.floorVersion } else m

/-- R444: the cap of the record, 600 W to 1,500 W. -/
def Mgmt.cap (m : Mgmt) : Nat := match m.record with | some r => max 600 (min 1500 r.powerCapWatts) | none => 1500

/-- What a reset leaves: the state after reset with the flash of the management processor, booted again, the memory given,
and the log of what went to the host. -/
def State.restart (s : State) (m : Mgmt) (mem : GlobalMem) (on : Bool) : State :=
  let b := Mgmt.boot { State.reset.mgmt with slotA := m.slotA, slotB := m.slotB, record := m.record, floor := m.floor }
  { State.reset with
    agenda := s.agenda, free := s.free, mem := mem, mgmt := b, power := { State.reset.power with on := on, capWatts := b.cap }
    events := s.events, ringWrites := s.ringWrites, sent := s.sent, rdma := s.rdma, peerReplies := s.peerReplies, peerAsks := s.peerAsks }

/-- R442: at reset every slot holds a fresh key. -/
def GlobalMem.freshKeys (m : GlobalMem) : GlobalMem := { m with keys := [], keyBase := m.keyBase + 513 }

/-- `POWER_UP` (R438, R439, R442): the contents of memory were lost; the flash is as found, or as it was last written. -/
def execPowerUp (slotA slotB : SignedImage) (record : ConfigRecord) (s : State) : Host.Outcome State Fault Refusal :=
  .next (if s.power.on && (s.mgmt.running.isSome || s.mgmt.recovery) then s
    else
      let m : Mgmt := { s.mgmt with slotA := some (s.mgmt.slotA.getD slotA), slotB := some (s.mgmt.slotB.getD slotB) }
      let m1 := if m.record.isNone then m.takeRecord record else m
      s.restart m1 { cells := [], tags := [], poisoned := [], failing := [], weak := [], keys := [], keyBase := s.mem.keyBase + 513 } true)

/-- `PACKAGE_RESET` (R427, R442, R44): counters and timebase start again; the lines of memory stay, under lost keys. -/
def execPackageReset (s : State) : Host.Outcome State Fault Refusal :=
  .next (s.restart s.mgmt s.mem.freshKeys true)

/-- `FIRMWARE_UPDATE` (R439): a genuine image not below the floor goes to the slot that is not running, and a genuine
record may raise the floor; its power cap holds from then on (log 73). -/
def execFirmwareUpdate (image : SignedImage) (record : Option ConfigRecord) (s : State) :
    Host.Outcome State Fault Refusal :=
  .next (
    let m := s.mgmt
    let m1 : Mgmt :=
      if imageGenuine image && decide (m.floor ≤ image.version) then
        (if m.running.isSome && m.running == m.slotA then { m with slotB := some image } else { m with slotA := some image })
      else m
    let m2 := match record with | some r => m1.takeRecord r | none => m1
    { s with mgmt := m2, power := { s.power with capWatts := if record.isSome then m2.cap else s.power.capWatts } })

/-- `GET_MEASUREMENTS` (R440): each block as its index times 2^384 and its digest, then the two signatures. -/
def execGetMeasurements (nonce : Nat) (s : State) : Host.Outcome State Fault Refusal :=
  .next (
    let m := s.mgmt
    let block (i d : Nat) : Nat := i * 2 ^ 384 + d % 2 ^ 384
    let blocks := [block 1 Config.romDigest] ++ (m.running.map fun i => block 2 i.digest).toList ++
      (m.record.map fun r => block 3 r.image.digest).toList ++ [block 4 (sha384 m.loadHashes)]
    let signed := blocks ++ [Config.ecdsaSignature nonce blocks, Config.lmsSignature nonce blocks]
    { s with mgmt := { m with measured := some (nonce, signed) } })

/-- `CMDSESSION` (R441, R412): the privileges are those of the requester's certificate; at most 64 sessions, and none in
recovery (R439). -/
def execCmdsession (spdm cert : Nat) (s : State) : Host.Outcome State Fault Refusal :=
  .next (if s.mgmt.recovery || 64 ≤ s.sessions.length then s
    else
      let n := s.mgmt.sessions + 1
      let privs := match s.mgmt.record with | some r => assocGet r.certs cert 0 | none => 0
      let x : Session := { num := n, spdm := spdm, privs := privs, key := Config.sessionKey n, e := 0, replies := [], held := [] }
      { s with sessions := s.sessions ++ [x]
               mgmt := { s.mgmt with sessions := n,
                                     spdm := if s.mgmt.spdm.contains spdm then s.mgmt.spdm else spdm :: s.mgmt.spdm } })

/-- `SPDM_SESSION_END` (R441). -/
def execSpdmSessionEnd (spdm : Nat) (s : State) : Host.Outcome State Fault Refusal :=
  .next { s with sessions := s.sessions.filter fun x => x.spdm != spdm
                 mgmt := { s.mgmt with spdm := s.mgmt.spdm.filter fun n => n != spdm } }

/-! ### Memory keys (R442, R443) -/

/-- The material of a loaded key. -/
def keyMaterial (key : BitVec 512) : Nat := 2 ^ 512 + key.toNat

/-- `KEYLOAD` (R442): in an SPDM session with ADMIN, with a key that unwraps. -/
def execKeyload (session slot : Nat) (key : BitVec 512) (unwraps : Bool) (s : State) :
    Host.Outcome State Fault Refusal :=
  .next (if slot < 512 && unwraps && s.sessions.any fun x => x.spdm == session && x.may privAdmin then
      { s with mgmt := { s.mgmt with keyPending := assocSet s.mgmt.keyPending slot (keyMaterial key) } }
    else s)

/-- `KEYLOAD_COMPLETE` (R443). -/
def execKeyloadComplete (slot : Nat) (s : State) : Host.Outcome State Fault Refusal :=
  .next (match s.mgmt.keyPending.find? fun x => x.1 == slot with
    | some x =>
      { s with mem := { s.mem with keys := assocSet s.mem.keys slot x.2 }
               mgmt := { s.mgmt with keyPending := s.mgmt.keyPending.filter fun y => y.1 != slot } }
    | none => s)

/-! ### Power and cooling (R444, R445) -/

/-- R444, R445: at most once a second. -/
def State.secondPassed (s : State) (last : Option Nat) : Bool :=
  match last with | some t => decide (t + 10 ^ 9 ≤ s.hall.tb / 2 ^ 16) | none => true

/-- R444, R445: the cap that the power holds keep: that of the configuration record, or a lowered one while the module is hot. -/
def Power.cap (p : Power) : Nat := if p.thermalWarn then min p.capWatts (Config.thermalCap p.capWatts) else p.capWatts

/-- R444: the mean over the last millisecond, 100 samples, is above some watts. -/
def meanAbove (watts : Nat) (l : List Nat) : Bool := decide (100 ≤ l.length) && decide (100 * watts < (l.take 100).sum)

/-- R444: the h that the controller applies after a sample: 48 from the sample after an excursion on; while the mean is above the
cap it rises; else it is at most what it was. -/
def Power.nextHold (p : Power) (sample h : Nat) : Nat :=
  if decide (1500 < p.samples.headD 0) then 48
  else if meanAbove p.cap (sample :: p.samples) then min 48 (max (p.holdH + 1) (max 1 (min 48 h)))
  else min p.holdH h

/-- R7, R444: the draws that the regulation allows: at most two samples in a row above 1,500 W, and a millisecond whose mean is
at or below the cap of the configuration record, or falls where that cap has just been lowered (log 79). -/
def Power.allows (p : Power) (sample : Nat) : Bool :=
  !(decide (1500 < sample) && (p.samples.take 2).length == 2 && (p.samples.take 2).all fun w => decide (1500 < w)) &&
  (!meanAbove p.capWatts (sample :: p.samples) ||
    (meanAbove p.capWatts p.samples && decide (sample ≤ p.samples.getD 99 0)))

/-- The power controller after a sample of some watts and its hold (R444). -/
def Power.sampled (p : Power) (sample hold : Nat) : Power :=
  { p with holdH := hold
           samples := (sample :: p.samples).take 100
           excursion := decide (1500 < sample) || (p.excursion && decide (0 < hold)) }

/-- `POWER_SAMPLE` (R444, R428, R7): the watts of the sample, and the h the controller chooses. A draw that the regulation does
not allow is no event of this machine. -/
def execPowerSample (sampleWatts : Nat) (energy : List Nat) (h : Nat) (s : State) : Host.Outcome State Fault Refusal :=
  .next (
    let p := s.power
    if !p.allows sampleWatts then s
    else
      let s1 := (List.range 13).foldl (fun t d => t.count (counterNo d 0xFF 0x20) (energy.getD d 0)) s
      let hold := p.nextHold sampleWatts h
      let post := decide (0 < hold) && s.secondPassed p.lastEvent
      let q := p.sampled sampleWatts hold
      let s2 : State :=
        { s1 with power := { q with lastEvent := if post then some (s.hall.tb / 2 ^ 16) else p.lastEvent } }
      if post then s2.post .powerLimit else s2)

/-- `THERMAL_WARN` (R445). -/
def execThermalWarn (s : State) : Host.Outcome State Fault Refusal :=
  .next (
    let p := s.power
    if s.secondPassed p.lastWarn then
      State.post { s with power := { p with thermalWarn := true, lastWarn := some (s.hall.tb / 2 ^ 16) } } .thermalWarn
    else { s with power := { p with thermalWarn := true } })

/-- `THERMAL_WARN_CLEAR` (R445): the warnings stop, and so do the holds, but for those that the cap of the configuration record
or an excursion asks for (R444). -/
def execThermalWarnClear (s : State) : Host.Outcome State Fault Refusal :=
  let p := s.power
  let keep := p.excursion || meanAbove p.capWatts p.samples
  .next { s with power := { p with thermalWarn := false, holdH := if keep then p.holdH else 0 } }

/-- `THERMAL_TRIP` (R445): the event, then power off with every content lost. -/
def execThermalTrip (s : State) : Host.Outcome State Fault Refusal :=
  .next (
    let t := s.post .thermalTrip
    let off := t.restart s.mgmt { cells := [], tags := [], poisoned := [], failing := [], weak := [], keys := [], keyBase := s.mem.keyBase + 513 } false
    { off with mgmt := { off.mgmt with running := none, recovery := false } })

end Sys2Proof.Machine
end

