-- ==== Sys2Proof/Machine/HostPort.lean ====
section
/-! DEFINITION. The host port: memory windows and host atomics, the event ring, access control of the lockhouses, reads by
and of peers, and what is dropped or malformed (20, R411 to R418, R422 to R424). -/

namespace Sys2Proof.Machine

/-! ### Memory windows (R417, R418) -/

/-- `WINOPEN` (R417); rights are R, W and A from bit 0. The reply holds the key. -/
def execWinopen (h : CmdHdr) (asid va len : Nat) (rights : BitVec 3) (s : State) : Host.Outcome State Fault Refusal :=
  cmdOp h (.winopen h asid va len rights) privNone (fun s _ =>
    if va % 65536 != 0 || len % 65536 != 0 || 2 ^ 52 < va + len || 4096 ≤ asid then (s, .malformed)
    else if 1024 ≤ s.windows.length then (s, .refused)
    else
      ({ s with windows := { key := s.nextId, asid := asid, va := va, len := len, rights := rights } :: s.windows
                nextId := s.nextId + 1 }, .words [s.nextId])) s

/-- `WINCLOSE` (R417): it takes effect once every accepted request under the key has been performed, and is executed then. -/
def execWinclose (h : CmdHdr) (key : Nat) (s : State) : Host.Outcome State Fault Refusal :=
  cmdHeld h (.winclose h key) privNone (fun s => s.hostWaits.any fun j => (hostRequest j).map Prod.snd == some key) (fun s _ =>
    if s.windows.any fun w => w.key == key then
      ({ s with windows := s.windows.filter fun w => w.key != key }, .done)
    else (s, .refused)) s

/-- R417: the window that grants an access, if one does. -/
def State.windowFor (s : State) (key va len right : Nat) : Option HostWindow :=
  s.windows.find? fun w => w.key == key && decide (w.va ≤ va) && decide (va + len ≤ w.va + w.len) &&
    w.rights.getLsbD right

def State.reply (s : State) (qp psn : Nat) (bytes : List Byte) : State :=
  { s with rdma := s.rdma ++ [{ qp := qp, psn := psn, nak := false, bytes := bytes }] }

/-- R417: a remote-access NAK, which is counted. -/
def State.nak (s : State) (qp psn : Nat) : State :=
  State.count { s with rdma := s.rdma ++ [{ qp := qp, psn := psn, nak := true, bytes := [] }] } (hallCounter 0x34) 1

/-- What a host access to a window comes to: its places, its places some of which lie at a peer, a NAK, or a page held by a
restow, which the request waits for (R407). A GEN refused at a flip is walked afresh (R408). -/
inductive HostReach where
  | ok (places : List (Nat × Nat)) | remote (places : List (Nat × Nat)) | nak | wait
  deriving DecidableEq, Repr

def State.hostReach (s : State) (event : Instr) (key va len right : Nat) (k : AccessKind) : State × HostReach :=
  match s.windowFor key va len right with
  | none => (s, .nak)
  | some w =>
    let x := s.reach hallMmu w.asid va len k
    match x.2 with
    | .ok l => (x.1, .ok l)
    | .remote l => (x.1, .remote l)
    | .held h => (match h with | some d => s.hold d event | none => s, .wait)
    | .refused die _ => (x.1.count (counterNo die 0xFF 0x53) 1, .nak)
    | .fault _ _ => (x.1, .nak)

/-- R439, R417, R418: a request of the host on one of at most 256 queue pairs: none is answered in recovery, and one that comes
behind a request of its queue pair that waits waits too. The body gives none where the request has to wait. -/
def State.hostOp (s : State) (i : Instr) (qp : Nat) (body : State → State × Bool) : State :=
  if s.mgmt.recovery || (!s.qps.contains qp && decide (256 ≤ s.qps.length)) then s
  else
    let s1 : State := if s.qps.contains qp then s else { s with qps := s.qps ++ [qp] }
    if s1.hostWaits.any fun j => (hostRequest j).map Prod.fst == some qp then s1.hostWait i
    else
      let x := body s1
      if x.2 then x.1 else x.1.hostWait i

/-- `RDMA_READ` (R417, R446). -/
def execRdmaRead (qp psn key va len : Nat) (s : State) : Host.Outcome State Fault Refusal :=
  .next (s.hostOp (.rdmaRead qp psn key va len) qp fun s =>
    let h := s.hostReach (.rdmaRead qp psn key va len) key va len 0 .read
    match h.2 with
    | .ok l => let x := h.1.placesRead l; (((x.1.clockReplies hallAgent l).clockMsg hallAgent hostAgent).reply qp psn x.2.1, true)
    | .remote l => (h.1.askPeers l, false)
    | .nak => (h.1.nak qp psn, true)
    | .wait => (h.1, false))

/-- `RDMA_WRITE` (R417, R418, R446): performed at system scope and acknowledged. -/
def execRdmaWrite (qp psn key va : Nat) (data : List Byte) (s : State) : Host.Outcome State Fault Refusal :=
  .next (s.hostOp (.rdmaWrite qp psn key va data) qp fun s =>
    let h := s.hostReach (.rdmaWrite qp psn key va data) key va data.length 1 .write
    match h.2 with
    | .ok l => ((h.1.gWrite hostAgent (fun _ => 0) ((l.zip data).map fun x => (x.1.1, x.1.2, x.2))).reply qp psn [], true)
    | .remote _ => (h.1.nak qp psn, true)
    | .nak => (h.1.nak qp psn, true)
    | .wait => (h.1, false))

/-- R418: a host atomic on 8 bytes, applied once for each packet sequence number. A poisoned line is handled as R390 has
it: not applied, and the poison value of its integer format returned (R71). -/
def State.hostAtomic (s : State) (i : Instr) (qp psn key va : Nat) (f : Nat → Nat) : State :=
  s.hostOp i qp fun s =>
    match s.rdmaAtomics.find? fun x => x.1 == qp && x.2.1 == psn with
    | some x => (s.reply qp psn (toBytes 8 x.2.2), true)
    | none =>
      if va % 8 ≠ 0 then (s.nak qp psn, true)
      else
        let h := s.hostReach i key va 8 2 .readWrite
        match h.2 with
        | .ok ((w, pa) :: _) =>
          let s1 := h.1
          if s1.gPoisoned w pa then
            (State.reply { s1 with rdmaAtomics := (qp, psn, 0) :: s1.rdmaAtomics } qp psn (toBytes 8 0), true)
          else
            let m := s1.gNat w pa 8
            let t := (s1.gWrite hostAgent (fun _ => 0) ((toBytes 8 (f m)).zipIdx.map fun b => (w, pa + b.2, b.1))).clockReplies
              hostAgent [(w, pa)]
            (State.reply { t with rdmaAtomics := (qp, psn, m) :: t.rdmaAtomics } qp psn (toBytes 8 m), true)
        | .ok [] => (s, true)
        | .remote _ => (h.1.nak qp psn, true)
        | .nak => (h.1.nak qp psn, true)
        | .wait => (h.1, false)

/-- `ATOMIC_FETCH_AND_ADD` (R418, R121). -/
def execAtomicFetchAndAdd (qp psn key va : Nat) (v : DWord) (s : State) : Host.Outcome State Fault Refusal :=
  .next (s.hostAtomic (.atomicFetchAndAdd qp psn key va v) qp psn key va fun m => (m + v.toNat) % 2 ^ 64)

/-- `ATOMIC_COMPARE_AND_SWAP` (R418, R121). -/
def execAtomicCompareAndSwap (qp psn key va : Nat) (cmp v : DWord) (s : State) : Host.Outcome State Fault Refusal :=
  .next (s.hostAtomic (.atomicCompareAndSwap qp psn key va cmp v) qp psn key va fun m => if m = cmp.toNat then v.toNat else m)

/-! ### The event ring (R416) -/

/-- `EVQSET` (R416): sets up the ring, or with a consumer index frees its slots up to that index. -/
def execEvqset (h : CmdHdr) (qp addr rkey log2 : Nat) (consumer : Option Nat) (s : State) :
    Host.Outcome State Fault Refusal :=
  cmdOp h (.evqset h qp addr rkey log2 consumer) privNone (fun s _ =>
    match consumer, s.ring with
    | some c, some r =>
      if r.cons ≤ c && c ≤ r.prod then
        ({ s with ring := some { r with cons := c }, agenda := .evqOverflowEvent :: s.agenda }, .done)
      else (s, .malformed)
    | some _, none => (s, .refused)
    | none, _ =>
      if 6 ≤ log2 && log2 ≤ 16 then
        ({ s with ring := some { qp := qp, addr := addr, rkey := rkey, log2 := log2, prod := 0, cons := 0, lost := 0 } }, .done)
      else (s, .malformed)) s

/-- `EVQ_OVERFLOW_EVENT` (R416): a slot has freed after events were lost. -/
def execEvqOverflowEvent (s : State) : Host.Outcome State Fault Refusal := .next s.postLost

/-! ### Access control (R423) -/

/-- R423: the words of an entry. -/
def aclOk (w : List Nat) : Bool :=
  let w0 := w.getD 0 0
  let w1 := w.getD 1 0
  let w2 := w.getD 2 0
  let w3 := w.getD 3 0
  w.length == 4 && bitsOf w3 28 0 == 0 &&
  (if w3.testBit 30 then decide (w0 < 4096) && w1 == 0 && w2 == 0
   else decide (w0 < 2 ^ 48) && w0 % 65536 == 0 && decide (w1 < 2 ^ 48) && w1 % 65536 == 0 && berthOk w2 &&
        berthTier w2 == 0 && !berthSle w2)

/-- R423: a range-mode entry overlaps the frame of a page under restow. -/
def State.aclMeetsRestow (s : State) (w : List Nat) : Bool :=
  !(w.getD 3 0).testBit 30 && s.restows.any fun r =>
    (match r.src with | .page _ _ => true | .handle _ => false) &&
    decide (w.getD 0 0 < r.srcPa + r.size) && decide (r.srcPa < w.getD 0 0 + w.getD 1 0)

/-- `ACLSET` (R423, R424). -/
def execAclset (h : CmdHdr) (lockhouse idx : Nat) (words : List DWord) (s : State) : Host.Outcome State Fault Refusal :=
  cmdOp h (.aclset h lockhouse idx words) privAdmin (fun s _ =>
    let ws := words.map fun w => w.toNat
    if 8 ≤ lockhouse || 256 ≤ idx then (s, .malformed)
    else if !aclOk ws || s.aclMeetsRestow ws then (s, .refused)
    else
      ({ s with acl := { lockhouse := lockhouse, idx := idx, words := ws } ::
                  s.acl.filter fun e => !(e.lockhouse == lockhouse && e.idx == idx) }, .done)) s

/-! ### Lockhouse ports (R422, R424) -/

/-- `LOCKHOUSE_PORT_LINK_UP` (R422): when both ends authenticate, they derive the key of the link, and the peer's PID is bound to
it. -/
def execLockhousePortLinkUp (port : Nat) (authenticated : Bool) (pid : Nat) (s : State) :
    Host.Outcome State Fault Refusal :=
  .next (if port < 8 then
      let ups := match s.ports.find? fun p => p.num == port with | some p => p.ups + 1 | none => 1
      let p : Port := { num := port, pid := pid % 2 ^ 32, up := authenticated, ups := ups
                        key := if authenticated then Config.linkKey port ups else 0 }
      { s with ports := p :: s.ports.filter fun p => p.num != port }
    else s)

/-- R115, R422: the line that a request by handle and tile names, when the arena holds every byte of it: the line of the
element at the tile's origin, or one after it (log 83). -/
def handleLine (h : List Nat) (origin : List Nat) (line : Nat) : Option Nat :=
  let i (d : Nat) : Nat := origin.getD d 0
  let at_ := hBase h + arenaOffset h (i 0) (i 1) (i 2) (i 3) (i 4) * hElemBytes h
  let pa := (at_ / 64 + line) * 64
  if ((List.range 5).all fun d => decide (i d < hExt h d)) && hBase h ≤ pa && pa + 64 ≤ hBase h + arenaBytes h then some pa else none

/-- R424: what an entry of the table grants a request: the berth that places the line and its physical address, none when it
grants nothing. -/
def State.aclGrant (s : State) (port pid : Nat) (what : PeerRead) : Option (Nat × Nat) :=
  let entry := s.acl.find? fun e =>
    let w0 := e.words.getD 0 0
    let w1 := e.words.getD 1 0
    let w3 := e.words.getD 3 0
    e.lockhouse == port && w3.testBit 31 && w3.testBit 29 && w3 >>> 32 == pid &&
    (match what with
     | .handle n _ _ => w3.testBit 30 && w0 == n
     | .range pa => !w3.testBit 30 && decide (w0 ≤ pa / 64 * 64) && decide (pa / 64 * 64 + 64 ≤ w0 + w1))
  match entry, what with
  | some e, .range pa => some (e.words.getD 2 0, pa / 64 * 64)
  | some _, .handle n origin line =>
    (match s.handle? n with
     | some h => if hValid h then (handleLine h origin line).map fun pa => (hBerth h, pa) else none
     | none => none)
  | none, _ => none

/-- R424: a handle under restow between Close and the flip, or a source reached after it. -/
def State.peerStale (s : State) (what : PeerRead) (w pa : Nat) : Bool :=
  match s.restowOf w pa, what with
  | some r, .handle _ _ _ => r.step != .copy
  | _, _ => false

/-- R319, R428: a refusal of a request that reached the source after the flip counts in GEN_STALE. -/
def State.countStale (s : State) (w pa : Nat) : State :=
  match s.restowOf w pa, placeOf w pa with
  | some r, some p => if r.step = .flipped then s.count (counterNo (dieOfPlace p) 0xFF 0x53) 1 else s
  | _, _ => s

/-- R422: a request by handle, the origin of a tile and a line of it, or by the physical address of a line. -/
def peerRead (tile : Option (Nat × List Nat)) (addr : Nat) : PeerRead :=
  match tile with | some t => .handle t.1 t.2 addr | none => .range addr

/-- `PEER_READ_REQUEST` (R424, R422): a line is read and goes as a read by agent 14 from its home. -/
def execPeerReadRequest (port pid : Nat) (tile : Option (Nat × List Nat)) (addr : Nat) (s : State) :
    Host.Outcome State Fault Refusal :=
  .next (
    let what := peerRead tile addr
    let answer (s : State) (a : PeerReply) : State := { s with peerReplies := s.peerReplies ++ [(port, a)] }
    if !(s.ports.any fun p => p.num == port && p.up && p.pid == pid) then s
    else
      match s.aclGrant port pid what with
      | none => answer (s.count (counterNo (5 + port) 0xFF 0x54) 1) .denied
      | some (w, pa) =>
        if s.peerStale what w pa then answer (s.countStale w pa) .stale
        else
          let t := s.request.discover [(w, pa)]
          if t.gPoisoned w pa then answer t .poison
          else answer (t.clockReplies peerAgent [(w, pa)]) (.line (t.gBytes w pa 64)))

/-- The bytes of an access, each with whether it is poisoned: those that lie here as they stand, those at a peer from the
lines of its reply (R424). -/
def State.mixedBytes (s : State) (lines : List (Nat × Nat)) (reply : Option (List Byte)) (l : List (Nat × Nat)) :
    List (Byte × Bool) :=
  l.map fun x =>
    if berthTier x.1 = 2 then
      let i := (findFrom (fun y => y == (x.1, x.2 / 64)) 0 lines).getD 0
      ((reply.getD []).getD (64 * i + x.2 % 64) 0, reply.isNone)
    else (s.gByte x.1 x.2, s.gPoisoned x.1 x.2)

/-- The bytes of each run of a unit, none when one cannot be reached. -/
def State.unitBytes (s : State) (r : Room) (ps : List GPiece) : List (Nat × Nat) :=
  ps.flatMap fun p => match (s.pieceReach r p .read).2 with | .ok l => l | .remote l => l | _ => []

/-- R424, R71: a unit of a card is performed with the bytes of a reply, or as poisoned when there are none. -/
def State.peerUnit (s : State) (r : Room) (e : XEntry) (reply : Option (List Byte)) : State :=
  endUnit r e (s.cardUnitWith r e (fromBytes e.card) e.next fun s ps =>
    let lines := peerLines (s.unitBytes r ps)
    ps.foldl (fun acc p =>
      match acc.2 with
      | .stop _ => acc
      | .done bs bad =>
        let x := acc.1.pieceReach r p .read
        let add (l : List (Nat × Nat)) : State × Moved :=
          let b := x.1.mixedBytes lines reply l
          (x.1.clockReplies r.agent (l.filter fun y => berthTier y.1 != 2), .done (bs ++ b.map Prod.fst) (bad || b.any Prod.snd))
        match p, x.2 with
        | .pad l, _ => (x.1, .done (bs ++ l) bad)
        | _, .ok l => add l
        | _, .remote l => add l
        | _, o => (x.1, .stop o)) (s, .done [] false))

/-- R113: the access of the fill that a held room waits for, when some of its bytes lie at a peer. -/
def State.fillAtPeer (s : State) (x : Room) : Option (List (Nat × Nat)) :=
  let want : Option (Nat × Nat × AccessKind) := match x.stop with
    | .hold (.window n line) => (x.window? n).map fun w => (va52 (w.gva + 256 * line : Nat), 256, .read)
    | .hold (.overflow line) => some (x.overflowVa line, 256, .read)
    | .hold (.codePage p) => (s.load? x.loadH).map fun l => (l.lb + 4096 * p, 4096, .fetch)
    | _ => none
  match want with
  | some (va, n, k) => (match (s.reach x.core x.asid va n k).2 with | .remote l => some l | _ => none)
  | none => none

/-- R126, R127, R139: the fill that a held room waits for has its request still to be made. -/
def State.fillWaits (s : State) (x : Room) : Bool :=
  let held (va : Nat) : Bool := s.accessHeld x false ((List.range 256).map (va + ·))
  match x.stop with
  | .hold (.window n line) =>
    (match x.window? n with
     | some w => held (va52 (w.gva + 256 * line : Nat)) || x.owesFrom (w.base + 256 * line) 256
     | none => false)
  | .hold (.overflow line) => held (x.overflowVa line)
  | _ => false

/-- R424, R105, R101, R357: what a held room waits for comes with the lines of a peer, or none when poisoned. -/
def State.peerFill (s : State) (x : Room) (l : List (Nat × Nat)) (reply : Option (List Byte)) : State :=
  let bytes := s.mixedBytes (peerLines l) reply l
  let bad := bytes.any Prod.snd
  let b := s.freeBad bytes
  let s1 := if bad then b.1.badData x else b.1
  match x.stop with
  | .hold (.window n line) => (match x.window? n with | some w => s1.fillWindow x w line b.2 | none => s)
  | .hold (.overflow line) =>
    s1.onRoom x.id fun y =>
      let z : Room := { y with overflow := y.overflow ++ [{ num := line, bytes := b.2, dirty := false }] }
      z.endHold
  | .hold (.codePage p) => (match s.load? x.loadH with | some o => s.takeCodePage x o p (bytes.map Prod.fst) bad | none => s)
  | _ => s

/-- R424, R390: the requester is denied: ACCESS_VIOLATION SUB 1. -/
def peerDenied (aux index : Nat) : Cause := { code := 0x23, slot := slotX, sub := 1, aux := aux, index := index }

/-- R113, R424: the next unit of an entry is a read some of whose bytes lie at a peer. -/
def State.waitsForPeer (s : State) (r : Room) (e : XEntry) : Bool :=
  let n := fromBytes e.card
  e.isCard && e.status == .started && e.fault.isNone && e.replay.isNone && !cOut n && decide (e.next < cardUnits n) &&
  (match (s.piecesRead r (s.cardPieces r n e.next)).2 with | .stop (.remote _) => true | _ => false)

/-- R424: a request that got a stale reply is sent again. -/
def State.askAgain (s : State) (x : Room) (id : Nat) : State :=
  if id = 0 then (match s.fillAtPeer x with | some l => s.askPeers l | none => s)
  else match x.entry? id with
    | some e => if s.waitsForPeer x e then s.askPeers (s.unitPlaces x e) else s
    | none => s

/-- R417, R424: the reply of a peer to a read of the host, which then no longer waits: a NAK where it is denied. -/
def State.peerHostRead (s : State) (qp psn : Nat) (denied : Bool) (reply : Option (List Byte)) : State :=
  match s.hostWaits.find? fun j => match j with | .rdmaRead q p _ _ _ => q == qp && p == psn | _ => false with
  | some (.rdmaRead q p key va len) =>
    let h := s.hostReach (.rdmaRead q p key va len) key va len 0 .read
    (match h.2 with
     | .remote l =>
       let t : State := { h.1 with hostWaits := [], agenda := (s.hostWaits.filter fun j => j != .rdmaRead q p key va len) ++ s.agenda }
       if denied then t.nak qp psn
       else
         let b := t.freeBad (t.mixedBytes (peerLines l) reply l)
         ((b.1.clockReplies hallAgent (l.filter fun y => berthTier y.1 != 2)).clockMsg hallAgent hostAgent).reply qp psn b.2
     | _ => s)
  | _ => s

/-- `PEER_READ_REPLY` (R424, R390, R71): the lines of a request, a poison reply (none), a denial, which freezes the room,
or a stale reply, after which the request is sent again. Entry 0 stands for the line that a held room waits for; team 0 stands
for the host, its rooms for queue pairs and the entries for sequence numbers (R417). -/
def execPeerReadReply (r : RoomId) (id : Nat) (denied stale : Bool) (line : Option (List Byte)) (s : State) :
    Host.Outcome State Fault Refusal :=
  .next (match s.room? r with
    | none => if r.team = 0 && !stale then s.peerHostRead r.lin id denied line else s
    | some x =>
      if stale then s.askAgain x id
      else if id = 0 then
        match (if s.fillWaits x then none else s.fillAtPeer x) with
        | none => s
        | some l =>
          if denied then s.foundCause r (peerDenied 0 0) else s.peerFill x l line
      else
        match x.entry? id with
        | none => s
        | some e =>
          if !s.waitsForPeer x e then s
          else if denied then
            let k := peerDenied e.aux e.next
            (s.onRoom r fun y => y.onEntry id fun w => { w with fault := some k }).foundCause r k
          else s.peerUnit x e line)

/-! ### What never becomes a command (R411, R413, R415) -/

/-- `FRAME_DROPPED` (R411): a frame of another EtherType, IPv4 among them, is dropped and counted. -/
def execFrameDropped (frame : HostFrame) (s : State) : Host.Outcome State Fault Refusal :=
  .next (if frame.etherType = ipv6EtherType then s else s.count (hallCounter 0x32) 1)

/-- `CMD_DROPPED` (R413, R414): its tag fails, or its SEQ lies above E + 64; in both cases counted, with no reply. -/
def execCmdDropped (h : CmdHdr) (tagOk : Bool) (s : State) : Host.Outcome State Fault Refusal :=
  .next (match s.session? h.session, tagOk with
    | some x, true => if x.e + 64 < h.seq then s.count (hallCounter 0x31) 1 else s
    | _, _ => s.count (hallCounter 0x31) 1)

/-- `MALFORMED_COMMAND` (R415): an OPCODE that the table does not hold is answered with STATUS 5; one that it holds names a
command of its own. -/
def execMalformedCommand (h : CmdHdr) (opcode : BitVec 16) (s : State) : Host.Outcome State Fault Refusal :=
  if opcodeKnown opcode.toNat then .next s
  else cmdOp h (.malformedCommand h opcode) privNone (fun s _ => (s, .malformed)) s

end Sys2Proof.Machine
end

