-- ==== Sys2Proof/Machine/LinksTime.lean ====
section
/-! DEFINITION. Mesh-extension links, their routes, and the disciplines of the timebase (20, R419 to R421, R425, R426; 01,
R43 to R46). -/

namespace Sys2Proof.Machine

/-! ### Beats (R419) -/

/-- R419: a cumulative acknowledgement drops the beats up to the one it names. -/
def dropAcked (ack : Nat) (l : List Beat) : List Beat :=
  if l.any fun b => b.seq == ack then (l.dropWhile fun b => b.seq != ack).drop 1 else l

/-- R419: the frame holds the beat that the link awaits next. -/
def Link.inSequence (l : Link) (f : BeatFrame) : Bool := f.crcOk && !l.retraining && f.seq == l.expect

/-- R419: four beats of a plane make up a flit. -/
def Link.assemble (l : Link) (plane : BitVec 2) : Link :=
  let mine := l.accepted.filter fun b => b.1 == plane
  if mine.length < 4 then l
  else { l with accepted := l.accepted.filter fun b => b.1 != plane, flits := l.flits ++ [(plane, mine.flatMap Prod.snd)] }

/-- R419: what a received frame does: the acknowledgement first, then the beat when it is the next in sequence. A frame
whose CRC fails is not received. A timing frame is a beat that is part of no flit. -/
def Link.receive (l : Link) (f : BeatFrame) : Link :=
  if !f.crcOk || l.retraining then l
  else
    let left := dropAcked f.ack l.replay
    let l1 : Link := { l with replay := left, resends := if left.length < l.replay.length then 0 else l.resends }
    if f.seq = l.expect then
      let l2 : Link := { l1 with expect := (l1.expect + 1) % 65536 }
      if f.stamp.isSome then l2 else Link.assemble { l2 with accepted := l2.accepted ++ [(f.plane, f.payload)] } f.plane
    else l1

/-- `BEAT_FRAME_RECEIVE` (R419). -/
def execBeatFrameReceive (link : Nat) (frame : BeatFrame) (s : State) : Host.Outcome State Fault Refusal :=
  .next (s.onLink link fun l => l.receive frame)

/-- R419: every unacknowledged beat is sent again, a timing frame with the stamp of its new first bit. -/
def Link.resend (l : Link) : Link :=
  { l with replay := l.replay.map fun b => { b with stamp := b.stamp.map fun _ => l.tb } }

/-- `BEAT_RESEND_TIMEOUT` (R419): the oldest beat was not acknowledged within 4 µs: go-back-N, which is counted, and after
16 resends of it the link retrains. -/
def execBeatResendTimeout (link : Nat) (s : State) : Host.Outcome State Fault Refusal :=
  .next (match s.link? link with
    | none => s
    | some l =>
      if l.retraining || l.replay.isEmpty then s
      else if 16 ≤ l.resends then s.retrain link
      else (s.count (linkCounter link 0x40) 1).onLink link fun l => { l.resend with resends := l.resends + 1 })

/-- `LINK_RETRAIN` (R419, R122, R420): the unacknowledged beats wait in the replay buffer; later traffic moves to a spare
link of the same pair, if one exists. -/
def execLinkRetrain (link : Nat) (s : State) : Host.Outcome State Fault Refusal := .next (s.retrain link)

/-- `LINK_RETRAIN_DONE` (R419): the link carries traffic again, from its oldest unacknowledged beat. -/
def execLinkRetrainDone (link : Nat) (s : State) : Host.Outcome State Fault Refusal :=
  .next (s.onLink link fun l => { l.resend with retraining := false, resends := 0 })

/-! ### Which source disciplines the hall (R426) -/

/-- R420: a route joins this package to another. -/
def Routing.joins (r : Routing) (p : Nat) : Bool := p == r.self || r.routes.any fun x => x.1 == r.self && x.2.1 == p

/-- R426: this package is the time root. -/
def State.isRoot (s : State) : Bool := s.hall.root == some s.routing.self

/-- R426: the hall follows the timing frames of the links. -/
def State.followsLinks (s : State) : Bool := s.hall.root.isSome && !s.isRoot && s.hall.rootPath

/-- R426: TBSTAT.SRC. -/
def State.sourceNow (s : State) : Nat :=
  if s.isRoot || s.followsLinks then 1 else if s.hall.lock then 2 else 0

def State.refreshSource (s : State) : State := { s with hall := { s.hall with src := s.sourceNow } }

/-- R44, R425: LOCK is lost, and ALIGNED with it on every core of the package. -/
def State.loseLock (s : State) : State :=
  { s with hall := { s.hall with lock := false, goodSyncs := 0 }
           cores := mapIf (fun k => pkgOf k.num == 0) (fun k => { k with aligned := false }) s.cores }

/-- R44, R426: LOCK names the source that disciplines the hall: it is lost when another one takes over. -/
def State.sourceChanged (s t : State) : State := if s.followsLinks == t.followsLinks then t else t.loseLock

/-! ### The servo (R425, R426) -/

/-- R425: the servo's correction of rate, at most 100 ppm: three units of 2^-16 ns per core cycle. -/
def servoBound : Int := 3

/-- R43, R44, R425: an offset is removed by stepping forward, or by holding still when the hall is ahead; the cores, the
lockhouses and the links, which count the same timescale, step with the hall. -/
def State.removeOffset (s : State) (estimate : Int) : State :=
  if estimate < 0 then
    let d := (-estimate).toNat * 2 ^ 16
    { s with hall := { s.hall with tb := s.hall.tb + d }, lockTb := s.lockTb.map (· + d)
             cores := s.cores.map fun k => { k with tb := k.tb + d }, links := s.links.map fun l => { l with tb := l.tb + d } }
  else { s with hall := { s.hall with hold := s.hall.hold + estimate.toNat * 2 ^ 16 } }

/-- R46: the reference as a sync measures it: the hall's timebase less its offset. -/
def HallTime.measured (h : HallTime) (estimate : Int) : Nat := ((h.tb : Int) - estimate * 2 ^ 16).toNat

/-- R425, R426: one estimate of the hall's offset in nanoseconds, positive when it is ahead, after `missed` intervals without
one: `lim` is the bound that 16 consecutive intervals must keep for LOCK, `lose` the one that clears it, as four missed intervals
do. The offset found at lock is removed; from then on the discipline keeps the bound of R46 (log 72). -/
def State.servo (s : State) (lim lose missed : Nat) (estimate : Int) : State :=
  let run := if missed = 0 then s.hall.goodSyncs else 0
  let good := if estimate.natAbs ≤ lim then min 16 (run + 1) else 0
  let rate := clampI (Config.servoRate s.free) (-servoBound) servoBound
  let drift := clampI (Config.referenceRate s.free) (-servoBound) servoBound
  let s0 : State := if 4 ≤ missed then s.loseLock else s
  let s1 : State := { s0 with free := s.free + 1, hall := { s0.hall with goodSyncs := good, rate := rate, drift := drift, lastSync := s.hall.tb } }
  let s2 : State :=
    if s1.hall.lock then (if lose < estimate.natAbs then s1.loseLock else s1)
    else
      let locks := decide (16 ≤ good)
      let s3 := if locks then s1.removeOffset estimate else s1
      { s3 with hall := { s3.hall with ref := s1.hall.measured estimate, lock := locks } }
  s2.refreshSource

/-- R425, R438: the PTP domain of the configuration record; a device without one takes every domain. -/
def State.ptpDomainIs (s : State) (domain : Nat) : Bool :=
  match s.mgmt.record with | some r => r.ptpDomain == domain | none => true

/-- `PTP_SYNC` (R425): a sync of the domain, `missed` intervals after the last one. A package that follows the links of a root
takes no correction from it. -/
def execPtpSync (sync : PtpSync) (s : State) : Host.Outcome State Fault Refusal :=
  .next (if s.followsLinks || !s.ptpDomainIs sync.domain then s else s.servo 20 40 sync.missed sync.estimate)

/-- R426: a timing frame goes over each link once in every 2^20 ns: in 2^-16 ns. -/
def frameInterval : Nat := 2 ^ 36

/-- `PTP_SYNC_TIMEOUT` (R425, R426): four intervals passed without a sync, or on a package that follows links without a timing
frame. -/
def execPtpSyncTimeout (s : State) : Host.Outcome State Fault Refusal :=
  .next (if s.followsLinks && decide (s.hall.tb < s.hall.lastSync + 4 * frameInterval) then s else s.loseLock.refreshSource)

/-! ### Timing frames (R419, R426) -/

/-- `TIMING_FRAME_SEND` (R426, R419, R420): one frame per link every 2^20 ns, with the stamp of the link's own TB
and TBF (R43). -/
def execTimingFrameSend (link : Nat) (s : State) : Host.Outcome State Fault Refusal :=
  .next (match s.link? link, s.carrier link with
    | some l, some c =>
      let due := match l.lastStamp with | some t => decide (t + frameInterval ≤ l.tb) | none => true
      if replayBeats ≤ c.replay.length || !due then s
      else (s.onLink c.num fun k => k.send 0 (some l.tb) []).onLink link fun k => { k with lastStamp := some l.tb }
    | _, _ => s)

/-- R426: the hall's offset from the sender of a timing frame in nanoseconds, after the delay of the link. -/
def Link.offset (l : Link) (stamp : Nat) : Int := ((l.tb : Int) - stamp - (Config.linkDelay l.num * 2 ^ 16 : Nat)) / 2 ^ 16

/-- R426: the frame intervals that have passed without a frame. -/
def HallTime.missedFrames (h : HallTime) : Nat := (h.tb - h.lastSync + frameInterval / 2) / frameInterval - 1

/-- `TIMING_FRAME_RECEIVE` (R426, R419): the frame is a beat of the link; a package joined to the root follows it, and one that
comes after a loss of every path shows a path again. -/
def execTimingFrameReceive (link : Nat) (frame : BeatFrame) (s : State) : Host.Outcome State Fault Refusal :=
  .next (match s.link? link, s.hall.root, frame.stamp with
    | some l, some root, some stamp =>
      let s1 := s.onLink link fun l => l.receive frame
      if !l.inSequence frame || root == s.routing.self || !s.routing.joins root then s1
      else
        State.servo (s1.sourceChanged { s1 with hall := { s1.hall with rootPath := true } }) 4 6 s.hall.missedFrames (l.offset stamp)
    | _, _, _ => s.onLink link fun l => l.receive frame)

/-- R426: a link has retrained for more than 4 ms and no spare carries its traffic. -/
def State.linkLost (s : State) (link : Nat) : Bool :=
  (s.carrier link).isNone && (match s.link? link with
    | some l => decide (l.retrainSince + 4 * 10 ^ 6 * 2 ^ 16 < l.tb)
    | none => false)

/-- R426: every path from this package to the root may be lost: the first link of its route is, or links of other packages, of
which this one sees nothing, follow it. -/
def State.rootLost (s : State) : Bool :=
  match s.hall.root with
  | some root =>
    (s.routing.routes.filter fun x => x.1 == s.routing.self && x.2.1 == root).all fun x =>
      decide (1 < x.2.2.length) || x.2.2.any s.linkLost
  | none => false

/-- `ROOT_PATH_LOSS` (R426, R44). -/
def execRootPathLoss (s : State) : Host.Outcome State Fault Refusal :=
  .next (if s.followsLinks && s.rootLost then
      State.refreshSource { s.loseLock with hall := { s.loseLock.hall with rootPath := false } }
    else s)

/-! ### Routes and the time root (R420, R426) -/

/-- R420: packages and links of a LINKROUTE. -/
def routesOk (self : Nat) (routes : List (Nat × Nat × List Nat)) (spares : List (Nat × Nat)) : Bool :=
  decide (self < 512) &&
  (routes.all fun r => decide (r.1 < 512) && decide (r.2.1 < 512) && r.1 != r.2.1 && !r.2.2.isEmpty &&
    (routes.filter fun x => x.1 == r.1 && x.2.1 == r.2.1).length == 1) &&
  spares.all fun x => decide (x.1 < 16) && decide (x.2 < 16) && x.1 != x.2

/-- `LINKROUTE` (R420). -/
def execLinkroute (h : CmdHdr) (self : Nat) (routes : List (Nat × Nat × List Nat)) (spares : List (Nat × Nat)) (s : State) :
    Host.Outcome State Fault Refusal :=
  cmdOp h (.linkroute h self routes spares) privAdmin (fun s _ =>
    if routesOk self routes spares then
      let r : Routing := { self := self, routes := routes, spares := spares }
      let path := match s.hall.root with | some p => r.joins p | none => false
      ((s.sourceChanged { s with routing := r, hall := { s.hall with rootPath := path } }).refreshSource, .done)
    else (s, .malformed)) s

/-- `TBREF` (R426). -/
def execTbref (h : CmdHdr) (root : Nat) (s : State) : Host.Outcome State Fault Refusal :=
  cmdOp h (.tbref h root) privAdmin (fun s _ =>
    if root < 512 then
      ((s.sourceChanged { s with hall := { s.hall with root := some root, rootPath := s.routing.joins root } }).refreshSource, .done)
    else (s, .malformed)) s

end Sys2Proof.Machine
end

