-- ==== Sys2Proof/Machine/Restow.lean ====
section
/-! DEFINITION. Translation and restowing: walks, mappings and shootdowns, tensor handles, and the steps of a restow (19,
R399 to R410; 04, R114 to R117). -/

namespace Sys2Proof.Machine

/-! ### Walks and replays (R402, R403, R408) -/

/-- `TABLE_WALK`: a floor's walker translates and the translation is cached; a failed walk is not (R402, R403). -/
def execTableWalk (floor asid va : Nat) (kind : AccessKind) (s : State) : Host.Outcome State Fault Refusal :=
  .next (if floor < 4 then
      ((s.count (counterNo floor 0xFF 0x21) 1).walkClock floor asid (va % 2 ^ 52)).cacheWalk floor asid (va % 2 ^ 52) (s.walk asid (va % 2 ^ 52) kind)
    else s)

/-- The virtual addresses of the request that an entry has waiting. -/
def State.requestVas (s : State) (r : Room) (e : XEntry) : List Nat :=
  if e.isCard then
    (s.cardPieces r (fromBytes e.card) e.next).filterMap fun p => match p with | .va a _ => some a | _ => none
  else match e.writeBack with | b :: _ => [b.1] | [] => [e.aa % 2 ^ 52]

/-- `REQUEST_REPLAY` (R408): the floor's translation of the page is dropped and the tables are walked afresh; a GEN just
refused raises BERTH_FAULT and nothing is replayed, else the request goes on with its source and sequence number and is
counted. -/
def execRequestReplay (r : RoomId) (id : Nat) (s : State) : Host.Outcome State Fault Refusal :=
  .next (s.withEntry r id (fun e => e.replay.isSome && e.fault.isNone) fun x e =>
    let vas := s.requestVas x e
    let s1 := vas.foldl (fun s va => s.dropTlb x.floor x.asid va) s
    let s2 := vas.foldl (fun s va => (s.translate x.core x.asid va e.access).1) s1
    let fresh := (s2.room? r).bind fun y => s2.viaOf y e
    let s3 := s2.onRoom r fun y => y.onEntry id fun z => { z with replay := none, via := fresh }
    if vas.any fun va => s.stillRefused x.asid va (e.replay.getD 0) e.access then
      s3.faultEntry x e 0x21 0 (if e.isCard then e.next else 0) (vas.headD 0) e.access
    else s3.countReplay x)

/-! ### Address spaces and mappings (R399, R405, R410) -/

/-- R399: a table berth. -/
def tableBerthOk (w : Nat) : Bool := berthOk w && decide (berthTier w ≤ 1) && !berthSle w && berthProp w == 0

/-- `ASIDSET` (R399): translations cached under the old root are dropped, for caching affects no fault and no value (R403). -/
def execAsidset (h : CmdHdr) (asid : Nat) (valid : Bool) (root : Nat) (tberth : DWord) (s : State) :
    Host.Outcome State Fault Refusal :=
  cmdOp h (.asidset h asid valid root tberth) privAdmin (fun s _ =>
    if !(asid < 4096 && root % 65536 == 0 && decide (root < 2 ^ 48)) then (s, .malformed)
    else if !tableBerthOk tberth.toNat then (s, .refused)
    else
      let s1 := s.dropCached fun t => t.asid == asid
      ({ s1 with roots := { asid := asid, valid := valid, root := root, tberth := tberth.toNat } ::
                  s.roots.filter fun x => x.asid != asid }, .done)) s

/-- The bytes of two 64-bit words at a physical address under a berth. -/
def pairWrite (w pa w0 w1 : Nat) : List (Nat × Nat × Byte) :=
  ((toBytes 8 w0 ++ toBytes 8 w1).zipIdx).map fun b => (w, pa + b.2, b.1)

/-- R400: word 0 of an entry that is a valid leaf. -/
def leafWord (w0 : Nat) : Bool := w0.testBit 0 && w0.testBit 1

/-- R410: the entry at a place is the leaf of a restow. -/
def State.leafBusy (s : State) (tb pa : Nat) : Bool :=
  s.restows.any fun r => (match r.src with | .page _ _ => true | .handle _ => false) &&
    placeOf r.tberth r.leafPa == placeOf tb pa

/-- R410: an old place that comes into use again under its berth is none any more (log 86). -/
def State.reuse (s : State) (w pa size : Nat) : State :=
  { s with moved := s.moved.filter fun m => !(m.w == w && decide (m.pa < pa + size) && decide (pa < m.pa + m.size)) }

/-- `PTEWRITE` (R405, R410): the 16 bytes of one entry of the ASID's tables, written as one unit. -/
def execPtewrite (h : CmdHdr) (asid pa : Nat) (word0 word1 : DWord) (s : State) : Host.Outcome State Fault Refusal :=
  cmdOp h (.ptewrite h asid pa word0 word1) privNone (fun s _ =>
    match s.roots.find? fun x => x.asid == asid with
    | none => (s, .refused)
    | some x =>
      if pa % 16 != 0 || (placeOf x.tberth pa).isNone then (s, .refused)
      else if s.leafBusy x.tberth pa then (s, .busy)
      else
        let t := s.gWrite hostAgent (fun _ => 0) (pairWrite x.tberth pa word0.toNat word1.toNat)
        (if leafWord word0.toNat then t.reuse word1.toNat (bitsOf word0.toNat 47 16 * 65536) 65536 else t, .done)) s

/-- R405: a cached entry lies in a shootdown. -/
def tlbHit (asid : Nat) (range : Option (Nat × Nat)) (t : Tlb) : Bool :=
  t.asid == asid && (match range with
    | some x => decide (t.va < x.1 + x.2) && decide (x.1 < t.va + t.size)
    | none => true)

/-- R405: drops the matching entries everywhere and begins the shootdown, which keeps them as what an access may still use. -/
def State.startShootdown (s : State) (id asid : Nat) (range : Option (Nat × Nat)) : State :=
  let s1 := s.dropCached (tlbHit asid range)
  { s1 with shootdowns := s.shootdowns ++ [{ id := id, asid := asid, range := range, old := s.cachedBy (tlbHit asid range) }] }

/-- `SHOOTDOWN` (R405); the range is a virtual address and a length. -/
def execShootdown (h : CmdHdr) (asid : Nat) (range : Option (Nat × Nat)) (s : State) : Host.Outcome State Fault Refusal :=
  cmdOp h (.shootdown h asid range) privNone (fun s _ =>
    ({ s.startShootdown s.nextId asid range with nextId := s.nextId + 1 }, .words [s.nextId])) s

/-- R405: a request that left under an entry of the range, which the tables no longer hold, and has been neither performed
nor refused: one that a restow holds is among them. -/
def State.oldRequest (s : State) (d : Shootdown) (r : Room) (e : XEntry) : Bool :=
  let va := e.aa % 2 ^ 52
  let inRange := match d.range with | some x => decide (x.1 ≤ va) && decide (va < x.1 + x.2) | none => true
  (match e.heldBy with | some h => h.1 == d.id | none => false) ||
  (r.asid == d.asid && inRange && e.status == .dispatched && e.replay.isNone && e.fault.isNone &&
  (match e.via, s.walk r.asid va .readWrite with
   | some v, .ok _ w _ _ _ => v != w
   | some _, .fault _ _ => true
   | none, _ => false))

/-- R405, R407: no request translated under an entry that a shootdown dropped, and none that a restow holds, remains. -/
def State.requestsOver (s : State) (d : Shootdown) : Bool :=
  s.rooms.all fun r => (match r.heldBy with | some h => h.1 != d.id | none => true) && r.ctx.xq.all fun e => !s.oldRequest d r e

/-- `SHOOTDOWN_DONE` (R405): no request remains that was translated under a dropped entry. -/
def execShootdownDone (id : Nat) (s : State) : Host.Outcome State Fault Refusal :=
  .next (match s.shootdowns.find? fun x => x.id == id with
    | none => s
    | some x =>
      if !s.requestsOver x then s
      else
        let s1 := s.dropCached (tlbHit x.asid x.range)
        State.post { s1 with shootdowns := s.shootdowns.filter fun y => y.id != id } (.shootdownDone id))

/-! ### Tensor handles (R114, R410) -/

/-- R114: a power of two from 1 to 32,768. -/
def tileExtentOk (n : Nat) : Bool := (List.range 16).any fun k => n == 2 ^ k

/-- R114: the checks of a record. -/
def handleRecordOk (h : List Nat) : Bool :=
  h.length == 8 && bitsOf (hWord h 0) 51 48 == 0 &&
  (match fmtOf (hFmt h) with
   | some f => esValid f (hEs h) && (!f.isBlk || hPad h == 0)
   | none => false) &&
  decide (1 ≤ hDims h) && decide (hDims h ≤ 5) &&
  ((List.range 5).all fun d => if d < hDims h then decide (1 ≤ hExt h d) else hExt h d == 1) &&
  bitsOf (hWord h 4) 63 44 == 0 && tileExtentOk (hTile0 h) && tileExtentOk (hTile1 h) && bitsOf (hWord h 6) 31 0 == 0 &&
  hWord h 7 == 0 && berthOk (hBerth h)

/-- R410: a handle is under restow. -/
def State.handleBusy (s : State) (n : Nat) : Bool := s.restows.any fun r => r.src == .handle n

def State.setHandle (s : State) (n : Nat) (words : List Nat) : State :=
  { s with handles := (n, words) :: s.handles.filter fun x => x.1 != n }

/-- R117: the cards in flight that name a handle by the record that is now replaced. -/
def State.keepRecord (s : State) (num : Nat) : State :=
  let named (e : XEntry) : Bool := e.isCard && (e.status == .dispatched || e.status == .started) &&
    cHandle (fromBytes e.card) && cGva (fromBytes e.card) % 4096 == num
  let cards := s.rooms.flatMap fun r => (r.ctx.xq.filter named).map fun e => (r.id, e.id)
  let live := s.oldHandles.filter fun o => o.cards.any fun c => ((s.room? c.1).bind fun r => r.entry? c.2).isSome
  match s.handle? num with
  | some w =>
    if cards.isEmpty then { s with oldHandles := live }
    else { s with oldHandles := { id := s.free, num := num, words := w, cards := cards } :: live, free := s.free + 1 }
  | none => { s with oldHandles := live }

/-- `HANDLEREG` (R114, R410, R117). -/
def execHandlereg (h : CmdHdr) (num : Nat) (words : List DWord) (s : State) : Host.Outcome State Fault Refusal :=
  cmdOp h (.handlereg h num words) privNone (fun s _ =>
    let ws := words.map fun w => w.toNat
    if 4096 ≤ num then (s, .malformed)
    else if s.handleBusy num then (s, .busy)
    else if handleRecordOk ws then
      (((s.keepRecord num).setHandle num ws).reuse (hBerth ws) (hBase ws) (arenaBytes ws), .done)
    else (s, .refused)) s

/-! ### RESTOW (R406) -/

/-- The leaf that maps an address: physical address of its entry, table berth, its words and its page size. -/
structure Leaf where
  pa : Nat
  tberth : Nat
  w0 : Nat
  w1 : Nat
  size : Nat
  deriving DecidableEq, Repr

/-- The entry where the walk of an address ends, when it is a valid leaf. -/
def State.leafFrom (s : State) (tb va : Nat) : Nat → Nat → Option Leaf
  | 0, _ => none
  | fuel + 1, table =>
    let sh := levelShift (2 - fuel)
    let at_ := table + 16 * (va >>> sh % 4096)
    let w0 := s.gNat tb at_ 8
    if !w0.testBit 0 then none
    else if w0.testBit 1 then some { pa := at_, tberth := tb, w0 := w0, w1 := s.gNat tb (at_ + 8) 8, size := 2 ^ sh }
    else s.leafFrom tb va fuel (bitsOf w0 47 16 * 65536)

def State.leafOf (s : State) (asid va : Nat) : Option Leaf :=
  match s.walk asid va .read, s.roots.find? fun r => r.asid == asid with
  | .fault 0x20 1, some r => s.leafFrom r.tberth va 3 r.root
  | .ok _ _ _ _ _, some r => s.leafFrom r.tberth va 3 r.root
  | _, _ => none

/-- The record that a source gives: source and destination frames by lines. For an arena the destination keeps the
position of its base in a line. -/
def State.restowSource (s : State) (src : RestowSource) (frame dst id : Nat) : Option Restow :=
  match src with
  | .page asid va => (s.leafOf asid va).map fun l =>
      { id := id, src := .page asid (va / l.size * l.size), srcPa := bitsOf l.w0 47 16 * 65536, srcBerth := l.w1,
        size := l.size, dstPa := frame, dstBerth := dst, leafPa := l.pa, tberth := l.tberth, p := 0, step := .copy, old := [] }
  | .handle n =>
    match s.handle? n with
    | some h =>
      if hValid h && frame % 64 == hBase h % 64 then
        some { id := id, src := .handle n, srcPa := hBase h / 64 * 64, srcBerth := hBerth h,
               size := cdiv (hBase h % 64 + arenaBytes h) 64 * 64, dstPa := frame / 64 * 64, dstBerth := dst,
               leafPa := 0, tberth := 0, p := 0, step := .copy, old := [] }
      else none
    | none => none

/-- R406: what BAD_RESTOW does not stop. -/
def restowOk (r : Restow) : Bool :=
  let a := r.srcBerth
  let b := r.dstBerth
  decide (berthTier a ≤ 1) && berthOk b && decide (berthTier b ≤ 1) && berthSle a == berthSle b && berthProp a == berthProp b &&
  berthGen b == (berthGen a + 1) % 16 && tierRangeOk b r.dstPa r.size &&
  (match r.src with | .page _ _ => r.dstPa % r.size == 0 | .handle _ => true) &&
  (decide (r.dstPa + r.size ≤ r.srcPa) || decide (r.srcPa + r.size ≤ r.dstPa))

/-- R406: two records name one source: the same handle, or the same leaf, by whatever address it is named. -/
def Restow.sameSource (x y : Restow) : Bool :=
  match x.src, y.src with
  | .page _ _, .page _ _ => placeOf x.tberth x.leafPa == placeOf y.tberth y.leafPa
  | a, b => a == b

/-- R423: a range of the lockhouses' tables covers the frame of a record. -/
def State.aclCovers (s : State) (pa size : Nat) : Bool :=
  s.acl.any fun e =>
    let w3 := e.words.getD 3 0
    let base := e.words.getD 0 0
    w3.testBit 31 && !w3.testBit 30 && decide (base < pa + size) && decide (pa < base + e.words.getD 1 0)

/-- `RESTOW` (R406, R423). BUSY is STATUS 4 and BAD_RESTOW STATUS 1. -/
def execRestow (h : CmdHdr) (src : RestowSource) (frame : Nat) (berth : DWord) (s : State) :
    Host.Outcome State Fault Refusal :=
  cmdOp h (.restow h src frame berth) privNone (fun s _ =>
    match s.restowSource src frame berth.toNat s.nextId with
    | none => (s, .refused)
    | some r =>
      let covered := match r.src with | .page _ _ => s.aclCovers r.srcPa r.size | .handle _ => false
      if s.restows.any (fun x => x.sameSource r) || 64 ≤ s.restows.length || covered then (s, .busy)
      else if restowOk r then ({ s with restows := s.restows ++ [r], nextId := s.nextId + 1 }, .words [r.id])
      else (s, .refused)) s

/-! ### The steps of a restow (R407) -/

/-- Copies line P to the destination, keeping what it held (R407). -/
def State.copyLine (s : State) (r : Restow) : State :=
  let src := r.srcPa + 64 * r.p
  let dst := r.dstPa + 64 * r.p
  let bytes := s.gBytes r.srcBerth src 64
  let old := (s.gBytes r.dstBerth dst 64).zipIdx.map fun b => (dst + b.2, b.1)
  let s1 := s.storeAt { w := r.dstBerth, pa := dst, bytes := bytes.zipIdx.map fun b => (b.2, b.1) }
  let s2 : State := match placeOf r.dstBerth dst with
    | some q => s1.freshLine (q / 64)
    | none => s1
  s2.onRestow r.id fun x => { x with p := x.p + 1, old := x.old ++ old }

/-- `RESTOW_COPY_LINE` (R407, R409): `found` is what the check makes of the source line, `destOk` whether the destination
write succeeds. -/
def execRestowCopyLine (id : Nat) (found : LineCheck) (destOk : Bool) (s : State) : Host.Outcome State Fault Refusal :=
  .next (match s.restow? id with
    | none => s
    | some r =>
      if r.step != .copy || r.lines ≤ r.p then s
      else
        let src := r.srcPa + 64 * r.p
        if found == .uncorrectable || s.gPoisoned r.srcBerth src || s.gFailing r.srcBerth src then s.abortRestow r 1 r.p
        else if !destOk || (placeOf r.dstBerth (r.dstPa + 64 * r.p)).isNone then s.abortRestow r 2 r.p
        else
          let s1 := match found, placeOf r.srcBerth src with
            | .corrected, some q => s.count (counterNo (dieOfPlace q) 0xFF 0x50) 1
            | _, _ => s
          s1.copyLine r)

/-- `RESTOW_CLOSE`: P has reached the end (R407). -/
def execRestowClose (id : Nat) (s : State) : Host.Outcome State Fault Refusal :=
  .next (s.onRestow id fun r => if r.step == .copy && decide (r.lines ≤ r.p) then { r with step := .closed } else r)

/-- `RESTOW_DRAIN_END`: every request accepted before Close is applied and mirrored, which each was in its own step
(R407). -/
def execRestowDrainEnd (id : Nat) (s : State) : Host.Outcome State Fault Refusal :=
  .next (s.onRestow id fun r => if r.step == .closed then { r with step := .drained } else r)

/-- R407 step 5, R428: the held requests of the host are refused, which the controllers count; those of rooms are counted as each is
tried again. -/
def State.refuseHeld (s : State) (id : Nat) : State :=
  ((s.held.filter fun h => h.restow == id && (hostRequest h.event).isSome).foldl
    (fun s h => s.count (counterNo h.die 0xFF 0x53) 1) s).wakeHeld id

/-- R407 step 5: the leaf or the handle record is rewritten. -/
def State.flipRestow (s : State) (r : Restow) : State :=
  match r.src with
  | .page asid va =>
    let w0 := s.gNat r.tberth r.leafPa 8
    let w0' := w0 - bitsOf w0 47 16 * 65536 + r.dstPa / 65536 * 65536
    (s.gWrite hallAgent (fun _ => 0) (pairWrite r.tberth r.leafPa w0' r.dstBerth)).reuse r.dstBerth r.dstPa r.size |>.startShootdown r.id asid (some (va, r.size))
  | .handle n =>
    match s.handle? n with
    | some h =>
      let w0 := hWord h 0 - hBase h + (r.dstPa + hBase h % 64)
      let t := (s.setHandle n ((h.set 0 w0).set 1 r.dstBerth)).reuse r.dstBerth r.dstPa r.size
      { t with moved := { w := r.srcBerth, pa := r.srcPa, size := r.size } :: t.moved }
    | none => s

/-- `RESTOW_FLIP`: the commit point (R407). -/
def execRestowFlip (id : Nat) (s : State) : Host.Outcome State Fault Refusal :=
  .next (match s.restow? id with
    | none => s
    | some r =>
      if r.step == .drained then ((s.flipRestow r).onRestow id fun x => { x with step := .flipped }).refuseHeld id else s)

/-- `RESTOW_DONE`: after the shootdown of its page, the restow is reported and its record removed (R407). -/
def execRestowDone (id : Nat) (s : State) : Host.Outcome State Fault Refusal :=
  .next (match s.restow? id with
    | none => s
    | some r =>
      let none_ := s.rooms.all fun x => x.heldBy.map Prod.fst != some id && x.ctx.xq.all fun e => e.heldBy.map Prod.fst != some id
      if r.step == .flipped && none_ && !s.shootdowns.any fun x => x.id == id then
        State.post { s with restows := s.restows.filter fun x => x.id != id } (.restowDone id r.srcPa)
      else s)

/-- `RESTOW_ABORT` (R409): a mirror write of a line below P read it as uncorrectable (1), or the write of a destination line
failed (2). -/
def execRestowAbort (id : Nat) (fail : RestowFail) (s : State) : Host.Outcome State Fault Refusal :=
  .next (match s.restow? id with
    | none => s
    | some r =>
      if r.step == .flipped then s
      else match fail with
      | .source line => if line < r.p then s.abortRestow r 1 line else s
      | .destination line => if line < r.lines && line ≤ r.p then s.abortRestow r 2 line else s)

/-- `RESTOWCANCEL` (R409). -/
def execRestowcancel (h : CmdHdr) (id : Nat) (s : State) : Host.Outcome State Fault Refusal :=
  cmdOp h (.restowcancel h id) privNone (fun s _ =>
    match s.restow? id with
    | none => (s, .refused)
    | some r => if r.step == .flipped then (s, .refused) else (s.abortRestow r 3 (min r.p (r.lines - 1)), .done)) s

end Sys2Proof.Machine
end

