-- ==== Sys2Proof/Machine/Dispatch.lean ====
section
/-! DEFINITION. The one dispatch: each constructor of Instr to its meaning. -/

namespace Sys2Proof.Machine

def exec (i : Instr) (s : State) : Host.Outcome State Fault Refusal :=
  match i with
  | .nop sl => Sys2Proof.Machine.execNop sl s
  | .add sl f => Sys2Proof.Machine.execAdd sl f s
  | .sub sl f => Sys2Proof.Machine.execSub sl f s
  | .mul sl f => Sys2Proof.Machine.execMul sl f s
  | .mulh sl f => Sys2Proof.Machine.execMulh sl f s
  | .mulhu sl f => Sys2Proof.Machine.execMulhu sl f s
  | .min sl f => Sys2Proof.Machine.execMin sl f s
  | .max sl f => Sys2Proof.Machine.execMax sl f s
  | .minu sl f => Sys2Proof.Machine.execMinu sl f s
  | .maxu sl f => Sys2Proof.Machine.execMaxu sl f s
  | .adds sl f => Sys2Proof.Machine.execAdds sl f s
  | .addus sl f => Sys2Proof.Machine.execAddus sl f s
  | .subs sl f => Sys2Proof.Machine.execSubs sl f s
  | .subus sl f => Sys2Proof.Machine.execSubus sl f s
  | .abs sl f => Sys2Proof.Machine.execAbs sl f s
  | .neg sl f => Sys2Proof.Machine.execNeg sl f s
  | .and sl f => Sys2Proof.Machine.execAnd sl f s
  | .or sl f => Sys2Proof.Machine.execOr sl f s
  | .xor sl f => Sys2Proof.Machine.execXor sl f s
  | .andn sl f => Sys2Proof.Machine.execAndn sl f s
  | .shl sl f => Sys2Proof.Machine.execShl sl f s
  | .shr sl f => Sys2Proof.Machine.execShr sl f s
  | .sar sl f => Sys2Proof.Machine.execSar sl f s
  | .clz sl f => Sys2Proof.Machine.execClz sl f s
  | .popc sl f => Sys2Proof.Machine.execPopc sl f s
  | .bext sl f => Sys2Proof.Machine.execBext sl f s
  | .bins sl f => Sys2Proof.Machine.execBins sl f s
  | .bperm sl f => Sys2Proof.Machine.execBperm sl f s
  | .ceq sl f => Sys2Proof.Machine.execCeq sl f s
  | .cne sl f => Sys2Proof.Machine.execCne sl f s
  | .clt sl f => Sys2Proof.Machine.execClt sl f s
  | .cle sl f => Sys2Proof.Machine.execCle sl f s
  | .cltu sl f => Sys2Proof.Machine.execCltu sl f s
  | .cleu sl f => Sys2Proof.Machine.execCleu sl f s
  | .gand sl f => Sys2Proof.Machine.execGand sl f s
  | .gor sl f => Sys2Proof.Machine.execGor sl f s
  | .sel sl f => Sys2Proof.Machine.execSel sl f s
  | .addi sl f => Sys2Proof.Machine.execAddi sl f s
  | .andi sl f => Sys2Proof.Machine.execAndi sl f s
  | .ori sl f => Sys2Proof.Machine.execOri sl f s
  | .xori sl f => Sys2Proof.Machine.execXori sl f s
  | .shli sl f => Sys2Proof.Machine.execShli sl f s
  | .shri sl f => Sys2Proof.Machine.execShri sl f s
  | .sari sl f => Sys2Proof.Machine.execSari sl f s
  | .ceqi sl f => Sys2Proof.Machine.execCeqi sl f s
  | .clti sl f => Sys2Proof.Machine.execClti sl f s
  | .cltui sl f => Sys2Proof.Machine.execCltui sl f s
  | .seth sl f => Sys2Proof.Machine.execSeth sl f s
  | .aadd sl f => Sys2Proof.Machine.execAadd sl f s
  | .aaddi sl f => Sys2Proof.Machine.execAaddi sl f s
  | .ldb sl f => Sys2Proof.Machine.execLdb sl f s
  | .ldbu sl f => Sys2Proof.Machine.execLdbu sl f s
  | .ldh sl f => Sys2Proof.Machine.execLdh sl f s
  | .ldhu sl f => Sys2Proof.Machine.execLdhu sl f s
  | .ldw sl f => Sys2Proof.Machine.execLdw sl f s
  | .ldq sl f => Sys2Proof.Machine.execLdq sl f s
  | .stb sl f => Sys2Proof.Machine.execStb sl f s
  | .sth sl f => Sys2Proof.Machine.execSth sl f s
  | .stw sl f => Sys2Proof.Machine.execStw sl f s
  | .stq sl f => Sys2Proof.Machine.execStq sl f s
  | .lda sl f => Sys2Proof.Machine.execLda sl f s
  | .sta sl f => Sys2Proof.Machine.execSta sl f s
  | .ldd sl f => Sys2Proof.Machine.execLdd sl f s
  | .std sl f => Sys2Proof.Machine.execStd sl f s
  | .fadd sl f => Sys2Proof.Machine.execFadd sl f s
  | .fsub sl f => Sys2Proof.Machine.execFsub sl f s
  | .fmul sl f => Sys2Proof.Machine.execFmul sl f s
  | .ffma sl f => Sys2Proof.Machine.execFfma sl f s
  | .fcmp sl f => Sys2Proof.Machine.execFcmp sl f s
  | .fcvt sl f => Sys2Proof.Machine.execFcvt sl f s
  | .br f => Sys2Proof.Machine.execBr f s
  | .jr f => Sys2Proof.Machine.execJr f s
  | .call f => Sys2Proof.Machine.execCall f s
  | .callr f => Sys2Proof.Machine.execCallr f s
  | .ret f => Sys2Proof.Machine.execRet f s
  | .loop f => Sys2Proof.Machine.execLoop f s
  | .rep f => Sys2Proof.Machine.execRep f s
  | .rot f => Sys2Proof.Machine.execRot f s
  | .trap f => Sys2Proof.Machine.execTrap f s
  | .mfs sl f => Sys2Proof.Machine.execMfs sl f s
  | .mts f => Sys2Proof.Machine.execMts f s
  | .repcWrite f => Sys2Proof.Machine.execRepcWrite f s
  | .halt f => Sys2Proof.Machine.execHalt f s
  | .vnop => Sys2Proof.Machine.execVnop s
  | .vadd f => Sys2Proof.Machine.execVadd f s
  | .vsub f => Sys2Proof.Machine.execVsub f s
  | .vmul f => Sys2Proof.Machine.execVmul f s
  | .vfma f => Sys2Proof.Machine.execVfma f s
  | .vmin f => Sys2Proof.Machine.execVmin f s
  | .vmax f => Sys2Proof.Machine.execVmax f s
  | .vabs f => Sys2Proof.Machine.execVabs f s
  | .vneg f => Sys2Proof.Machine.execVneg f s
  | .vadds f => Sys2Proof.Machine.execVadds f s
  | .vsubs f => Sys2Proof.Machine.execVsubs f s
  | .vand f => Sys2Proof.Machine.execVand f s
  | .vor f => Sys2Proof.Machine.execVor f s
  | .vxor f => Sys2Proof.Machine.execVxor f s
  | .vshl f => Sys2Proof.Machine.execVshl f s
  | .vshr f => Sys2Proof.Machine.execVshr f s
  | .vcvt f => Sys2Proof.Machine.execVcvt f s
  | .vrint f => Sys2Proof.Machine.execVrint f s
  | .vmov f => Sys2Proof.Machine.execVmov f s
  | .vfexp f => Sys2Proof.Machine.execVfexp f s
  | .vscale f => Sys2Proof.Machine.execVscale f s
  | .vgetexp f => Sys2Proof.Machine.execVgetexp f s
  | .vgetman f => Sys2Proof.Machine.execVgetman f s
  | .vclass f => Sys2Proof.Machine.execVclass f s
  | .vrcp f => Sys2Proof.Machine.execVrcp f s
  | .vrsqrt f => Sys2Proof.Machine.execVrsqrt f s
  | .vdiv f => Sys2Proof.Machine.execVdiv f s
  | .vsqrt f => Sys2Proof.Machine.execVsqrt f s
  | .vflog f => Sys2Proof.Machine.execVflog f s
  | .vcmp f => Sys2Proof.Machine.execVcmp f s
  | .vsel f => Sys2Proof.Machine.execVsel f s
  | .vperm f => Sys2Proof.Machine.execVperm f s
  | .vgather f => Sys2Proof.Machine.execVgather f s
  | .vscatter f => Sys2Proof.Machine.execVscatter f s
  | .vbmax f => Sys2Proof.Machine.execVbmax f s
  | .vsplit f => Sys2Proof.Machine.execVsplit f s
  | .vrand f => Sys2Proof.Machine.execVrand f s
  | .vsum f => Sys2Proof.Machine.execVsum f s
  | .vdot f => Sys2Proof.Machine.execVdot f s
  | .vrmax f => Sys2Proof.Machine.execVrmax f s
  | .vrmin f => Sys2Proof.Machine.execVrmin f s
  | .mnop => Sys2Proof.Machine.execMnop s
  | .msill f => Sys2Proof.Machine.execMsill f s
  | .mmul f => Sys2Proof.Machine.execMmul f s
  | .mmac f => Sys2Proof.Machine.execMmac f s
  | .mslice f => Sys2Proof.Machine.execMslice f s
  | .mscale f => Sys2Proof.Machine.execMscale f s
  | .mround f => Sys2Proof.Machine.execMround f s
  | .mrel f => Sys2Proof.Machine.execMrel f s
  | .mzero f => Sys2Proof.Machine.execMzero f s
  | .msave f => Sys2Proof.Machine.execMsave f s
  | .mload f => Sys2Proof.Machine.execMload f s
  | .msplit f => Sys2Proof.Machine.execMsplit f s
  | .qclr f => Sys2Proof.Machine.execQclr f s
  | .qfma f => Sys2Proof.Machine.execQfma f s
  | .qdot f => Sys2Proof.Machine.execQdot f s
  | .qadd f => Sys2Proof.Machine.execQadd f s
  | .qsub f => Sys2Proof.Machine.execQsub f s
  | .qneg f => Sys2Proof.Machine.execQneg f s
  | .qround f => Sys2Proof.Machine.execQround f s
  | .qst f => Sys2Proof.Machine.execQst f s
  | .qld f => Sys2Proof.Machine.execQld f s
  | .xnop => Sys2Proof.Machine.execXnop s
  | .bcopy f => Sys2Proof.Machine.execBcopy f s
  | .bconv f => Sys2Proof.Machine.execBconv f s
  | .bquant f => Sys2Proof.Machine.execBquant f s
  | .bgather f => Sys2Proof.Machine.execBgather f s
  | .bscatter f => Sys2Proof.Machine.execBscatter f s
  | .bfill f => Sys2Proof.Machine.execBfill f s
  | .bnext f => Sys2Proof.Machine.execBnext f s
  | .bchain f => Sys2Proof.Machine.execBchain f s
  | .put f => Sys2Proof.Machine.execPut f s
  | .putQ f => Sys2Proof.Machine.execPutQ f s
  | .putT f => Sys2Proof.Machine.execPutT f s
  | .sinit f => Sys2Proof.Machine.execSinit f s
  | .sinc f => Sys2Proof.Machine.execSinc f s
  | .swait f => Sys2Proof.Machine.execSwait f s
  | .twait f => Sys2Proof.Machine.execTwait f s
  | .tbsync f => Sys2Proof.Machine.execTbsync f s
  | .slAdd f => Sys2Proof.Machine.execSlAdd f s
  | .slMin f => Sys2Proof.Machine.execSlMin f s
  | .slMax f => Sys2Proof.Machine.execSlMax f s
  | .slAnd f => Sys2Proof.Machine.execSlAnd f s
  | .slOr f => Sys2Proof.Machine.execSlOr f s
  | .slXor f => Sys2Proof.Machine.execSlXor f s
  | .slFadd f => Sys2Proof.Machine.execSlFadd f s
  | .slCas f => Sys2Proof.Machine.execSlCas f s
  | .slFill f => Sys2Proof.Machine.execSlFill f s
  | .slSum f => Sys2Proof.Machine.execSlSum f s
  | .amoAdd f => Sys2Proof.Machine.execAmoAdd f s
  | .amoMin f => Sys2Proof.Machine.execAmoMin f s
  | .amoMax f => Sys2Proof.Machine.execAmoMax f s
  | .amoAnd f => Sys2Proof.Machine.execAmoAnd f s
  | .amoOr f => Sys2Proof.Machine.execAmoOr f s
  | .amoXor f => Sys2Proof.Machine.execAmoXor f s
  | .amoSwap f => Sys2Proof.Machine.execAmoSwap f s
  | .amoCas f => Sys2Proof.Machine.execAmoCas f s
  | .amoFadd f => Sys2Proof.Machine.execAmoFadd f s
  | .fenceAcq f => Sys2Proof.Machine.execFenceAcq f s
  | .fenceRel f => Sys2Proof.Machine.execFenceRel f s
  | .fenceAr f => Sys2Proof.Machine.execFenceAr f s
  | .fenceBank f => Sys2Proof.Machine.execFenceBank f s
  | .fenceBankAll f => Sys2Proof.Machine.execFenceBankAll f s
  | .fenceGeo f => Sys2Proof.Machine.execFenceGeo f s
  | .phase f => Sys2Proof.Machine.execPhase f s
  | .dbar f => Sys2Proof.Machine.execDbar f s
  | .collSum f => Sys2Proof.Machine.execCollSum f s
  | .collSumQ f => Sys2Proof.Machine.execCollSumQ f s
  | .collBcast f => Sys2Proof.Machine.execCollBcast f s
  | .wmap f => Sys2Proof.Machine.execWmap f s
  | .wflush f => Sys2Proof.Machine.execWflush f s
  | .wflushAll f => Sys2Proof.Machine.execWflushAll f s
  | .tret f => Sys2Proof.Machine.execTret f s
  | .load h asid objVa size lb => Sys2Proof.Machine.execLoad h asid objVa size lb s
  | .unload h handle => Sys2Proof.Machine.execUnload h handle s
  | .launch h asid recVa => Sys2Proof.Machine.execLaunch h asid recVa s
  | .basincfg h basin cls weight => Sys2Proof.Machine.execBasincfg h basin cls weight s
  | .preempt h team deadline forced => Sys2Proof.Machine.execPreempt h team deadline forced s
  | .kill h team => Sys2Proof.Machine.execKill h team s
  | .resume h r => Sys2Proof.Machine.execResume h r s
  | .resumeH h r addr => Sys2Proof.Machine.execResumeH h r addr s
  | .ctxread h r => Sys2Proof.Machine.execCtxread h r s
  | .ctxwrite h r image => Sys2Proof.Machine.execCtxwrite h r image s
  | .dump h r => Sys2Proof.Machine.execDump h r s
  | .dumparea h asid va size => Sys2Proof.Machine.execDumparea h asid va size s
  | .debugStop h r => Sys2Proof.Machine.execDebugStop h r s
  | .debugStep h r => Sys2Proof.Machine.execDebugStep h r s
  | .debugBkpt h r n addr => Sys2Proof.Machine.execDebugBkpt h r n addr s
  | .debugWatch h r n lo len kind => Sys2Proof.Machine.execDebugWatch h r n lo len kind s
  | .debugResume h r => Sys2Proof.Machine.execDebugResume h r s
  | .pagein h r => Sys2Proof.Machine.execPagein h r s
  | .faultFatal h r => Sys2Proof.Machine.execFaultFatal h r s
  | .asidset h asid valid root tberth => Sys2Proof.Machine.execAsidset h asid valid root tberth s
  | .ptewrite h asid pa word0 word1 => Sys2Proof.Machine.execPtewrite h asid pa word0 word1 s
  | .shootdown h asid range => Sys2Proof.Machine.execShootdown h asid range s
  | .restow h src frame berth => Sys2Proof.Machine.execRestow h src frame berth s
  | .restowcancel h id => Sys2Proof.Machine.execRestowcancel h id s
  | .handlereg h num words => Sys2Proof.Machine.execHandlereg h num words s
  | .winopen h asid va len rights => Sys2Proof.Machine.execWinopen h asid va len rights s
  | .winclose h key => Sys2Proof.Machine.execWinclose h key s
  | .aclset h lockhouse idx words => Sys2Proof.Machine.execAclset h lockhouse idx words s
  | .evqset h qp addr rkey log2 consumer => Sys2Proof.Machine.execEvqset h qp addr rkey log2 consumer s
  | .linkroute h self routes spares => Sys2Proof.Machine.execLinkroute h self routes spares s
  | .tbref h root => Sys2Proof.Machine.execTbref h root s
  | .arm h t => Sys2Proof.Machine.execArm h t s
  | .read h first count => Sys2Proof.Machine.execRead h first count s
  | .tracecfg h args => Sys2Proof.Machine.execTracecfg h args s
  | .tracestop h => Sys2Proof.Machine.execTracestop h s
  | .powerUp slotA slotB record => Sys2Proof.Machine.execPowerUp slotA slotB record s
  | .cmdDropped h tagOk => Sys2Proof.Machine.execCmdDropped h tagOk s
  | .malformedCommand h opcode => Sys2Proof.Machine.execMalformedCommand h opcode s
  | .roomHalted r => Sys2Proof.Machine.execRoomHalted r s
  | .landing r => Sys2Proof.Machine.execLanding r s
  | .swaitRelease r => Sys2Proof.Machine.execSwaitRelease r s
  | .twaitRelease r => Sys2Proof.Machine.execTwaitRelease r s
  | .tbRealignDone pkg => Sys2Proof.Machine.execTbRealignDone pkg s
  | .sluiceApply r id => Sys2Proof.Machine.execSluiceApply r id s
  | .sluiceReply r id => Sys2Proof.Machine.execSluiceReply r id s
  | .atomicApply r id => Sys2Proof.Machine.execAtomicApply r id s
  | .atomicReply r id => Sys2Proof.Machine.execAtomicReply r id s
  | .fenceComplete r id => Sys2Proof.Machine.execFenceComplete r id s
  | .dbarArrival r => Sys2Proof.Machine.execDbarArrival r s
  | .dbarComplete r => Sys2Proof.Machine.execDbarComplete r s
  | .collectiveComplete r id => Sys2Proof.Machine.execCollectiveComplete r id s
  | .entryDispatch r id => Sys2Proof.Machine.execEntryDispatch r id s
  | .cardStart r id => Sys2Proof.Machine.execCardStart r id s
  | .shadowCardSwap r ch => Sys2Proof.Machine.execShadowCardSwap r ch s
  | .bargeElementRequest r id => Sys2Proof.Machine.execBargeElementRequest r id s
  | .cardComplete r id => Sys2Proof.Machine.execCardComplete r id s
  | .putLanding r id => Sys2Proof.Machine.execPutLanding r id s
  | .windowFill r => Sys2Proof.Machine.execWindowFill r s
  | .atticOverflowFill r => Sys2Proof.Machine.execAtticOverflowFill r s
  | .codePageFill r => Sys2Proof.Machine.execCodePageFill r s
  | .boundaryTrap r => Sys2Proof.Machine.execBoundaryTrap r s
  | .pageFaultMove r => Sys2Proof.Machine.execPageFaultMove r s
  | .tableWalk floor asid va kind => Sys2Proof.Machine.execTableWalk floor asid va kind s
  | .requestReplay r id => Sys2Proof.Machine.execRequestReplay r id s
  | .alertBackOff bank => Sys2Proof.Machine.execAlertBackOff bank s
  | .patrolScrub stack line found => Sys2Proof.Machine.execPatrolScrub stack line found s
  | .bankSelfTestPass core bank => Sys2Proof.Machine.execBankSelfTestPass core bank s
  | .admissionRound map => Sys2Proof.Machine.execAdmissionRound map s
  | .teamRetire team => Sys2Proof.Machine.execTeamRetire team s
  | .preemptStop r => Sys2Proof.Machine.execPreemptStop r s
  | .contextSave team => Sys2Proof.Machine.execContextSave team s
  | .dumpComplete => Sys2Proof.Machine.execDumpComplete s
  | .shootdownDone id => Sys2Proof.Machine.execShootdownDone id s
  | .restowCopyLine id found destOk => Sys2Proof.Machine.execRestowCopyLine id found destOk s
  | .restowClose id => Sys2Proof.Machine.execRestowClose id s
  | .restowDrainEnd id => Sys2Proof.Machine.execRestowDrainEnd id s
  | .restowFlip id => Sys2Proof.Machine.execRestowFlip id s
  | .restowDone id => Sys2Proof.Machine.execRestowDone id s
  | .restowAbort id fail => Sys2Proof.Machine.execRestowAbort id fail s
  | .rdmaRead qp psn key va len => Sys2Proof.Machine.execRdmaRead qp psn key va len s
  | .rdmaWrite qp psn key va data => Sys2Proof.Machine.execRdmaWrite qp psn key va data s
  | .atomicFetchAndAdd qp psn key va v => Sys2Proof.Machine.execAtomicFetchAndAdd qp psn key va v s
  | .atomicCompareAndSwap qp psn key va cmp v => Sys2Proof.Machine.execAtomicCompareAndSwap qp psn key va cmp v s
  | .evqOverflowEvent => Sys2Proof.Machine.execEvqOverflowEvent s
  | .counterTrigger die => Sys2Proof.Machine.execCounterTrigger die s
  | .traceRecordWrite core inTime => Sys2Proof.Machine.execTraceRecordWrite core inTime s
  | .cmdsession spdm cert => Sys2Proof.Machine.execCmdsession spdm cert s
  | .getMeasurements nonce => Sys2Proof.Machine.execGetMeasurements nonce s
  | .keyload session slot key unwraps => Sys2Proof.Machine.execKeyload session slot key unwraps s
  | .keyloadComplete slot => Sys2Proof.Machine.execKeyloadComplete slot s
  | .beatFrameReceive link frame => Sys2Proof.Machine.execBeatFrameReceive link frame s
  | .beatResendTimeout link => Sys2Proof.Machine.execBeatResendTimeout link s
  | .linkRetrain link => Sys2Proof.Machine.execLinkRetrain link s
  | .timingFrameSend link => Sys2Proof.Machine.execTimingFrameSend link s
  | .timingFrameReceive link frame => Sys2Proof.Machine.execTimingFrameReceive link frame s
  | .rootPathLoss => Sys2Proof.Machine.execRootPathLoss s
  | .ptpSync sync => Sys2Proof.Machine.execPtpSync sync s
  | .ptpSyncTimeout => Sys2Proof.Machine.execPtpSyncTimeout s
  | .lockhousePortLinkUp port authenticated pid => Sys2Proof.Machine.execLockhousePortLinkUp port authenticated pid s
  | .peerReadRequest port pid tile addr => Sys2Proof.Machine.execPeerReadRequest port pid tile addr s
  | .peerReadReply r id denied stale line => Sys2Proof.Machine.execPeerReadReply r id denied stale line s
  | .powerSample sampleWatts energy h => Sys2Proof.Machine.execPowerSample sampleWatts energy h s
  | .thermalWarn => Sys2Proof.Machine.execThermalWarn s
  | .thermalTrip => Sys2Proof.Machine.execThermalTrip s
  | .packageReset => Sys2Proof.Machine.execPackageReset s
  | .bankHardFault core bank => Sys2Proof.Machine.execBankHardFault core bank s
  | .refreshDue bank canIssue => Sys2Proof.Machine.execRefreshDue bank canIssue s
  | .refreshManagementDone bank => Sys2Proof.Machine.execRefreshManagementDone bank s
  | .linkRetrainDone link => Sys2Proof.Machine.execLinkRetrainDone link s
  | .frameDropped frame => Sys2Proof.Machine.execFrameDropped frame s
  | .firmwareUpdate image record => Sys2Proof.Machine.execFirmwareUpdate image record s
  | .spdmSessionEnd spdm => Sys2Proof.Machine.execSpdmSessionEnd spdm s
  | .thermalWarnClear => Sys2Proof.Machine.execThermalWarnClear s

end Sys2Proof.Machine
end

