-- ==== Sys2Proof/Machine/Cycle.lean ====
section
/-! DEFINITION. One core cycle: the issue of a bundle by a room (06, R156 to R160; 07, R188 to R200), what happens at the
boundary that follows (18, R378, R382, R396; 17, R374), and the tick that opens a core cycle (01, R21, R43). -/

namespace Sys2Proof.Machine

/-! ### The slots of a bundle (R142, R159) -/

/-- The slots of a bundle so far: the state they leave, the causes they raised with the slot of each, and the landings of
loads whose access did not take place. -/
structure SlotRun where
  state : State
  causes : List (Nat × Cause)
  owed : List Landing

/-- R158: the landings that a slot counts for whatever becomes of its access: those of loads, of the links of calls, and of the
q-registers of reductions (R83). -/
def Ctx.claims (c : Ctx) : Instr → Nat × List LandVal
  | .ldb _ f | .ldbu _ f | .ldh _ f | .ldhu _ f | .ldw _ f => (3, [destS c f.d 0])
  | .ldq _ f => (3, [destS c f.d 0, destS c (nextS f.d) 0])
  | .lda _ f => (3, [destA f.d 0])
  | .call f | .callr f => (1, if c.guard f.gi f.gn then [.a 15 0] else [])
  | .vsum f | .vdot f => (1, [.q f.qd Quire.clear])
  | _ => (1, [])

/-- The claims of a slot as pending landings. -/
def Ctx.owing (c : Ctx) (n : Nat) (i : Instr) : List Landing :=
  ((c.claims i).2.filter fun v => !discarded v).map fun v =>
    { due := c.ic + (c.claims i).1, val := v, slot := n, raised := Raised.none, escape := none }

/-- Notes the landings of a slot that raised a cause, for the later slots of the bundle, which then stops. -/
def State.claim (s : State) (n : Nat) (i : Instr) : State :=
  { s with me := { s.me with ctx.landings := s.me.ctx.landings ++ s.me.ctx.owing n i } }

/-- Runs one slot: an encoding that was refused, or a cause its meaning raises, is noted and leaves the state as it was but
for the landings that later slots meet (R158, R159). A load whose access collides, or whose line is not resident, counts with
its landing all the same. -/
def SlotRun.slot (x : SlotRun) (n : Nat) (i : Option Instr) : SlotRun :=
  match i with
  | none => { x with causes := x.causes ++ [(n, illegal n)] }
  | some i =>
    match exec i x.state with
    | .next t =>
      (match t.me.stop with
       | .frozen c => { x with state := x.state.claim n i, causes := x.causes ++ [(n, c)] }
       | _ =>
         let new := t.me.ctx.landings.drop x.state.me.ctx.landings.length
         let lost := (x.state.me.ctx.owing n i).filter fun l => !new.any fun m => m.due == l.due && sameReg m.val l.val
         let clash := x.owed.any fun l => (new ++ lost).any fun m => m.due == l.due && sameReg m.val l.val
         { state := t, causes := if clash then x.causes ++ [(n, busy n)] else x.causes, owed := x.owed ++ lost })
    | _ => x

/-- R159: the cause taken: of the first rank, and of those of the first slot. -/
def firstIssue (l : List (Nat × Cause)) : Option Cause :=
  (l.foldl (fun (b : Option (Nat × Cause)) c => match b with
    | none => some c
    | some x =>
      if issueRank c.2 < issueRank x.2 || (issueRank c.2 == issueRank x.2 && decide (c.1 < x.1)) then some c else some x)
    none).map Prod.snd

/-- R204, R305: the other slots of a bundle with `halt` or `tret` are no-ops. -/
def aloneOk (b : Decode.Bundle) : List (Nat × Cause) :=
  let nop0 := b.s0 == some (.nop .s0)
  let nop1 := b.s1 == some (.nop .s1)
  let nopV := b.v == some .vnop
  let nopM := b.m == some .mnop
  (match b.s0 with
   | some (.halt _) => if nop1 && nopV && nopM && b.x == some .xnop then [] else [(0, illegal 0)]
   | _ => []) ++
  (match b.x with
   | some (.tret _) => if nop0 && nop1 && nopV && nopM then [] else [(4, illegal 4)]
   | _ => [])

/-- The five slots of a bundle; a `phase` is made first, for the other slots belong to the phase it begins (R296). An `mfs` of
PHASE beside it therefore reads the new SEQ, where R162 and R296 speak of the footprint alone (DESIGN CHOICE, log 80). -/
def State.runSlots (s : State) (b : Decode.Bundle) : SlotRun :=
  let ofs : BitVec 6 := BitVec.ofNat 6 (repOfs s.me.ctx.repc)
  let s0 := if repRem s.me.ctx.repc = 0 then b.s0 else b.s0.map (stepped ofs)
  let s1 := if repRem s.me.ctx.repc = 0 then b.s1 else b.s1.map (stepped ofs)
  let x0 : SlotRun := { state := s, causes := aloneOk b, owed := [] }
  match b.x with
  | some (.phase _) => ((((x0.slot 4 b.x).slot 0 s0).slot 1 s1).slot 2 b.v).slot 3 b.m
  | _ => ((((x0.slot 0 s0).slot 1 s1).slot 2 b.v).slot 3 b.m).slot 4 b.x

/-- A bundle whose slots take no effect, the one of a repeat of n = 0: of what its slots would raise only ILLEGAL_BUNDLE is
raised (R197). -/
def State.refusedSlots (s : State) (b : Decode.Bundle) : SlotRun :=
  { state := s, causes := (s.runSlots b).causes.filter fun c => c.2.code == 0x01, owed := [] }

/-! ### Before the slots -/

/-- R396: the breakpoint at the bundle about to issue. -/
def Room.breakpoint (r : Room) : Option Cause :=
  if r.bkptPassed then none
  else (r.bkpt.find? fun b => b.2 == r.ctx.pc).map fun b => { cause 0x28 6 with aux := b.1 }

/-- What opens an issue cycle: the pops of a branch whose target issues (R191), and the landings and accesses due (R157,
R211), with the errors that whole-word writes clear. -/
def State.openCycle (s : State) : State :=
  let s1 := s.heal s.me s.me.ctx.landingBytes
  { s1 with me := Room.beginCycle { s1.me with ctx := s1.me.ctx.arrive } (s1.coreOf s1.me.core) }

/-- The byte addresses that the stores of this cycle write (R99, R262). -/
def Ctx.storeBytes (c : Ctx) : List Nat :=
  c.landings.flatMap fun l => match l.val with | .store cells => cells.map Prod.fst | _ => []

/-- R192, R101, R105: the room is held for what the bundle needs and issues nothing. -/
def State.holdFor (s : State) (m : Miss) : State :=
  let s1 : State := { s with me := { s.me.latchAll with stop := .hold m } }
  s1.countHeld s1.me.core (some s1.me) false

/-! ### The boundary after a bundle (R378, R382) -/

/-- R396: a trap ends a debugger's step. -/
def State.stepEnds (s : State) : State := { s with me := { s.me with stepOnce := false } }

/-- R21: a `phase` is a switch point. -/
def endsPhase (b : Decode.Bundle) : Bool := match b.x with | some (.phase _) => true | _ => false

/-- The boundary: a cause due is taken first; else a pre-emption, a debugger's step or a switch point stops the room. -/
def State.boundary (s : State) (phase : Bool) : State :=
  let r := s.me
  if !r.ctx.due.isEmpty then s.stepEnds.takeDue
  else if r.atStopPoint && r.life == .running then
    State.leave { s with me := { r.preemptHere (s.coreOf r.core).tb with stepOnce := false } } r
  else if r.stepOnce then s.debugStop
  else if phase || r.life != .running then s.leave r
  else s

/-- The end of a bundle that issued: what it counts, the sequencer's choice, and the boundary. `live` is false for the cycle
of a repeat of n = 0, none of whose slots takes effect (R197). -/
def State.closeCycle (s : State) (b : Decode.Bundle) (live : Bool) : State :=
  let s1 := (s.countIssue s.me (if live then b.m else none)).flushEcc.heal s.me s.me.ctx.storeBytes
  let halts := s1.me.ctl == .halts
  let s2 := if halts then s1.flushMacct s1.me else s1
  State.boundary { s2 with me := s2.me.advance b.sp } (live && endsPhase b)

/-- The bundle pushes a loop: a `loop` whose count is not 0 (R193). -/
def pushesLoop (b : Decode.Bundle) : Bool := match b.s0 with | some (.loop _) => true | _ => false

/-- R196: a loop of at most 256 bundles that the bundle `w` at `pc` has just pushed takes the core's loop buffer, and a bundle
of the loop in the buffer is captured as it issues. -/
def State.noteLoop (s : State) (pushed : Bool) (pc : DWord) (w : BitVec 256) : State :=
  let r := s.me
  let fits (e : LoopEntry) : Bool := decide (e.last.toNat < e.start.toNat + 256 * 32)
  match r.ctx.loops with
  | e :: _ =>
    if pushed then
      if fits e then
        s.onCore r.core fun k =>
          { k with loopBuf := some { room := r.id, load := r.loadH, start := e.start, last := e.last, bundles := [] } }
      else s
    else
      s.onCore r.core fun k => match k.loopBuf with
        | some b =>
          if b.room = r.id && decide (b.start.toNat ≤ pc.toNat) && decide (pc.toNat ≤ b.last.toNat) &&
              (b.bundles.all fun x => x.1 != pc) then
            { k with loopBuf := some { b with bundles := b.bundles ++ [(pc, w)] } }
          else k
        | none => k
  | [] => s

/-! ### An issue cycle -/

/-- R159: an issue cause stops the whole bundle: nothing of this cycle remains. -/
def State.stopBundle (s : State) (c : Cause) : State :=
  State.issueTrap (s.chargeTurn s.me).stepEnds c

/-- The bundle issues, unless it raises an issue cause or needs a line that is not resident. -/
def State.issueBundle (s : State) (w : BitVec 256) : State :=
  let bp : List (Nat × Cause) := match s.me.breakpoint with | some c => [(6, c)] | none => []
  match Decode.bundle w with
  | none => s.stopBundle ((firstIssue (bp ++ [(6, illegal 6)])).getD (illegal 6))
  | some b =>
    let t := s.openCycle
    let c := t.me.ctx
    let fresh : List (Nat × Cause) :=
      if c.repFresh then
        match repeatCheck w (repRem c.repc) (repK c.repc) (repOfs c.repc) with
        | some k => [(0, k)]
        | none => []
      else []
    let run : SlotRun := if c.repZero then t.refusedSlots b else t.runSlots b
    match firstIssue (bp ++ fresh ++ run.causes) with
    | some k => s.stopBundle k
    | none =>
      match run.state.me.miss with
      | some m => s.holdFor m
      | none => (run.state.noteLoop (pushesLoop b && decide (c.loops.length < run.state.me.ctx.loops.length)) c.pc w).closeCycle b (!c.repZero)

/-- A running room that waits for nothing: the fetch at its pc (R188, R192), then the bundle. -/
def State.fetchAndIssue (s : State) : State :=
  match s.codeAt s.me s.me.ctx.pc with
  | .outside =>
    (s.chargeTurn s.me).stepEnds.takeTrap { code := 0x23, slot := 5, sub := 4, aux := 0, index := s.me.ctx.pc.toNat % 2 ^ 32 } s.me.ctx.pc
  | .miss p => s.holdFor (.codePage p)
  | .word w => s.issueBundle w

/-- The turn of the room that `me` is: causes due at the boundary it stands at, an empty counted cycle of a room that
has halted or waits at a barrier, the end of a wait, or the issue of a bundle. -/
def State.roomCycle (s0 : State) : State :=
  let s := s0.flushEcc
  let r := s.me
  if r.stop != .none then s
  else if !r.ctx.due.isEmpty then (s.chargeTurn r).stepEnds.takeDue
  else if r.drains then
    let s1 := s.drainTurn
    if s1.me.ctx.due.isEmpty then s1 else s1.stepEnds.takeDue
  else if r.life != .running || (s.coreOf r.core).resident != some r.id then s
  else
    match r.ctx.wait with
    | .none => s.fetchAndIssue
    | .dbar _ _ => s
    | .swait _ _ _ =>
      if r.ctx.waitHolds then State.fetchAndIssue { s with me := { r with ctx := r.ctx.release } } else s
    | .twait _ =>
      if s.twaitOver r then State.fetchAndIssue { s with me := { r with ctx.wait := .none } }
      else s.countHeld r.core (some r) false

/-! ### The tick that opens a core cycle (R43, R21, R444) -/

/-- Whether the resident room of a core takes a turn in this core cycle. -/
def Room.takesTurn (r : Room) : Bool :=
  r.stop == .none &&
  ((!r.ctx.due.isEmpty && (r.life == .running || r.life == .halting)) ||
   (r.life == .running &&
    (match r.ctx.wait with
     | .none => true
     | .twait _ => true
     | .dbar _ _ => false
     | .swait _ _ _ => r.ctx.waitHolds)))

/-- The rooms with a turn on one core, and the counts of the core when nothing issues there. -/
def State.coreTurns (s : State) (core : Nat) : State :=
  match s.core? core with
  | none => s
  | some k =>
    let res := k.resident.bind s.room?
    let power := s.powerHeld k res
    let drained := s.rooms.filter fun r => r.core == core &&
      (r.drains || (!r.ctx.due.isEmpty && r.stop == .none && (match k.resident with | some i => i != r.id | none => true)))
    let turn := match res with | some r => r.takesTurn && !power && !r.drains | none => false
    let ids := (match res with | some r => if turn then [r.id] else [] | none => []) ++
      (if power then [] else (drained.map fun r => r.id).filter fun i => !turn || some i != k.resident)
    let s1 : State := { s with queue := s.queue ++ ids }
    if turn then s1 else s1.countHeld core res power

/-- R46: the bound of the hall about its reference while LOCK = 1, in 2^-16 ns. -/
def State.hallBound (s : State) : Nat := (if s.followsLinks then 8 else 50) * 2 ^ 16

/-- R43, R46, R425: the hall's timebase after one core cycle: the nominal step with the servo's correction, less what it holds
still for; while LOCK = 1 within its bound about the reference `ref`, and never backward (log 72). -/
def State.hallNext (s : State) (ref : Nat) : Nat :=
  let step := ((Config.tbStep : Int) + s.hall.rate).toNat
  let next := s.hall.tb + (step - min s.hall.hold step)
  if s.hall.lock then max s.hall.tb (max (ref - s.hallBound) (min (ref + s.hallBound) next)) else next

/-- R43, R45, R425: every copy of TB advances with the hall's; while a realignment runs, a core ahead of the hall holds
still. -/
def State.advanceTime (s : State) : State :=
  let step := ((Config.tbStep : Int) + s.hall.rate).toNat
  let ref := s.hall.ref + ((Config.tbStep : Int) + s.hall.drift).toNat
  let hall := s.hallNext ref
  let delta := hall - s.hall.tb
  { s with
    hall := { s.hall with tb := hall, hold := s.hall.hold - min s.hall.hold step, ref := ref }
    lockTb := s.lockTb.map (· + delta)
    links := s.links.map fun l => { l with tb := l.tb + delta }
    cores := s.cores.map fun k =>
      { k with tb := if s.hall.aligning (pkgOf k.num) && decide (hall < k.tb) then k.tb else k.tb + delta
               powerPhase := (k.powerPhase + 1) % 64 }
    roundDue := s.roundDue || decide (s.hall.tb / 2 ^ 16 / 10 ^ 6 < hall / 2 ^ 16 / 10 ^ 6) }

/-- The start of a core cycle: time advances, each core whose resident room is not ready passes to the next, and every
room with a turn is queued. -/
def State.tick (s : State) : State :=
  let s1 := s.advanceTime.triggerDies.errEvents
  let nums := s1.cores.map fun k => k.num
  nums.foldl State.coreTurns (s1.ensureAll nums)

/-- One step of the machine while power is on: the next event of the other agents, else the turn of the next room,
else a new core cycle. -/
def State.advanceAll (s : State) : Host.Outcome State Fault Refusal :=
  match s.agenda with
  | i :: rest => exec i { s with agenda := rest }
  | [] =>
    match s.queue with
    | r :: rest =>
      let t := State.focus { s with queue := rest } r
      .next (if t.me.id = r && t.me.life != .absent then t.roomCycle else t)
    | [] => .next s.tick

end Sys2Proof.Machine
end

