-- ==== Sys2Proof/Machine/Step.lean ====
section
/-! DEFINITION. The step of the machine, and the placing of a bundle where the next step fetches. -/

namespace Sys2Proof.Machine

/-- One step. While power is off nothing happens but power-up (R439, R445). -/
def step (s : State) : Host.Outcome State Fault Refusal :=
  if s.power.on then s.advanceAll
  else
    match s.agenda with
    | .powerUp a b r :: rest => exec (.powerUp a b r) { s with agenda := rest }
    | _ => .fault .poweredOff

/-- The load base, room and load that stand for the admission of a one-room team (log 6). -/
def fetchBase : Nat := 0x40000000
def fetchRoom : RoomId := { team := 1, lin := 0 }

/-- The load of one code page (R338). -/
def fetchLoad : LoadedObj :=
  { handle := 1, asid := 0, lb := fetchBase, codeSize := 4096, dataSize := 0, sdb := 0, gotOff := 0, data := [],
    kernels := [], pageHash := [], relocs := [], varies := false, failed := false, badOffset := 0 }

/-- The room as its admission leaves it (R15), with its pc at the load base. -/
def fetchMe : Room :=
  { Room.idle with id := fetchRoom, life := .running, loadH := 1, teamid := 1, roomxy := 0,
                   atticBase := 0x1000000,
                   ctx := { Ctx.initial with pc := BitVec.ofNat 64 fetchBase }, phasePc := BitVec.ofNat 64 fetchBase }

/-- The machine with an instruction placed where the next step fetches: power on, no event pending, and the turn of a
one-room team just admitted on core 0 whose entry bundle, resident in the instruction store, is the one given. -/
def State.withFetchWord (s : State) (nbits w : Nat) : State :=
  { s with
    power := { s.power with on := true }
    agenda := []
    queue := [fetchRoom]
    me := fetchMe
    others := s.rooms.filter fun r => r.id != fetchRoom
    cores := (if s.cores.isEmpty then [Core.atReset 0] else s.cores).map fun k =>
      if k.num = 0 then { k with resident := some fetchRoom } else k
    loads := fetchLoad :: s.loads.filter fun l => l.handle != 1
    pages := { core := 0, load := 1, page := 0, frame := 0, bundles := [BitVec.ofNat 256 (w % 2 ^ nbits)] } ::
      s.pages.filter fun p => p.load != 1 }

end Sys2Proof.Machine
end

