-- ==== Sys2Proof/Safety.lean ====
section
/-! DEFINITION. What a safe run is: one that never stops for want of a meaning, and whose state keeps the forms that
the model's memory operations promise. -/

namespace Sys2Proof.Safety

open Sys2Proof.Machine

/-- A step that answers a next state. -/
def Goes (s : State) : Prop := ∃ t, step s = .next t

/-- k steps that each answer a next state, and where they lead. -/
def reaches : Nat → State → State → Prop
  | 0, s, t => s = t
  | k + 1, s, t => ∃ u, step s = .next u ∧ reaches k u t

/-- The byte stores of a room hold the canonical form. -/
def RoomWf (r : Room) : Prop := Memory.wf r.scratch = true ∧ ∀ m ∈ r.sills, Memory.wf m = true

/-- Every byte store of the machine holds the canonical form. -/
def StoresWf (s : State) : Prop :=
  Memory.wf s.mem.cells = true ∧ RoomWf s.me ∧ (∀ r ∈ s.others, RoomWf r) ∧ ∀ t ∈ s.teams, ∀ r ∈ t.saved, RoomWf r

end Sys2Proof.Safety
end

