-- ==== Sys2Proof/Claims.lean ====
section
/-! DEFINITION. The vocabulary of the statements: pending landings, the spec's tables of lane operations as functions on
integers, what a step leaves alone, and when a command is executed in its turn. -/

namespace Sys2Proof.Claims

open Sys2Proof.Machine

/-! ### Landings (R157, R158, R168) -/

/-- The landing of a value `lat` issue cycles after the present one (R157). -/
def pend (s : State) (slot lat : Nat) (v : LandVal) (r : Raised) : Landing :=
  { due := s.me.ctx.ic + lat, val := v, slot := slot, raised := r, escape := none }

/-- The state with some landings more pending in the room with the issue turn, and nothing else changed. -/
def withLandings (s : State) (l : List Landing) : State :=
  { s with me := { s.me with ctx := { s.me.ctx with landings := s.me.ctx.landings ++ l } } }

/-- One landing more; a landing on s0 or g0 is discarded (R168, R150). -/
def withLanding (s : State) (slot lat : Nat) (v : LandVal) : State :=
  if discarded v then s else withLandings s [pend s slot lat v Raised.none]

/-- The landings of a result with flags: one on s0 or g0 leaves the flags alone (R168, R157). -/
def landsOf (s : State) (slot lat : Nat) (v : LandVal) (fl : Raised) : List Landing :=
  if discarded v then (if fl = Raised.none then [] else [pend s slot lat .flagsOnly fl]) else [pend s slot lat v fl]

/-- R158: no pending landing on the register of v falls in the issue cycle `lat` from now; the landings on s0 and g0,
which are discarded, never coincide. -/
def NoClash (s : State) (lat : Nat) (v : LandVal) : Prop :=
  discarded v = true ∨ ∀ l ∈ s.me.ctx.landings, l.due = s.me.ctx.ic + lat → sameReg l.val v = false

/-- OP, bits [47:40] of the slot word (R145). -/
def Opcode (i : Instr) (n : Nat) : Prop := ∃ p w, Decode.encodeSlot i = some (p, w) ∧ w.toNat / 2 ^ 40 = n

/-! ### The tables of R171 and R172 on integers -/

/-- A row: the instruction, its opcode, its latency, and lane i of the result before it is reduced modulo 2^n. -/
structure LaneRow where
  op : SSlot → RForm → Instr
  code : Nat
  lat : Nat
  val : Nat → Nat → Nat → Int

/-- Bits(x, 2n − 1, n) of an integer product (R171). -/
def highHalf (n : Nat) (x : Int) : Int := x / (2 ^ n : Nat)

def sLo (n : Nat) : Int := -(2 ^ (n - 1) : Nat)
def sHi (n : Nat) : Int := (2 ^ (n - 1) : Nat) - 1

/-- The greater and the lesser of two integers. -/
def maxI (x y : Int) : Int := if x < y then y else x
def minI (x y : Int) : Int := if y < x then y else x

/-- R171, row by row. -/
def laneArith : List LaneRow :=
  [{ op := .add, code := 0x01, lat := 1, val := fun _ a b => (a : Int) + b },
   { op := .sub, code := 0x02, lat := 1, val := fun _ a b => (a : Int) - b },
   { op := .mul, code := 0x03, lat := 2, val := fun _ a b => (a : Int) * b },
   { op := .mulh, code := 0x04, lat := 3, val := fun n a b => highHalf n (sext a n * sext b n) },
   { op := .mulhu, code := 0x05, lat := 3, val := fun n a b => highHalf n ((a : Int) * b) },
   { op := .min, code := 0x06, lat := 1, val := fun n a b => minI (sext a n) (sext b n) },
   { op := .max, code := 0x07, lat := 1, val := fun n a b => maxI (sext a n) (sext b n) },
   { op := .minu, code := 0x08, lat := 1, val := fun _ a b => minI a b },
   { op := .maxu, code := 0x09, lat := 1, val := fun _ a b => maxI a b },
   { op := .adds, code := 0x0A, lat := 1, val := fun n a b => clampI (sext a n + sext b n) (sLo n) (sHi n) },
   { op := .addus, code := 0x0B, lat := 1, val := fun n a b => clampI ((a : Int) + b) 0 ((2 ^ n : Nat) - 1) },
   { op := .subs, code := 0x0C, lat := 1, val := fun n a b => clampI (sext a n - sext b n) (sLo n) (sHi n) },
   { op := .subus, code := 0x0D, lat := 1, val := fun n a b => clampI ((a : Int) - b) 0 ((2 ^ n : Nat) - 1) },
   { op := .abs, code := 0x0E, lat := 1, val := fun n a _ => maxI (sext a n) (-(sext a n)) },
   { op := .neg, code := 0x0F, lat := 1, val := fun _ a _ => -(a : Int) }]

/-- The shift rows of R172. -/
def laneShift : List LaneRow :=
  [{ op := .shl, code := 0x14, lat := 1, val := fun n a b => (a : Int) * (2 ^ (b % n) : Nat) },
   { op := .shr, code := 0x15, lat := 1, val := fun n a b => (a : Int) / (2 ^ (b % n) : Nat) },
   { op := .sar, code := 0x16, lat := 1, val := fun n a b => sext a n / (2 ^ (b % n) : Nat) }]

/-- The word whose lanes are the values given, each modulo 2^n (R52, R167). -/
def Lanes (sh : BitVec 2) (v : Word) (val : Nat → Int) : Prop :=
  ∀ j, j < laneCount sh → laneOf (laneWidth sh) v.toNat j = wrapTo (laneWidth sh) (val j)

/-- Lane j of a word. -/
def lane (sh : BitVec 2) (x : Word) (j : Nat) : Nat := laneOf (laneWidth sh) x.toNat j

/-! ### What stays -/

/-- The only differences are the engine-port accesses of the cycle, the causes due, the errors noted and the landings
pending of the room with the issue turn: no register, no byte and nothing of another room or of the package. -/
def Touched (s t : State) : Prop :=
  t = { s with me := { s.me with ports := t.me.ports, eccHits := t.me.eccHits, ctx := { s.me.ctx with
    due := t.me.ctx.due, landings := t.me.ctx.landings } } }

/-- The only difference is the system-register writes waiting for the end of the cycle. -/
def Queued (s t : State) : Prop :=
  t = { s with me := { s.me with ctx := { s.me.ctx with sysWrites := t.me.ctx.sysWrites } } }

/-- One register of a file holds v afterwards, and every other what it held. -/
def Writes1 {α : Type} {n : Nat} (x y : Vector α n) (k : Nat) (v : α) : Prop :=
  ∀ i : Fin n, y[i] = if i.val = k then v else x[i]

/-- No address is listed twice. -/
def Distinct (cells : List Host.Cell) : Prop := (cells.map Prod.fst).Nodup

/-- The store y reads as x but for the cells given. -/
def WritesCells (x y : List Host.Cell) (cells : List Host.Cell) : Prop :=
  (∀ c ∈ cells, Memory.get y c.1 = c.2) ∧ ∀ a, (∀ c ∈ cells, c.1 ≠ a) → Memory.get y a = Memory.get x a

/-- Everything of the machine but the room with the issue turn agrees. -/
def OnlyMe (s t : State) : Prop := t = { s with me := t.me }

/-! ### Commands (R412 to R414) -/

/-- The command is the next of an open session that holds the privilege it needs. -/
def InTurn (s : State) (h : CmdHdr) (need : Nat) : Prop :=
  ∃ x, s.session? h.session = some x ∧ h.seq = x.e + 1 ∧ x.may need = true

/-! ### Bundles of one instruction -/

/-- A bundle in which i is the only instruction (R142). -/
def Alone (b : Decode.Bundle) (i : Instr) : Prop :=
  (b.s0 = some i ∧ b.s1 = some (.nop .s1) ∧ b.v = some .vnop ∧ b.m = some .mnop ∧ b.x = some .xnop) ∨
  (b.s0 = some (.nop .s0) ∧ b.s1 = some i ∧ b.v = some .vnop ∧ b.m = some .mnop ∧ b.x = some .xnop) ∨
  (b.s0 = some (.nop .s0) ∧ b.s1 = some (.nop .s1) ∧ b.v = some i ∧ b.m = some .mnop ∧ b.x = some .xnop) ∨
  (b.s0 = some (.nop .s0) ∧ b.s1 = some (.nop .s1) ∧ b.v = some .vnop ∧ b.m = some i ∧ b.x = some .xnop) ∨
  (b.s0 = some (.nop .s0) ∧ b.s1 = some (.nop .s1) ∧ b.v = some .vnop ∧ b.m = some .mnop ∧ b.x = some i)

/-! ### Immediates and fields (R144, R175, R173, R188) -/

/-- R144, R175: the 32-bit immediate: IMM12 read signed or natural, or the low 32 bits of S1. -/
def imm32 (signed : Bool) (i : Imm) : Word :=
  match i with
  | .short v => if signed then v.signExtend 32 else v.zeroExtend 32
  | .long v => v.truncate 32

/-- R144: the 64-bit immediate of an address: IMM12 or S1, sign-extended. -/
def imm64 (i : Imm) : DWord :=
  match i with | .short v => v.signExtend 64 | .long v => v.signExtend 64

/-- An I-format row of R175: the instruction, whether IMM12 is read signed, and its result. -/
structure ImmRow where
  op : SSlot → IForm → Instr
  code : Nat
  signed : Bool
  val : Word → Word → Word

def immRows : List ImmRow :=
  [{ op := .addi, code := 0x30, signed := true, val := fun x i => x + i }, { op := .andi, code := 0x31, signed := false, val := fun x i => x &&& i },
   { op := .ori, code := 0x32, signed := false, val := fun x i => x ||| i }, { op := .xori, code := 0x33, signed := false, val := fun x i => x ^^^ i }]

structure ImmCompareRow where
  op : SSlot → IForm → Instr
  code : Nat
  signed : Bool
  rel : Word → Word → Prop

def immCompareRows : List ImmCompareRow :=
  [{ op := .ceqi, code := 0x37, signed := true, rel := fun x i => x = i }, { op := .clti, code := 0x38, signed := true, rel := fun x i => x.toInt < i.toInt },
   { op := .cltui, code := 0x39, signed := false, rel := fun x i => x.toNat < i.toNat }]

/-- The immediate shifts of R175 as rows of a lane and the immediate. -/
structure ImmShiftRow where
  op : SSlot → IForm → Instr
  code : Nat
  val : Nat → Nat → Nat → Int

def immShiftRows : List ImmShiftRow :=
  [{ op := .shli, code := 0x34, val := fun _ a b => (a : Int) * (2 ^ b : Nat) }, { op := .shri, code := 0x35, val := fun _ a b => (a : Int) / (2 ^ b : Nat) },
   { op := .sari, code := 0x36, val := fun n a b => sext a n / (2 ^ b : Nat) }]

/-- R177, row by row. -/
structure CompareRow where
  op : SSlot → RForm → Instr
  code : Nat
  rel : Word → Word → Prop

def compareRows : List CompareRow :=
  [{ op := .ceq, code := 0x20, rel := fun x y => x = y }, { op := .cne, code := 0x21, rel := fun x y => x ≠ y },
   { op := .clt, code := 0x22, rel := fun x y => x.toInt < y.toInt }, { op := .cle, code := 0x23, rel := fun x y => x.toInt ≤ y.toInt },
   { op := .cltu, code := 0x24, rel := fun x y => x.toNat < y.toNat }, { op := .cleu, code := 0x25, rel := fun x y => x.toNat ≤ y.toNat }]

/-- R172: the bitwise rows. -/
structure LogicRow where
  op : SSlot → RForm → Instr
  code : Nat
  bit : Bool → Bool → Bool

def logicRows : List LogicRow :=
  [{ op := .and, code := 0x10, bit := fun x y => x && y }, { op := .or, code := 0x11, bit := fun x y => x || y },
   { op := .xor, code := 0x12, bit := fun x y => x != y }, { op := .andn, code := 0x13, bit := fun x y => x && !y }]

/-- R173: the field that OpB describes: its position and its length, cut at bit 31. -/
def fieldPos (y : Word) : Nat := y.toNat % 32
def fieldLen (y : Word) : Nat := min (y.toNat / 256 % 32 + 1) (32 - fieldPos y)

/-! ### Loads and stores (R181 to R184) -/

/-- A row of R181: the instruction, its bytes, and the landings of the natural number it reads. -/
structure LoadRow where
  op : SSlot → IForm → Instr
  size : Nat
  lands : Ctx → IForm → Nat → List LandVal

def loadRows : List LoadRow :=
  [{ op := .ldb, size := 1, lands := fun c f v => [destS c f.d ((BitVec.ofNat 8 v).signExtend 32)] },
   { op := .ldbu, size := 1, lands := fun c f v => [destS c f.d ((BitVec.ofNat 8 v).zeroExtend 32)] },
   { op := .ldh, size := 2, lands := fun c f v => [destS c f.d ((BitVec.ofNat 16 v).signExtend 32)] },
   { op := .ldhu, size := 2, lands := fun c f v => [destS c f.d ((BitVec.ofNat 16 v).zeroExtend 32)] },
   { op := .ldw, size := 4, lands := fun c f v => [destS c f.d (BitVec.ofNat 32 v)] },
   { op := .ldq, size := 8, lands := fun c f v =>
       [destS c f.d (BitVec.ofNat 32 v), destS c (f.d + 1) (BitVec.ofNat 32 (v / 2 ^ 32))] },
   { op := .lda, size := 8, lands := fun _ f v => [destA f.d (BitVec.ofNat 64 v)] },
   { op := .ldd, size := 16, lands := fun _ f v => [.d (f.d.truncate 5) (BitVec.ofNat 128 v)] }]

structure StoreRow where
  op : SSlot → IForm → Instr
  size : Nat
  val : Ctx → IForm → Nat

def storeRows : List StoreRow :=
  [{ op := .stb, size := 1, val := fun c f => (c.readS f.d).toNat }, { op := .sth, size := 2, val := fun c f => (c.readS f.d).toNat },
   { op := .stw, size := 4, val := fun c f => (c.readS f.d).toNat },
   { op := .stq, size := 8, val := fun c f => (c.readS f.d).toNat + 2 ^ 32 * (c.readS (f.d + 1)).toNat },
   { op := .sta, size := 8, val := fun c f => (c.readA f.d.toNat).toNat },
   { op := .std, size := 16, val := fun c f => (c.readD (f.d.truncate 5)).toNat }]

/-- R182: the effective location: a[A] plus the immediate, modulo 2^64. -/
def ea (s : State) (f : IForm) : Nat := (s.me.ctx.readA f.a.toNat + imm64 f.imm).toNat

/-- Whether the attic form is used (R181). -/
def isAttic (f : IForm) : Bool := f.fn.getLsbD 0

/-- R100, R101: the partition address of an access: its location, or in the attic form the attic's base plus the offset
while that lies inside the attic. -/
def PartitionAt (s : State) (f : IForm) (a : Nat) : Prop :=
  (isAttic f = false ∧ a = ea s f) ∨
  (isAttic f = true ∧ ea s f < s.me.atticSize.toNat % 2 ^ 25 ∧ a = s.me.atticBase.toNat % 2 ^ 25 + ea s f)

/-- R101: the offset in the overflow area of an attic access beyond the attic. -/
def OverflowAt (s : State) (f : IForm) (o : Nat) : Prop :=
  isAttic f = true ∧ s.me.atticSize.toNat % 2 ^ 25 ≤ ea s f ∧ o = ea s f - s.me.atticSize.toNat % 2 ^ 25 ∧
  o < 65536 * (s.me.atticOvf.toNat / 2 ^ 52 % 256)

/-- The bytes of an access. -/
def span (a n : Nat) : List Nat := (List.range n).map (a + ·)

/-- R182, R36: the access lies in the partition and in the S engine's footprint. -/
def MayTouch (s : State) (write : Bool) (a n : Nat) : Prop :=
  a + n ≤ s.me.spSize ∧ s.me.ctx.footprint.allows 0 write { lo := a, hi := (a + n : Nat) - 1 } = true

/-- R96, R105: the access to the bytes takes place: no other access holds its bank, and no line of a window is missing. -/
def TakesPlace (s : State) (slot : Nat) (write : Bool) (addrs : List Nat) : Prop :=
  (s.me.engAccess slot s.me.ctx.ic false write addrs).2 = true ∧ s.me.missOf addrs = none

/-- R97, R99: no byte of the core's scratchpad is in error. -/
def NoErrors (s : State) : Prop :=
  (s.coreOf s.me.core).errors = [] ∧ (s.coreOf s.me.core).failed.length < 3

/-- The landings of a list of values, without those discarded. -/
def pends (s : State) (slot lat : Nat) (l : List LandVal) : List Landing :=
  (l.filter fun v => !discarded v).map fun v => pend s slot lat v Raised.none

/-! ### The tables of R185, R188 -/

structure FloatRow where
  op : SSlot → RForm → Instr
  lat : Nat
  val : RM → Val → Val → Val → Val × Fl

def floatRows : List FloatRow :=
  [{ op := .fadd, lat := 3, val := fun rm a b _ => valAdd rm a b },
   { op := .fsub, lat := 3, val := fun rm a b _ => valAdd rm a b.neg },
   { op := .fmul, lat := 3, val := fun _ a b _ => valMul a b },
   { op := .ffma, lat := 4, val := fun rm a b d => valFma rm a b d }]

/-- A row of R188: the instruction, its target, whether it pops loop entries (R191) and whether it links. -/
structure BranchRow where
  op : BForm → Instr
  target : Ctx → BForm → DWord
  pops : Bool
  links : Bool

def branchRows : List BranchRow :=
  [{ op := .br, target := fun c f => c.pc + 32 * f.off.signExtend 64, pops := true, links := false },
   { op := .jr, target := fun c f => c.readA f.a.toNat, pops := true, links := false },
   { op := .call, target := fun c f => c.pc + 32 * f.off.signExtend 64, pops := false, links := true },
   { op := .callr, target := fun c f => c.readA f.a.toNat, pops := false, links := true },
   { op := .ret, target := fun c _ => c.readA 15, pops := false, links := false }]


/-! ### The order of causes (R159, R382) -/

/-- R382 with R60 and R82, place by place: CODE_INTEGRITY, POISON, ACCESS_VIOLATION; BANK_CONFLICT; SNAN_OPERAND, QOVF, QRANGE and
the arithmetic causes 0x10 to 0x14 and 0x18 in order, then the index form of FOOTPRINT_ESCAPE; the causes found after dispatch,
which are PAGE_FAULT, BERTH_FAULT and the collective mismatch, in order of arrival; TIMED_MISS, WATCHPOINT, TRAP_INSN. -/
def boundaryOrder : List (List Nat) :=
  [[0x24], [0x22], [0x23], [0x04], [0x15], [0x17], [0x16], [0x10], [0x11], [0x12], [0x13], [0x14], [0x18], [0x09],
   [0x20, 0x21, 0x01], [0x30], [0x29], [0x2A]]

/-- R159, place by place: BREAKPOINT, ILLEGAL_BUNDLE, ACCESS_VIOLATION, LOOP_DEPTH, REPEAT_RANGE, SLOT_BUSY, MISALIGNED,
FOOTPRINT_OVERLAP, FOOTPRINT_ESCAPE, ATTIC_EXHAUSTED. -/
def issueOrder : List (List Nat) := [[0x28], [0x01], [0x23], [0x05], [0x06], [0x03], [0x07], [0x08], [0x09], [0x0A]]

/-- A code stands before another in an order of places. -/
def Precedes (order : List (List Nat)) (a b : Nat) : Prop :=
  ∃ pre x mid y post, order = pre ++ x :: mid ++ y :: post ∧ a ∈ x ∧ b ∈ y

/-! ### The V slot (R206 to R217) -/

/-- A row of R217: the instruction, its depth P, its depth for an integer format, and whether it works value by value. -/
structure VectorRow where
  op : VForm → Instr
  depth : Nat
  depthInt : Nat
  each : Bool

/-- R217, row by row. -/
def vectorRows : List VectorRow :=
  [{ op := .vadd, depth := 4, depthInt := 2, each := true }, { op := .vsub, depth := 4, depthInt := 2, each := true },
   { op := .vmul, depth := 4, depthInt := 3, each := true }, { op := .vfma, depth := 5, depthInt := 3, each := true },
   { op := .vmin, depth := 2, depthInt := 2, each := true }, { op := .vmax, depth := 2, depthInt := 2, each := true },
   { op := .vabs, depth := 2, depthInt := 2, each := true }, { op := .vneg, depth := 2, depthInt := 2, each := true },
   { op := .vadds, depth := 2, depthInt := 2, each := true }, { op := .vsubs, depth := 2, depthInt := 2, each := true },
   { op := .vand, depth := 2, depthInt := 2, each := true }, { op := .vor, depth := 2, depthInt := 2, each := true },
   { op := .vxor, depth := 2, depthInt := 2, each := true }, { op := .vshl, depth := 2, depthInt := 2, each := true }] ++
  [{ op := .vshr, depth := 2, depthInt := 2, each := true }, { op := .vcvt, depth := 4, depthInt := 4, each := false },
   { op := .vrint, depth := 4, depthInt := 4, each := true }, { op := .vmov, depth := 2, depthInt := 2, each := false },
   { op := .vfexp, depth := 8, depthInt := 8, each := true }, { op := .vscale, depth := 4, depthInt := 4, each := true },
   { op := .vgetexp, depth := 4, depthInt := 4, each := true }, { op := .vgetman, depth := 4, depthInt := 4, each := true },
   { op := .vclass, depth := 2, depthInt := 2, each := true }, { op := .vrcp, depth := 8, depthInt := 8, each := true },
   { op := .vrsqrt, depth := 8, depthInt := 8, each := true }, { op := .vdiv, depth := 12, depthInt := 12, each := true },
   { op := .vsqrt, depth := 12, depthInt := 12, each := true }, { op := .vflog, depth := 8, depthInt := 8, each := true }] ++
  [{ op := .vcmp, depth := 2, depthInt := 2, each := true }, { op := .vsel, depth := 2, depthInt := 2, each := true },
   { op := .vperm, depth := 3, depthInt := 3, each := false }, { op := .vgather, depth := 6, depthInt := 6, each := false },
   { op := .vscatter, depth := 6, depthInt := 6, each := false }, { op := .vbmax, depth := 4, depthInt := 4, each := false },
   { op := .vsplit, depth := 6, depthInt := 6, each := false }, { op := .vrand, depth := 6, depthInt := 6, each := false },
   { op := .vsum, depth := 6, depthInt := 6, each := false }, { op := .vdot, depth := 6, depthInt := 6, each := false },
   { op := .vrmax, depth := 4, depthInt := 4, each := false }, { op := .vrmin, depth := 4, depthInt := 4, each := false }]

/-- P of a row, for a destination region. -/
def VectorRow.p (row : VectorRow) (dd : Nat) : Nat := if (descFmt dd).isInt then row.depthInt else row.depth

/-- The four descriptors a V instruction reads at issue. -/
def vRegs (s : State) (f : VForm) : VRegs :=
  { dd := (s.me.ctx.readD f.dd).toNat, da := (s.me.ctx.readD f.da).toNat, db := (s.me.ctx.readD f.db).toNat,
    dc := (s.me.ctx.readD f.dc).toNat }

/-- R154, R207 to R209: the descriptors of regions that are not empty are legal, all are of the formats the row asks for, and
of a shape with a schedule. -/
def VLegal (i : Instr) (f : VForm) (g : VRegs) (p : VPlan) : Prop :=
  (∀ d ∈ vReads i g ++ vWrites i g, descCount d ≠ 0 → descCheck d ≠ .illegal) ∧ vFmtOk i f.cfmt.toNat g = true ∧ vPlan i g = some p

/-- R154, R209, R233: the descriptors of regions that are not empty are aligned. -/
def VAligned (i : Instr) (g : VRegs) : Prop :=
  (∀ d ∈ vReads i g ++ vWrites i g, descCount d ≠ 0 → descCheck d ≠ .misaligned) ∧ (∀ f, i = .vperm f → descBase g.db % 64 = 0)

/-- R158, R83: the engine is free, and no operation is to write the q-register. -/
def VFree (i : Instr) (s : State) : Prop :=
  s.me.ctx.vFree ≤ s.me.ctx.ic ∧ ∀ f, (i = .vsum f ∨ i = .vdot f) → s.me.qBusy f.qd = false

/-- R209: every region lies inside the V engine's footprint. -/
def VInside (i : Instr) (g : VRegs) (r : Room) : Prop :=
  (∀ d ∈ vReads i g, r.regionOk 0 false d = true) ∧ (∀ d ∈ vWrites i g, r.regionOk 0 true d = true)

/-- No landing is added at the issue but that of the operation itself, and only when its one cycle has formed it: it is made
at the end of the latency l. -/
def LandsOwn (s t : State) (slot o l : Nat) : Prop :=
  ∃ ls : List Landing, t.me.ctx.landings = s.me.ctx.landings ++ ls ∧ (1 < o → ls = []) ∧
    ∀ x ∈ ls, x.due = s.me.ctx.ic + l ∧ x.slot = slot

/-- An operation has been put in flight in slot V and nothing else but the engine's accesses of this cycle is done. -/
def VStarted (s t : State) (fl : Flight) : Prop :=
  LandsOwn s t 2 fl.occ fl.lat ∧
  t = { s with me := { s.me with ports := t.me.ports, eccHits := t.me.eccHits, miss := t.me.miss, ctx := { s.me.ctx with
    due := t.me.ctx.due, poison := t.me.ctx.poison, vFree := s.me.ctx.ic + fl.occ, landings := t.me.ctx.landings
    flights := s.me.ctx.flights ++ [fl] } } }

/-- The integer that an encoding of an integer format stands for (R51). -/
def intVal (signed : Bool) (b enc : Nat) : Int := if signed then sext enc b else ((enc % 2 ^ b : Nat) : Int)

/-- The integer rows of R218 to R221: the result from the three source values, before it wraps. -/
structure IntRow where
  op : VForm → Instr
  val : Bool → Nat → Int → Int → Int → Int

/-- R218 to R221 for integer formats. -/
def intRows : List IntRow :=
  [{ op := .vadd, val := fun _ _ a b _ => a + b }, { op := .vsub, val := fun _ _ a b _ => a - b },
   { op := .vmul, val := fun _ _ a b _ => a * b }, { op := .vfma, val := fun _ _ a b c => a * b + c },
   { op := .vmin, val := fun _ _ a b _ => minI a b }, { op := .vmax, val := fun _ _ a b _ => maxI a b },
   { op := .vabs, val := fun _ _ a _ _ => maxI a (-a) }, { op := .vneg, val := fun _ _ a _ _ => -a },
   { op := .vadds, val := fun sg n a b _ => clampI (a + b) (if sg then sLo n else 0) (if sg then sHi n else (2 ^ n : Nat) - 1) },
   { op := .vsubs, val := fun sg n a b _ => clampI (a - b) (if sg then sLo n else 0) (if sg then sHi n else (2 ^ n : Nat) - 1) },
   { op := .vshl, val := fun _ n a b _ => a * (2 ^ (wrapTo n b % n) : Nat) },
   { op := .vshr, val := fun _ n a b _ => a / (2 ^ (wrapTo n b % n) : Nat) },
   { op := .vmov, val := fun _ _ a _ _ => a }]

/-- R78, R83: the exact sum that one operation forms of a quire and some products of one class. -/
def sums (c : QCls) (q : Quire) (l : List (Val × Val)) : Quire := l.foldl (fun q x => (q.gather c x.1 x.2).1) q

/-- The flags of each product as it joins the sum (R78, R80). -/
def gatherFlags (c : QCls) (q : Quire) : List (Val × Val) → List Fl
  | [] => []
  | x :: xs => (q.gather c x.1 x.2).2 :: gatherFlags c (q.gather c x.1 x.2).1 xs

/-- The flags of values, each at its value index, and the lowest index of each (R214). -/
def flagsAt (l : List (Nat × Fl)) : Raised := l.foldl (fun r x => r.add x.1 x.2) Raised.none

/-- What an operation reads at once in one beat: j is below the beats of its schedule p, no write of an earlier beat is due, the
banks it holds are held, and no byte of the core is in error. -/
structure AtBeat (row : VectorRow) (f : VForm) (r : Room) (k : Core) (fl : Flight) (g : VRegs) (p : VPlan) (j : Nat) : Prop where
  op : fl.op = row.op f
  regs : g = { dd := fl.dd, da := fl.da, db := fl.db, dc := fl.dc }
  plan : vPlan fl.op g = some p
  beat : j < p.nb ∧ r.ctx.ic = fl.c0 + j
  lat : fl.lat = max 1 p.nb + row.p g.dd - 1
  writes : ∀ w ∈ fl.writes, r.ctx.ic < w.cycle
  errors : k.errors = [] ∧ k.failed.length < 3
  lost : fl.lost = false
  held : fl.hold ≠ [] → (r.holdGroups 2 fl.c0 fl.hold).2 = true

/-- The room once the operation holds its banks of this cycle. -/
def heldRoom (r : Room) (fl : Flight) : Room := if fl.hold = [] then r else (r.holdGroups 2 fl.c0 fl.hold).1

/-- One write is formed more, for the cycle `late` from now: these cells and halves, with these flags. -/
def BeatForms (r : Room) (fl fl' : Flight) (late : Nat) (c : List Host.Cell × List (Nat × Bool × Nat)) (x : Raised) : Prop :=
  ∃ w, fl'.writes = fl.writes ++ [w] ∧ w.cycle = r.ctx.ic + late ∧ w.cells = c.1 ∧ w.halves = c.2 ∧ w.raised = x

/-- What the beat of each V instruction forms from the encodings that the scratchpad holds in its cycle (R218 to R240). -/
structure BeatDoes (row : VectorRow) (f : VForm) (r : Room) (fl fl' : Flight) (g : VRegs) (p : VPlan) (j : Nat) : Prop where
  /-- R211: the value-by-value operations, and the conversions and moves that no block takes part in. -/
  each : (row.each = true ∨ (fl.op = .vcvt f ∧ (descFmt g.dd).isBlk = false) ∨ (fl.op = .vmov f ∧ (descFmt g.da).isBlk = false)) →
    let v := vInfo fl.op (descFmt g.dd).isInt
    let on (b : Bool) (d : Nat) (x : Nat × Nat) : Nat := if b then r.encAt d x else 0
    let res := (p.beat j).map fun x => vValue fl.op f fl.rm g (on v.a g.da x) (on v.b g.db x) (on v.c g.dc x)
    BeatForms r fl fl' (row.p g.dd - 1) (valCells g.dd (p.beat j) (res.map Prod.fst))
      (flagsAt (((p.beat j).map fun x => x.1 * p.nv + x.2).zip (res.map Prod.snd)))
  /-- R222: a conversion to blocks writes each block whose last value has been read, quantised from its 32 values, the missing
  ones of a row's last block taken as zero, and keeps the rest. -/
  quant : ∀ w, fl.op = .vcvt f → descFmt g.dd = .blk w →
    let all := fl.buf ++ (p.beat j).map (r.encAt g.da)
    let first := j % p.b * p.n - fl.buf.length
    let full := if j % p.b + 1 = p.b then cdiv all.length 32 else all.length / 32
    let q (b : Nat) := quantBlock w ((List.range 32).map fun i =>
      match all[32 * b + i]? with | some e => descVal g.da e | none => Val.zero)
    fl'.buf = all.drop (32 * full) ∧
    BeatForms r fl fl' 3 ((List.range full).flatMap fun b =>
        cellsAt (elemAddr g.dd (j / p.b) (first / 32 + b)).toNat (blockBytes w (q b).1 (q b).2.1), [])
      (flagsAt ((List.range full).flatMap fun b => (List.range (min 32 (all.length - 32 * b))).map fun i =>
        (j / p.b * p.nv + (first + 32 * b) + i, (q b).2.2.getD i Fl.none)))
  /-- R224: a block is copied whole in the beat that covers its last value. -/
  moves : fl.op = .vmov f → (descFmt g.da).isBlk = true →
    BeatForms r fl fl' 1 (((p.beat j).filter fun v => v.2 % 32 == 31 || v.2 + 1 == p.nv).flatMap fun v =>
      cellsAt (elemAddr g.dd v.1 (v.2 / 32)).toNat
        (Memory.read r.scratch (elemAddr g.da v.1 (v.2 / 32)).toNat (descFmt g.da).elemBytes), []) Raised.none
  /-- R233: value x of a beat is the value of its group that the pattern, read in beat 0, picks. -/
  permutes : fl.op = .vperm f →
    let pn := descCount g.db
    fl'.buf = (if j = 0 then (List.range pn).map fun x => r.encAt g.db (0, x) else fl.buf) ∧
    BeatForms r fl fl' 2 (valCells g.dd (p.beat j) ((List.range (p.beat j).length).map fun x =>
      (((p.beat j).map (r.encAt g.da)).getD (x / pn * pn + fl'.buf.getD (x % pn) 0 % pn) 0))) Raised.none
  /-- R234: a gather writes the table's value at the index, and zero for an index beyond the table, whose value index escapes. -/
  gathers : fl.op = .vgather f → ∀ v, p.beat j = [v] →
    let i := r.encAt g.db v
    let nv := descVals g.da
    (i < descRows g.da * nv → fl'.escape = fl.escape ∧
      BeatForms r fl fl' 5 (valCells g.dd [v] [r.encAt g.da (i / nv, i % nv)]) Raised.none) ∧
    (descRows g.da * nv ≤ i → fl'.escape = minOpt fl.escape (some (v.1 * p.nv + v.2)) ∧
      BeatForms r fl fl' 5 (valCells g.dd [v] [0]) Raised.none)
  /-- R234: a scatter writes the value at the table's place of the index, and nothing for an index beyond the table. -/
  scatters : fl.op = .vscatter f → ∀ v, p.beat j = [v] →
    let i := r.encAt g.db v
    let nv := descVals g.dd
    (i < descRows g.dd * nv → fl'.escape = fl.escape ∧
      BeatForms r fl fl' 5 (valCells g.dd [(i / nv, i % nv)] [r.encAt g.da v]) Raised.none) ∧
    (descRows g.dd * nv ≤ i → fl'.escape = minOpt fl.escape (some (v.1 * p.nv + v.2)) ∧ BeatForms r fl fl' 5 ([], []) Raised.none)
  /-- R236: the exponent of each block of 32 values whose last has been read. -/
  blockMax : fl.op = .vbmax f →
    let all := fl.buf ++ (p.beat j).map (r.encAt g.da)
    let first := j % p.b * p.n - fl.buf.length
    let full := if j % p.b + 1 = p.b then cdiv all.length 32 else all.length / 32
    fl'.buf = all.drop (32 * full) ∧
    BeatForms r fl fl' 3 (valCells g.dd ((List.range full).map fun b => (j / p.b, first / 32 + b))
        ((List.range full).map fun b => blockExp (((all.drop (32 * b)).take 32).map (descVal g.da))))
      (flagsAt ((p.beat j).map fun x =>
        (x.1 * p.nv + x.2, if (descVal g.da (r.encAt g.da x)).isSnan then Fl.signalling else Fl.none)))
  /-- R237: the first pass over a row forms its exponent, written when the row has been read, the second its eight digits. -/
  splits : fl.op = .vsplit f →
    let jj := j / (2 * p.b) * p.b + j % p.b
    let row' := jj / p.b
    let encs := (p.beat jj).map (r.encAt g.da)
    let all := fl.buf ++ encs
    let s := splitExp (all.map (descVal g.da))
    (j / p.b % 2 = 0 → jj % p.b + 1 ≠ p.b → fl'.buf = all ∧ BeatForms r fl fl' 5 ([], []) Raised.none) ∧
    (j / p.b % 2 = 0 → jj % p.b + 1 = p.b → fl'.buf = [] ∧ fl'.rowInvalid = s.1 ∧ fl'.rowExp = s.2.1 ∧
      BeatForms r fl fl' 5 (valCells g.db [(0, row')] [wrapTo 16 s.2.1])
        (flagsAt ((List.range s.2.2.length).zip s.2.2 |>.map fun x => (row' * p.nv + x.1, x.2)))) ∧
    (j / p.b % 2 = 1 → BeatForms r fl fl' 5 ((List.range 8).flatMap fun q =>
      (valCells g.dd ((List.range encs.length).map fun x => (8 * row' + q, jj % p.b * p.n + x))
        (encs.map fun e => wrapTo 8 ((splitDigits fl.rowInvalid fl.rowExp (descVal g.da e)).getD q 0))).1, []) Raised.none)
  /-- R238: the numbers of the beat's values under the key and the parameters. -/
  random : fl.op = .vrand f →
    BeatForms r fl fl' 5 (valCells g.dd (p.beat j) ((p.beat j).map fun x => (randFn (f.fn == 1) g.dd g.db g.dc x.1 x.2).1)) Raised.none
  /-- R239, R83: the values, or the products, join the operation's exact sum with their flags; no byte is written. -/
  sums : ∀ dot : Bool, fl.op = (if dot then .vdot f else .vsum f) → ∀ c,
    (if dot then classOf2 (descFmt g.da) (descEs g.da) (descFmt g.db) (descEs g.db) else classOf (descFmt g.da) (descEs g.da)) = some c →
    let xs := (p.beat j).map fun x => (descVal g.da (r.encAt g.da x), if dot then descVal g.db (r.encAt g.db x) else Val.one)
    fl'.writes = fl.writes ∧ fl'.acc = Claims.sums c fl.acc xs ∧
    fl'.raised = fl.raised.merge (flagsAt (((p.beat j).map fun x => x.1 * p.nv + x.2).zip (gatherFlags c fl.acc xs)))
  /-- R240: the greater, or the lesser, of a row, written when the row has been read. -/
  extremes : ∀ greater : Bool, fl.op = (if greater then .vrmax f else .vrmin f) →
    let all := fl.buf ++ (p.beat j).map (r.encAt g.da)
    let sn := flagsAt ((p.beat j).map fun x =>
      (x.1 * p.nv + x.2, if (descVal g.da (r.encAt g.da x)).isSnan then Fl.signalling else Fl.none))
    let z := rowResult greater (f.fn == 1) g all
    (j % p.b + 1 ≠ p.b → fl'.buf = all ∧ BeatForms r fl fl' 3 ([], []) sn) ∧
    (j % p.b + 1 = p.b → fl'.buf = [] ∧
      BeatForms r fl fl' 3 (valCells g.dd [(0, j / p.b)] [z.1]) (sn.merge (Raised.of1 (j / p.b) z.2)))

/-! ### The M slot (R241 to R263) -/

/-- The rows of R252 and R253: the instruction, whether it clears the tile first, and whether its operands are slices. -/
structure ArrayRow where
  op : MAForm → Instr
  zero : Bool
  slice : Bool

def arrayRows : List ArrayRow :=
  [{ op := .mmul, zero := true, slice := false }, { op := .mmac, zero := false, slice := false },
   { op := .mslice, zero := false, slice := true }]

/-- The descriptors of an MA instruction. -/
def mDa (s : State) (f : MAForm) : Nat := (s.me.ctx.readD f.da).toNat
def mDb (s : State) (f : MAForm) : Nat := (s.me.ctx.readD f.db).toNat

/-- R158: the M engine is free. -/
def MFree (s : State) : Prop := s.me.ctx.mFree ≤ s.me.ctx.ic

/-- An operation of o cycles and latency l has been put in flight in slot M; besides it only the binding of a tile and the
engine's accesses of this cycle can have changed. -/
def MStarted (s t : State) (i : Instr) (o l : Nat) : Prop :=
  (∃ fl : Flight, fl.op = i ∧ fl.slot = 3 ∧ fl.pc = s.me.ctx.pc ∧ fl.c0 = s.me.ctx.ic ∧ fl.occ = o ∧ fl.lat = l ∧
    t.me.ctx.flights = s.me.ctx.flights ++ [fl]) ∧
  LandsOwn s t 3 o l ∧
  t = { s with me := { s.me with
    tiles := t.me.tiles, ports := t.me.ports, eccHits := t.me.eccHits, miss := t.me.miss, writers := t.me.writers
    lastM := some s.me.ctx.pc
    ctx := { s.me.ctx with
      due := t.me.ctx.due, poison := t.me.ctx.poison, mFree := s.me.ctx.ic + o, flights := t.me.ctx.flights
      landings := t.me.ctx.landings } } }

/-- R242: the tile at h is bound in t as it was, or afresh in the class and scale given, with every element zero. -/
def BoundAs (s t : State) (h : Nat) (cls : Option QCls) (sigma : Int) : Prop :=
  ∃ x, t.me.tile? h = some x ∧ (∀ y, s.me.tile? h = some y → x = y) ∧
    (s.me.tile? h = none → some x.cls = cls ∧ x.sigma = sigma ∧ x.elems = [])

/-- No tile but the one at h is touched. -/
def OtherTiles (h : Nat) (r t : Room) : Prop := ∀ n, n ≠ h → t.tile? n = r.tile? n

/-- R254: a tile written in one cycle: x lands in the next as the work of this bundle, the room's latest writer of a tile (R243),
and its names are bound now. -/
def LandsTile (s t : State) (x : Tile) : Prop :=
  x.writer = s.me.ctx.pc ∧ x.issued = s.me.writers + 1 ∧
  t = { s with me := { s.me with tiles := t.me.tiles, writers := s.me.writers + 1, lastM := some s.me.ctx.pc, ctx := { s.me.ctx with
    mFree := s.me.ctx.ic + 1, landings := s.me.ctx.landings ++ [pend s 3 1 (.tile x) Raised.none] } } }

/-- An M instruction of one cycle that changes the tiles and nothing else. -/
def withTiles (s : State) (l : List Tile) : State :=
  { s with me := { s.me with tiles := l, lastM := some s.me.ctx.pc, ctx := { s.me.ctx with mFree := s.me.ctx.ic + 1 } } }

/-- A quire-unit instruction: one cycle of the engine and its landings. -/
def withQuire (s : State) (l : List Landing) : State :=
  { s with me := { s.me with lastM := some s.me.ctx.pc, ctx := { s.me.ctx with
    mFree := s.me.ctx.ic + 1, landings := s.me.ctx.landings ++ l } } }

/-- The landing of a quire with the flags of index 0. -/
def qPend (s : State) (n : BitVec 3) (lat : Nat) (v : Quire × Fl) : Landing :=
  pend s 3 lat (.q n v.1) (Raised.of1 0 v.2)

/-- R83, R158: the M engine and the q-register are free. -/
def QFree (s : State) (n : BitVec 3) : Prop := MFree s ∧ s.me.qBusy n = false

/-- A chain of products of one class, each accumulated by an operation of its own (R78). -/
def chain (c : QCls) (q : Quire) (l : List (Val × Val)) : Quire := l.foldl (fun q x => (q.accumulate c x.1 x.2).1) q

/-- The raw value that one product alone gives (R80). -/
def rawOf (c : QCls) (sigma : Int) (x : Val × Val) : Nat :=
  ((Quire.clearAt sigma).accumulate c x.1 x.2).1.raw.natAbs

/-! ### The X slot (R264 to R305) -/

/-- The entry of an X instruction with the registers it names read now (R264), numbered next. -/
def entryNow (s : State) (i : Instr) (f : XForm) : XEntry := s.me.ctx.entryOf (s.me.entries + 1) i f

/-- One entry more at the end of the room's transfer queue, with the intervals it keeps; nothing else changes. -/
def withEntry (s : State) (e : XEntry) (engine : Nat) (reads writes : List Iv) : State :=
  { s with me := { s.me with entries := s.me.entries + 1, ctx := { s.me.ctx with
    xq := s.me.ctx.xq ++ [{ e with reads := reads.map fun a => (engine, a), writes := writes.map fun a => (engine, a) }] } } }

/-- R265: fewer than 64 entries wait in the transfer queue. -/
def QueueFree (s : State) : Prop := (s.me.ctx.xq.filter fun e => e.status == .queued).length < 64

/-- R266: what an engine reads and writes lies in its sets and below SPSIZE. -/
def InSets (r : Room) (engine : Nat) (reads writes : List Iv) : Prop :=
  (∀ a ∈ reads, r.mayAccess engine false a = true) ∧ ∀ a ∈ writes, r.mayAccess engine true a = true

/-- R264, R159, R265, R266: an X instruction that takes one entry raises the first that applies of ILLEGAL_BUNDLE, SLOT_BUSY with
sub-cause 1 for a full queue, MISALIGNED and FOOTPRINT_ESCAPE, with TRAPPC at the bundle, and else takes its entry. -/
def Queues (s : State) (i : Instr) (legal aligned : Prop) (e : XEntry) (reads writes : List Iv) : Prop :=
  (¬ legal → exec i s = .next (s.takeTrap (cause 0x01 4) s.me.ctx.pc)) ∧
  (legal → ¬ QueueFree s → exec i s = .next (s.takeTrap { cause 0x03 4 with sub := 1 } s.me.ctx.pc)) ∧
  (legal → QueueFree s → ¬ aligned → exec i s = .next (s.takeTrap (cause 0x07 4) s.me.ctx.pc)) ∧
  (legal → QueueFree s → aligned → ¬ InSets s.me 2 reads writes → exec i s = .next (s.takeTrap (cause 0x09 4) s.me.ctx.pc)) ∧
  (legal → QueueFree s → aligned → InSets s.me 2 reads writes → exec i s = .next (withEntry s e 2 reads writes))

/-- R265, R276, R278: why a channel cannot take a card: the queue is full, 16 of its cards are not complete, or, for a shadow
card, one waits already. -/
def CardBusy (s : State) (ch : Nat) (next : Bool) (c : Cause) : Prop :=
  let mine := s.me.ctx.channelCards ch
  (¬ QueueFree s ∧ c = { cause 0x03 4 with sub := 1 }) ∨
  (QueueFree s ∧ 16 ≤ mine.length ∧ c = { cause 0x03 4 with sub := 2, aux := ch }) ∨
  (QueueFree s ∧ mine.length < 16 ∧ next = true ∧ (∃ e ∈ mine, e.shadow = true) ∧ c = { cause 0x03 4 with sub := 3 })

/-- R282: the target word's reserved bits. -/
def TargetOk (a : DWord) : Prop := a.toNat / 2 ^ 56 = 0 ∧ a.toNat / 2 ^ 24 % 2 ^ 16 = 0

def fenceRows : List (XForm → Instr) := [.fenceAcq, .fenceRel, .fenceAr, .fenceBank, .fenceBankAll, .fenceGeo]

/-- R289: the sluice commands, and whether a[AB] counts sectors. -/
def sluiceRows : List ((XForm → Instr) × Bool) :=
  [(.slAdd, false), (.slMin, false), (.slMax, false), (.slAnd, false), (.slOr, false), (.slXor, false),
   (.slFadd, false), (.slCas, false), (.slFill, true), (.slSum, true)]

def atomicRows : List (XForm → Instr) :=
  [.amoAdd, .amoMin, .amoMax, .amoAnd, .amoOr, .amoXor, .amoSwap, .amoCas, .amoFadd]

/-- R272 to R279: the card instructions: whether it is the shadow card, and whether it follows another channel. -/
def cardRows : List ((XForm → Instr) × Bool × Bool) :=
  [(.bcopy, false, false), (.bconv, false, false), (.bquant, false, false), (.bgather, false, false),
   (.bscatter, false, false), (.bfill, false, false), (.bnext, true, false), (.bchain, false, true)]

/-- R298: the collective as it is queued, with its ordinal on the domain register counted. -/
def withCollective (s : State) (i : Instr) (f : XForm) (reads writes : List Iv) : State :=
  let e : XEntry := { entryNow s i f with ordinal := s.me.ctx.collCount.getD f.sc.toNat 0, rm := s.me.ctx.mode (f.fn.toNat % 8) }
  let t := withEntry s e 2 reads writes
  { t with me := { t.me with ctx := { t.me.ctx with collCount := modAt (· + 1) f.sc.toNat s.me.ctx.collCount } } }

/-- A wait put on the room with the issue turn. -/
def withWait (s : State) (w : Wait) : State := { s with me := { s.me with ctx := { s.me.ctx with wait := w } } }

/-- A cause made due at the boundary that follows. -/
def withDue (s : State) (c : Cause) : State := { s with me := { s.me with ctx := { s.me.ctx with due := s.me.ctx.due ++ [c] } } }

/-- The registers, local storage and pending landings of the room with the issue turn, and global memory, agree. -/
def SameStore (s t : State) : Prop :=
  t.me.ctx.s = s.me.ctx.s ∧ t.me.ctx.a = s.me.ctx.a ∧ t.me.ctx.g = s.me.ctx.g ∧ t.me.ctx.q = s.me.ctx.q ∧
  t.me.ctx.d = s.me.ctx.d ∧ t.me.ctx.m = s.me.ctx.m ∧ t.me.ctx.fx = s.me.ctx.fx ∧ t.me.ctx.qx = s.me.ctx.qx ∧
  t.me.ctx.winb = s.me.ctx.winb ∧ t.me.ctx.repc = s.me.ctx.repc ∧ t.me.ctx.trapc = s.me.ctx.trapc ∧
  t.me.ctx.trappc = s.me.ctx.trappc ∧ t.me.ctx.landings = s.me.ctx.landings ∧ t.me.scratch = s.me.scratch ∧
  t.me.sills = s.me.sills ∧ t.me.tiles = s.me.tiles ∧ t.mem = s.mem ∧ t.others = s.others

/-! ### Host commands (R412 to R415) -/

/-- The header of a host command and the privilege bits it needs (R412, R429); LAUNCH asks for TIME by its record. -/
def commandOf : Instr → Option (CmdHdr × Nat)
  | .load h _ _ _ _ | .unload h _ | .launch h _ _ | .preempt h _ _ _ | .kill h _ | .resume h _ | .resumeH h _ _
  | .ctxread h _ | .dump h _ | .dumparea h _ _ _ | .pagein h _ | .faultFatal h _ | .ptewrite h _ _ _ _ | .shootdown h _ _
  | .restow h _ _ _ | .restowcancel h _ | .handlereg h _ _ | .winopen h _ _ _ _ | .winclose h _ | .evqset h _ _ _ _ _
  | .arm h _ | .read h _ _ | .tracestop h | .malformedCommand h _ => some (h, 0)
  | .asidset h _ _ _ _ | .aclset h _ _ _ | .linkroute h _ _ _ | .tbref h _ | .basincfg h _ _ _ => some (h, 1)
  | .ctxwrite h _ _ | .debugStop h _ | .debugStep h _ | .debugBkpt h _ _ _ | .debugWatch h _ _ _ _ _ | .debugResume h _
  | .tracecfg h _ => some (h, 4)
  | _ => none

/-- In its turn a command does what leads to u and is answered a. -/
def Answers (s : State) (h : CmdHdr) (need : Nat) (i : Instr) (u : State) (a : Answer) : Prop :=
  InTurn s h need → exec i s = .next (u.recordReply h i a)

/-- R413, R414: the reply to a command. -/
def replyOf (h : CmdHdr) (i : Instr) (a : Answer) : CmdReply :=
  { opcode := (commandOpcode i).getD 0, seq := h.seq, status := a.status, data := a.data, bytes := a.bytes }

/-- R426, R44: the source of the hall's time is set anew: LOCK and ALIGNED clear when another source takes the discipline, and no
timebase moves. -/
def SourceSet (s u : State) : Prop :=
  u.hall.src = u.sourceNow ∧ u.hall.tb = s.hall.tb ∧
  (u.followsLinks = s.followsLinks → u.cores = s.cores ∧ u.hall.lock = s.hall.lock) ∧
  (u.followsLinks ≠ s.followsLinks → u.hall.lock = false ∧ u.cores.map Core.tb = s.cores.map Core.tb ∧
    ∀ k ∈ u.cores, pkgOf k.num = 0 → k.aligned = false)

/-- R381, R383: a stop that RESUME lets go on: a debug stop, or a trap that is neither fatal nor a page fault. -/
def MayResume (r : Room) : Prop :=
  r.stop = .debug ∨ ∃ c, r.stop = .frozen c ∧ fatal c r.ctx.hmode = false ∧ c.code ≠ 0x20

/-- R383, R389, R395: the room is frozen: by the debugger, by a trap, for good, away for its page, or at a refused restore. -/
def Frozen (r : Room) : Prop :=
  r.stop = .debug ∨ r.stop = .refused ∨ ∃ c, r.stop = .frozen c ∨ r.stop = .away c ∨ r.stop = .fatalPage c

/-- The room has no stop of its own: at most its core holds it for a line of a window or a code page (R105, R357). -/
def NotStopped (r : Room) : Prop := r.stop = .none ∨ ∃ m, r.stop = .hold m

/-- The registers and the local storage of a room agree. -/
def Kept (x y : Room) : Prop :=
  y.ctx.s = x.ctx.s ∧ y.ctx.a = x.ctx.a ∧ y.ctx.g = x.ctx.g ∧ y.ctx.q = x.ctx.q ∧ y.ctx.d = x.ctx.d ∧ y.ctx.m = x.ctx.m ∧
  y.ctx.fx = x.ctx.fx ∧ y.ctx.qx = x.ctx.qx ∧ y.ctx.winb = x.ctx.winb ∧ y.ctx.landings = x.ctx.landings ∧
  y.ctx.flights = x.ctx.flights ∧ y.scratch = x.scratch ∧ y.sills = x.sills ∧ y.tiles = x.tiles

/-! ### Events -/

/-- The room named is there and is as P says. -/
def RoomIs (s : State) (r : RoomId) (p : Room → Prop) : Prop := ∃ y, s.room? r = some y ∧ p y

/-- The entry of a room that an event names. -/
def EntryIs (s : State) (r : RoomId) (id : Nat) (x : Room) (e : XEntry) : Prop := s.room? r = some x ∧ x.entry? id = some e

/-- A card that its channel serves: started, stopped by no fault, waiting for no replay. -/
def Served (e : XEntry) : Prop := e.isCard = true ∧ e.status = .started ∧ e.fault = none ∧ e.replay = none

/-- The entry of a room is gone and its semaphore is one up (R267). -/
def CompletedIn (r : RoomId) (id : Nat) (ms : BitVec 6) (x : Room) (t : State) : Prop :=
  RoomIs t r fun y => y.ctx.m[ms.toNat] = x.ctx.m[ms.toNat] + 1 ∧ y.ctx.xq = x.ctx.xq.filter fun e => e.id != id

/-- R119, R291: the integer results of commands and atomics on n-bit operands M (in memory) and V. -/
structure RmwRow where
  sluice : XForm → Instr
  atomic : XForm → Instr
  val : Nat → Nat → Nat → Nat

/-- The rows whose result does not depend on the sign. -/
def rmwRows : List RmwRow :=
  [{ sluice := .slAdd, atomic := .amoAdd, val := fun n m v => (m + v) % 2 ^ n },
   { sluice := .slAnd, atomic := .amoAnd, val := fun _ m v => m &&& v },
   { sluice := .slOr, atomic := .amoOr, val := fun _ m v => m ||| v },
   { sluice := .slXor, atomic := .amoXor, val := fun _ m v => m ^^^ v }]

/-- A page of memory is reached: each byte of the access has its place, and what the walk cached is in u. -/
def Reached (s : State) (x : Room) (va n : Nat) (k : AccessKind) (u : State) (l : List (Nat × Nat)) : Prop :=
  s.reach x.core x.asid va n k = (u, .ok l)

/-- What a fill reads: reached at once, with no line of it poisoned. -/
def Filled (s : State) (x : Room) (event : Instr) (va n : Nat) (k : AccessKind) (u : State) (l : List (Nat × Nat)) : Prop :=
  s.reachFresh x event va n k = (u, .ok l) ∧ ∀ p ∈ l, u.gPoisoned p.1 p.2 = false

/-- The global addresses of a line of 256 bytes. -/
def span52 (va : Nat) : List Nat := (List.range 256).map (va + ·)

/-- R417, R418, R439: a request of the host on this queue pair is served at once: the package is not in recovery, the pair is in
use or one of 256 is left, and no earlier request of the pair waits. -/
def HostServes (s : State) (qp : Nat) : Prop :=
  s.mgmt.recovery = false ∧ (qp ∈ s.qps ∨ s.qps.length < 256) ∧ ∀ j ∈ s.hostWaits, (hostRequest j).map Prod.fst ≠ some qp

/-- The state in which the queue pair is in use. -/
def withPair (s : State) (qp : Nat) : State := { s with qps := if qp ∈ s.qps then s.qps else s.qps ++ [qp] }

end Sys2Proof.Claims
end

