-- ==== Sys2Proof/Certificates/Slice0/Obligations.lean ====
section
/-! DEFINITION. The statements for the provers. -/

open Sys2Proof Sys2Proof.Machine Sys2Proof.Claims

/-! ### Encoding (06, R142 to R149, R160, R161) -/

/-- R142 to R148, R161: a well-formed slot instruction, encoded, decodes to itself with every field. The four empty slots
other than S0's read as the empty bundle, and a long immediate stands in S1, so it belongs to S0 (R144). -/
def Obligations.DecodeOfEncode : Prop :=
  ∀ i : Instr, i.wellFormed = true → (∃ x, Decode.encodeSlot i = some x) →
    i ≠ .nop .s1 → i ≠ .vnop → i ≠ .mnop → i ≠ .xnop →
    (∀ x, Decode.longImm i = some x → ∃ w, Decode.encodeSlot i = some (.s0, w)) →
    ∃ w, Decode.encode i = some w ∧ Decode.instrOf w = some i

/-- R145 to R149, R161: a slot word that decodes is the encoding of what it decodes to, so no bit of it is ignored. -/
def Obligations.EncodeOfDecode : Prop :=
  (∀ (w : BitVec 48) i, Decode.slotS .s0 w none = some i → i.wellFormed = true → Decode.encodeSlot i = some (.s0, w)) ∧
  (∀ (w : BitVec 48) i, Decode.slotS .s1 w none = some i → i.wellFormed = true → Decode.encodeSlot i = some (.s1, w)) ∧
  (∀ (w : BitVec 48) i, Decode.slotV w = some i → i.wellFormed = true → Decode.encodeSlot i = some (.v, w)) ∧
  (∀ (w : BitVec 48) i, Decode.slotM w = some i → i.wellFormed = true → Decode.encodeSlot i = some (.m, w)) ∧
  (∀ (w : BitVec 48) i, Decode.slotX w = some i → i.wellFormed = true → Decode.encodeSlot i = some (.x, w))

/-- R161, R164, R176: words written out from the manual's formats decode to what they stand for, one of each slot. -/
def Obligations.DecodeKnownWords : Prop :=
  Decode.checked (Decode.slotS .s0 0x3C1048D18000#48 none) = some (.seth .s0 { d := 4, imm := 0x12346, td := 0 }) ∧
  Decode.checked (Decode.slotS .s1 0x300041055E00#48 none) = some (.addi .s1
    { sh := 0, fn := 0, d := 4, a := 4, ma := 0, imm := .short 0xABC, gi := 0, gn := 0, td := 0, ta := 0 }) ∧
  Decode.checked (Decode.slotV 0x010308802000#48) =
    some (.vadd { rm := 0, dd := 3, da := 1, db := 2, dc := 0, cfmt := 4, qd := 0, fn := 0 }) ∧
  Decode.checked (Decode.slotM 0x032044000000#48) =
    some (.mmac { bd := 4, da := 1, db := 2, w := 0, ws := 0, rm := 0, fmt := 0, pi := 0, pj := 0, fn := 0 }) ∧
  Decode.checked (Decode.slotX 0x1011461C0000#48) =
    some (.put { ch := 0, aa := 4, ab := 5, sa := 6, ms := 7, sc := 0, gi := 0, gn := 0, da := 0, fn := 0 })

/-- R149, R159, R160: a slot instruction whose fields break the rules of its encoding takes ILLEGAL_BUNDLE of its slot, with
TRAPPC at its bundle, whatever the state. -/
def Obligations.IllegalEncodingTraps : Prop :=
  ∀ (i : Instr) p w (s : State), Decode.encodeSlot i = some (p, w) → i.wellFormed = false →
    exec i s = .next (s.takeTrap
      (cause 0x01 (match p with | .s0 => 0 | .s1 => 1 | .v => 2 | .m => 3 | .x => 4)) s.me.ctx.pc)

/-! ### The step -/

/-- The next event of the other agents is executed before anything else (the model's order of agents, log 1). R445, R439:
while power is off nothing runs until POWER_UP. -/
def Obligations.StepTakesNextEvent : Prop :=
  (∀ (s : State) i rest, s.power.on = true → s.agenda = i :: rest → step s = exec i { s with agenda := rest }) ∧
  (∀ s : State, s.power.on = false →
      (∀ i rest, s.agenda = i :: rest → (∀ a b r, i ≠ .powerUp a b r) → step s = .fault .poweredOff) ∧
      (s.agenda = [] → step s = .fault .poweredOff) ∧
      (∀ a b r rest, s.agenda = .powerUp a b r :: rest → ∃ t, step s = .next t ∧ t.power.on = true))


/-- R188, R142, R159, R190: the turn of a running room in residence whose bundle holds one instruction is the issue of that
instruction after the landings of its cycle: its effect, the loop buffer's note of the bundle (R196) and the end of the
cycle, or the trap it raised with nothing of the cycle left, or a hold for the line it lacks. -/
def Obligations.StepIssuesInstruction : Prop :=
  ∀ (s : State) (r : RoomId) rest (w : BitVec 256) (b : Decode.Bundle) (i : Instr),
    let f := (State.focus { s with queue := rest } r).flushEcc
    let t := f.openCycle
    s.power.on = true → s.agenda = [] → s.queue = r :: rest →
    (State.focus { s with queue := rest } r).me.id = r →
    f.me.life = .running → f.me.stop = .none → f.me.ctx.due = [] → f.me.ctx.wait = .none →
    (f.coreOf f.me.core).resident = some f.me.id →
    f.codeAt f.me f.me.ctx.pc = .word w → Decode.bundle w = some b → Alone b i → f.me.breakpoint = none →
    t.me.stop = .none → t.me.ctx.repFresh = false → t.me.ctx.repZero = false → repRem t.me.ctx.repc = 0 →
    (∀ u, exec i t = .next u → (∀ c, u.me.stop ≠ .frozen c) → u.me.miss = none →
      step s = .next ((u.noteLoop (pushesLoop b && decide (t.me.ctx.loops.length < u.me.ctx.loops.length)) t.me.ctx.pc w).closeCycle b
        true)) ∧
    (∀ u m, exec i t = .next u → (∀ c, u.me.stop ≠ .frozen c) → u.me.miss = some m → step s = .next (f.holdFor m)) ∧
    (∀ u c, exec i t = .next u → u.me.stop = .frozen c → step s = .next (f.stopBundle c))

/-- R43, R444: with no event and no room's turn left, a core cycle begins: TB of every core, lockhouse and link, and the hall's,
advance by 34,493 units of 2^-16 ns when the servo corrects nothing, no realignment runs, the hall holds nothing back and no lock binds
it to a reference. R46: while LOCK = 1 the hall's TB, within 50 ns of its reference or within 8 ns of a reference that it
follows over links, stays so, and never goes back (what the reference reads is the model's estimate, log 72). -/
def Obligations.CoreCycleAdvancesTime : Prop :=
  (∀ s : State, s.power.on = true → s.agenda = [] → s.queue = [] → s.hall.rate = 0 → s.hall.hold = 0 →
    s.hall.lock = false → s.hall.realign = none → s.hall.realignAway = [] →
    ∃ t, step s = .next t ∧ t.hall.tb = s.hall.tb + 34493 ∧ t.lockTb = s.lockTb.map (· + 34493) ∧
      t.links.map (fun l => (l.num, l.tb)) = s.links.map (fun l => (l.num, l.tb + 34493)) ∧
      t.cores.map (fun k => (k.num, k.tb)) = s.cores.map (fun k => (k.num, k.tb + 34493))) ∧
  (∀ s : State, s.power.on = true → s.agenda = [] → s.queue = [] → s.hall.lock = true →
    let bound := (if s.followsLinks then 8 else 50) * 2 ^ 16
    s.hall.ref ≤ s.hall.tb + bound → s.hall.tb ≤ s.hall.ref + bound →
    ∃ t, step s = .next t ∧ s.hall.tb ≤ t.hall.tb ∧ t.hall.ref ≤ t.hall.tb + bound ∧ t.hall.tb ≤ t.hall.ref + bound)

/-! ### Reset -/

/-- R44, R427, R430, R405, R350, R26: what reset leaves where the manual says it: TB zero on every core,
lockhouse and link and in the hall, SRC 00, LOCK and ALIGNED clear, every counter zero and no trigger armed, no translation
cached, no load, no room.
The number of cores is R3's. -/
def Obligations.ResetLeaves : Prop :=
  State.reset.cores.length = 128 ∧
  (∀ k ∈ State.reset.cores, k.tb = 0 ∧ k.aligned = false ∧ k.resident = none) ∧
  (∀ x ∈ State.reset.lockTb, x = 0) ∧ State.reset.lockTb.length = 8 ∧ (∀ l ∈ State.reset.links, l.tb = 0) ∧
  State.reset.hall.tb = 0 ∧ State.reset.hall.src = 0 ∧ State.reset.hall.lock = false ∧
  State.reset.counters = [] ∧ State.reset.armed = none ∧ State.reset.tlb = [] ∧ State.reset.victims = [] ∧ State.reset.loads = [] ∧
  State.reset.rooms = [] ∧ (∀ n, State.reset.tbstat n = 0)

/-- The byte stores of the reset state are in canonical form (R106, R23). -/
def Obligations.ResetStoresCanonical : Prop := Safety.StoresWf State.reset

/-- Every step keeps every byte store of the machine in canonical form (R106, R23): global memory, and the scratchpads and
sills of every room that is there or saved. -/
def Obligations.StepKeepsStoresCanonical : Prop :=
  ∀ s t : State, Safety.StoresWf s → step s = .next t → Safety.StoresWf t

/-! ### Taking a trap and returning (18, R378 to R385; 06, R159) -/

/-- R378, R380: a trap freezes the room: TRAPC records code, slot, sub-cause, AUX and INDEX of the cause in their fields,
TRAPPC the address given, TB is noted, and no register, no landing and no byte of the room or of memory changes. -/
def Obligations.TrapFreezesRoom : Prop :=
  ∀ (s : State) (c : Cause) (pc : DWord),
    let t := s.takeTrap c pc
    t.me.stop = .frozen c ∧ t.me.ctx.trappc = pc ∧
    t.me.ctx.trapc.toNat = c.index % 2 ^ 32 * 2 ^ 32 + c.aux % 2 ^ 16 * 2 ^ 16 + c.sub % 16 * 2 ^ 12 + c.slot % 16 * 2 ^ 8 +
      c.code % 256 ∧
    t.me.ctx.pc = s.me.ctx.pc ∧ t.me.ctx.s = s.me.ctx.s ∧ t.me.ctx.a = s.me.ctx.a ∧ t.me.ctx.g = s.me.ctx.g ∧
    t.me.ctx.q = s.me.ctx.q ∧ t.me.ctx.d = s.me.ctx.d ∧ t.me.ctx.m = s.me.ctx.m ∧ t.me.ctx.fx = s.me.ctx.fx ∧
    t.me.ctx.qx = s.me.ctx.qx ∧ t.me.ctx.landings = s.me.ctx.landings ∧ t.me.ctx.flights = s.me.ctx.flights ∧
    t.me.scratch = s.me.scratch ∧ t.me.sills = s.me.sills ∧ t.me.tiles = s.me.tiles ∧ t.mem = s.mem ∧
    t.me.stopTb = (s.coreOf s.me.core).tb

/-- R382, R60, R82: of the causes due at a boundary the one taken stands at the earliest place of R382 that any of them has, and
is the first to arrive of those there; it is due no more, and TRAPPC is the bundle that would issue next. R159: of the causes
of a bundle the one taken stands at the earliest place of R159, and of those there it is of the first slot. -/
def Obligations.CauseOrder : Prop :=
  (∀ l : List Cause, (∀ c ∈ l, ∃ x ∈ boundaryOrder, c.code ∈ x) →
    (l ≠ [] → (firstCause l).isSome = true) ∧
    ∀ c, firstCause l = some c → ∃ pre post, l = pre ++ c :: post ∧
      (∀ d ∈ pre, Precedes boundaryOrder c.code d.code) ∧ ∀ d ∈ post, ¬ Precedes boundaryOrder d.code c.code) ∧
  (∀ (s : State) c, firstCause s.me.ctx.due = some c → ∃ pre post, s.me.ctx.due = pre ++ c :: post ∧ c ∉ pre ∧
    s.takeDue = State.takeTrap { s with me := { s.me with ctx := { s.me.ctx with due := pre ++ post } } } c s.me.ctx.pc) ∧
  (∀ l : List (Nat × Cause), (∀ x ∈ l, ∃ y ∈ issueOrder, x.2.code ∈ y) →
    (l ≠ [] → (firstIssue l).isSome = true) ∧
    ∀ k, firstIssue l = some k → ∃ n, (n, k) ∈ l ∧
      ∀ x ∈ l, Precedes issueOrder k.code x.2.code ∨ (x.2.code = k.code ∧ n ≤ x.1))

/-- R305, R384, R379: `tret` in a handler with none of its own results pending returns: the room stands at TRAPPC, HMODE is
clear, loop stack, REPC, wait and latches are those that were set aside, the latches at the issue cycles they still had to
go, and the registers and bytes stay as the handler left them. Outside a handler it is ILLEGAL_BUNDLE. R379, R383, R384: a
room that goes on stands at TRAPPC, one that the debugger stopped in a handler where it stood (log 52), with nothing of its
registers, landings and bytes changed; RESUME H sets the loop stack, REPC, the wait and all that is pending aside, sets HMODE, and
starts at H with an empty loop stack, no repeat and nothing pending; in a room stopped in a handler what was set aside, and the
handler's own latches, stay (the model's choice, log 80). -/
def Obligations.TrapReturn : Prop :=
  (∀ (f : XForm) (s : State), (Instr.tret f).wellFormed = true →
      (s.me.ctx.hmode = false → exec (.tret f) s = .next (s.takeTrap (cause 0x01 4) s.me.ctx.pc)) ∧
      (s.me.ctx.hmode = true → s.me.ctx.landings = [] → s.me.ctx.flights = [] → ∀ a, s.me.aside = some a →
        ∃ t, exec (.tret f) s = .next t ∧ OnlyMe s t ∧ t.me.ctx.pc = s.me.ctx.trappc ∧ t.me.ctx.hmode = false ∧
          (∃ again ended, t.me.ctl = .returned again ended) ∧
          t.me.aside = none ∧ t.me.ctx.loops = a.loops ∧ t.me.ctx.repc = a.repc ∧ t.me.ctx.wait = a.wait ∧
          t.me.ctx.landings = a.landings.map (fun l => { l with due := s.me.ctx.ic + 1 + (l.due - a.ic) }) ∧
          t.me.ctx.s = s.me.ctx.s ∧ t.me.ctx.a = s.me.ctx.a ∧ t.me.ctx.g = s.me.ctx.g ∧ t.me.ctx.q = s.me.ctx.q ∧
          t.me.ctx.d = s.me.ctx.d ∧ t.me.ctx.m = s.me.ctx.m ∧ t.me.ctx.fx = s.me.ctx.fx ∧ t.me.ctx.qx = s.me.ctx.qx ∧
          (s.me.ctx.loops = [] → t.me.ctx.winb.toNat % 32 = s.me.ctx.winb.toNat % 32) ∧ t.me.ctx.phase = s.me.ctx.phase ∧ t.me.ctx.trapc = s.me.ctx.trapc ∧
          t.me.ctx.trappc = s.me.ctx.trappc ∧ t.me.scratch = s.me.scratch ∧ t.me.sills = s.me.sills)) ∧
  (∀ (r : Room) (hAddr : DWord),
      let t := r.goOn
      let u := r.enterHandler hAddr
      t.stop = .none ∧ (r.stop = .debug → r.ctx.hmode = true → t.ctx.pc = r.ctx.pc) ∧
      (r.stop ≠ .debug ∨ r.ctx.hmode = false → t.ctx.pc = r.ctx.trappc) ∧
      t.ctx.s = r.ctx.s ∧ t.ctx.a = r.ctx.a ∧ t.ctx.g = r.ctx.g ∧ t.ctx.q = r.ctx.q ∧ t.ctx.d = r.ctx.d ∧ t.ctx.m = r.ctx.m ∧
      t.ctx.landings = r.ctx.landings ∧ t.ctx.flights = r.ctx.flights ∧ t.ctx.due = r.ctx.due ∧ t.scratch = r.scratch ∧
      u.stop = .none ∧ u.ctx.pc = hAddr ∧ u.ctx.loops = [] ∧ u.ctx.repc = 0 ∧ u.ctx.redirects = [] ∧ u.ctx.trapc = r.ctx.trapc ∧ u.ctx.trappc = r.ctx.trappc ∧
      u.ctx.s = r.ctx.s ∧ u.ctx.a = r.ctx.a ∧ u.ctx.g = r.ctx.g ∧ u.ctx.q = r.ctx.q ∧ u.ctx.d = r.ctx.d ∧ u.ctx.m = r.ctx.m ∧
      u.scratch = r.scratch ∧
      (r.aside ≠ none → u.aside = r.aside ∧ u.ctx.hmode = r.ctx.hmode ∧ u.ctx.landings = r.ctx.landings ∧
        u.ctx.flights = r.ctx.flights) ∧
      (r.aside = none → u.ctx.hmode = true ∧ u.ctx.landings = [] ∧ u.ctx.flights = [] ∧ u.ctx.wait = .none ∧
        ∃ a, u.aside = some a ∧ a.loops = r.ctx.loops ∧ a.repc = r.ctx.repc ∧ a.wait = r.ctx.wait ∧
          a.landings = r.ctx.landings ∧ a.flights = r.ctx.flights ∧ a.redirects = r.ctx.redirects))

/-! ### Scalar arithmetic (07, R167 to R180) -/

/-- R171, R167, R157, R158: every packed arithmetic instruction has the opcode of its row and is well-formed in every shape
exactly when FN, GI and GN, and for `abs` and `neg` B and MB, are 0; it completes: the word whose lane i is the row's value of
lanes i of OpA and OpB, modulo 2^n, lands in s[D] after the row's latency with no flag, and nothing else changes. Where the
landing coincides with a pending one on its register, it, and a shift, raises SLOT_BUSY with TRAPPC at the bundle. -/
def Obligations.LaneArithmetic : Prop :=
  (∀ row ∈ laneArith, ∀ (sl : SSlot) (f : RForm), Opcode (row.op sl f) row.code ∧
    ((row.op sl f).wellFormed = true ↔
      f.fn = 0 ∧ f.gi = 0 ∧ f.gn = 0 ∧ (0x0E ≤ row.code → f.b = 0 ∧ f.mb = 0 ∧ f.tb = 0)) ∧
    ∀ (s : State), (row.op sl f).wellFormed = true → NoClash s row.lat (destS s.me.ctx f.d 0) →
      ∃ v : Word, Lanes f.sh v (fun j => row.val (laneWidth f.sh) (lane f.sh (s.me.ctx.opA f) j) (lane f.sh (s.me.ctx.opB f) j)) ∧
        exec (row.op sl f) s = .next (withLanding s (sNum sl) row.lat (destS s.me.ctx f.d v))) ∧
  (∀ row ∈ laneArith ++ laneShift, ∀ (sl : SSlot) (f : RForm) (s : State), (row.op sl f).wellFormed = true →
    ¬ NoClash s row.lat (destS s.me.ctx f.d 0) →
    exec (row.op sl f) s = .next (s.takeTrap (cause 0x03 (sNum sl)) s.me.ctx.pc))

/-- R172: logic on words bit by bit, shifts of each lane by b_i mod n, `clz` the number of zero bits above the highest one bit
of each lane, n for a zero lane, and `popc` the number of its one bits: the opcode, the fields that must be 0, the shapes,
and the word that lands in s[D] after one cycle. -/
def Obligations.LogicAndShifts : Prop :=
  (∀ row ∈ logicRows, ∀ (sl : SSlot) (f : RForm), Opcode (row.op sl f) row.code ∧
    ((row.op sl f).wellFormed = true ↔ f.sh = 0 ∧ f.fn = 0 ∧ f.gi = 0 ∧ f.gn = 0) ∧
    ∀ (s : State), (row.op sl f).wellFormed = true → NoClash s 1 (destS s.me.ctx f.d 0) →
      ∃ v : Word, (∀ j, j < 32 → v.getLsbD j = row.bit ((s.me.ctx.opA f).getLsbD j) ((s.me.ctx.opB f).getLsbD j)) ∧
        exec (row.op sl f) s = .next (withLanding s (sNum sl) 1 (destS s.me.ctx f.d v))) ∧
  (∀ row ∈ laneShift, ∀ (sl : SSlot) (f : RForm), Opcode (row.op sl f) row.code ∧
    ((row.op sl f).wellFormed = true ↔ f.fn = 0 ∧ f.gi = 0 ∧ f.gn = 0) ∧
    ∀ (s : State), (row.op sl f).wellFormed = true → NoClash s 1 (destS s.me.ctx f.d 0) →
      ∃ v : Word, Lanes f.sh v (fun j => row.val (laneWidth f.sh) (lane f.sh (s.me.ctx.opA f) j) (lane f.sh (s.me.ctx.opB f) j)) ∧
        exec (row.op sl f) s = .next (withLanding s (sNum sl) 1 (destS s.me.ctx f.d v))) ∧
  (∀ (op : SSlot → RForm → Instr) (code : Nat), (op = .clz ∧ code = 0x17) ∨ (op = .popc ∧ code = 0x18) →
    ∀ (sl : SSlot) (f : RForm), Opcode (op sl f) code ∧
      ((op sl f).wellFormed = true ↔ f.fn = 0 ∧ f.gi = 0 ∧ f.gn = 0 ∧ f.b = 0 ∧ f.mb = 0 ∧ f.tb = 0)) ∧
  (∀ (sl : SSlot) (f : RForm) (s : State), (Instr.clz sl f).wellFormed = true → NoClash s 1 (destS s.me.ctx f.d 0) →
    ∃ (v : Word) (k : Nat → Nat), Lanes f.sh v (fun j => k j) ∧
      (∀ j, j < laneCount f.sh → k j ≤ laneWidth f.sh ∧ lane f.sh (s.me.ctx.opA f) j < 2 ^ (laneWidth f.sh - k j) ∧
        (k j < laneWidth f.sh → 2 ^ (laneWidth f.sh - k j - 1) ≤ lane f.sh (s.me.ctx.opA f) j)) ∧
      exec (.clz sl f) s = .next (withLanding s (sNum sl) 1 (destS s.me.ctx f.d v))) ∧
  (∀ (sl : SSlot) (f : RForm) (s : State), (Instr.popc sl f).wellFormed = true → NoClash s 1 (destS s.me.ctx f.d 0) →
    ∃ v : Word, Lanes f.sh v (fun j =>
        ((List.range (laneWidth f.sh)).countP fun b => (lane f.sh (s.me.ctx.opA f) j).testBit b : Nat)) ∧
      exec (.popc sl f) s = .next (withLanding s (sNum sl) 1 (destS s.me.ctx f.d v)))

/-- R173, R174: opcodes and fields of the three instructions; `bext` takes the field that OpB describes, zero- or
sign-extended by FN[0]; `bins` puts the low bits of OpA into the field of the old destination; `bperm` picks bytes of OpA and
the old destination. -/
def Obligations.BitFields : Prop :=
  (∀ (sl : SSlot) (f : RForm), Opcode (.bext sl f) 0x19 ∧ Opcode (.bins sl f) 0x1A ∧ Opcode (.bperm sl f) 0x1B ∧
    ((Instr.bext sl f).wellFormed = true ↔ f.sh = 0 ∧ f.fn.toNat < 2 ∧ f.gi = 0 ∧ f.gn = 0) ∧
    ((Instr.bins sl f).wellFormed = true ↔ f.sh = 0 ∧ f.fn = 0 ∧ f.gi = 0 ∧ f.gn = 0) ∧
    ((Instr.bperm sl f).wellFormed = true ↔ f.sh = 0 ∧ f.fn = 0 ∧ f.gi = 0 ∧ f.gn = 0)) ∧
  (∀ (sl : SSlot) (f : RForm) (s : State), (Instr.bext sl f).wellFormed = true → NoClash s 1 (destS s.me.ctx f.d 0) →
    let x := s.me.ctx.opA f
    let y := s.me.ctx.opB f
    ∃ v : Word, (∀ j, j < 32 → v.getLsbD j = (if j < fieldLen y then x.getLsbD (fieldPos y + j)
        else f.fn.getLsbD 0 && x.getLsbD (fieldPos y + fieldLen y - 1))) ∧
      exec (.bext sl f) s = .next (withLanding s (sNum sl) 1 (destS s.me.ctx f.d v))) ∧
  (∀ (sl : SSlot) (f : RForm) (s : State), (Instr.bins sl f).wellFormed = true → NoClash s 1 (destS s.me.ctx f.d 0) →
    let x := s.me.ctx.opA f
    let y := s.me.ctx.opB f
    ∃ v : Word, (∀ j, j < 32 → v.getLsbD j = (if fieldPos y ≤ j ∧ j < fieldPos y + fieldLen y then x.getLsbD (j - fieldPos y)
        else (s.me.ctx.readS f.d).getLsbD j)) ∧
      exec (.bins sl f) s = .next (withLanding s (sNum sl) 1 (destS s.me.ctx f.d v))) ∧
  (∀ (sl : SSlot) (f : RForm) (s : State), (Instr.bperm sl f).wellFormed = true → NoClash s 1 (destS s.me.ctx f.d 0) →
    let src : BitVec 64 := s.me.ctx.readS f.d ++ s.me.ctx.opA f
    ∃ v : Word, (∀ k, k < 4 → let c := (s.me.ctx.opB f).extractLsb' (4 * k) 4
        v.extractLsb' (8 * k) 8 = if c.getLsbD 3 then 0 else src.extractLsb' (8 * (c.toNat % 8)) 8) ∧
      exec (.bperm sl f) s = .next (withLanding s (sNum sl) 1 (destS s.me.ctx f.d v)))

/-- R175, R144: the immediate forms, with IMM12 read signed or natural by the row, or the low 32 bits of S1: the opcode, the
fields that must be 0, the shapes, and what lands after one cycle. A shift immediate of the lane width or more is
ill-formed, and so is a compare into a register that is no guard. -/
def Obligations.ImmediateForms : Prop :=
  (∀ row ∈ immRows, ∀ (sl : SSlot) (f : IForm), Opcode (row.op sl f) row.code ∧
    ((row.op sl f).wellFormed = true ↔ f.sh = 0 ∧ f.fn = 0 ∧ f.gi = 0 ∧ f.gn = 0) ∧
    ∀ (s : State), (row.op sl f).wellFormed = true → NoClash s 1 (destS s.me.ctx f.d 0) →
      exec (row.op sl f) s =
        .next (withLanding s (sNum sl) 1 (destS s.me.ctx f.d (row.val (s.me.ctx.opAI f) (imm32 row.signed f.imm))))) ∧
  (∀ row ∈ immShiftRows, ∀ (sl : SSlot) (f : IForm), Opcode (row.op sl f) row.code ∧
    ((row.op sl f).wellFormed = true ↔ f.fn = 0 ∧ f.gi = 0 ∧ f.gn = 0 ∧ (imm32 false f.imm).toNat < laneWidth f.sh) ∧
    ∀ (s : State), (row.op sl f).wellFormed = true → NoClash s 1 (destS s.me.ctx f.d 0) →
      ∃ v : Word, Lanes f.sh v (fun j => row.val (laneWidth f.sh) (lane f.sh (s.me.ctx.opAI f) j) (imm32 false f.imm).toNat) ∧
        exec (row.op sl f) s = .next (withLanding s (sNum sl) 1 (destS s.me.ctx f.d v))) ∧
  (∀ row ∈ immCompareRows, ∀ (sl : SSlot) (f : IForm), Opcode (row.op sl f) row.code ∧
    ((row.op sl f).wellFormed = true ↔ f.sh = 0 ∧ f.fn = 0 ∧ f.gi = 0 ∧ f.gn = 0 ∧ f.d.toNat < 8) ∧
    ∀ (s : State), (row.op sl f).wellFormed = true → NoClash s 1 (destG f.d false) →
      ∃ b : Bool, (b = true ↔ row.rel (s.me.ctx.opAI f) (imm32 row.signed f.imm)) ∧
        exec (row.op sl f) s = .next (withLanding s (sNum sl) 1 (destG f.d b)))

/-- R177, R178: the compares write the relation of OpA and OpB into g[D]; `gand` and `gor` combine two guards, each
inverted by its FN bit, and FN[2] inverts the result; opcodes, fields and shapes as the rules give them. A result for g0 is
discarded (R168). -/
def Obligations.ComparesAndGuards : Prop :=
  (∀ row ∈ compareRows, ∀ (sl : SSlot) (f : RForm), Opcode (row.op sl f) row.code ∧
    ((row.op sl f).wellFormed = true ↔ f.sh = 0 ∧ f.fn = 0 ∧ f.gi = 0 ∧ f.gn = 0 ∧ f.d.toNat < 8) ∧
    ∀ (s : State), (row.op sl f).wellFormed = true → NoClash s 1 (destG f.d false) →
      ∃ b : Bool, (b = true ↔ row.rel (s.me.ctx.opA f) (s.me.ctx.opB f)) ∧
        exec (row.op sl f) s = .next (withLanding s (sNum sl) 1 (destG f.d b))) ∧
  (∀ (op : SSlot → RForm → Instr) (code : Nat), (op = .gand ∧ code = 0x26) ∨ (op = .gor ∧ code = 0x27) →
    ∀ (sl : SSlot) (f : RForm), Opcode (op sl f) code ∧
      ((op sl f).wellFormed = true ↔ f.sh = 0 ∧ f.fn.toNat < 8 ∧ f.d.toNat < 8 ∧ f.a.toNat < 8 ∧ f.b.toNat < 8 ∧ f.ma = 0 ∧
        f.mb = 0 ∧ f.gi = 0 ∧ f.gn = 0)) ∧
  (∀ (sl : SSlot) (f : RForm) (s : State), NoClash s 1 (destG f.d false) →
    let x := xor (s.me.ctx.readG f.a.toNat) (f.fn.getLsbD 0)
    let y := xor (s.me.ctx.readG f.b.toNat) (f.fn.getLsbD 1)
    ((Instr.gand sl f).wellFormed = true →
      exec (.gand sl f) s = .next (withLanding s (sNum sl) 1 (destG f.d (xor (x && y) (f.fn.getLsbD 2))))) ∧
    ((Instr.gor sl f).wellFormed = true →
      exec (.gor sl f) s = .next (withLanding s (sNum sl) 1 (destG f.d (xor (x || y) (f.fn.getLsbD 2))))))

/-- R176: `seth`, opcode 0x3C with any fields, writes the immediate shifted left by 12 into s[D] with latency 1; the word of
the manual's worked example decodes to its `seth`. -/
def Obligations.SetHigh : Prop :=
  (∀ (sl : SSlot) (f : UForm), Opcode (.seth sl f) 0x3C ∧ (Instr.seth sl f).wellFormed = true ∧
    ∀ (s : State), NoClash s 1 (destS s.me.ctx f.d 0) →
      exec (.seth sl f) s = .next (withLanding s (sNum sl) 1 (destS s.me.ctx f.d (BitVec.ofNat 32 (f.imm.toNat * 2 ^ 12))))) ∧
  Decode.checked (Decode.slotS .s0 0x3C1048D18000#48 none) = some (.seth .s0 { d := 4, imm := 0x12346, td := 0 })

/-- R179, R180, R152: `sel` with its guard true lands OpA and with it false makes no landing; `aadd` and `aaddi` add to a
base, zero under `.z`, modulo 2^64; opcodes and fields as the rules give them. -/
def Obligations.SelectAndAddresses : Prop :=
  (∀ (sl : SSlot) (f : RForm), Opcode (.sel sl f) 0x28 ∧ Opcode (.aadd sl f) 0x40 ∧
    ((Instr.sel sl f).wellFormed = true ↔ f.sh = 0 ∧ f.fn = 0 ∧ f.b = 0 ∧ f.mb = 0 ∧ f.tb = 0) ∧
    ((Instr.aadd sl f).wellFormed = true ↔ f.d.toNat < 16 ∧ f.a.toNat < 16 ∧ f.sh = 0 ∧ f.ma = 0 ∧ f.gi = 0 ∧ f.gn = 0 ∧
      f.fn.getLsbD 2 = false ∧ (f.fn.getLsbD 3 = true → f.a = 0 ∧ f.ta = 0))) ∧
  (∀ (sl : SSlot) (f : IForm), Opcode (.aaddi sl f) 0x41 ∧
    ((Instr.aaddi sl f).wellFormed = true ↔ f.d.toNat < 16 ∧ f.a.toNat < 16 ∧ f.sh = 0 ∧ f.ma = 0 ∧ f.gi = 0 ∧ f.gn = 0 ∧
      (f.fn = 0 ∨ f.fn = 8 ∧ f.a = 0 ∧ f.ta = 0))) ∧
  (∀ (sl : SSlot) (f : RForm) (s : State), (Instr.sel sl f).wellFormed = true → NoClash s 1 (destS s.me.ctx f.d 0) →
    exec (.sel sl f) s = .next (if s.me.ctx.guard f.gi f.gn then
      withLanding s (sNum sl) 1 (destS s.me.ctx f.d (s.me.ctx.opA f)) else s)) ∧
  (∀ (sl : SSlot) (f : RForm) (s : State), (Instr.aadd sl f).wellFormed = true → NoClash s 1 (destA f.d 0) →
    exec (.aadd sl f) s = .next (withLanding s (sNum sl) 1 (destA f.d (BitVec.ofInt 64
      ((if f.fn.getLsbD 3 then 0 else (s.me.ctx.readA f.a.toNat).toNat) + (s.me.ctx.opB f).toInt * (2 ^ (f.fn.toNat % 4) : Nat)))))) ∧
  (∀ (sl : SSlot) (f : IForm) (s : State), (Instr.aaddi sl f).wellFormed = true → NoClash s 1 (destA f.d 0) →
    exec (.aaddi sl f) s = .next (withLanding s (sNum sl) 1 (destA f.d
      ((if f.fn.getLsbD 3 then 0 else s.me.ctx.readA f.a.toNat) + imm64 f.imm))))


/-- R185 to R187, R56, R57: the fp32 instructions round the exact result of their operands once in the mode of FN, DYN
taking FX.RM, and land it with the flags raised; `fcmp` lands its condition; `fcvt` converts by its code. -/
def Obligations.ScalarFloat : Prop :=
  (∀ row ∈ floatRows, ∀ (sl : SSlot) (f : RForm) (s : State), (row.op sl f).wellFormed = true →
    NoClash s row.lat (destS s.me.ctx f.d 0) →
    let rm := s.me.ctx.mode (f.fn.toNat % 8)
    let e := row.val rm (decodeVal fp32 0 (s.me.ctx.opA f).toNat) (decodeVal fp32 0 (s.me.ctx.opB f).toNat)
      (decodeVal fp32 0 (s.me.ctx.readS f.d).toNat)
    let z := convVal fp32 0 rm false e.1
    let v := destS s.me.ctx f.d (BitVec.ofNat 32 z.1)
    let fl := Raised.of1 0 (Fl.or e.2 z.2)
    exec (row.op sl f) s = .next (withLandings s (landsOf s (sNum sl) row.lat v fl))) ∧
  (∀ (sl : SSlot) (f : RForm) (s : State), (Instr.fcmp sl f).wellFormed = true → NoClash s 2 (destG f.d false) →
    let z := valCond f.fn.toNat (decodeVal fp32 0 (s.me.ctx.opA f).toNat) (decodeVal fp32 0 (s.me.ctx.opB f).toNat)
    let v := destG f.d z.1
    let fl := Raised.of1 0 z.2
    exec (.fcmp sl f) s = .next (withLandings s (landsOf s (sNum sl) 2 v fl))) ∧
  (∀ (sl : SSlot) (f : RForm) (s : State), (Instr.fcvt sl f).wellFormed = true → NoClash s 3 (destS s.me.ctx f.d 0) →
    ∀ src bits dst, (f.b.toNat, src, bits, dst) ∈
        [(0, fp32, 32, Fmt.int true 32), (1, fp32, 32, Fmt.int false 32), (2, Fmt.int true 32, 32, fp32),
         (3, Fmt.int false 32, 32, fp32), (4, fp32, 32, fp16), (5, fp16, 16, fp32), (6, fp32, 32, bf16), (7, bf16, 16, fp32)] →
      let z := convVal dst 0 (s.me.ctx.mode (f.fn.toNat % 8)) src.isInt
        (decodeVal src 0 ((s.me.ctx.opA f).toNat % 2 ^ bits))
      let v := destS s.me.ctx f.d (BitVec.ofNat 32 z.1)
      let fl := Raised.of1 0 z.2
      exec (.fcvt sl f) s = .next (withLandings s (landsOf s (sNum sl) 3 v fl)))

/-! ### Landings (06, R157, R158; 07, R183) -/

/-- R157, R168: when a landing is made its register takes the value (a semaphore, for an `mAdd`, its sum with it), and every
other register, every byte and every other landing stays. R183, R211, R51: bytes landed read back at their addresses, every
other address of the scratchpad reads as before, and nothing else changes but the dirty bytes of the windows; the same holds of
an overflow line and of a sill. R243: a tile lands as its writer left it, unless a writer issued after it has landed already,
and then nothing changes. A landing of flags alone changes nothing else. -/
def Obligations.LandingsWrite : Prop :=
  ∀ (r : Room) (l : Landing), l.raised = Raised.none → l.escape = none →
    let t := r.land l
    (∀ p v, l.val = .s p v → t = { r with ctx := { r.ctx with s := t.ctx.s } } ∧ Writes1 r.ctx.s t.ctx.s p.toNat v) ∧
    (∀ n v, l.val = .a n v → t = { r with ctx := { r.ctx with a := t.ctx.a } } ∧ Writes1 r.ctx.a t.ctx.a n.toNat v) ∧
    (∀ n v, l.val = .g n v → t = { r with ctx := { r.ctx with g := t.ctx.g } } ∧ Writes1 r.ctx.g t.ctx.g n.toNat v) ∧
    (∀ n v, l.val = .q n v → t = { r with ctx := { r.ctx with q := t.ctx.q } } ∧ Writes1 r.ctx.q t.ctx.q n.toNat v) ∧
    (∀ n v, l.val = .d n v → t = { r with ctx := { r.ctx with d := t.ctx.d } } ∧ Writes1 r.ctx.d t.ctx.d n.toNat v) ∧
    (∀ n v, l.val = .mSet n v → t = { r with ctx := { r.ctx with m := t.ctx.m } } ∧ Writes1 r.ctx.m t.ctx.m n.toNat v) ∧
    (∀ n v, l.val = .mAdd n v → t = { r with ctx := { r.ctx with m := t.ctx.m } } ∧
      Writes1 r.ctx.m t.ctx.m n.toNat (r.ctx.m[n.toNat] + v)) ∧
    (∀ cells, l.val = .bytes cells ∨ l.val = .store cells → Memory.wf r.scratch = true → Distinct cells →
      t = { r with scratch := t.scratch, windows := t.windows } ∧ WritesCells r.scratch t.scratch cells) ∧
    (∀ w cells, l.val = .sill w cells → Distinct cells → (∀ m ∈ r.sills, Memory.wf m = true) → w.toNat < r.sills.length →
      t = { r with sills := t.sills } ∧ t.sills.length = r.sills.length ∧
      WritesCells (r.sills.getD w.toNat []) (t.sills.getD w.toNat []) cells ∧
      ∀ k, k ≠ w.toNat → t.sills.getD k [] = r.sills.getD k []) ∧
    (∀ cells, l.val = .overflow cells → Distinct cells →
      t = { r with overflow := t.overflow } ∧ t.overflow.length = r.overflow.length ∧
      ∀ (i : Nat) (x y : OvLine), r.overflow[i]? = some x → t.overflow[i]? = some y → y.num = x.num ∧ y.bytes.length = x.bytes.length ∧
        (y.dirty = true ↔ x.dirty = true ∨ ∃ c ∈ cells, c.1 / 256 = x.num) ∧
        (∀ c ∈ cells, c.1 / 256 = x.num → c.1 % 256 < x.bytes.length → y.bytes[c.1 % 256]? = some c.2) ∧
        ∀ k, (∀ c ∈ cells, c.1 ≠ 256 * x.num + k) → k < 256 → y.bytes[k]? = x.bytes[k]?) ∧
    (∀ x, l.val = .tile x →
      (∀ y, r.tile? x.head = some y → x.issued < y.issued → t = r) ∧
      ((∀ y, r.tile? x.head = some y → y.issued ≤ x.issued) →
        t = { r with tiles := t.tiles } ∧ t.tile? x.head = some x ∧ OtherTiles x.head r t)) ∧
    (l.val = .flagsOnly → t = r)

/-! ### Loads and stores (07, R181 to R184; 04, R100, R101) -/

/-- R181, R182, R183: a load whose location is aligned and inside the partition, the footprint and, in its attic form, the
attic, completes: the bytes there, read little-endian at issue, land after three cycles as the row says, a value for s0
discarded; no register and no byte changes before. In the attic form beyond the attic it reads the resident overflow line. -/
def Obligations.LoadsComplete : Prop :=
  ∀ row ∈ loadRows, ∀ (sl : SSlot) (f : IForm) (s : State), (row.op sl f).wellFormed = true →
    ea s f % row.size = 0 → (∀ v ∈ row.lands s.me.ctx f 0, NoClash s 3 v) →
    (∀ a, PartitionAt s f a → MayTouch s false a row.size → TakesPlace s (sNum sl) false (span a row.size) → NoErrors s →
      ∃ t, exec (row.op sl f) s = .next t ∧ Touched s t ∧
        t.me.ctx.landings = s.me.ctx.landings ++
          pends s (sNum sl) 3 (row.lands s.me.ctx f (Memory.readNat s.me.scratch a row.size))) ∧
    (∀ o bs, OverflowAt s f o → s.me.overBytes o row.size = some bs →
      exec (row.op sl f) s = .next (withLandings s (pends s (sNum sl) 3 (row.lands s.me.ctx f (fromBytes bs)))))

/-- R181, R152, R182, R183: a store with its guard false does nothing; with it true, aligned and inside, it completes: its
bytes, little-endian, are written at the end of its cycle, and no register changes; beyond the attic they go to the
resident overflow line. -/
def Obligations.StoresComplete : Prop :=
  ∀ row ∈ storeRows, ∀ (sl : SSlot) (f : IForm) (s : State), (row.op sl f).wellFormed = true →
    (s.me.ctx.guard f.gi f.gn = false → exec (row.op sl f) s = .next s) ∧
    (s.me.ctx.guard f.gi f.gn = true → ea s f % row.size = 0 →
      (∀ a, PartitionAt s f a → MayTouch s true a row.size → TakesPlace s (sNum sl) true (span a row.size) →
        ∃ t, exec (row.op sl f) s = .next t ∧ Touched s t ∧
          t.me.ctx.landings = s.me.ctx.landings ++
            [pend s (sNum sl) 1 (.store (cellsAt a (toBytes row.size (row.val s.me.ctx f)))) Raised.none]) ∧
      (∀ o bs, OverflowAt s f o → s.me.overBytes o row.size = some bs →
        exec (row.op sl f) s = .next (withLandings s
          [pend s (sNum sl) 1 (.overflow (cellsAt o (toBytes row.size (row.val s.me.ctx f)))) Raised.none])))

/-- R182, R184, R101: the address causes of loads, whose landings meet no other (R159), and of guarded stores, with TRAPPC
at the bundle: MISALIGNED for a
location that is no multiple of the size; ATTIC_EXHAUSTED beyond attic and overflow; FOOTPRINT_ESCAPE outside the
partition or the footprint. -/
def Obligations.AddressFaults : Prop :=
  ∀ (op : SSlot → IForm → Instr) (size : Nat) (write : Bool),
    ((∃ row ∈ loadRows, op = row.op ∧ size = row.size ∧ write = false) ∨
     (∃ row ∈ storeRows, op = row.op ∧ size = row.size ∧ write = true)) →
    ∀ (sl : SSlot) (f : IForm) (s : State), (op sl f).wellFormed = true →
    (write = true → s.me.ctx.guard f.gi f.gn = true) →
    (∀ row ∈ loadRows, op = row.op → ∀ v ∈ row.lands s.me.ctx f 0, NoClash s 3 v) →
    (ea s f % size ≠ 0 → exec (op sl f) s = .next (s.takeTrap (cause 0x07 (sNum sl)) s.me.ctx.pc)) ∧
    (ea s f % size = 0 → isAttic f = true → s.me.atticSize.toNat % 2 ^ 25 + 65536 * (s.me.atticOvf.toNat / 2 ^ 52 % 256) ≤ ea s f →
      exec (op sl f) s = .next (s.takeTrap (cause 0x0A (sNum sl)) s.me.ctx.pc)) ∧
    (ea s f % size = 0 → ∀ a, PartitionAt s f a → ¬ MayTouch s write a size →
      exec (op sl f) s = .next (s.takeTrap (cause 0x09 (sNum sl)) s.me.ctx.pc))

/-! ### Control (07, R188 to R204) -/

/-- R188, R189, R152, R158, R159: a branch with its guard false does nothing; taken, it keeps a redirection whose target
issues three cycles on, `call` and `callr` land PC + 96 in a15 one cycle on, and nothing else changes; a link that meets
another landing is SLOT_BUSY, and else a target that is no multiple of 32 is MISALIGNED. -/
def Obligations.Branches : Prop :=
  ∀ row ∈ branchRows, ∀ (f : BForm) (s : State), (row.op f).wellFormed = true →
    (s.me.ctx.guard f.gi f.gn = false → exec (row.op f) s = .next s) ∧
    (s.me.ctx.guard f.gi f.gn = true → row.links = true → ¬ NoClash s 1 (.a 15 0) →
      exec (row.op f) s = .next (s.takeTrap (cause 0x03 0) s.me.ctx.pc)) ∧
    (s.me.ctx.guard f.gi f.gn = true → (row.links = true → NoClash s 1 (.a 15 0)) →
      ((row.target s.me.ctx f).toNat % 32 ≠ 0 → exec (row.op f) s = .next (s.takeTrap (cause 0x07 0) s.me.ctx.pc)) ∧
      ((row.target s.me.ctx f).toNat % 32 = 0 → exec (row.op f) s = .next { s with me := { s.me with ctx := { s.me.ctx with
        redirects := s.me.ctx.redirects ++ [{ due := s.me.ctx.ic + 3, target := row.target s.me.ctx f, pops := row.pops }]
        landings := s.me.ctx.landings ++
          if row.links then [pend s 0 1 (.a 15 (s.me.ctx.pc + 96)) Raised.none] else [] } } }))

/-- R193, R197, R198, R202, R189: `loop` pushes its entry, skips its body for a count of 0 and raises LOOP_DEPTH on six
entries. `rep` raises what R198 finds in the bundle that follows; else that bundle is armed from the next cycle on: n
iterations with step k from offset 0, or, for n = 0, one cycle without effect. `rot` adds its immediate to WINB.BASE modulo
32 at the end of its cycle, and a rotating iteration that ends there takes 1 more. `loop` and `rep` in a delay bundle are
ILLEGAL_BUNDLE. -/
def Obligations.LoopsAndRepeats : Prop :=
  (∀ (f : LForm) (s : State), (Instr.loop f).wellFormed = true →
    let n := if f.cr = 0 then f.cnt.toNat else (s.me.ctx.readS (f.cnt.truncate 6)).toNat
    let last := s.me.ctx.pc + BitVec.ofNat 64 (32 * f.endB.toNat)
    (s.me.ctx.redirects ≠ [] → exec (.loop f) s = .next (s.takeTrap (cause 0x01 0) s.me.ctx.pc)) ∧
    (s.me.ctx.redirects = [] → n = 0 → exec (.loop f) s = .next { s with me := { s.me with ctl := .skip (last + 32) } }) ∧
    (s.me.ctx.redirects = [] → n ≠ 0 → s.me.ctx.loops.length < 6 →
      exec (.loop f) s = .next { s with me := { s.me with ctx := { s.me.ctx with
        loops := { start := s.me.ctx.pc + 32, last := last, count := n, rot := f.rot == 1 } :: s.me.ctx.loops } } }) ∧
    (s.me.ctx.redirects = [] → n ≠ 0 → 6 ≤ s.me.ctx.loops.length →
      exec (.loop f) s = .next (s.takeTrap (cause 0x05 0) s.me.ctx.pc))) ∧
  (∀ (f : PForm) (s : State), (Instr.rep f).wellFormed = true →
    (s.me.ctx.redirects ≠ [] → exec (.rep f) s = .next (s.takeTrap (cause 0x01 0) s.me.ctx.pc)) ∧
    (s.me.ctx.redirects = [] → ∀ w, s.codeAt s.me (s.me.ctx.seqNext s.me.ctl).pc = .word w →
      (∀ c, repeatCheck w f.n.toNat f.k.toNat 0 = some c → exec (.rep f) s = .next (s.takeTrap c s.me.ctx.pc)) ∧
      (repeatCheck w f.n.toNat f.k.toNat 0 = none →
        ∃ t, exec (.rep f) s = .next t ∧ Queued s t ∧
          (s.me.ctx.sysWrites = [] → s.me.ctl = .none → ∀ sp, let c := (t.me.advance sp).ctx
            (f.n ≠ 0 → repRem c.repc = f.n.toNat ∧ repK c.repc = f.k.toNat ∧ repOfs c.repc = 0 ∧ c.repZero = false) ∧
            (f.n = 0 → c.repc = 0 ∧ c.repZero = true))))) ∧
  (∀ (f : IForm) (s : State), (Instr.rot f).wellFormed = true →
    ∃ t, exec (.rot f) s = .next t ∧ t = { s with me := { s.me with ctx := { s.me.ctx with rotBy := t.me.ctx.rotBy } } } ∧
      (s.me.ctx.sysWrites = [] → s.me.ctl = .none → repRem s.me.ctx.repc ≤ 1 → ∀ sp,
        let base := (t.me.advance sp).ctx.winb
        ((∀ e ∈ s.me.ctx.loops, e.last ≠ s.me.ctx.pc) →
          (base.toNat : Int) = ((s.me.ctx.winb.toNat : Int) + (imm64 f.imm).toInt) % 32) ∧
        (∀ e l, s.me.ctx.loops = e :: l → e.last = s.me.ctx.pc → 1 < e.count → e.rot = true →
          (base.toNat : Int) = ((s.me.ctx.winb.toNat : Int) + (imm64 f.imm).toInt - 1) % 32)))

/-- R142, R160, R162, R201, R203, R204: a no-op of any slot does nothing; `trap` makes TRAP_INSN due with its immediate;
`halt` ends the room's issue and drops its redirections; `mfs` lands the register it reads, in an a-register for one of 64
bits, the registers of R162 standing under their numbers; `mts` writes FX, QX and WINB at the end of its cycle, reserved bits
as zero, and is ILLEGAL_BUNDLE for a rounding mode that does not exist; R200: an `mts` of REPC writes it then. -/
def Obligations.SystemInstructions : Prop :=
  (∀ (s : State), (∀ sl, exec (.nop sl) s = .next s) ∧ exec .vnop s = .next s ∧ exec .mnop s = .next s ∧
    exec .xnop s = .next s) ∧
  (∀ (f : IForm) (s : State), (Instr.trap f).wellFormed = true → exec (.trap f) s = .next { s with me := { s.me with
    ctx := { s.me.ctx with due := s.me.ctx.due ++
      [{ code := 0x2A, slot := 0, sub := 0, aux := 0, index := (imm32 false f.imm).toNat }] } } }) ∧
  (∀ (f : BForm) (s : State), (Instr.halt f).wellFormed = true →
    ∃ t, exec (.halt f) s = .next t ∧ t = { s with me := { s.me with ctl := .halts } } ∧
      ∀ sp, (t.me.advance sp).life = .halting ∧ (t.me.advance sp).ctx.redirects = []) ∧
  (∀ (sl : SSlot) (f : IForm) (s : State), (Instr.mfs sl f).wellFormed = true →
    (sysWidth (imm32 false f.imm).toNat = some 32 → NoClash s 1 (destS s.me.ctx f.d 0) →
      exec (.mfs sl f) s = .next (withLanding s (sNum sl) 1
        (destS s.me.ctx f.d (BitVec.ofNat 32 (s.sysRead (imm32 false f.imm).toNat))))) ∧
    (sysWidth (imm32 false f.imm).toNat = some 64 → NoClash s 1 (destA f.d 0) →
      exec (.mfs sl f) s = .next (withLanding s (sNum sl) 1 (destA f.d (BitVec.ofNat 64 (s.sysRead (imm32 false f.imm).toNat)))))) ∧
  (∀ s : State, let c := s.me.ctx
    (∀ x ∈ [(0x001, c.fx), (0x002, c.qx), (0x020, c.winb), (0x021, c.repc), (0x030, s.me.roomid), (0x031, s.me.roomxy),
        (0x032, s.me.roomz), (0x033, s.me.teamid), (0x034, s.me.teamxy), (0x035, s.me.teamz), (0x036, s.me.spsize),
        (0x037, c.phase), (0x050, s.me.atticBase), (0x051, s.me.atticSize)],
      s.sysRead x.1 = x.2.toNat ∧ sysWidth x.1 = some 32) ∧
    (∀ x ∈ [(0x052, s.me.atticOvf), (0x060, c.trapc), (0x061, c.trappc)], s.sysRead x.1 = x.2.toNat ∧ sysWidth x.1 = some 64) ∧
    (∀ i : Fin 8, s.sysRead (0x040 + i) = s.me.dm[i].toNat ∧ sysWidth (0x040 + i) = some 32) ∧
    (let tb := (s.coreOf s.me.core).tb
     s.sysRead 0x010 = tb / 2 ^ 16 % 2 ^ 64 ∧ s.sysRead 0x011 = tb % 2 ^ 16 ∧ s.sysRead 0x012 = s.tbstat s.me.core ∧
     s.sysRead 0x062 = Config.ctxVersion.toNat ∧ s.sysRead 0x063 = s.me.status ∧ sysWidth 0x010 = some 64 ∧
     ∀ n ∈ [0x011, 0x012, 0x062, 0x063], sysWidth n = some 32)) ∧
  (∀ (f : IForm) (s : State), (Instr.mts f).wellFormed = true →
    let n := (imm32 false f.imm).toNat
    let v := s.me.ctx.readS f.a
    (n = 1 → 5 ≤ v.toNat / 2 ^ 16 % 8 → exec (.mts f) s = .next (s.takeTrap (cause 0x01 0) s.me.ctx.pc)) ∧
    ((n = 1 → v.toNat / 2 ^ 16 % 8 < 5) → ∃ t, exec (.mts f) s = .next t ∧ Queued s t ∧
      (s.me.ctx.sysWrites = [] → s.me.ctx.landings = [] → s.me.ctl = .none → ∀ sp, let c := (t.me.advance sp).ctx
        (n = 1 → c.fx = v &&& 0x00071F1F#32) ∧ (n = 2 → c.qx = v &&& 0x0000070F#32) ∧
        (n = 0x20 → s.me.ctx.rotBy = 0 → s.me.ctx.loops = [] → c.winb = v &&& 0x1F#32)))) ∧
  (∀ (f : IForm) (s : State), (Instr.repcWrite f).wellFormed = true →
    ∃ t, exec (.repcWrite f) s = .next t ∧ Queued s t ∧
      (s.me.ctx.sysWrites = [] → s.me.ctl = .none → ∀ sp,
        (t.me.advance sp).ctx.repc = s.me.ctx.readS f.a &&& 0xFFFF0FFF#32))

/-- R190, R189, R194, R197: which bundle follows: the repeated one while a repeat has iterations left; else the target of
the branch taken two cycles before; else the start of the loop that continues; else, after a loop of count 0, the bundle
past its body; else the next one. R191: in the cycle in which a target issues its redirection is over, and `br` and `jr` pop
the entries of the loop stack, from the top, whose bodies do not hold the target. -/
def Obligations.NextBundle : Prop :=
  (∀ (c : Ctx) (x : Redirect) (l : List Redirect), c.redirects = x :: l → x.due ≤ c.ic →
    let inBody (e : LoopEntry) : Prop := e.start.toNat ≤ x.target.toNat ∧ x.target.toNat ≤ e.last.toNat
    c.arrive = { c with redirects := c.arrive.redirects, loops := c.arrive.loops } ∧
    (∀ y, y ∈ c.arrive.redirects ↔ y ∈ c.redirects ∧ c.ic < y.due) ∧
    (x.pops = false → c.arrive.loops = c.loops) ∧
    (x.pops = true → ∃ n, c.arrive.loops = c.loops.drop n ∧ (∀ e ∈ c.loops.take n, ¬ inBody e) ∧
      ∀ e ∈ c.arrive.loops.head?, inBody e)) ∧
  ∀ (r : Room) (sp : Bool), r.ctl ≠ .halts → (∀ again ended, r.ctl ≠ .returned again ended) →
    let c := r.ctx
    let pc := (r.advance sp).ctx.pc
    (1 < c.repc.toNat / 2 ^ 16 → pc = c.pc) ∧
    (c.repc.toNat / 2 ^ 16 ≤ 1 → ∀ x l, c.redirects = x :: l → x.due = c.ic + 1 → pc = x.target) ∧
    (c.repc.toNat / 2 ^ 16 ≤ 1 → (∀ x ∈ c.redirects, x.due ≠ c.ic + 1) →
      (∀ e l, c.loops = e :: l → e.last = c.pc → 1 < e.count → pc = e.start) ∧
      (∀ e l, c.loops = e :: l → e.last = c.pc → e.count ≤ 1 → (∀ e' ∈ l, e'.last ≠ c.pc) → r.ctl = .none → pc = c.pc + 32) ∧
      ((∀ e ∈ c.loops.head?, e.last ≠ c.pc) → (∀ t, r.ctl = .skip t → pc = t) ∧ (r.ctl = .none → pc = c.pc + 32)))

/-! ### The V slot (08, R206 to R240) -/

/-- R207 to R211, R158: every V instruction whose descriptors are legal, aligned and inside the footprint, with its engine and
its q-register free, starts: it is in flight for O = max(1, Nb) cycles with latency O + P − 1, P being its row's depth, with
the rounding mode and the descriptors read at issue; no register, no byte, no tile and no landing changes. R154, R159: else it
raises the first that applies of ILLEGAL_BUNDLE, SLOT_BUSY, MISALIGNED, FOOTPRINT_ESCAPE, with slot V and TRAPPC at the
bundle. -/
def Obligations.VectorIssue : Prop :=
  (∀ row ∈ vectorRows, ∀ (f : VForm) (s : State) (p : VPlan), (row.op f).wellFormed = true →
      VLegal (row.op f) f (vRegs s f) p → VFree (row.op f) s → VAligned (row.op f) (vRegs s f) →
      VInside (row.op f) (vRegs s f) s.me →
      ∃ t fl, exec (row.op f) s = .next t ∧ VStarted s t fl ∧ fl.op = row.op f ∧ fl.slot = 2 ∧ fl.c0 = s.me.ctx.ic ∧
        fl.occ = max 1 p.nb ∧ fl.lat = max 1 p.nb + row.p (vRegs s f).dd - 1 ∧ fl.rm = s.me.ctx.mode f.rm.toNat ∧
        ({ dd := fl.dd, da := fl.da, db := fl.db, dc := fl.dc } : VRegs) = vRegs s f) ∧
  (∀ row ∈ vectorRows, ∀ (f : VForm) (s : State), (row.op f).wellFormed = true →
      ((∀ p, ¬ VLegal (row.op f) f (vRegs s f) p) → exec (row.op f) s = .next (s.takeTrap (cause 0x01 2) s.me.ctx.pc)) ∧
      (∀ p, VLegal (row.op f) f (vRegs s f) p →
        (¬ VFree (row.op f) s → exec (row.op f) s = .next (s.takeTrap (cause 0x03 2) s.me.ctx.pc)) ∧
        (VFree (row.op f) s → ¬ VAligned (row.op f) (vRegs s f) →
          exec (row.op f) s = .next (s.takeTrap (cause 0x07 2) s.me.ctx.pc)) ∧
        (VFree (row.op f) s → VAligned (row.op f) (vRegs s f) → ¬ VInside (row.op f) (vRegs s f) s.me →
          exec (row.op f) s = .next (s.takeTrap (cause 0x09 2) s.me.ctx.pc))))


/-- R218 to R221: on integer formats the value instructions give the row's integer, wrapped to the format, and no flag;
`vmov` copies; logic works bit by bit. -/
def Obligations.VectorIntegerValues : Prop :=
  ∀ (f : VForm) (rm : RM) (g : VRegs) (sg : Bool) (b ea eb ec : Nat), b ∈ [4, 8, 16, 32] →
    descFmt g.dd = .int sg b → descFmt g.da = .int sg b → descFmt g.db = .int sg b → descFmt g.dc = .int sg b →
    ea < 2 ^ b → eb < 2 ^ b → ec < 2 ^ b →
    (∀ row ∈ intRows, vValue (row.op f) f rm g ea eb ec =
      (wrapTo b (row.val sg b (intVal sg b ea) (intVal sg b eb) (intVal sg b ec)), Fl.none)) ∧
    (∀ j, (vValue (.vand f) f rm g ea eb ec).1.testBit j = (ea.testBit j && eb.testBit j)) ∧
    (∀ j, (vValue (.vor f) f rm g ea eb ec).1.testBit j = (ea.testBit j || eb.testBit j)) ∧
    (∀ j, (vValue (.vxor f) f rm g ea eb ec).1.testBit j = (ea.testBit j != eb.testBit j))

/-- R211, R214, R218 to R240: a beat whose reads take place forms what its instruction makes of the encodings that the
scratchpad holds in its cycle, one write P − 1 cycles on with the flags of its values, or for `vsum` and `vdot` more of the
exact sum; an access that does not take place ends the writing (R213). When a write's turn comes it lands with the next cycle
and its flags join the operation's, which land at the operation's end with the lowest index that escaped. -/
def Obligations.VectorBeat : Prop :=
  (∀ row ∈ vectorRows, ∀ (f : VForm) (r : Room) (k : Core) (fl : Flight) (g : VRegs) (p : VPlan) (j : Nat),
    AtBeat row f r k fl g p j →
    ∃ fl', (vRun r k fl).2 = some fl' ∧ (vRun r k fl).1.scratch = r.scratch ∧
      ((vRead (heldRoom r fl) k f g p fl j).2.2 = false → fl'.lost = true ∧ fl'.writes = fl.writes) ∧
      ((vRead (heldRoom r fl) k f g p fl j).2.2 = true → BeatDoes row f r fl fl' g p j ∧
        ((fl.op = .vsum f ∨ fl.op = .vdot f) → j + 1 = p.nb → (vRun r k fl).1.ctx.landings = r.ctx.landings ++
          [{ due := fl.c0 + fl.lat, val := .q f.qd fl'.acc.close.1, slot := 2, escape := fl.escape
             raised := fl'.raised.merge (Raised.of1 0 fl'.acc.close.2) }]))) ∧
  (∀ (r : Room) (f : Flight) (slot : Nat) (w : BeatWrite), f.writes = [w] → w.cycle ≤ r.ctx.ic → w.halves = [] → w.cells ≠ [] →
    (r.engAccess slot f.c0 f.lost true (w.cells.map Prod.fst)).2 = true →
    (flightWrites r f slot false).2.raised = f.raised.merge w.raised ∧
    (flightWrites r f slot false).1.ctx.landings = r.ctx.landings ++
      [{ due := r.ctx.ic + 1, val := .bytes w.cells, slot := slot, raised := Raised.none, escape := none }]) ∧
  (∀ row ∈ vectorRows, ∀ (f : VForm) (r : Room) (k : Core) (fl : Flight) (g : VRegs) (p : VPlan),
    fl.op = row.op f → g = { dd := fl.dd, da := fl.da, db := fl.db, dc := fl.dc } → vPlan fl.op g = some p →
    (fl.hold ≠ [] → (r.holdGroups 2 fl.c0 fl.hold).2 = true) → fl.writes = [] → fl.lat = max 1 p.nb + row.p g.dd - 1 → r.ctx.ic + 1 = fl.c0 + fl.lat →
    (∀ f', fl.op ≠ .vsum f') → (∀ f', fl.op ≠ .vdot f') →
    let t := heldRoom r fl
    (vRun r k fl).1 = if fl.raised = Raised.none ∧ fl.escape = none then t else
      { t with ctx := { t.ctx with landings := t.ctx.landings ++
          [{ due := fl.c0 + fl.lat, val := .flagsOnly, slot := 2, raised := fl.raised, escape := fl.escape }] } })

/-! ### The M slot (09, R241 to R263) -/

/-- R242, R243, R244, R252, R253: a matrix operation of a legal shape on a tile that can take its products, aligned, inside
the footprint and with its engine and its sill free, starts for its occupancy with a latency 12 longer: the tile named is
bound, of the class and scale asked for, and pending until it lands, and no other tile, no sill, no register and no byte
changes. A placement that breaks R245 makes BANK_CONFLICT due and changes nothing but the occupancy. -/
def Obligations.ArrayIssue : Prop :=
  ∀ row ∈ arrayRows, ∀ (f : MAForm) (s : State), (row.op f).wellFormed = true →
    let da := mDa s f
    let db := mDb s f
    let occ := arrayOcc f row.slice da db
    arrayShapeOk f row.slice da db = true → s.me.arrayTileOk f row.slice da db = true → MFree s →
    (f.ws = 1 → s.me.sillPending f.w = false) → arrayAlignOk f da db = true →
    s.me.regionOk 1 false da = true → (f.ws = 1 ∨ s.me.regionOk 1 false db = true) →
    (s.me.badPlacement (arrayOps f da db) (f.ws != 1) = none →
      ∃ t, exec (row.op f) s = .next t ∧ MStarted s t (row.op f) occ (occ + 12) ∧ OtherTiles f.bd.toNat s.me t.me ∧
        BoundAs s t f.bd.toNat (arrayClass row.slice da db) (if row.slice then -112 else 0) ∧
        t.me.tilePending f.bd.toNat = true) ∧
    (∀ k, s.me.badPlacement (arrayOps f da db) (f.ws != 1) = some k →
      exec (row.op f) s = .next { s with me := { s.me with lastM := some s.me.ctx.pc, ctx := { s.me.ctx with
        mFree := s.me.ctx.ic + occ, due := s.me.ctx.due ++ [k] } } })

/-- R252, R83: the cycles of a matrix product take every K position once, and the positions lo to hi add to element (a, b) of
the operation's tile the products of row a of A and row b of B at those positions, in order, as one exact sum, and change no
other element; what lands holds every sum to R81. R253: the cycles of an `mslice` apply its pairs of digits in turn, each at
every K position, and a pair (i, j) adds to a finite element (a, b) the exact sum of the products of digit i of row a of A and
digit j of row b of B, each times 2^(−8(i + j)), raising no flag. -/
def Obligations.MatrixProducts : Prop :=
  (∀ (f : MAForm) (da db : Nat), let rate := arrayRate (descFmt da) (descFmt db)
    min (descVals da) (0 * rate.1 / rate.2) = 0 ∧
    min (descVals da) (arrayOcc f false da db * rate.1 / rate.2) = descVals da) ∧
  (∀ (r : Room) (k : Core) (f : MAForm) (da db lo hi : Nat) (t : Tile) (c : QCls),
    classOf2 (descFmt da) (descEs da) (descFmt db) (descEs db) = some c → c.rank ≤ t.cls.rank → t.cls ≠ .clear →
    descRows db ≤ 128 → t.elems.Pairwise (fun x y => x.idx < y.idx) →
    let u := (mmacPart r k f da db lo hi t).1
    u.cls = t.cls ∧ u.sigma = t.sigma ∧
    (∀ a b, a < descRows da → b < descRows db → u.elem (128 * a + b) = sums c (t.elem (128 * a + b))
      ((List.range (hi - lo)).map fun x => (descVal da (r.arrayEnc k none da a (lo + x)),
        descVal db (r.arrayEnc k (sillOf f) db b (lo + x))))) ∧
    (∀ e, (∀ a b, a < descRows da → b < descRows db → e ≠ 128 * a + b) → u.elem e = t.elem e)) ∧
  (∀ (f : MAForm) (fl : Flight) (t : Tile), (fl.op = .mmul f ∨ fl.op = .mmac f) → fl.tile = some t → t.cls ≠ .clear →
    descRows fl.db ≤ 128 → t.elems.Pairwise (fun x y => x.idx < y.idx) →
    ∃ u, (mLanding f fl).1 = .tile u ∧ ∀ a b, a < descRows fl.da → b < descRows fl.db →
      u.elem (128 * a + b) = (t.elem (128 * a + b)).close.1) ∧
  (∀ (f : MAForm), (f.fn.toNat = 0 → slicePairs f = [(f.pi.toNat, f.pj.toNat)]) ∧
    (f.fn.toNat = 1 → (slicePairs f).length = 64 ∧ ∀ i j, (i, j) ∈ slicePairs f ↔ i < 8 ∧ j < 8) ∧
    (f.fn.toNat = 2 → (slicePairs f).length = 36 ∧ ∀ i j, (i, j) ∈ slicePairs f ↔ i + j ≤ 7)) ∧
  (∀ (f : MAForm) (fl : Flight), fl.op = .mslice f → let per := max 1 (cdiv (descVals fl.da) 2)
    ∀ x c, x ∈ (slicePairs f)[c / per]? → pairAt f fl c = x ∧
      kSpan fl c = (min (descVals fl.da) (2 * (c % per)), min (descVals fl.da) (2 * (c % per) + 2))) ∧
  (∀ (r : Room) (k : Core) (f : MAForm) (da db : Nat) (p : Nat × Nat) (lo hi : Nat) (t : Tile),
    t.cls = .q512 → t.sigma = -112 → p.1 < 8 → p.2 < 8 → descRows db ≤ 1024 → t.elems.Pairwise (fun x y => x.idx < y.idx) →
    let x := mslicePart r k f da db p lo hi t
    let u := x.1
    u.cls = t.cls ∧ u.sigma = t.sigma ∧ x.2 = Raised.none ∧
    (∀ a b, a < descRows da / 8 → b < descRows db / 8 → let e := 128 * a + b
      (u.elem e).state = (t.elem e).state ∧ (u.elem e).raw = (t.elem e).raw +
        if (t.elem e).state = .finite then ((List.range (hi - lo)).map fun x =>
          sext (r.arrayEnc k none da (8 * a + p.1) (lo + x)) 8 * sext (r.arrayEnc k (sillOf f) db (8 * b + p.2) (lo + x)) 8 *
            (2 ^ (QCls.q512.w0 + 112 - 8 * (p.1 + p.2)) : Nat)).sum else 0) ∧
    (∀ e, (∀ a b, a < descRows da / 8 → b < descRows db / 8 → e ≠ 128 * a + b) → u.elem e = t.elem e)) ∧
  (∀ (f : MAForm) (fl : Flight) (t : Tile), fl.op = .mslice f → fl.tile = some t → t.cls ≠ .clear →
    descRows fl.db ≤ 1024 → t.elems.Pairwise (fun x y => x.idx < y.idx) →
    ∃ u, (mLanding f fl).1 = .tile u ∧ ∀ a b, a < descRows fl.da / 8 → b < descRows fl.db / 8 →
      u.elem (128 * a + b) = (t.elem (128 * a + b)).close.1)

/-- R254, R243: `mzero` and `mscale` bind the tile if it is unbound and land it one cycle on with every element zero, `mzero`
with the scale that its last writer leaves, 0 for a tile it binds, and `mscale` with the raw bits of d[DA]; a bound tile of
another class is ILLEGAL_BUNDLE; `mrel` unbinds the tile, and does nothing to an unbound one. -/
def Obligations.TileControl : Prop :=
  ∀ (f : MAForm) (s : State), MFree s →
    (∀ (op : MAForm → Instr) (sigma : Option Int),
      (op = .mzero ∧ sigma = none) ∨ (op = .mscale ∧ sigma = some (sext (mDa s f) 16)) → (op f).wellFormed = true →
      s.me.tileNamesOk f.bd.toNat (suffixCls f).bays = true →
      (∀ y, s.me.tile? f.bd.toNat = some y → y.cls = suffixCls f) →
      (∀ y, s.me.tileNow f.bd.toNat = some y → y.head = f.bd.toNat ∧ y.cls = suffixCls f) →
      ∃ t x, exec (op f) s = .next t ∧ LandsTile s t x ∧ x.head = f.bd.toNat ∧ x.cls = suffixCls f ∧ x.elems = [] ∧
        x.sigma = sigma.getD (match s.me.tileNow f.bd.toNat with | some y => y.sigma | none => 0) ∧
        OtherTiles f.bd.toNat s.me t.me ∧ BoundAs s t f.bd.toNat (some (suffixCls f)) x.sigma) ∧
    (∀ op ∈ [Instr.mzero, Instr.mscale], (op f).wellFormed = true →
      ∀ y, s.me.tile? f.bd.toNat = some y → y.cls ≠ suffixCls f →
      exec (op f) s = .next (s.takeTrap (cause 0x01 3) s.me.ctx.pc)) ∧
    ((Instr.mrel f).wellFormed = true → s.me.tileNamesOk f.bd.toNat (s.me.namedWidth f.bd.toNat) = true →
      s.me.tilePending f.bd.toNat = false →
      ∃ t, exec (.mrel f) s = .next t ∧ t = withTiles s t.me.tiles ∧ t.me.tile? f.bd.toNat = none ∧
        OtherTiles f.bd.toNat s.me t.me ∧ (s.me.tile? f.bd.toNat = none → t.me.tiles = s.me.tiles))

/-- R251, R255 to R258: the operations that move tiles and sills start, each under the conditions of its rule, for the
occupancy and the latency of its rule; none of them changes a tile, a sill or a byte at its issue, `msill`, `msplit` and
`mload` keep what they write pending until it lands, and `mload` binds its tile. -/
def Obligations.TileMoves : Prop :=
  ∀ (f : MAForm) (s : State), MFree s →
    let da := mDa s f
    let db := mDb s f
    let h := f.bd.toNat
    ((Instr.msill f).wellFormed = true → sillShapeOk db = true → arrayAligned db = true → descCheck db ≠ .misaligned →
      s.me.regionOk 1 false db = true → s.me.badPlacement [db] false = none →
      let o := cdiv (packedSize db) 256
      ∃ t, exec (.msill f) s = .next t ∧ MStarted s t (.msill f) o (o + 2) ∧ t.me.tiles = s.me.tiles ∧
        t.me.sillPending f.w = true) ∧
    ((Instr.mround f).wellFormed = true → s.me.roundTileOk f = true → roundShapeOk f (s.me.ctx.mode f.rm.toNat) da db = true →
      s.me.tilePending h = false → roundAlignOk f da db = true → s.me.regionOk 1 true da = true →
      (f.fmt = 0x13#6 → s.me.regionOk 1 false db = true) →
      s.me.badPlacement (if f.fmt = 0x13#6 then [da, db] else [da]) false = none →
      let o := max 1 (cdiv (descRows da * descVals da) (if f.fmt = 0x13#6 then 64 else 128))
      ∃ t, exec (.mround f) s = .next t ∧ MStarted s t (.mround f) o (o + 7) ∧ t.me.tiles = s.me.tiles) ∧
    (∀ x, s.me.tile? h = some x → (Instr.msave f).wellFormed = true → s.me.tileNamesOk h x.cls.bays = true →
      s.me.tilePending h = false → descBase da % 64 = 0 → s.me.mayAccess 1 true (imageIv da x.cls) = true →
      let o := cdiv (64 + 2048 * x.cls.width + 8 * 16384) 512
      ∃ t, exec (.msave f) s = .next t ∧ MStarted s t (.msave f) o (o + 4) ∧ t.me.tiles = s.me.tiles) ∧
    ((Instr.mload f).wellFormed = true → s.me.tileNamesOk h (suffixCls f).bays = true →
      (∀ y, s.me.tile? h = some y → y.cls = suffixCls f) → descBase da % 64 = 0 →
      s.me.mayAccess 1 false (imageIv da (suffixCls f)) = true →
      (∀ y, s.me.tileNow h = some y → y.head = h ∧ y.cls = suffixCls f) →
      let o := cdiv (64 + 2048 * (suffixCls f).width + 8 * 16384) 512
      ∃ t, exec (.mload f) s = .next t ∧ MStarted s t (.mload f) o (o + 4) ∧ OtherTiles h s.me t.me ∧
        BoundAs s t h (some (suffixCls f)) 0 ∧ t.me.tilePending h = true) ∧
    ((Instr.msplit f).wellFormed = true → msplitShapeOk da db = true → arrayAligned db = true → descCheck db ≠ .misaligned →
      descCheck da ≠ .misaligned → s.me.regionOk 1 false db = true → s.me.regionOk 1 true da = true →
      s.me.badPlacement [da, db] false = none →
      let o := 2 * descRows db * cdiv (descVals db) 32
      ∃ t, exec (.msplit f) s = .next t ∧ MStarted s t (.msplit f) o (o + 6) ∧ t.me.tiles = s.me.tiles ∧
        t.me.sillPending f.w = true)

/-- R83, R158, R260, R261: the quire-unit instructions complete when the engine and the q-register are free: the value of
each rule lands after its latency with the flags of its accumulation, merge or rounding, and nothing else changes; the flags of
an overflow at the negation of a `qsub`, and the lane of a sum's guard overflow, are the model's choice (log 68). R262,
R75: `qst` writes the 144 bytes of the image of q[QS] at a[SA] + s[SB] at the end of its cycle, and `qld` lands the quire of the
image there after four cycles, when the address is a multiple of 16 inside the partition and footprint. R101: in the attic form
the address is an offset in the attic, and the bytes beyond it lie in the overflow lines. -/
def Obligations.QuireOperations : Prop :=
  (∀ (f : MQForm) (s : State),
      let c := s.me.ctx
      let prod (n l : Nat) : Val × Val := (decodeVal (mqFmt f) (mqEs f) (laneOf n (c.readS f.sa).toNat l),
        decodeVal (mqFmt f) (mqEs f) (laneOf n (c.readS f.sb).toNat l))
      (∀ (op : MQForm → Instr) (lat : Nat) (v : Quire × Fl),
        (op, lat, v) ∈ [(Instr.qclr, 1, (Quire.clearAt (sext (c.readS f.sa).toNat 16), Fl.none)),
          (Instr.qadd, 3, (c.readQ f.qd).merge (c.readQ f.qs)), (Instr.qneg, 3, (c.readQ f.qs).negate)] →
        (op f).wellFormed = true → QFree s f.qd → exec (op f) s = .next (withQuire s [qPend s f.qd lat v])) ∧
      ((Instr.qsub f).wellFormed = true → QFree s f.qd →
        let n := (c.readQ f.qs).negate
        let m := (c.readQ f.qd).merge n.1
        exec (.qsub f) s = .next (withQuire s [qPend s f.qd 3 (m.1, Fl.or n.2 m.2)])) ∧
      (∀ (op : MQForm → Instr) (lanes : Nat), (op, lanes) ∈ [(Instr.qfma, 1), (Instr.qdot, 32 / (mqFmt f).bits)] →
        (op f).wellFormed = true → QFree s f.qd → ∀ k, classOf (mqFmt f) (mqEs f) = some k →
        let xs := (List.range lanes).map (prod (mqFmt f).bits)
        let q := sums k (c.readQ f.qd) xs
        exec (op f) s = .next (withQuire s [pend s 3 4 (.q f.qd q.close.1)
          ((flagsAt ((List.range lanes).zip (gatherFlags k (c.readQ f.qd) xs))).merge (Raised.of1 0 q.close.2))])) ∧
      ((Instr.qround f).wellFormed = true → MFree s → NoClash s 4 (destS c f.sa 0) →
        let z := roundQ (mqFmt f) (mqEs f) (c.mode f.rm.toNat) (c.readQ f.qs)
        let low := landsOf s 3 4 (destS c f.sa (BitVec.ofNat 32 z.1)) (Raised.of1 0 z.2)
        (f.fmt ≠ 0x13#6 → exec (.qround f) s = .next (withQuire s low)) ∧
        (f.fmt = 0x13#6 → NoClash s 4 (destS c (nextS f.sa) 0) → exec (.qround f) s = .next (withQuire s
          (low ++ landsOf s 3 4 (destS c (nextS f.sa) (BitVec.ofNat 32 (z.1 / 2 ^ 32))) Raised.none))))) ∧
  (∀ (f : MQForm) (s : State), let a := (s.me.ctx.readA f.sa.toNat + (s.me.ctx.readS f.sb).signExtend 64).toNat
      f.db.getLsbD 0 = false → a % 16 = 0 → a + 144 ≤ s.me.spSize → s.me.missOf (span a 144) = none →
      ((Instr.qst f).wellFormed = true → MFree s → s.me.ctx.footprint.allows 1 true { lo := a, hi := (a + 144 : Nat) - 1 } = true →
        ∃ t, exec (.qst f) s = .next t ∧
          t = { withQuire s [pend s 3 1 (.store (cellsAt a (s.me.ctx.readQ f.qs).image)) Raised.none] with me := t.me } ∧
          t.me = { (withQuire s [pend s 3 1 (.store (cellsAt a (s.me.ctx.readQ f.qs).image)) Raised.none]).me with
            ctx.due := t.me.ctx.due }) ∧
      ((Instr.qld f).wellFormed = true → QFree s f.qd → NoErrors s →
        s.me.ctx.footprint.allows 1 false { lo := a, hi := (a + 144 : Nat) - 1 } = true →
        ∃ t, exec (.qld f) s = .next t ∧
          t.me.ctx.landings = s.me.ctx.landings ++ [qPend s f.qd 4 (Quire.load (Memory.read s.me.scratch a 144))] ∧
          t = { s with me := { s.me with lastM := some s.me.ctx.pc, ctx := { s.me.ctx with
            due := t.me.ctx.due, mFree := s.me.ctx.ic + 1, landings := t.me.ctx.landings, flights := t.me.ctx.flights } } })) ∧
  (∀ (f : MQForm) (s : State), let a := (s.me.ctx.readA f.sa.toNat + (s.me.ctx.readS f.sb).signExtend 64).toNat
      let size := s.me.atticSize.toNat % 2 ^ 25
      let base := s.me.atticBase.toNat % 2 ^ 25 + a
      let n := min 144 (size - a)
      f.db.getLsbD 0 = true → a % 16 = 0 → a + 144 ≤ size + 65536 * (s.me.atticOvf.toNat / 2 ^ 52 % 256) → (n ≠ 0 → base + n ≤ s.me.spSize) →
      s.me.missOf (span base n) = none → (∀ i, n ≤ i → i < 144 → ∃ l ∈ s.me.overflow, l.num = (a + i - size) / 256) →
      ((Instr.qst f).wellFormed = true → MFree s →
        (n ≠ 0 → s.me.ctx.footprint.allows 1 true { lo := base, hi := (base + n : Nat) - 1 } = true) →
        let img := (s.me.ctx.readQ f.qs).image
        ∃ t, exec (.qst f) s = .next t ∧ t = { s with me := t.me } ∧
          t.me = { (withQuire s ((if n = 0 then [] else [pend s 3 1 (.store (cellsAt base (img.take n))) Raised.none]) ++
            if n = 144 then [] else [pend s 3 1 (.overflow (cellsAt (a + n - size) (img.drop n))) Raised.none])).me with
              ctx.due := t.me.ctx.due }) ∧
      ((Instr.qld f).wellFormed = true → QFree s f.qd → NoErrors s →
        (n ≠ 0 → s.me.ctx.footprint.allows 1 false { lo := base, hi := (base + n : Nat) - 1 } = true) →
        ∀ bs : List Byte, bs.length = 144 → (∀ i, i < n → bs[i]? = some (Memory.get s.me.scratch (base + i))) →
          (∀ i, n ≤ i → i < 144 → s.me.overBytes (a + i - size) 1 = (bs[i]?).map fun b => [b]) →
        ∃ t, exec (.qld f) s = .next t ∧
          t.me.ctx.landings = s.me.ctx.landings ++ [qPend s f.qd 4 (Quire.load bs)] ∧
          t = { s with me := { s.me with lastM := some s.me.ctx.pc, ctx := { s.me.ctx with
            due := t.me.ctx.due, mFree := s.me.ctx.ic + 1, landings := t.me.ctx.landings, flights := t.me.ctx.flights } } }))

/-- R87, R78 to R84: a chain of products of one class and scale, cut anywhere, each part accumulated in any order into its
own quire and the parts merged, gives the quire of the uncut chain, when the raw values stay within R81's range. -/
def Obligations.CutChainsMerge : Prop :=
  ∀ (c : QCls) (sigma : Int) (l a b : List (Val × Val)), c ≠ .clear → l.Perm (a ++ b) →
    (l.map (rawOf c sigma)).sum < 2 ^ (c.width + 31) →
    ((chain c (Quire.clearAt sigma) a).merge (chain c (Quire.clearAt sigma) b)).1 = chain c (Quire.clearAt sigma) l

/-! ### The X slot (10, R264 to R305) -/

/-- R264 to R266, R282 to R284, R289 to R293: puts, sluice commands, atomics and fences take one entry of the transfer queue
with the registers they name read at issue, when what they name is legal, the queue has room, and what they name is aligned and
inside the sets; nothing else changes. Else they take the first cause of R159 that applies: ILLEGAL_BUNDLE, SLOT_BUSY with
sub-cause 1, MISALIGNED or FOOTPRINT_ESCAPE. An atomic with its guard false does nothing. -/
def Obligations.EntriesIssue : Prop :=
  ∀ (f : XForm) (s : State),
    let aa := s.me.ctx.readA f.aa.toNat
    let ab := (s.me.ctx.readA f.ab.toNat).toNat
    let n := (s.me.ctx.readS f.sa).toNat
    ((Instr.put f).wellFormed = true →
      Queues s (.put f) (TargetOk aa ∧ n ≤ 65536 ∧ ab < 2 ^ 24) True (entryNow s (.put f) f) (spanIv ab n) []) ∧
    ((Instr.putQ f).wellFormed = true →
      Queues s (.putQ f) (TargetOk aa) (aa.toNat % 16 = 0)
        { entryNow s (.putQ f) f with payload := (s.me.ctx.readQ (f.sa.truncate 3)).image } [] []) ∧
    (∀ op ∈ fenceRows, (op f).wellFormed = true → Queues s (op f) True True (entryNow s (op f) f) [] []) ∧
    (∀ row ∈ sluiceRows, (row.1 f).wellFormed = true →
      Queues s (row.1 f) (row.2 = true → ab < 65536) (aa.toNat % 32 = 0 ∧ n % 2 ^ 24 % 32 = 0) (entryNow s (row.1 f) f)
        (spanIv (n % 2 ^ 24) 32) (if f.fn.getLsbD 3 then spanIv (n % 2 ^ 24 + 32) 8 else [])) ∧
    (∀ op ∈ atomicRows, (op f).wellFormed = true →
      (s.me.ctx.guard f.gi f.gn = false → exec (op f) s = .next s) ∧
      (s.me.ctx.guard f.gi f.gn = true →
        Queues s (op f) True (aa.toNat % amoSize f = 0 ∧ (f.fn.getLsbD 3 = true → n % amoSize f = 0)) (entryNow s (op f) f)
          [] (if f.fn.getLsbD 3 then spanIv n (amoSize f) else [])))

/-- R298, R299, R301: a collective on a defined domain register takes one entry that keeps its ordinal and its mode, and the
register's count goes up by 1; on a register that is not defined it is ILLEGAL_BUNDLE. -/
def Obligations.CollectivesIssue : Prop :=
  ∀ (f : XForm) (s : State),
    let d := (s.me.ctx.readD f.da).toNat
    let n := (s.me.ctx.readS f.sa).toNat
    let a := (s.me.ctx.readA f.aa.toNat).toNat
    let iv := (descIv d).toList
    (QueueFree s → s.me.dmDefined f.sc = true →
      ((Instr.collSum f).wellFormed = true → descCheck d = .ok → (descFmt d).isBlk = false → descFmt d ≠ fp64 → InSets s.me 2 [] iv →
        exec (.collSum f) s = .next (withCollective s (.collSum f) f [] iv)) ∧
      ((Instr.collSumQ f).wellFormed = true → 1 ≤ n → n ≤ 4096 → a % 16 = 0 → InSets s.me 2 [] (spanIv a (144 * n)) →
        exec (.collSumQ f) s = .next (withCollective s (.collSumQ f) f [] (spanIv a (144 * n)))) ∧
      ((Instr.collBcast f).wellFormed = true → descCheck d = .ok →
        (n = s.me.id.lin → InSets s.me 2 iv [] → exec (.collBcast f) s = .next (withCollective s (.collBcast f) f iv [])) ∧
        (n ≠ s.me.id.lin → InSets s.me 2 [] iv → exec (.collBcast f) s = .next (withCollective s (.collBcast f) f [] iv)))) ∧
    (s.me.dmDefined f.sc = false → ∀ op ∈ [Instr.collSum, Instr.collSumQ, Instr.collBcast],
      exec (op f) s = .next (s.takeTrap (cause 0x01 4) s.me.ctx.pc))

/-- R272, R276, R278, R279: a card instruction whose card is readable, legal and aligned, with a place in the queue and in
its channel, takes one entry that keeps the 64 bytes of the card, its mode, whether it is the shadow card, and the cards it
must follow. R159, R265, R266: else it takes the first cause that applies: `bchain` of its own channel ILLEGAL_BUNDLE; SLOT_BUSY,
with sub-cause 1, 2 or 3, before the MISALIGNED or FOOTPRINT_ESCAPE of the card's address; ILLEGAL_BUNDLE of the card it reads;
SLOT_BUSY; and the card's own MISALIGNED and FOOTPRINT_ESCAPE. R390: an uncorrectable card queues nothing and makes POISON with
sub-cause 2 due. -/
def Obligations.CardsIssue : Prop :=
  (∀ (f : XForm) (s : State), f.fn.toNat % 4 = f.ch.toNat →
    exec (.bchain f) s = .next (s.takeTrap (cause 0x01 4) s.me.ctx.pc)) ∧
  ∀ row ∈ cardRows, ∀ (f : XForm) (s : State), (row.1 f).wellFormed = true →
    let ch := f.ch.toNat
    let addr := (s.me.ctx.readA f.aa.toNat).toNat
    let bs := Memory.read s.me.scratch addr 64
    let n := fromBytes bs
    let chain := if row.2.2 then some (f.fn.toNat % 4) else none
    let trap (c : Cause) : Prop := exec (row.1 f) s = .next (s.takeTrap c s.me.ctx.pc)
    let free : Prop := ∀ c, ¬ CardBusy s ch row.2.1 c
    let readable : Prop := addr % 64 = 0 ∧ InSets s.me (3 + ch) (spanIv addr 64) []
    let fetched : Prop := readable ∧ s.me.missOf (span addr 64) = none
    let legal : Prop := cardLegal (xOpcode (row.1 f)) n = true
    (¬ readable → (∀ c, CardBusy s ch row.2.1 c → trap c) ∧ (free → addr % 64 ≠ 0 → trap (cause 0x07 4)) ∧
      (free → addr % 64 = 0 → trap (cause 0x09 4))) ∧
    (fetched → (∃ a ∈ span addr 64, s.me.byteBad (s.coreOf s.me.core) a = true) →
      ∃ t, exec (row.1 f) s = .next t ∧ t.me.ctx.xq = s.me.ctx.xq ∧ { cause 0x22 4 with sub := 2 } ∈ t.me.ctx.due ∧
        SameStore s t) ∧
    (fetched → NoErrors s →
      (¬ legal → trap (cause 0x01 4)) ∧
      (legal → ∀ c, CardBusy s ch row.2.1 c → trap c) ∧
      (legal → free → cardAligned n = false → trap (cause 0x07 4)) ∧
      (legal → free → cardAligned n = true → ¬ InSets s.me (3 + ch) (cardReads addr n) (cardWrites n) → trap (cause 0x09 4)) ∧
      (legal → free → cardAligned n = true → InSets s.me (3 + ch) (cardReads addr n) (cardWrites n) →
        let e : XEntry := { entryNow s (row.1 f) f with
          card := bs, rm := s.me.ctx.mode (cRm n), shadow := row.2.1, after := s.me.ctx.cardAfter n chain }
        ∃ t, exec (row.1 f) s = .next t ∧ t = { s with me := t.me } ∧
          t.me = { (withEntry s e (3 + ch) (cardReads addr n) (cardWrites n)).me with
            ctx := { (withEntry s e (3 + ch) (cardReads addr n) (cardWrites n)).me.ctx with due := t.me.ctx.due } }))

/-- R285 to R288, R24, R45, R49: `sinit` and `sinc` land in their semaphore after one cycle; `swait` and `twait` put their
wait on the room; `tbsync` clears ALIGNED on every core of the room's package and starts its realignment for a room with TIME
privilege and is ACCESS_VIOLATION sub-cause 3 without; `put.t` is queued in an open window of its schedule, which it uses up,
and is TIMED_MISS else, whether the queue is full or not; a room that shares its core takes TIMED_MISS for both timed
instructions. -/
def Obligations.SemaphoresAndTime : Prop :=
  ∀ (f : XForm) (s : State), let v := s.me.ctx.readS f.sa
    ((Instr.sinit f).wellFormed = true → NoClash s 1 (.mSet f.ms 0) → exec (.sinit f) s = .next (withLanding s 4 1 (.mSet f.ms v))) ∧
    ((Instr.sinc f).wellFormed = true → NoClash s 1 (.mAdd f.ms 0) → exec (.sinc f) s = .next (withLanding s 4 1 (.mAdd f.ms v))) ∧
    ((Instr.swait f).wellFormed = true → exec (.swait f) s = .next (withWait s (.swait f.ms v (f.fn.getLsbD 0)))) ∧
    ((Instr.twait f).wellFormed = true →
      (s.sharing s.me ≤ 1 → exec (.twait f) s = .next (withWait s (.twait (s.me.ctx.readA f.aa.toNat)))) ∧
      (1 < s.sharing s.me → exec (.twait f) s = .next (withDue s { cause 0x30 4 with sub := 2 }))) ∧
    ((Instr.tbsync f).wellFormed = true →
      (s.me.timePriv = true → exec (.tbsync f) s = .next { s with
          cores := s.cores.map fun k => if pkgOf k.num = pkgOf s.me.core then { k with aligned := false } else k
          hall := s.hall.align (pkgOf s.me.core) } ∧
        (s.hall.align (pkgOf s.me.core)).aligning (pkgOf s.me.core) = true) ∧
      (s.me.timePriv = false → exec (.tbsync f) s = .next (s.takeTrap { cause 0x23 4 with sub := 3 } s.me.ctx.pc))) ∧
    ((Instr.putT f).wellFormed = true → TargetOk (s.me.ctx.readA f.aa.toNat) →
      let n := v.toNat
      let ab := (s.me.ctx.readA f.ab.toNat).toNat
      let tb := (s.coreOf s.me.core).tb
      let lin := (s.me.ctx.readA f.aa.toNat).toNat / 2 ^ 40 % 2 ^ 16
      1 ≤ n → n ≤ 4096 → ab < 2 ^ 24 → InSets s.me 2 (spanIv ab n) [] →
      (1 < s.sharing s.me → exec (.putT f) s = .next (withDue s { cause 0x30 4 with sub := 2 })) ∧
      (s.sharing s.me ≤ 1 → openWindow tb lin s.me.ctx.timed = none → exec (.putT f) s = .next (withDue s (cause 0x30 4))) ∧
      (s.sharing s.me ≤ 1 → QueueFree s → ∀ w, openWindow tb lin s.me.ctx.timed = some w → ∃ t, exec (.putT f) s = .next t ∧
        t.me.ctx.timed = modAt (fun x => { x with lastUsed := some w.2 }) w.1 s.me.ctx.timed ∧
        { t with me := { t.me with ctx := { t.me.ctx with timed := s.me.ctx.timed } } } =
          withEntry s { entryNow s (.putT f) f with tbIssue := tb } 2 (spanIv ab n) []))

/-- R285: a window is open for a destination exactly when an entry of the schedule names it, its period is not 0, TB lies in
the first 32 ns of one of its periods, and no put has used that period's window. -/
def Obligations.OpenWindows : Prop :=
  ∀ (tb lin : Nat) (l : List TimedEntry),
    (∀ i j, openWindow tb lin l = some (i, j) → ∃ e, l[i]? = some e ∧ e.dst = lin ∧ e.tper ≠ 0 ∧ e.tofs + j * e.tper ≤ tb / 2 ^ 16 ∧
      tb / 2 ^ 16 < e.tofs + j * e.tper + 32 ∧ tb / 2 ^ 16 < e.tofs + (j + 1) * e.tper ∧ ∀ u, e.lastUsed = some u → u < j) ∧
    (openWindow tb lin l = none → ∀ e ∈ l, ∀ j, e.dst = lin → e.tper ≠ 0 → e.tofs + j * e.tper ≤ tb / 2 ^ 16 →
      tb / 2 ^ 16 < e.tofs + (j + 1) * e.tper → tb / 2 ^ 16 < e.tofs + j * e.tper + 32 → ∃ u, e.lastUsed = some u ∧ j ≤ u)

/-- R295, R296, R32, R35, R297: `phase` with an accepted record whose sets and what is in flight do not overlap begins the
next phase: the sets become the record's, PHASE counts up in its 24 low bits, the old snapshot goes; no register, byte,
tile, sill or landing changes. An overlap is PHASE_OVERLAP with the two engines. `dbar` on a defined domain register waits
for its barrier, on another it is ILLEGAL_BUNDLE. -/
def Obligations.PhasesAndBarriers : Prop :=
  (∀ (f : XForm) (s : State), (Instr.phase f).wellFormed = true →
    let a := (s.me.ctx.readA f.aa.toNat).toNat
    let h := Memory.readNat s.me.scratch a 64
    let bs := Memory.read s.me.scratch a (fpLength h)
    (a % 64 ≠ 0 → exec (.phase f) s = .next (s.takeTrap (cause 0x07 4) s.me.ctx.pc)) ∧
    (a % 64 = 0 → a + 64 ≤ s.me.spSize → fpHeaderOk h = true → a + fpLength h ≤ s.me.spSize →
      s.me.missOf (span a (fpLength h)) = none → NoErrors s → fpImagesOk bs = true →
      (∀ x, s.me.overlapPair (fpParse bs) = some x →
        exec (.phase f) s = .next (s.takeTrap { cause 0x08 4 with aux := x.1 + 16 * x.2 } s.me.ctx.pc)) ∧
      (s.me.overlapPair (fpParse bs) = none → ∃ t, exec (.phase f) s = .next t ∧ SameStore s t ∧
        t.me.ctx.footprint = fpParse bs ∧ t.me.ctx.phase.toNat % 2 ^ 24 = (s.me.ctx.phase.toNat + 1) % 2 ^ 24 ∧
        t.me.ctx.phase.toNat / 2 ^ 24 = s.me.ctx.phase.toNat / 2 ^ 24 ∧ t.me.snap = none ∧ t.me.snapDue = h.testBit 56))) ∧
  (∀ (f : XForm) (s : State), (Instr.dbar f).wellFormed = true →
    (s.me.dmDefined f.sc = true → exec (.dbar f) s = .next (withWait s (.dbar f.sc.toNat false))) ∧
    (s.me.dmDefined f.sc = false → exec (.dbar f) s = .next (s.takeTrap (cause 0x01 4) s.me.ctx.pc)))

/-- R303, R304, R105, R101, R266: `wmap` queues the write-back of the window it replaces, naming its written bytes, which it
reads when it is dispatched, and stands the new window, with no line resident, beside the others; `wflush` and `wflush.all`
queue the write-back of the written bytes of their windows and of the dirty overflow lines and clear the marks; `wflush` of an
unbound window, and `wflush.all` with no window and nothing to write back, only raise their semaphore. No register besides
that and no byte changes. -/
def Obligations.WindowsIssue : Prop :=
  ∀ (f : XForm) (s : State), QueueFree s →
    ((Instr.wmap f).wellFormed = true →
      let d := (s.me.ctx.readD f.da).toNat
      let g := (s.me.ctx.readA f.aa.toNat).toNat
      let n := f.fn.toNat % 8
      let others := s.me.windows.filter fun w => w.num != n
      descCheck d = .ok → (∀ w, s.me.window? n = some w → s.me.mayAccess 2 false w.iv = true) →
      (∀ iv, descIv d = some iv → iv.lo % 256 = 0 → (iv.hi - iv.lo + 1) % 256 = 0 → g % 256 = 0 → s.me.inPartition iv = true →
        (∀ w ∈ others, w.iv.overlaps iv = false) →
        ∃ t, exec (.wmap f) s = .next t ∧ SameStore s t ∧ t.me.entries = s.me.entries + 1 ∧
          t.me.windows = others ++ [{ num := n, base := iv.lo.toNat, len := (iv.hi - iv.lo + 1).toNat, gva := g % 2 ^ 52,
                                      resident := [], written := [] }] ∧
          ∃ e, t.me.ctx.xq = s.me.ctx.xq ++ [e] ∧ e.op = .wmap f ∧ e.status = .queued ∧
            e.writeBack = (match s.me.window? n with | some w => w.dirty | none => [])) ∧
      (descIv d = none → ∃ t, exec (.wmap f) s = .next t ∧ SameStore s t ∧ t.me.windows = others)) ∧
    (∀ (op : XForm → Instr) (ws : List Window),
      (op = .wflush ∧ ws = s.me.windows.filter fun w => w.num == f.fn.toNat % 8) ∨ (op = .wflushAll ∧ ws = s.me.windows) →
      (op f).wellFormed = true → (∀ w ∈ ws, s.me.mayAccess 2 false w.iv = true) →
      let wb := ws.flatMap Window.dirty ++ s.me.overflowDirty
      (ws = [] → (op = .wflush ∨ wb = []) → exec (op f) s = .next { s with me := { s.me with ctx := { s.me.ctx with
        m := s.me.ctx.m.set f.ms.toNat (s.me.ctx.m[f.ms.toNat] + 1) } } }) ∧
      (ws ≠ [] ∨ op = .wflushAll ∧ wb ≠ [] → ∃ t e, exec (op f) s = .next t ∧ SameStore s t ∧ t.me.ctx.xq = s.me.ctx.xq ++ [e] ∧
        e.op = op f ∧ e.status = .queued ∧ e.writeBack = wb ∧ (∀ l ∈ t.me.overflow, l.dirty = false) ∧
        ∀ w ∈ t.me.windows, w.num ∈ ws.map Window.num → w.written = []))

/-! ### Commands (20, R412 to R415) -/

/-- R412, R413, R414: what becomes of a command by its sequence number: of no session, or above E + 64: dropped and counted;
E + 1: executed, STATUS 3 with no effect without the privilege; E − 255 to E: the recorded reply again; below: STATUS 2;
E + 2 to E + 64: held, once. The reply of an executed command is recorded and sent, and E moves on; the held command that
follows stands at the head of the agenda, before every event that was to come (DESIGN CHOICE, log 1). R415: an OPCODE that the
table does not hold is answered with STATUS 5. -/
def Obligations.CommandOrder : Prop :=
  (∀ (i : Instr) (h : CmdHdr) (need : Nat) (s : State), commandOf i = some (h, need) →
    (∀ op, i = .malformedCommand h op → opcodeKnown op.toNat = false) →
    (s.session? h.session = none → exec i s = .next (s.count (hallCounter 0x31) 1)) ∧
    ∀ x, s.session? h.session = some x →
      (h.seq = x.e + 1 → x.may need = false → exec i s = .next (s.recordReply h i (Answer.code 3))) ∧
      (h.seq ≤ x.e → x.e ≤ h.seq + 255 → ∀ y, x.replies.find? (fun y => y.seq == h.seq) = some y →
        exec i s = .next { s with sent := s.sent ++ [(h.session, y)] }) ∧
      (h.seq + 255 < x.e →
        exec i s = .next { s with sent := s.sent ++ [(h.session, replyOf h i (Answer.code 2))] }) ∧
      (x.e + 2 ≤ h.seq → h.seq ≤ x.e + 64 →
        ((∀ y ∈ x.held, y.1 ≠ h.seq) →
          exec i s = .next (s.onSession h.session fun x => { x with held := x.held ++ [(h.seq, i)] })) ∧
        ((∃ y ∈ x.held, y.1 = h.seq) → exec i s = .next s)) ∧
      (x.e + 64 < h.seq → exec i s = .next (s.count (hallCounter 0x31) 1))) ∧
  (∀ (s : State) (h : CmdHdr) (i : Instr) (a : Answer) (x : Session), s.session? h.session = some x →
    let t := s.recordReply h i a
    (∃ y, t.session? h.session = some y ∧ y.e = h.seq ∧ y.privs = x.privs ∧ y.replies = (replyOf h i a :: x.replies).take 256 ∧
      ∀ p, p ∈ y.held ↔ p ∈ x.held ∧ p.1 ≠ h.seq + 1) ∧
    t.sent = s.sent ++ [(h.session, replyOf h i a)] ∧
    (∃ next, t.agenda = next ++ s.agenda ∧ ∀ j, j ∈ next ↔ (h.seq + 1, j) ∈ x.held) ∧
    t = { s with sessions := t.sessions, sent := t.sent, agenda := t.agenda }) ∧
  (∀ (s : State) (h : CmdHdr) (ok : Bool),
    (ok = false ∨ s.session? h.session = none → exec (.cmdDropped h ok) s = .next (s.count (hallCounter 0x31) 1)) ∧
    (∀ x, s.session? h.session = some x → x.e + 64 < h.seq →
      exec (.cmdDropped h ok) s = .next (s.count (hallCounter 0x31) 1))) ∧
  (∀ (s : State) (h : CmdHdr) (op : BitVec 16), opcodeKnown op.toNat = false →
    Answers s h 0 (.malformedCommand h op) s (Answer.code 5))

/-- R383, R384, R389, R390, R395 to R398: the commands on one room in their turn, on a room that stands as each asks. RESUME,
DEBUG RESUME and STEP let it go on (how is TrapReturn's), RESUME H enters a handler inside its load; CTXREAD answers the
container of any frozen room, CTXWRITE restores from an image or is refused; DUMP queues a dump, once; DEBUG STOP freezes a
room that is not stopped, and BKPT and WATCH set or clear a breakpoint or a watchpoint; PAGEIN restores the context that went
away, its semaphores, entries and waits being those the core kept (log 69); FAULT_FATAL makes a page fault fatal. -/
def Obligations.ContextCommands : Prop :=
  ∀ (h : CmdHdr) (r : RoomId) (s : State) (x : Room), s.room? r = some x →
    (MayResume x →
      x.goOn.stop = .none ∧ Kept x x.goOn ∧ x.goOn.ctx.pc = (if x.stop = .debug ∧ x.ctx.hmode = true then x.ctx.pc else x.ctx.trappc) ∧
      Answers s h 0 (.resume h r) (s.onRoomThenEnsure r Room.goOn) Answer.done ∧
      Answers s h 4 (.debugResume h r) (s.onRoomThenEnsure r Room.goOn) Answer.done ∧
      Answers s h 4 (.debugStep h r) (s.onRoomThenEnsure r fun y => { y.goOn with stepOnce := true }) Answer.done) ∧
    (¬ MayResume x →
      Answers s h 0 (.resume h r) s (Answer.code 1) ∧ Answers s h 4 (.debugResume h r) s (Answer.code 1) ∧
      Answers s h 4 (.debugStep h r) s (Answer.code 1)) ∧
    (∀ l (addr : DWord), MayResume x → s.load? x.loadH = some l →
      l.lb ≤ addr.toNat → addr.toNat < l.lb + l.codeSize → addr.toNat % 32 = 0 →
      Answers s h 0 (.resumeH h r addr) (s.onRoomThenEnsure r fun y => y.enterHandler addr) Answer.done) ∧
    (Frozen x →
      Answers s h 0 (.ctxread h r) s { status := 0, data := [], bytes := x.container (stopReason x) (x.stopTb / 2 ^ 16) true } ∧
      (∀ image z, x.restore image = some z → (∀ c, x.stop ≠ .away c) → x.stop ≠ .refused →
        Answers s h 4 (.ctxwrite h r image) (s.onRoom r fun _ => z) Answer.done) ∧
      (∀ image z, x.restore image = some z → x.stop = .refused → Answers s h 4 (.ctxwrite h r image)
        (s.onRoom r fun _ => { z with stop := .debug, ctx := { z.ctx with trappc :=
          if z.ctx.hmode then z.ctx.trappc else z.ctx.pc } }) Answer.done) ∧
      (∀ image z c t, x.restore image = some z → x.stop = .away c → s.team? r.team = some t → s.slotHeld r .write = false →
        (s.saveContainer t z 4 true).2 = .made →
        Answers s h 4 (.ctxwrite h r image) ((s.saveContainer t z 4 true).1.onRoom r fun _ => { z with stop := .away c }) Answer.done) ∧
      (∀ image, x.restore image = none → s.slotHeld r .write = false → Answers s h 4 (.ctxwrite h r image) s (Answer.code 1))) ∧
    (¬ Frozen x → ∀ image, Answers s h 0 (.ctxread h r) s (Answer.code 1) ∧ Answers s h 4 (.ctxwrite h r image) s (Answer.code 1)) ∧
    ((∀ d ∈ s.dumps, d.room ≠ r) → Answers s h 0 (.dump h r) { s with
      dumps := s.dumps ++ [{ room := r, reason := 6, further := [], nFurther := 0 }] } Answer.done) ∧
    ((∃ d ∈ s.dumps, d.room = r) → Answers s h 0 (.dump h r) s Answer.done) ∧
    (∀ asid va size, Answers s h 0 (.dumparea h asid va size)
      { s with dumpArea := some { asid := asid, va := va, size := size, used := 0 } } Answer.done) ∧
    (NotStopped x → x.life = .running → Answers s h 4 (.debugStop h r) (s.focus r).debugStop Answer.done ∧
      (s.focus r).debugStop.mem = s.mem ∧ RoomIs (s.focus r).debugStop r fun y => y.stop = .debug ∧ Kept x y ∧
        y.ctx.pc = x.ctx.pc ∧ (x.ctx.hmode = false → y.ctx.trappc = x.ctx.pc)) ∧
    (¬ NotStopped x ∨ x.life ≠ .running → Answers s h 4 (.debugStop h r) s Answer.done) ∧
    (∀ (n : BitVec 2) (a : DWord), Answers s h 4 (.debugBkpt h r n (some a))
      (s.onRoom r fun y => { y with bkpt := (n.toNat, a) :: y.bkpt.filter fun b => b.1 != n.toNat }) Answer.done) ∧
    (∀ (n : BitVec 2), Answers s h 4 (.debugBkpt h r n none)
      (s.onRoom r fun y => { y with bkpt := y.bkpt.filter fun b => b.1 != n.toNat }) Answer.done) ∧
    (∀ (n : BitVec 2) lo len kind, len ≠ 0 → Answers s h 4 (.debugWatch h r n lo len kind)
      (s.onRoom r fun y => { y with watch := (n.toNat, lo, len, kind) :: y.watch.filter fun w => w.1 != n.toNat }) Answer.done) ∧
    (∀ (n : BitVec 2) lo kind, Answers s h 4 (.debugWatch h r n lo 0 kind)
      (s.onRoom r fun y => { y with watch := y.watch.filter fun w => w.1 != n.toNat }) Answer.done) ∧
    (∀ c, x.stop = .away c ∨ (x.stop = .frozen c ∧ c.code = 0x20 ∧ fatal c x.ctx.hmode = false) →
      Answers s h 0 (.faultFatal h r) ((s.onRoom r fun z => { z with stop := .fatalPage c }).startDump r 0
        x.ctx.trapc.toNat x.ctx.trappc.toNat (s.coreOf x.core).tb) Answer.done) ∧
    (∀ c d, x.stop = .fatalPage c → x.ctx.due.find? (fun d => d.code == 0x20) = some d →
      Answers s h 0 (.faultFatal h r) ((s.onRoom r fun z => { z with ctx := { z.ctx with due := dropCause d z.ctx.due } }).startDump r 0
        d.word.toNat x.ctx.trappc.toNat (s.coreOf x.core).tb) Answer.done) ∧
    (∀ c t bs z, x.stop = .away c → s.team? r.team = some t → s.slotHeld r .read = false →
      let base := ctxSlot t.launch.ctxva r.lin t.launch.spsize t.launch.nb
      let s1 := s.slotMeets t base
      s1.slotPoisoned t base = false → s1.slotBytes t base = some bs → x.restore bs = some z →
      let y := ({ x.returnFrom z with stop := .frozen c } : Room).unfreeze
      y.stop = .none ∧ y.ctx.pc = z.ctx.trappc ∧ y.ctx.s = z.ctx.s ∧ y.ctx.m = x.ctx.m ∧
      Answers s h 0 (.pagein h r) (s1.onRoomThenEnsure r fun _ => y) Answer.done)

/-- R350, R359, R365 to R371, R374: the commands that load, launch and end teams, in their turn. -/
def Obligations.LaunchCommands : Prop :=
  ∀ (h : CmdHdr) (s : State),
    (∀ asid va size lb b l code hashes, s.loadHeld asid va size (lb : DWord).toNat = false → s.hallRead asid va size = some b →
      s.checkObject asid b lb.toNat = .good l code hashes → ((s.hallMeets asid va size).hallWrite asid l.lb code).2 = true →
      InTurn s h 0 → ∃ u : State, exec (.load h asid va size lb) s = .next (u.recordReply h (.load h asid va size lb)
          (Answer.words ([s.nextHandle, l.lb, b2n l.varies] ++ l.kernels.map fun k => b2n k.isSome))) ∧
        u.loads = { l with handle := s.nextHandle } :: s.loads ∧ u.nextHandle = s.nextHandle + 1 ∧ u.me = s.me ∧
        u.others = s.others ∧ u.teams = s.teams ∧ u.mgmt.loadHashes = s.mgmt.loadHashes ++ hashes) ∧
    (∀ asid va size lb b code idx, s.loadHeld asid va size (lb : DWord).toNat = false → s.hallRead asid va size = some b →
      s.checkObject asid b lb.toNat = .bad code idx →
      Answers s h 0 (.load h asid va size lb) (s.hallMeets asid va size) { status := code, data := [idx], bytes := [] }) ∧
    (∀ n, (s.load? n).isSome = true → (∀ t ∈ s.teams, t.live = true → t.launch.loadH ≠ n) →
      Answers s h 0 (.unload h n) { s with loads := s.loads.filter (fun l => l.handle != n),
                                           pages := s.pages.filter (fun p => p.load != n)
                                           cores := s.cores.map fun k =>
                                             { k with loopBuf := k.loopBuf.filter (fun b => b.load != n) } } Answer.done) ∧
    (∀ asid va l v x, s.runsHeld asid (s.launchRuns asid va) = false → s.readLaunch asid va = some l →
      s.session? h.session = some x → let t := s.runsMeet asid (s.launchRuns asid va)
      t.launchCode asid l (x.may 2) = .ok v →
      (t.teams.filter fun t => t.waiting && t.launch.basin == l.basin).length < 256 →
      Answers s h 0 (.launch h asid va) (State.refreshEligible { t with nextSub := t.nextSub + 1, roundDue := true, teams := t.teams ++
        [{ sub := t.nextSub, launch := l, variant := v, asid := asid, state := .queued, eligibleAt := none, deadline := 0
           deps := t.depsOf l, saved := [] }] }) (Answer.words [t.nextSub])) ∧
    (∀ asid va, s.runsHeld asid (s.launchRuns asid va) = false → s.readLaunch asid va = none → Answers s h 0 (.launch h asid va)
      ((s.runsMeet asid (s.launchRuns asid va)).post (.reject 0x01 h.seq)) (Answer.code 0x01)) ∧
    (∀ basin cls weight, basin ≤ 63 → cls ≤ 3 → 1 ≤ weight → weight ≤ 255 →
      Answers s h 1 (.basincfg h basin cls weight) { s with
        basins := mapIf (fun b => b.num == basin) (fun b => { b with cls := cls, weight := weight }) s.basins
        roundDue := true } Answer.done) ∧
    (∀ team t, s.team? team = some t →
      (t.live = true → Answers s h 0 (.kill h team) (State.refreshEligible (State.cancelDependents
        ((s.clearRooms team).onTeam team fun t => { t with state := .cancelled, saved := [] }) team)) Answer.done) ∧
      (∀ d forced, t.state = .retired → Answers s h 0 (.preempt h team d forced) (s.post (.retired team)) Answer.done) ∧
      (∀ d m, t.state = .admitted → (∃ r ∈ s.teamRooms team, r.life ≠ .halted) →
        (m = .discard → (s.estimate t).mayDiscard = true) →
        let s1 := s.onTeam team fun t => { t with state := .stopping m, deadline := d }
        let s2 := s1.onRooms (fun r => r.id.team == team) (s1.askStop m)
        Answers s h 0 (.preempt h team d (some m)) (s2.ensureAll ((s2.teamRooms team).map fun r => r.core)) Answer.done))

/-- R399, R405, R406, R409, R410, R114: the commands of translation and restowing, in their turn. -/
def Obligations.TranslationCommands : Prop :=
  ∀ (h : CmdHdr) (s : State),
    (∀ asid valid root (tb : DWord), asid < 4096 → root % 65536 = 0 → root < 2 ^ 48 → tableBerthOk tb.toNat = true →
      Answers s h 1 (.asidset h asid valid root tb) { s.dropCached (fun t => t.asid == asid) with
        roots := { asid := asid, valid := valid, root := root, tberth := tb.toNat } :: s.roots.filter fun x => x.asid != asid } Answer.done) ∧
    (∀ asid pa (w0 w1 : DWord) x, s.roots.find? (fun x => x.asid == asid) = some x → pa % 16 = 0 →
      (placeOf x.tberth pa).isSome = true →
      (s.leafBusy x.tberth pa = false → Answers s h 0 (.ptewrite h asid pa w0 w1)
        (let t := s.gWrite 15 (fun _ => 0) (pairWrite x.tberth pa w0.toNat w1.toNat)
         if w0.getLsbD 0 ∧ w0.getLsbD 1 then t.reuse w1.toNat (w0.toNat / 2 ^ 16 % 2 ^ 32 * 2 ^ 16) 65536 else t) Answer.done) ∧
      (s.leafBusy x.tberth pa = true → Answers s h 0 (.ptewrite h asid pa w0 w1) s (Answer.code 4))) ∧
    (∀ asid range, Answers s h 0 (.shootdown h asid range) { s.dropCached (tlbHit asid range) with
      shootdowns := s.shootdowns ++ [{ id := s.nextId, asid := asid, range := range, old := s.cachedBy (tlbHit asid range) }]
      nextId := s.nextId + 1 } (Answer.words [s.nextId])) ∧
    (∀ src frame (berth : DWord) r, s.restowSource src frame berth.toNat s.nextId = some r →
      ((∀ x ∈ s.restows, x.sameSource r = false) → s.restows.length < 64 → restowOk r = true →
        (∀ asid va, r.src = .page asid va → s.aclCovers r.srcPa r.size = false) →
        Answers s h 0 (.restow h src frame berth) { s with restows := s.restows ++ [r], nextId := s.nextId + 1 }
          (Answer.words [s.nextId])) ∧
      ((∃ x ∈ s.restows, x.sameSource r = true) ∨ 64 ≤ s.restows.length →
        Answers s h 0 (.restow h src frame berth) s (Answer.code 4))) ∧
    (∀ id r, s.restow? id = some r →
      (r.step ≠ .flipped → Answers s h 0 (.restowcancel h id) (s.abortRestow r 3 (min r.p (r.size / 64 - 1))) Answer.done) ∧
      (r.step = .flipped → Answers s h 0 (.restowcancel h id) s (Answer.code 1))) ∧
    (∀ num (words : List DWord), num < 4096 →
      (s.handleBusy num = true → Answers s h 0 (.handlereg h num words) s (Answer.code 4)) ∧
      (s.handleBusy num = false → handleRecordOk (words.map fun w => w.toNat) = true →
        let ws := words.map fun w => w.toNat
        Answers s h 0 (.handlereg h num words) (State.reuse { s.keepRecord num with
          handles := (num, ws) :: s.handles.filter fun x => x.1 != num } (hBerth ws) (hBase ws) (arenaBytes ws)) Answer.done))

/-- R416, R417, R420, R423, R426, R429 to R431: the commands of windows, access control, the event ring, routes, time, counters
and trace, in their turn. -/
def Obligations.HostCommands : Prop :=
  ∀ (h : CmdHdr) (s : State),
    (∀ asid va len (rights : BitVec 3), va % 65536 = 0 → len % 65536 = 0 → va + len ≤ 2 ^ 52 → asid < 4096 →
      s.windows.length < 1024 → Answers s h 0 (.winopen h asid va len rights) { s with
        windows := { key := s.nextId, asid := asid, va := va, len := len, rights := rights } :: s.windows
        nextId := s.nextId + 1 } (Answer.words [s.nextId])) ∧
    (∀ w ∈ s.windows, (∀ j ∈ s.hostWaits, ∀ q, hostRequest j ≠ some (q, w.key)) → Answers s h 0 (.winclose h w.key) { s with windows := s.windows.filter (fun x => x.key != w.key) } Answer.done) ∧
    (∀ lh idx (words : List DWord), let ws := words.map fun w => w.toNat
      lh < 8 → idx < 256 → aclOk ws = true → s.aclMeetsRestow ws = false →
      Answers s h 1 (.aclset h lh idx words) { s with
        acl := { lockhouse := lh, idx := idx, words := ws } :: s.acl.filter (fun e => !(e.lockhouse == lh && e.idx == idx)) } Answer.done) ∧
    (∀ qp addr rkey log2, 6 ≤ log2 → log2 ≤ 16 → Answers s h 0 (.evqset h qp addr rkey log2 none) { s with
      ring := some { qp := qp, addr := addr, rkey := rkey, log2 := log2, prod := 0, cons := 0, lost := 0 } } Answer.done) ∧
    (∀ qp addr rkey log2 c r, s.ring = some r → r.cons ≤ c → c ≤ r.prod →
      Answers s h 0 (.evqset h qp addr rkey log2 (some c)) { s with
        ring := some { r with cons := c }, agenda := .evqOverflowEvent :: s.agenda } Answer.done) ∧
    (∀ self routes spares, routesOk self routes spares = true → InTurn s h 1 →
      ∃ u : State, exec (.linkroute h self routes spares) s = .next (u.recordReply h (.linkroute h self routes spares) Answer.done) ∧
        u.routing = { self := self, routes := routes, spares := spares } ∧ u.hall.root = s.hall.root ∧ SourceSet s u ∧
        (∀ p, s.hall.root = some p → u.hall.rootPath = u.routing.joins p) ∧
        u = { s with routing := u.routing, hall := u.hall, cores := u.cores }) ∧
    (∀ root, root < 512 → InTurn s h 1 →
      ∃ u : State, exec (.tbref h root) s = .next (u.recordReply h (.tbref h root) Answer.done) ∧ u.hall.root = some root ∧
        SourceSet s u ∧ u.hall.rootPath = s.routing.joins root ∧ u = { s with hall := u.hall, cores := u.cores }) ∧
    (∀ (t : DWord), Answers s h 0 (.arm h t) { s with fired := [], armed := some {
        t := t.toNat, late := (List.range 13).filter fun d => decide (t.toNat ≤ s.dieTb d / 2 ^ 16) } }
      Answer.done) ∧
    (∀ first count, 1 ≤ count → count ≤ 1024 → first < 2 ^ 32 → ∀ T sh, s.shadow = some (T, sh) →
      Answers s h 0 (.read h first count) s (Answer.words (T :: (List.range count).map fun i =>
        if counterKnown (first + i) then assocGet sh (first + i) 0 else 2 ^ 64 - 1))) ∧
    (∀ args, traceArgsOk args = true →
      Answers s h 4 (.tracecfg h args) { s.count (hallCounter 0x33) (s.trace.elim 0 fun t => t.pending.length) with
        trace := some { args := args, on := true, pos := 0, pending := [] } } Answer.done) ∧
    (∀ t, s.trace = some t → Answers s h 0 (.tracestop h) { s with trace := some { t with on := false } } Answer.done)

/-! ### Events of rooms (R21, R30, R31, R45, R47, R157, R204, R287, R297, R374, R382, R389) -/

/-- R287, R47, R45, R157, R156, R204, R31, R30, R297, R382, R374, R389: what ends the waits of a room, makes its landings due or
runs a cycle in which it issues nothing, halts it, completes its barrier, stops it at a boundary for a cause due or for a
pre-emption, moves the context of one stopped by a page fault, and ends a realignment, each when its condition holds. -/
def Obligations.RoomEvents : Prop :=
  ∀ (r : RoomId) (s : State) (x : Room), s.room? r = some x →
    (∀ m v dec, x.ready = true → x.ctx.wait = .swait m v dec → v ≤ x.ctx.m[m.toNat] →
      ∃ t, exec (.swaitRelease r) s = .next t ∧ t.mem = s.mem ∧ RoomIs t r fun y => y.ctx.wait = .none ∧
        y.ctx.m[m.toNat] = (if dec then x.ctx.m[m.toNat] - v else x.ctx.m[m.toNat]) ∧ y.ctx.s = x.ctx.s ∧ y.scratch = x.scratch) ∧
    (∀ v, x.ready = true → x.ctx.wait = .twait v → v.toNat ≤ (s.coreOf x.core).tb / 2 ^ 16 →
      ∃ t, exec (.twaitRelease r) s = .next t ∧ t.mem = s.mem ∧ RoomIs t r fun y =>
        y = { x with ctx := { x.ctx with wait := .none } }) ∧
    (x.life = .running → x.stop = .none → x.ctx.wait = .none → x.ctx.due = [] →
      ∃ t, exec (.landing r) s = .next t ∧ t.mem = s.mem ∧ RoomIs t r fun y => y = x.landDue) ∧
    (x.drains = true → x.eccHits = [] → ∃ t, exec (.landing r) s = .next t ∧ t.mem = s.mem ∧
      let z := x.emptyCycle ((s.heal x x.ctx.landingBytes).coreOf x.core)
      (z.miss = none → (RoomIs t r fun y => y = { z with eccHits := [] }) ∧ z.ctx.ic = x.ctx.ic + 1) ∧
      (∀ m, z.miss = some m → RoomIs t r fun y => y.stop = .hold m ∧ y.scratch = x.scratch ∧ y.ctx.landings = x.ctx.landings)) ∧
    (x.mayHalt = true → x.dirtyBytes = [] → x.heldBy = none →
      ∃ t, exec (.roomHalted r) s = .next t ∧ t.mem = s.mem ∧ RoomIs t r fun y => y.life = .halted ∧ y.scratch = x.scratch) ∧
    (x.mayHalt = true → s.accessHeld x true (x.dirtyBytes.map Prod.fst) = false → s.heldNow x.heldBy = .free → ∀ u bs v, s.sourceBytes x x.dirtyBytes = (u, bs) →
      u.writeBack x bs = (v, [], none) →
      ∃ t, exec (.roomHalted r) s = .next t ∧ t.mem = v.mem ∧ RoomIs t r fun y => y.life = .halted) ∧
    (∀ dm, x.waiting = .dbar dm false → x.mayArrive = true →
      ∃ t, exec (.dbarArrival r) s = .next t ∧ t.mem = s.mem ∧ RoomIs t r fun y => y.waiting = .dbar dm true) ∧
    (∀ i, x.waiting = .dbar i true → x ∈ s.members x i → (∀ y ∈ s.members x i, y.waiting = .dbar i true) →
      ∃ t comm, exec (.dbarComplete r) s = .next t ∧ t.mem = s.mem ∧
        { team := r.team, dm := i, inst := x.inst i, comm := comm } ∈ t.kinds ∧
        RoomIs t r fun y => y.waiting = .none ∧ y.ctx.phase = phaseAfter x.ctx.phase comm i ∧ y.ctx.footprint.empty = true ∧
          y.scratch = x.scratch) ∧
    (NotStopped x → x.life = .running ∨ x.life = .halting → ∀ c, firstCause x.ctx.due = some c →
      ∃ t, exec (.boundaryTrap r) s = .next t ∧ t.mem = s.mem ∧ RoomIs t r fun y => y.stop = .frozen c ∧
        y.ctx.trapc = c.word ∧ y.ctx.trappc = x.ctx.pc ∧ y.ctx.s = x.ctx.s ∧ y.scratch = x.scratch) ∧
    (x.atStopPoint = true → x.life = .running → NotStopped x → x.ctx.due = [] →
      ∃ t, exec (.preemptStop r) s = .next t ∧ t.mem = s.mem ∧ RoomIs t r fun y => y.stop = .preempted ∧ y.stopAsked = none ∧
        y.ctx.pc = x.ctx.pc ∧ y.ctx.s = x.ctx.s ∧ y.scratch = x.scratch) ∧
    (∀ c tm, x.stop = .frozen c → c.code = 0x20 → fatal c x.ctx.hmode = false → x.cardsQuiet = true →
      s.team? r.team = some tm → x.overflowDirty = [] → (s.saveContainer tm x 4 true).2 = .made →
      ∃ t, exec (.pageFaultMove r) s = .next t ∧ RoomIs t r fun y => y.stop = .away c ∧ y.scratch = x.scratch ∧ y.tiles = x.tiles) ∧
    (s.hall.realign.isSome = true → s.routing.self < 512 → (∀ k ∈ s.cores, pkgOf k.num = 0 → k.tb ≤ s.hall.tb + 2 * 2 ^ 16) →
      ∃ t, exec (.tbRealignDone s.routing.self) s = .next t ∧ t.hall.realign = none ∧
        (∀ k ∈ t.cores, pkgOf k.num = 0 → k.aligned = true ∧ t.hall.tb ≤ k.tb ∧ k.tb ≤ t.hall.tb + 2 * 2 ^ 16) ∧
        t = { s with cores := t.cores, hall := { s.hall with realign := none } }) ∧
    (∀ d, d ∈ s.hall.realignAway → d ≠ 0 → (∀ d', d' = 0 ∨ d' ∈ s.hall.realignAway → s.pkgNo d' = s.pkgNo d → d' = d) →
      (∀ k ∈ s.cores, pkgOf k.num = d → k.tb ≤ s.hall.tb + 2 * 2 ^ 16) →
      ∃ t, exec (.tbRealignDone (s.pkgNo d)) s = .next t ∧ d ∉ t.hall.realignAway ∧ t.hall.realign = s.hall.realign ∧
        (∀ k ∈ t.cores, pkgOf k.num = d → k.aligned = true ∧ t.hall.tb ≤ k.tb) ∧
        t.cores.filter (fun k => pkgOf k.num != d) = s.cores.filter fun k => pkgOf k.num != d)

/-! ### Entries of transfer queues (R37, R38, R127, R265, R284, R300 to R302) -/

/-- R265, R127, R37, R38, R284, R298, R300, R302: an entry that may be dispatched is, and a put reads its bytes then; a fence
that waits for nothing more leaves the queue; a put lands, bytes and increment, in the receiver that its phase lets it into,
and is ACCESS_VIOLATION of the sender elsewhere; a collective whose result is formed is counted and leaves the queue; one that
every member has dispatched alike completes, and one in which they differ makes ILLEGAL_BUNDLE due at the member. -/
def Obligations.EntryEvents : Prop :=
  ∀ (r : RoomId) (id : Nat) (s : State) (x : Room) (e : XEntry), EntryIs s r id x e →
    (s.mayDispatch x e = true → x.here = true → s.heldNow e.heldBy = .free → s.pathOpen x e = true →
      exec (.entryDispatch r id) s = .next ((s.dispatch x e).sendPut r id) ∧
      (∀ f, e.op = .put f ∨ e.op = .putT f → (0 < e.sv ∨ e.payload = []) → NoErrors { s with me := x } →
        RoomIs (s.dispatch x e) r fun y => ∃ e', y.entry? id = some e' ∧ e'.status = .dispatched ∧
          e'.payload = Memory.read x.scratch e.ab e.sv)) ∧
    (e.isFence = true → (∀ a ∈ x.ctx.before id, s.fenceWaits x e a = false) →
      ∃ t, exec (.fenceComplete r id) s = .next t ∧ t.mem = s.mem ∧ RoomIs t r fun y =>
        y.ctx.xq.map (·.id) = (x.ctx.xq.map (·.id)).filter (· != id) ∧ y.ctx.s = x.ctx.s ∧ y.scratch = x.scratch ∧
        ∀ w ∈ y.ctx.xq, ∃ a ∈ x.ctx.xq, w = { a with fenced := w.fenced } ∧
          (w.fenced = a.fenced ∨ w.fenced = some id ∧ a.isWrite = true ∧ a.performed = false)) ∧
    (e.isFence = true → (∃ a ∈ x.ctx.before id, s.fenceWaits x e a = true) → exec (.fenceComplete r id) s = .next s) ∧
    (e.isPut = true → e.status = .dispatched → s.putArrives x e = true →
      (∀ tgt, s.room? { team := r.team, lin := targetLin e.aa } = some tgt → targetAddr e.aa + e.putLen ≤ tgt.spSize →
        tgt.putLands (targetAddr e.aa) e.putLen = true →
        ∃ t, exec (.putLanding r id) s = .next t ∧ t.mem = s.mem ∧ RoomIs t { team := r.team, lin := targetLin e.aa } fun y =>
          y.scratch = Memory.putAll tgt.scratch (cellsAt (targetAddr e.aa) e.payload) ∧
          y.ctx.m[e.form.ms.toNat] = tgt.ctx.m[e.form.ms.toNat] + 1 ∧ y.ctx.s = tgt.ctx.s ∧
          ∀ j : Fin 64, j.val ≠ e.form.ms.toNat → y.ctx.m[j] = tgt.ctx.m[j]) ∧
      ((s.room? { team := r.team, lin := targetLin e.aa } = none ∨
        ∃ tgt, s.room? { team := r.team, lin := targetLin e.aa } = some tgt ∧
          (tgt.spSize < targetAddr e.aa + e.putLen ∨ tgt.putLands (targetAddr e.aa) e.putLen = false)) →
        ∃ t, exec (.putLanding r id) s = .next t ∧ t.mem = s.mem ∧ (RoomIs t r fun y =>
          y.ctx.due = (if x.deadStop then x.ctx.due else x.ctx.due ++ [cause 0x23 4]) ∧
          y.ctx.xq = (x.dropEntry id).ctx.xq ∧ y.scratch = x.scratch) ∧
          (x.deadStop = true → ∀ d ∈ s.dumps, d.room = r → ∃ d' ∈ t.dumps, d'.room = r ∧ d'.nFurther = d.nFurther + 1))) ∧
    (isCollOp e.op = true → e.status = .dispatched →
      (∀ bytes, e.result = some bytes → e.raised = Raised.none →
        ∃ t, exec (.collectiveComplete r id) s = .next t ∧ t.mem = s.mem ∧ CompletedIn r id e.form.ms x t) ∧
      (e.result = none → x ∈ s.members x e.form.sc.toNat → x.collEntry e.form.sc e.ordinal = some e →
        (∀ y ∈ s.members x e.form.sc.toNat, ∃ g, y.collEntry e.form.sc e.ordinal = some g ∧ g.status ≠ .queued ∧ g.fault = none) →
        ((∀ y ∈ s.members x e.form.sc.toNat, ∀ g, y.collEntry e.form.sc e.ordinal = some g → g.collKey = e.collKey) →
          (∀ f, e.op = .collBcast f → ∃ y ∈ s.members x e.form.sc.toNat, y.id.lin = e.sv) →
          ∃ t, exec (.collectiveComplete r id) s = .next t ∧ t.mem = s.mem ∧ RoomIs t r fun y =>
            y.ctx.m[e.form.ms.toNat] = x.ctx.m[e.form.ms.toNat] + 1 ∧ y.entry? id = none) ∧
        ((∃ y ∈ s.members x e.form.sc.toNat, ∃ g, y.collEntry e.form.sc e.ordinal = some g ∧ g.collKey ≠ e.collKey) →
          ∃ t, exec (.collectiveComplete r id) s = .next t ∧ t.mem = s.mem ∧
            RoomIs t r fun y => (x.deadStop = false → collMismatch e.form.sc ∈ y.ctx.due) ∧ y.entry? id = none)))

/-- R118 to R122, R290 to R292: a sluice command or an atomic whose page is reached, and whose turn at its bank it is, is applied
to memory once: the bytes written are those of its rule, and a reply waits; a reply is written into the scratchpad, counted in its semaphore, and ends the
entry. The integer rules are those of the tables of R119 and R291, and a replayed atomic answers what was recorded. -/
def Obligations.AppliedAtHome : Prop :=
  (∀ (r : RoomId) (id : Nat) (s : State) (x : Room) (e : XEntry), EntryIs s r id x e →
    (e.isSluice = true → e.status = .dispatched → e.fault = none → e.replay = none → s.heldNow e.heldBy = .free →
      s.staleRequest x e = none → s.bankTurn x e = true →
      ∀ u pa w pageVa size w0 secs l, s.translate x.core x.asid (e.aa % 2 ^ 52) .readWrite true = (u, .ok pa w pageVa size w0) →
        sectorsOf (e.aa % 2 ^ 52) (slCount e) (.ok pa w pageVa size w0) = some secs →
        secs.foldl (fun (o : Reach) y => match o with | .ok _ => u.reachPa y.2.2 y.2.1 1 .readWrite | z => z) (.ok []) = .ok l →
        (∀ y ∈ secs, ∀ p, placeOf y.2.2 y.2.1 = some p → u.bankHeld (bankOfPlace p) = false) →
        let places := secs.map fun y => (y.2.2, y.2.1)
        let v := u.request.discover places
        let e1 := { e with heldBy := none, again := false, home := places.head?.bind fun y => homeOf y.1 y.2 }
        (∀ y ∈ secs, v.gPoisoned y.2.2 y.2.1 = false) →
        let olds := secs.map fun y => v.gBytes y.2.2 y.2.1 32
        let out := (secs.zip olds).flatMap fun y => (slWrites e y.2).map fun b => (y.1.2.2, y.1.2.1 + b.1, b.2)
        exec (.sluiceApply r id) s = .next ((if out = [] then v.clockRequests x.agent places
          else v.gWrite x.agent (fun _ => 0) out).sluiceDone x e1 (slReply e olds))) ∧
    (e.isSluice = true → e.status = .applied →
      ∃ t, exec (.sluiceReply r id) s = .next t ∧ t.mem = s.mem ∧ CompletedIn r id e.form.ms x t ∧ RoomIs t r fun y =>
        y.scratch = Memory.putAll x.scratch (cellsAt (slAddr e + 32) e.payload)) ∧
    (e.isAmo = true → (e.status = .dispatched ∧ s.heldNow e.heldBy = .free ∧ s.staleRequest x e = none ∨ e.status = .applied) →
      e.fault = none → e.replay = none →
      ∀ u w pa l p, Reached s x (e.aa % 2 ^ 52) (amoSize e.form) .readWrite u ((w, pa) :: l) → placeOf w pa = some p →
        (∀ d, (u.atomicWindow (dieOfPlace p) e.source).find? (fun d => d.1 == e.seq) = some d →
          let e1 := { e with status := .applied, payload := toBytes (amoSize e.form) d.2, heldBy := none, home := homeOf w pa }
          exec (.atomicApply r id) s = .next ((u.clockRequests x.agent [(w, pa)]).setEntry x e1)) ∧
        (e.status = .dispatched → (u.atomicWindow (dieOfPlace p) e.source).find? (fun d => d.1 == e.seq) = none →
          olderThanWindow (u.atomicWindow (dieOfPlace p) e.source) e.seq = false → u.bankHeld (bankOfPlace p) = false →
          u.gPoisoned w pa = false →
          let n := amoSize e.form
          let m := u.gNat w pa n
          let v := amoValue e.op (e.form.fn.toNat % 8) m (e.ab % 2 ^ (8 * n)) (e.ac % 2 ^ (8 * n))
          exec (.atomicApply r id) s = .next (((u.gWrite x.agent (fun _ => 0)
            ((toBytes n v).zipIdx.map fun b => (w, pa + b.2, b.1))).recordAtomic (dieOfPlace p) e.source e.seq m).setEntry x
              { e with status := .applied, payload := toBytes n m, heldBy := none, home := homeOf w pa }))) ∧
    (e.isAmo = true → e.status = .applied →
      ∃ t, exec (.atomicReply r id) s = .next t ∧ t.mem = s.mem ∧ CompletedIn r id e.form.ms x t ∧ RoomIs t r fun y =>
        y.scratch = if e.form.fn.getLsbD 3 then Memory.putAll x.scratch (cellsAt e.sv e.payload) else x.scratch)) ∧
  (∀ row ∈ rmwRows, ∀ (f : XForm) (ty m v : Nat), ty ≤ 3 →
    slLaneValue (row.sluice f) ty m v = row.val (if ty = 2 then 64 else 32) m v ∧
    ∀ v2, amoValue (row.atomic f) ty m v v2 = row.val (if ty = 2 ∨ ty = 3 then 64 else 32) m v) ∧
  (∀ (f : XForm) (ty m v v2 : Nat), ty ≤ 3 →
    let n := if ty = 2 ∨ ty = 3 then 64 else 32
    let val (x : Nat) : Int := if ty = 0 ∨ ty = 2 then sext x n else x
    val (amoValue (.amoMin f) ty m v v2) = minI (val m) (val v) ∧ val (amoValue (.amoMax f) ty m v v2) = maxI (val m) (val v) ∧
    amoValue (.amoSwap f) ty m v v2 = v ∧ amoValue (.amoCas f) ty m v v2 = if m = v then v2 else m)

/-- R276 to R281, R274, R408: a card starts when its channel lets it, the shadow card takes its place when every earlier card of
the channel is performed, a served card does one unit more, or both values of a byte of a pair that it writes (R125), a card with every unit done is applied with the increments its
channel owes, and a refused request goes on after a fresh walk. -/
def Obligations.CardEvents : Prop :=
  (∀ (r : RoomId) (id : Nat) (s : State) (x : Room) (e : XEntry), EntryIs s r id x e →
    (x.starts = true → x.ctx.mayStart e = true → exec (.cardStart r id) s = .next (s.setEntry x { e with status := .started })) ∧
    (Served e → s.heldNow e.heldBy = .free → e.next < cardUnits (fromBytes e.card) →
      let one := endUnit x e (s.cardUnit x e (fromBytes e.card) e.next)
      ((∀ y e', one.room? r = some y → y.entry? id = some e' → e'.halfWritten = false) →
        exec (.bargeElementRequest r id) s = .next one) ∧
      (∀ y e', one.room? r = some y → y.entry? id = some e' → e'.halfWritten = true → Served e' → one.heldNow e'.heldBy = .free → e'.next < cardUnits (fromBytes e'.card) →
        exec (.bargeElementRequest r id) s = .next (endUnit y e' (one.cardUnit y e' (fromBytes e'.card) e'.next))) ∧
      ∀ t raised staged, s.cardUnit x e (fromBytes e.card) e.next = .done t raised staged → ∀ y e', t.room? r = some y →
        y.entry? id = some e' → RoomIs (endUnit x e (.done t raised staged)) r fun z => ∃ w, z.entry? id = some w ∧
          w.next = e'.next + 1 ∧ w.heldBy = none ∧ w.raised = e'.raised.merge raised ∧ w.staged = e'.staged ++ staged) ∧
    (Served e → cardUnits (fromBytes e.card) ≤ e.next → cKind (fromBytes e.card) ≠ 2 → e.raised = Raised.none →
      exec (.cardComplete r id) s = .next ((s.onRoom r fun z => { z with scratch := x.scratch }).onRoom r fun z =>
        (z.onEntry id fun w => { w with status := .applied, staged := [], reads := [], writes := [] }).drainChannel e.channel)) ∧
    (∀ gen, e.replay = some gen → e.fault = none → (∀ va ∈ s.requestVas x e, s.stillRefused x.asid va gen e.access = false) →
      ∃ t, exec (.requestReplay r id) s = .next t ∧ t.mem = s.mem ∧ RoomIs t r fun y =>
        ∃ w v, y.entry? id = some w ∧ w = { e with replay := none, via := v })) ∧
  (∀ (r : RoomId) (ch : BitVec 2) (s : State) (x : Room) (e : XEntry), s.room? r = some x → x.starts = true →
    x.ctx.xq.find? (fun e => e.isCard && e.channel == ch.toNat && e.shadow) = some e →
    (∀ y ∈ x.ctx.before e.id, y.isCard = true → y.channel = ch.toNat → y.status = .applied) →
    ∃ t, exec (.shadowCardSwap r ch) s = .next t ∧ t.mem = s.mem ∧ RoomIs t r fun y => ∃ w, y.entry? e.id = some w ∧ w.shadow = false)

/-- R101, R105, R357, R402, R403, R423, R424: the line or the code page that a held room waits for arrives and ends the hold; a
fill of code may evict pages of its core (log 23); a floor's walk is cached; a lockhouse answers a peer's request by its table; a peer's line serves the entry that waits. -/
def Obligations.FillEvents : Prop :=
  (∀ (r : RoomId) (s : State) (x : Room), s.room? r = some x →
    (∀ n line w u l, x.stop = .hold (.window n line) → x.window? n = some w →
      s.accessHeld x false (span52 (va52 (w.gva + 256 * line : Nat))) = false → x.owesFrom (w.base + 256 * line) 256 = false →
      Filled s x (.windowFill r) (va52 (w.gva + 256 * line : Nat)) 256 .read u l →
      ∃ t, exec (.windowFill r) s = .next t ∧ t.mem = u.mem ∧ RoomIs t r fun y => y.stop = .none ∧
        y.scratch = Memory.putAll x.scratch (cellsAt (w.base + 256 * line) (l.map fun p => u.gByte p.1 p.2)) ∧
        ∀ v ∈ y.windows, v.num = n → line ∈ v.resident) ∧
    (∀ line u l, x.stop = .hold (.overflow line) → s.accessHeld x false (span52 (x.overflowVa line)) = false →
      Filled s x (.atticOverflowFill r) (x.overflowVa line) 256 .read u l →
      ∃ t, exec (.atticOverflowFill r) s = .next t ∧ t.mem = u.mem ∧ RoomIs t r fun y => y.stop = .none ∧
        y.overflow = x.overflow ++ [{ num := line, bytes := l.map fun p => u.gByte p.1 p.2, dirty := false }] ∧
        y.scratch = x.scratch) ∧
    (∀ p o u l, x.stop = .hold (.codePage p) → s.load? x.loadH = some o → o.failed = false →
      Filled s x (.codePageFill r) (o.lb + 4096 * p) 4096 .fetch u l → o.pageHash[p]? = some (sha384 (l.map fun q => u.gByte q.1 q.2)) →
      ∃ t rest frame, exec (.codePageFill r) s = .next t ∧ t.mem = u.mem ∧ (RoomIs t r fun y => y.stop = .none) ∧
        (∀ y ∈ rest, y.core = x.core → y.frame ≠ frame) ∧
        t.pages = { core := x.core, load := o.handle, page := p, frame := frame
                    bundles := o.relocs.foldl (relocBundle o p) (bundlesOf (l.map fun q => u.gByte q.1 q.2)) } :: rest ∧
        rest.Sublist u.pages ∧ ∀ y ∈ u.pages, y.core ≠ x.core → y ∈ rest) ∧
    (∀ id e bs, x.entry? id = some e → id ≠ 0 → s.waitsForPeer x e = true →
      exec (.peerReadReply r id false false bs) s = .next (s.peerUnit x e bs)) ∧
    (∀ id e bs, x.entry? id = some e → id ≠ 0 → s.waitsForPeer x e = true →
      ∃ t, exec (.peerReadReply r id true false bs) s = .next t ∧ t.mem = s.mem ∧
        RoomIs t r fun y => (x.deadStop = false → peerDenied e.aux e.next ∈ y.ctx.due) ∧
          ∃ w, y.entry? id = some w ∧ w.fault = some (peerDenied e.aux e.next)) ∧
    (∀ id e bs, x.entry? id = some e → id ≠ 0 → s.waitsForPeer x e = true →
      exec (.peerReadReply r id false true bs) s = .next (s.askPeers (s.unitPlaces x e)))) ∧
  (∀ (s : State) floor asid va k pa w pageVa size w0, floor < 4 → s.walk asid (va % 2 ^ 52) k = .ok pa w pageVa size w0 →
    ∃ t, exec (.tableWalk floor asid va k) s = .next t ∧
      t.tlb.head? = some { floor := floor, asid := asid, va := pageVa, size := size, w0 := w0, w1 := w } ∧ t.mem = s.mem) ∧
  (∀ (s : State) port pid tile addr, (∃ p ∈ s.ports, p.num = port ∧ p.up = true ∧ p.pid = pid) →
    let what := peerRead tile addr
    (s.aclGrant port pid what = none → exec (.peerReadRequest port pid tile addr) s = .next
      { s.count (counterNo (5 + port) 0xFF 0x54) 1 with peerReplies := s.peerReplies ++ [(port, .denied)] }) ∧
    (∀ w pa, s.aclGrant port pid what = some (w, pa) → s.peerStale what w pa = true →
      ∃ t, exec (.peerReadRequest port pid tile addr) s = .next t ∧ t.mem = s.mem ∧ t.peerReplies = s.peerReplies ++ [(port, .stale)]) ∧
    (∀ w pa, s.aclGrant port pid what = some (w, pa) → s.peerStale what w pa = false →
      let u := s.request.discover [(w, pa)]
      u.gPoisoned w pa = false → ∃ t, exec (.peerReadRequest port pid tile addr) s = .next t ∧ t.mem = u.mem ∧
        t.peerReplies = s.peerReplies ++ [(port, .line (u.gBytes w pa 64))]))

/-! ### Teams (R15, R370 to R373, R376, R397) -/

/-- R15, R371 to R373, R370, R376, R397: in a round that is due the candidate's team is admitted under the map chosen, its rooms
on the cores of the map, each at its entry with zero registers but a0 and those that a preload writes; with no round due
nothing happens; a team whose rooms have halted with empty queues retires and its rooms go; a stopped team whose
rooms are quiet is saved and suspended; the dump at the head of the list is written and leaves it. -/
def Obligations.TeamEvents : Prop :=
  (∀ (s : State) (offered map : List Placing) tm cls p o, s.roundDue = true → s.current = some (tm, cls, p) → tm.state = .queued →
    s.absentPage tm = none → s.admissionMap tm offered = some map → s.reserved map = true → s.scheduleBad tm.launch map = false →
    s.load? tm.launch.loadH = some o → o.failed = false → (∀ x ∈ s.others, x.id.team ≠ tm.sub) →
    let u := State.admissionMeets (State.seatCores { s with pointers := modAt (fun _ => p) cls s.pointers } map) tm
    ∃ t, exec (.admissionRound offered) s = .next t ∧ t.mem = u.mem ∧ t.me = s.me ∧
      t.others = s.others ++ map.map fun q => u.newRoom tm o (seatOf map tm.launch.spsize q)) ∧
  (∀ (s : State) (offered map : List Placing) tm cls p, s.roundDue = true → s.current = some (tm, cls, p) → tm.state = .queued →
    s.absentPage tm = none → s.admissionMap tm offered = some map → s.reserved map = true → s.scheduleBad tm.launch map = true →
    ∃ t, exec (.admissionRound offered) s = .next t ∧ t.mem = s.mem ∧ t.rooms = s.rooms ∧
      (∀ v ∈ t.teams, v.sub = tm.sub → v.state = .cancelled) ∧
      ∀ g, s.ring = some g → g.free = true → g.lost = 0 → t.events = s.events ++ [.reject 0x07 tm.sub]) ∧
  (∀ (s : State) (offered : List Placing) tm cls p va, s.roundDue = true → s.current = some (tm, cls, p) →
    s.absentPage tm = some va → exec (.admissionRound offered) s = .next (State.post { s with roundDue := false } (.preloadWait tm.sub va))) ∧
  (∀ (s : State) (offered : List Placing), s.roundDue = false → exec (.admissionRound offered) s = .next s) ∧
  (∀ (s : State) tm o (q : Seat), let x := s.newRoom tm o q
    x.life = .running ∧ x.stop = .none ∧ x.core = q.core ∧ x.id.team = tm.sub ∧ x.id.lin = q.lin ∧
    x.ctx.pc = BitVec.ofNat 64 (o.lb + tm.variant.entry) ∧ x.ctx.s = Vector.replicate 64 0 ∧ x.ctx.m = Vector.replicate 64 0 ∧
    x.ctx.a[0] = BitVec.ofNat 64 tm.launch.argva ∧ (∀ i : Fin 16, i.val ≠ 0 → x.ctx.a[i] = 0) ∧ x.ctx.readG 0 = true ∧
    (∀ i : Fin 8, x.ctx.q[i] = Quire.clear) ∧ x.ctx.winb = 0 ∧ x.ctx.repc = 0 ∧ x.ctx.phase = 0 ∧ x.ctx.loops = [] ∧
    x.ctx.landings = [] ∧ x.ctx.xq = [] ∧ x.ctx.wait = .none ∧ x.tiles = [] ∧ x.sills = [[], [], [], []]) ∧
  (∀ (s : State) team tm, s.team? team = some tm → (tm.state = .admitted ∨ ∃ m, tm.state = .stopping m) →
    s.teamRooms team ≠ [] → (∀ x ∈ s.teamRooms team, x.life = .halted ∧ x.ctx.xq = []) →
    ∃ t, exec (.teamRetire team) s = .next t ∧ t.mem = s.mem ∧ (∃ u, t.team? team = some u ∧ u.state = .retired) ∧
      ((∀ d ∈ s.dumps, d.room.team ≠ team) → t.teamRooms team = [])) ∧
  (∀ (s : State) team tm m, s.team? team = some tm → tm.state = .stopping m → s.teamRooms team ≠ [] →
    (∀ d ∈ s.dumps, d.room.team ≠ team) →
    (∀ x ∈ s.teamRooms team, x.stoppedForSave = true ∧ s.roomQuiesced (s.spansFloors team) x = true) →
    (s.spansFloors team = true → ∀ x ∈ s.teamRooms team, ∀ e ∈ x.ctx.xq, isCollOp e.op = true → s.missingMembers x e = []) →
    ∀ u l, s.saveRooms tm m (s.teamRooms team) = (u, .made, l) →
    exec (.contextSave team) s = .next ((u.clearRooms team).onTeam team fun t =>
      { t with state := .suspended, saved := l, eligibleAt := some s.hall.tb })) ∧
  (∀ (s : State) d rest x, s.dumps = d :: rest → s.room? d.room = some x → x.life ≠ .ended → s.dumpHeld = false →
    exec .dumpComplete s = .next (State.post { (s.writeDump d x).1 with dumps := rest }
      (.dumpDone d.room (s.writeDump d x).2.1 (s.writeDump d x).2.2))) ∧
  (∀ (s : State) d rest, s.dumps = d :: rest → s.room? d.room = none → exec .dumpComplete s = .next { s with dumps := rest })

/-! ### Restows (R405, R407, R409) -/

/-- R405, R407, R409: the steps of a restow in their order, each from the step before: a line copied, the page closed, drained,
flipped with a shootdown, and done when that is; an uncorrectable line or a failed write aborts it, and an abort before the
flip removes the record. A shootdown is done when no request remains that left under an entry it dropped. -/
def Obligations.RestowEvents : Prop :=
  (∀ (s : State) id r, s.restow? id = some r →
    (r.step = .copy → r.p < r.lines → s.gPoisoned r.srcBerth (r.srcPa + 64 * r.p) = false →
      s.gFailing r.srcBerth (r.srcPa + 64 * r.p) = false → (placeOf r.dstBerth (r.dstPa + 64 * r.p)).isSome = true →
      (∃ t u, exec (.restowCopyLine id .clean true) s = .next t ∧ t.restow? id = some u ∧ u.p = r.p + 1 ∧ u.step = .copy ∧
        u.src = r.src ∧ t.tlb = s.tlb ∧ t.roots = s.roots) ∧
      exec (.restowCopyLine id .uncorrectable true) s = .next (s.abortRestow r 1 r.p) ∧
      exec (.restowCopyLine id .clean false) s = .next (s.abortRestow r 2 r.p)) ∧
    (r.step = .copy → r.lines ≤ r.p → ∃ t u, exec (.restowClose id) s = .next t ∧ t.restow? id = some u ∧
      u = { r with step := .closed } ∧ t.mem = s.mem) ∧
    (r.step = .closed → ∃ t u, exec (.restowDrainEnd id) s = .next t ∧ t.restow? id = some u ∧
      u = { r with step := .drained } ∧ t.mem = s.mem) ∧
    (r.step = .drained →
      (∀ asid va, r.src = .page asid va → ∃ t u, exec (.restowFlip id) s = .next t ∧ t.restow? id = some u ∧
        u = { r with step := .flipped } ∧ { id := r.id, asid := asid, range := some (va, r.size), old := s.cachedBy (tlbHit asid (some (va, r.size))) } ∈ t.shootdowns ∧
        (∀ e ∈ t.l1, tlbHit asid (some (va, r.size)) e.2 = false) ∧
        (∀ e ∈ t.tlb, tlbHit asid (some (va, r.size)) e = false) ∧
        ∀ e ∈ t.victims, tlbHit asid (some (va, r.size)) e.entry = false) ∧
      (∀ n w0 w1 ws, r.src = .handle n → s.handle? n = some (w0 :: w1 :: ws) → ∃ t u, exec (.restowFlip id) s = .next t ∧
        t.restow? id = some u ∧ u = { r with step := .flipped } ∧ t.mem = s.mem ∧
        { w := r.srcBerth, pa := r.srcPa, size := r.size } ∈ t.moved ∧
        t.handle? n = some ((w0 - bitsOf w0 47 0 + (r.dstPa + bitsOf w0 47 0 % 64)) :: r.dstBerth :: ws))) ∧
    (r.step = .flipped → (∀ x ∈ s.shootdowns, x.id ≠ id) →
      (∀ x ∈ s.rooms, x.heldBy.map Prod.fst ≠ some id ∧ ∀ e ∈ x.ctx.xq, e.heldBy.map Prod.fst ≠ some id) →
      exec (.restowDone id) s = .next (State.post { s with restows := s.restows.filter fun x => x.id != id }
        (.restowDone id r.srcPa))) ∧
    (r.step ≠ .flipped → ∀ reason line, reason = 1 ∧ line < r.p ∨ reason = 2 ∧ line < r.lines ∧ line ≤ r.p →
      let t := s.abortRestow r reason line
      exec (.restowAbort id (if reason = 2 then .destination line else .source line)) s = .next t ∧ t.restow? id = none ∧
      ∀ g, s.ring = some g → g.free = true → g.lost = 0 → t.events = s.events ++
        [.restowAbort id reason (if reason = 2 then r.dstPa + 64 * line else r.srcPa + 64 * line)])) ∧
  (∀ (s : State) id x, s.shootdowns.find? (fun y => y.id == id) = some x →
    (∀ y ∈ s.rooms, (∀ h, y.heldBy = some h → h.1 ≠ id) ∧ ∀ e ∈ y.ctx.xq, s.oldRequest x y e = false) →
    ∃ t, exec (.shootdownDone id) s = .next t ∧ t.mem = s.mem ∧ (∀ y ∈ t.shootdowns, y.id ≠ id) ∧
      t.l1 = s.l1.filter (fun e => !tlbHit x.asid x.range e.2) ∧ t.tlb = s.tlb.filter (fun e => !tlbHit x.asid x.range e) ∧
      t.victims = s.victims.filter fun v => !tlbHit x.asid x.range v.entry)

/-! ### The host and the fleet (R411 to R446) -/

/-- R411, R416 to R418, R422, R430 to R433: what the host does to memory windows under its rights: a read returns the bytes, a
write stores them, a write that no window grants is a NAK, and an atomic is applied once for its sequence number; the events that report lost
events, the counter trigger of a die, the writing of a trace record, and what is only counted. -/
def Obligations.HostEvents : Prop :=
  (∀ (s0 : State) qp psn key va, HostServes s0 qp →
    let s := withPair s0 qp
    (∀ len u l, s.hostReach (.rdmaRead qp psn key va len) key va len 0 .read = (u, .ok l) → (∀ p ∈ l, u.gPoisoned p.1 p.2 = false) →
      ∃ t, exec (.rdmaRead qp psn key va len) s0 = .next t ∧ t.mem = u.mem ∧
        t.rdma = s.rdma ++ [{ qp := qp, psn := psn, nak := false, bytes := l.map fun p => u.gByte p.1 p.2 }]) ∧
    (∀ data u l, s.hostReach (.rdmaWrite qp psn key va data) key va data.length 1 .write = (u, .ok l) →
      exec (.rdmaWrite qp psn key va data) s0 =
        .next ((u.gWrite 15 (fun _ => 0) ((l.zip data).map fun x => (x.1.1, x.1.2, x.2))).reply qp psn [])) ∧
    (∀ data, (∀ w ∈ s.windows, w.key = key → w.va ≤ va → va + data.length ≤ w.va + w.len → w.rights.getLsbD 1 = false) →
      ∃ t, exec (.rdmaWrite qp psn key va data) s0 = .next t ∧
      t.mem = s.mem ∧ t.rdma = s.rdma ++ [{ qp := qp, psn := psn, nak := true, bytes := [] }]) ∧
    (∀ (i : Instr) (f : Nat → Nat),
      (∃ v : DWord, i = .atomicFetchAndAdd qp psn key va v ∧ f = fun m => (m + v.toNat) % 2 ^ 64) ∨
      (∃ c v : DWord, i = .atomicCompareAndSwap qp psn key va c v ∧ f = fun m => if m = c.toNat then v.toNat else m) →
      (∀ x, s.rdmaAtomics.find? (fun x => x.1 == qp && x.2.1 == psn) = some x →
        exec i s0 = .next (s.reply qp psn (toBytes 8 x.2.2))) ∧
      (s.rdmaAtomics.find? (fun x => x.1 == qp && x.2.1 == psn) = none → va % 8 = 0 → ∀ u w pa l,
        s.hostReach i key va 8 2 .readWrite = (u, .ok ((w, pa) :: l)) → u.gPoisoned w pa = false →
        ∃ t, exec i s0 = .next t ∧ t.rdmaAtomics = (qp, psn, u.gNat w pa 8) :: s.rdmaAtomics ∧
          t.mem = (u.gWrite 15 (fun _ => 0) ((toBytes 8 (f (u.gNat w pa 8))).zipIdx.map fun b => (w, pa + b.2, b.1))).mem ∧
          t.rdma = s.rdma ++ [{ qp := qp, psn := psn, nak := false, bytes := toBytes 8 (u.gNat w pa 8) }]))) ∧
  (∀ (s : State) qp psn key va, s.mgmt.recovery = true → (∀ len, exec (.rdmaRead qp psn key va len) s = .next s) ∧
    (∀ data, exec (.rdmaWrite qp psn key va data) s = .next s) ∧ (∀ v, exec (.atomicFetchAndAdd qp psn key va v) s = .next s) ∧
    ∀ c v, exec (.atomicCompareAndSwap qp psn key va c v) s = .next s) ∧
  (∀ (s : State) r, s.ring = some r → 0 < r.lost → r.prod - r.cons < 2 ^ r.log2 →
    ∃ t, exec .evqOverflowEvent s = .next t ∧ t.events = s.events ++ [.overflow r.lost] ∧
      t.ring = some { r with lost := 0, prod := r.prod + 1 } ∧ t.mem = s.mem ∧
      t.ringWrites = s.ringWrites ++
        [{ qp := r.qp, rkey := r.rkey, addr := r.addr + 64 * (r.prod % 2 ^ r.log2), data := .record (.overflow r.lost) },
         { qp := r.qp, rkey := r.rkey, addr := r.addr + 64 * 2 ^ r.log2, data := .index (r.prod + 1) }]) ∧
  (∀ (s : State) die a, s.armed = some a → die ∈ a.late → (∀ x ∈ s.fired, x.1 ≠ die) →
    let now := s.fired ++ [(die, s.counters.filter fun c => c.1 / 2 ^ 16 == die)]
    (now.length ≠ 13 → exec (.counterTrigger die) s = .next { s with fired := now }) ∧
    (now.length = 13 → exec (.counterTrigger die) s =
      .next { s with shadow := some (a.t, now.flatMap Prod.snd), armed := none, fired := [] })) ∧
  (∀ (s : State) core tr rc left, s.trace = some tr → takeRecord core tr.pending = some (rc, left) →
    exec (.traceRecordWrite core false) s = .next (State.loseRecords { s with trace := some { tr with pending := left } } 1)) ∧
  (∀ (s : State) core tr rc left, s.trace = some tr → takeRecord core tr.pending = some (rc, left) → 32 ≤ tr.args.size →
    tr.pos + 32 ≤ tr.args.size ∨ tr.args.options.getLsbD 8 = true →
    let w := tr.args.berth.toNat
    let pa := tr.args.paBase + tr.pos % tr.args.size
    s.traceLineOk w pa = true → tierRangeOk w pa 32 = true →
    let s1 : State := { s with trace := some { tr with pending := left } }
    ∃ t, exec (.traceRecordWrite core true) s = .next t ∧ t.trace = some { tr with pending := left, pos := tr.pos + 32 } ∧
      t.mem = ((lineWrites ((rc.flatMap fun x => toBytes 8 x).zipIdx.map fun b => (w, pa + b.2, b.1))).foldl
        (fun s l => s.writeLine 0 l) s1).mem) ∧
  (∀ (s : State) (k : HostFrame), exec (.frameDropped k) s =
    .next (if k.etherType = ipv6EtherType then s else s.count (hallCounter 0x32) 1)) ∧
  (∀ (s : State) port ok pid, port < 8 → ∃ t p, exec (.lockhousePortLinkUp port ok pid) s = .next t ∧
    p.num = port ∧ p.pid = pid % 2 ^ 32 ∧ p.up = ok ∧ (ok = false → p.key = 0) ∧
    t = { s with ports := p :: s.ports.filter (fun p => p.num != port) })

/-- R98, R123, R427, R436 to R445: sessions, measurements and keys; power and cooling; reset and firmware; banks, scrub and
refresh. That a new record's cap holds from its acceptance is the model's choice (log 73). -/
def Obligations.FleetEvents : Prop :=
  (∀ (s : State) spdm cert, s.mgmt.recovery = false → s.sessions.length < 64 →
    ∃ t x, exec (.cmdsession spdm cert) s = .next t ∧ t.sessions = s.sessions ++ [x] ∧ x.num = s.mgmt.sessions + 1 ∧ x.e = 0 ∧
      x.replies = [] ∧ x.held = [] ∧ t.mem = s.mem) ∧
  (∀ (s : State) nonce, ∃ t l, exec (.getMeasurements nonce) s = .next t ∧ t.mgmt.measured = some (nonce, l) ∧
    t = { s with mgmt := { s.mgmt with measured := t.mgmt.measured } } ∧ l.length ≤ 6) ∧
  (∀ (s : State) n slot (key : BitVec 512), slot < 512 → (∃ x ∈ s.sessions, x.spdm = n ∧ x.may 1 = true) →
    exec (.keyload n slot key true) s =
      .next { s with mgmt := { s.mgmt with keyPending := assocSet s.mgmt.keyPending slot (2 ^ 512 + key.toNat) } }) ∧
  (∀ (s : State) slot x, s.mgmt.keyPending.find? (fun x => x.1 == slot) = some x →
    ∃ t, exec (.keyloadComplete slot) s = .next t ∧ t.mem.keys = assocSet s.mem.keys slot x.2 ∧ t.mem.cells = s.mem.cells ∧
      ∀ y ∈ t.mgmt.keyPending, y.1 ≠ slot) ∧
  (∀ (s : State) n, ∃ t, exec (.spdmSessionEnd n) s = .next t ∧ (∀ x ∈ t.sessions, x.spdm ≠ n) ∧
    (∀ x ∈ s.sessions, x.spdm ≠ n → x ∈ t.sessions) ∧ t.mem = s.mem) ∧
  (∀ (s : State) a b c, s.power.on = false → ∃ t, exec (.powerUp a b c) s = .next t ∧ t.power.on = true ∧ t.mem.cells = [] ∧
    t.rooms = [] ∧ t.hall.tb = 0 ∧ t.counters = [] ∧ t.events = s.events) ∧
  (∀ (s : State), ∃ t, exec .packageReset s = .next t ∧ t.hall.tb = 0 ∧ t.counters = [] ∧ t.rooms = [] ∧ t.tlb = [] ∧
    t.sessions = [] ∧ t.mem.cells = s.mem.cells ∧ t.mem.keys = [] ∧ t.mgmt.floor = s.mgmt.floor ∧ t.events = s.events) ∧
  (∀ (s : State), ∃ t, exec .thermalTrip s = .next t ∧ t.power.on = false ∧ t.mem.cells = [] ∧ t.rooms = [] ∧
    (∀ r, s.ring = some r → r.free = true → r.lost = 0 → t.events = s.events ++ [.thermalTrip])) ∧
  (∀ (s : State) w us h, s.power.allows w = true → s.power.holdH ≤ 48 →
    let l := w :: s.power.samples
    ∃ t, exec (.powerSample w us h) s = .next t ∧ t.mem = s.mem ∧ t.rooms = s.rooms ∧ t.power.holdH ≤ 48 ∧
    t.power.samples = l.take 100 ∧ (1500 < w → t.power.excursion = true) ∧
    (1500 < s.power.samples.headD 0 → t.power.holdH = 48) ∧
    (s.power.samples.headD 0 ≤ 1500 → 100 ≤ l.length → 100 * s.power.cap < (l.take 100).sum →
      1 ≤ t.power.holdH ∧ s.power.holdH ≤ t.power.holdH) ∧
    (s.power.samples.headD 0 ≤ 1500 → l.length < 100 ∨ (l.take 100).sum ≤ 100 * s.power.cap →
      t.power.holdH ≤ s.power.holdH)) ∧
  (∀ (s : State) w us h a b l, 1500 < w → 1500 < a → 1500 < b → s.power.samples = a :: b :: l →
    exec (.powerSample w us h) s = .next s) ∧
  (∀ (s : State), ∃ t, exec .thermalWarn s = .next t ∧ t.power.thermalWarn = true ∧ t.mem = s.mem ∧ t.rooms = s.rooms) ∧
  (∀ (s : State), ∃ t, exec .thermalWarnClear s = .next t ∧ t.power.thermalWarn = false ∧ t = { s with power := t.power }) ∧
  (∀ (s : State) (i : SignedImage), i.ecdsaOk = true → i.lmsOk = true → s.mgmt.floor ≤ i.version →
    ∃ t, exec (.firmwareUpdate i none) s = .next t ∧ (t.mgmt.slotA = some i ∨ t.mgmt.slotB = some i) ∧
      t.mgmt.running = s.mgmt.running ∧ t = { s with mgmt := t.mgmt }) ∧
  (∀ (s : State) (i : SignedImage) (c : ConfigRecord), c.image.ecdsaOk = true → c.image.lmsOk = true →
    ∃ t, exec (.firmwareUpdate i (some c)) s = .next t ∧ t.mgmt.record = some c ∧ t.mgmt.floor = max s.mgmt.floor c.floorVersion ∧
      t.power.capWatts = max 600 (min 1500 c.powerCapWatts) ∧ t = { s with mgmt := t.mgmt, power := t.power }) ∧
  (∀ (s : State) core bank k, s.core? core = some k → bank < 36 → bank ∉ k.failed →
    ∃ t k', exec (.bankHardFault core bank) s = .next t ∧ t.core? core = some k' ∧ k'.failed = bank :: k.failed ∧ t.mem = s.mem) ∧
  (∀ (s : State) core bank k, s.core? core = some k → bank ∈ k.failed →
    ∃ t k', exec (.bankSelfTestPass core bank) s = .next t ∧ t.core? core = some k' ∧ bank ∉ k'.failed ∧
      (∀ e ∈ k'.errors, e.2.2.1 ≠ bank) ∧ t = { s with cores := t.cores }) ∧
  (∀ (s : State) stack line, stack < 8 → line = s.scrubPos.getD stack 0 → stack * stackLines + line ∉ s.mem.poisoned →
    ∃ t, exec (.patrolScrub (some stack) line .uncorrectable) s = .next t ∧
      t.mem.poisoned = (stack * stackLines + line) :: s.mem.poisoned ∧ t.mem.cells = s.mem.cells) ∧
  (∀ (s : State) line, lpddrPlace / 64 + line ∉ s.mem.poisoned →
    ∃ t, exec (.patrolScrub none line .uncorrectable) s = .next t ∧
      t.mem.poisoned = (lpddrPlace / 64 + line) :: s.mem.poisoned ∧ t.mem.cells = s.mem.cells) ∧
  (∀ (s : State) stack line found, line ≠ s.scrubPos.getD stack 0 → exec (.patrolScrub (some stack) line found) s = .next s) ∧
  (∀ (s : State) bank, bank < 2 ^ 15 → (s.refreshOf bank).backOff = false →
    ∃ t, exec (.alertBackOff bank) s = .next t ∧ (t.refreshOf bank).backOff = true ∧ t.bankHeld bank = true ∧ t.mem = s.mem) ∧
  (∀ (s : State) bank, (s.refreshOf bank).owed < 8 →
    ∃ t, exec (.refreshDue bank false) s = .next t ∧ (t.refreshOf bank).owed = (s.refreshOf bank).owed + 1 ∧ t.mem = s.mem) ∧
  (∀ (s : State) bank, (s.refreshOf bank).backOff = true →
    ∃ t, exec (.refreshManagementDone bank) s = .next t ∧ (t.refreshOf bank).backOff = false ∧ t.mem = s.mem ∧
      ((s.refreshOf bank).owed ≤ 8 → (t.refreshOf bank).owed < 8))

/-- R419, R420, R425, R426, R44: beats are accepted in sequence, four of a plane make up a flit, and they are dropped from the
replay buffer when acknowledged; a timeout resends, a timing frame with a new stamp, and after sixteen retrains; timing frames carry
TB over the link or its spare, on plane 0 (log 84); the servo locks after sixteen good intervals in a row and then removes the offset,
with every copy of TB, by a step forward or by holding still; beyond its bound and after four missed intervals the lock is lost, and
with it ALIGNED on every core of the package. Which estimate a frame gives and that no offset is removed before LOCK is log 72's. -/
def Obligations.LinkAndTimeEvents : Prop :=
  (∀ (s : State) n l, s.link? n = some l →
    let stamped := l.replay.map fun b => { b with stamp := b.stamp.map fun _ => l.tb }
    (∀ (f : BeatFrame), f.crcOk = true → l.retraining = false → ∃ t u, exec (.beatFrameReceive n f) s = .next t ∧
      t.link? n = some u ∧ t = { s with links := t.links } ∧
      (f.seq = l.expect → u.expect = (l.expect + 1) % 65536) ∧
      (f.seq = l.expect → f.stamp = none →
        let got := l.accepted ++ [(f.plane, f.payload)]
        let mine := got.filter fun b => b.1 == f.plane
        (mine.length < 4 → u.accepted = got ∧ u.flits = l.flits) ∧
        (4 ≤ mine.length → u.accepted = (got.filter fun b => b.1 != f.plane) ∧
          u.flits = l.flits ++ [(f.plane, mine.flatMap Prod.snd)])) ∧
      (f.stamp ≠ none → u.accepted = l.accepted ∧ u.flits = l.flits) ∧
      (f.seq ≠ l.expect → u.expect = l.expect ∧ u.accepted = l.accepted ∧ u.flits = l.flits) ∧
      (∀ pre b post, l.replay = pre ++ b :: post → b.seq = f.ack → (∀ x ∈ pre, x.seq ≠ f.ack) → u.replay = post) ∧
      ((∀ x ∈ l.replay, x.seq ≠ f.ack) → u.replay = l.replay)) ∧
    (∀ (f : BeatFrame), f.crcOk = false → exec (.beatFrameReceive n f) s = .next s) ∧
    (l.retraining = false → l.replay ≠ [] → l.resends < 16 → ∃ t u, exec (.beatResendTimeout n) s = .next t ∧
      t.link? n = some u ∧ u = { l with replay := stamped, resends := l.resends + 1 }) ∧
    (l.retraining = false → l.replay ≠ [] → 16 ≤ l.resends → ∃ t u, exec (.beatResendTimeout n) s = .next t ∧
      t.link? n = some u ∧ u = { l with retraining := true, resends := 0, retrainSince := l.tb }) ∧
    (l.retraining = false → ∃ t u, exec (.linkRetrain n) s = .next t ∧ t.link? n = some u ∧
      u = { l with retraining := true, resends := 0, retrainSince := l.tb }) ∧
    (∃ t u, exec (.linkRetrainDone n) s = .next t ∧ t.link? n = some u ∧
      u = { l with replay := stamped, retraining := false, resends := 0 } ∧ t = { s with links := t.links }) ∧
    ((∀ v, l.lastStamp = some v → v + 2 ^ 36 ≤ l.tb) →
      (l.retraining = false → l.replay.length < 2048 →
        ∃ t u, exec (.timingFrameSend n) s = .next t ∧ t.link? n = some u ∧ t = { s with links := t.links } ∧ u = { l with
          replay := l.replay ++ [{ seq := l.sendSeq, plane := 0, stamp := some l.tb, payload := [] }]
          sendSeq := (l.sendSeq + 1) % 65536, lastStamp := some l.tb }) ∧
      (∀ c, l.retraining = true → s.carrier n = some c → c.replay.length < 2048 →
        ∃ t u, exec (.timingFrameSend n) s = .next t ∧ t.link? c.num = some u ∧ t = { s with links := t.links } ∧
          u.replay = c.replay ++ [{ seq := c.sendSeq, plane := 0, stamp := some l.tb, payload := [] }])) ∧
    (∀ root stamp (f : BeatFrame), l.retraining = false → f.crcOk = true → f.seq = l.expect → f.stamp = some stamp →
      s.hall.root = some root → root ≠ s.routing.self → s.routing.joins root = true →
      let s1 := s.onLink n fun l => l.receive f
      let s2 : State := { s1 with hall := { s.hall with rootPath := true } }
      exec (.timingFrameReceive n f) s = .next
        (State.servo (if s.hall.rootPath then s2 else s2.loseLock) 4 6 s.hall.missedFrames (l.offset stamp)))) ∧
  (∀ (s : State) (y : PtpSync),
    (s.followsLinks = false → s.ptpDomainIs y.domain = true → exec (.ptpSync y) s = .next (s.servo 20 40 y.missed y.estimate)) ∧
    (s.followsLinks = true ∨ s.ptpDomainIs y.domain = false → exec (.ptpSync y) s = .next s)) ∧
  (∀ (s : State), s.followsLinks = false ∨ s.hall.lastSync + 4 * 2 ^ 36 ≤ s.hall.tb →
    ∃ t, exec .ptpSyncTimeout s = .next t ∧ t.hall.lock = false ∧
    (∀ k ∈ t.cores, pkgOf k.num = 0 → k.aligned = false) ∧ t.hall.tb = s.hall.tb) ∧
  (∀ (s : State), s.followsLinks = true → s.rootLost = true → ∃ t, exec .rootPathLoss s = .next t ∧ t.hall.lock = false ∧
    t.hall.rootPath = false ∧ (∀ k ∈ t.cores, pkgOf k.num = 0 → k.aligned = false) ∧ t.hall.tb = s.hall.tb) ∧
  (∀ (s : State), s.rootLost = false → exec .rootPathLoss s = .next s) ∧
  (∀ (s : State) lim lose missed (est : Int), let t := s.servo lim lose missed est
    let good := if est.natAbs ≤ lim then min 16 ((if missed = 0 then s.hall.goodSyncs else 0) + 1) else 0
    t.hall.rate ≤ 3 ∧ -3 ≤ t.hall.rate ∧ s.hall.tb ≤ t.hall.tb ∧ t.hall.lastSync = s.hall.tb ∧
    (t.hall.goodSyncs = good ∨ (s.hall.lock = true ∧ lose < est.natAbs)) ∧
    (s.hall.lock = false → (t.hall.lock = true ↔ good = 16)) ∧
    (s.hall.lock = true ∧ lose < est.natAbs ∨ 4 ≤ missed → t.hall.lock = false ∧
      ∀ k ∈ t.cores, pkgOf k.num = 0 → k.aligned = false) ∧
    (s.hall.lock = false → good = 16 → est < 0 → t.hall.tb = s.hall.tb + est.natAbs * 2 ^ 16 ∧
      t.cores = (s.cores.map fun k => { k with tb := k.tb + est.natAbs * 2 ^ 16 }) ∧
      t.lockTb = s.lockTb.map (· + est.natAbs * 2 ^ 16) ∧
      t.links = s.links.map fun l => { l with tb := l.tb + est.natAbs * 2 ^ 16 }) ∧
    (s.hall.lock = false → good = 16 → 0 ≤ est → t.hall.tb = s.hall.tb ∧
      t.hall.hold = s.hall.hold + est.natAbs * 2 ^ 16 ∧ t.cores = s.cores) ∧
    (good < 16 → t.hall.tb = s.hall.tb ∧ t.hall.hold = s.hall.hold ∧ t.cores.map Core.tb = s.cores.map Core.tb) ∧
    (s.hall.lock = true → missed < 4 → est.natAbs ≤ lose → t.hall.lock = true ∧ t.hall.tb = s.hall.tb ∧ t.cores = s.cores))
end

