-- ==== Sys2Proof/Laws/Memory.lean ====
section
/-! SUPPORT. The laws of byte stores: a read after a write, and that every operation that writes a store keeps its
canonical form. -/

namespace Sys2Proof.Laws

open Sys2Proof.Machine

/-! ### One byte -/

theorem wfFrom_mono {lo hi : Nat} {m : List Host.Cell} (h : Memory.wfFrom hi m = true) (hl : lo ≤ hi) :
    Memory.wfFrom lo m = true := by
  cases m with
  | nil => rfl
  | cons c m =>
    simp only [Memory.wfFrom, Bool.and_eq_true, decide_eq_true_eq] at h ⊢
    exact ⟨⟨by omega, h.1.2⟩, h.2⟩

theorem wfFrom_cons {lo b : Nat} {w : Byte} {m : List Host.Cell} :
    Memory.wfFrom lo ((b, w) :: m) = true ↔ lo ≤ b ∧ w ≠ 0 ∧ Memory.wfFrom (b + 1) m = true := by
  simp only [Memory.wfFrom, Bool.and_eq_true, decide_eq_true_eq, bne_iff_ne, and_assoc]

theorem wfFrom_put {lo a : Nat} (v : Byte) {m : List Host.Cell} (h : Memory.wfFrom lo m = true) (hl : lo ≤ a) :
    Memory.wfFrom lo (Memory.put m a v) = true := by
  induction m generalizing lo with
  | nil =>
    unfold Memory.put
    split
    · rfl
    · exact wfFrom_cons.2 ⟨hl, ‹_›, rfl⟩
  | cons c m ih =>
    obtain ⟨b, w⟩ := c
    obtain ⟨hb, hw, hm⟩ := wfFrom_cons.1 h
    unfold Memory.put
    split
    · split
      · exact wfFrom_cons.2 ⟨hb, hw, hm⟩
      · exact wfFrom_cons.2 ⟨hl, ‹_›, wfFrom_cons.2 ⟨by omega, hw, hm⟩⟩
    · split
      · rename_i he
        subst he
        split
        · exact wfFrom_mono hm (by omega)
        · exact wfFrom_cons.2 ⟨hl, ‹_›, hm⟩
      · exact wfFrom_cons.2 ⟨hb, hw, ih hm (by omega)⟩

/-- Writing a byte keeps the canonical form. -/
theorem wf_put {m : List Host.Cell} (a : Nat) (v : Byte) (h : Memory.wf m = true) : Memory.wf (Memory.put m a v) = true :=
  wfFrom_put v h (Nat.zero_le a)

/-- Writing any bytes keeps the canonical form. -/
theorem wf_putAll (cells : List Host.Cell) {m : List Host.Cell} (h : Memory.wf m = true) :
    Memory.wf (Memory.putAll m cells) = true := by
  induction cells generalizing m with
  | nil => exact h
  | cons c cells ih => exact ih (wf_put c.1 c.2 h)

theorem get_below {lo a : Nat} {m : List Host.Cell} (h : Memory.wfFrom lo m = true) (ha : a < lo) : Memory.get m a = 0 := by
  induction m generalizing lo with
  | nil => rfl
  | cons c m ih =>
    obtain ⟨b, w⟩ := c
    simp only [Memory.wfFrom, Bool.and_eq_true, decide_eq_true_eq] at h
    obtain ⟨⟨hb, -⟩, hm⟩ := h
    have : b ≠ a := by omega
    simp [Memory.get, this, ih hm (by omega)]

/-- A byte written is read back. -/
theorem get_put_same {lo : Nat} {m : List Host.Cell} (a : Nat) (v : Byte) (h : Memory.wfFrom lo m = true) :
    Memory.get (Memory.put m a v) a = v := by
  induction m generalizing lo with
  | nil =>
    unfold Memory.put
    split
    · rename_i hv; exact hv.symm
    · exact if_pos rfl
  | cons c m ih =>
    obtain ⟨b, w⟩ := c
    simp only [Memory.wfFrom, Bool.and_eq_true, decide_eq_true_eq] at h
    obtain ⟨-, hm⟩ := h
    unfold Memory.put
    split
    · rename_i hab
      split
      · rename_i hv
        have : b ≠ a := by omega
        simp [Memory.get, this, hv, get_below hm (by omega : a < b + 1)]
      · simp [Memory.get]
    · split
      · rename_i he
        subst he
        split
        · rename_i hv
          rw [hv, get_below hm (by omega)]
        · simp [Memory.get]
      · rename_i hab hne
        have : b ≠ a := fun e => hne e.symm
        simp [Memory.get, this, ih hm]

/-- A byte written leaves every other address alone. -/
theorem get_put_other (m : List Host.Cell) {a x : Nat} (v : Byte) (h : x ≠ a) :
    Memory.get (Memory.put m a v) x = Memory.get m x := by
  have h' : a ≠ x := fun e => h e.symm
  induction m with
  | nil =>
    unfold Memory.put
    split
    · rfl
    · exact if_neg h'
  | cons c m ih =>
    obtain ⟨b, w⟩ := c
    unfold Memory.put
    split
    · split <;> simp [Memory.get, h']
    · split
      · rename_i he
        subst he
        split <;> simp [Memory.get, h']
      · simp [Memory.get, ih]

/-- Bytes written leave every address that is not among them alone. -/
theorem get_putAll_other (cells : List Host.Cell) (m : List Host.Cell) {x : Nat} (h : ∀ c ∈ cells, c.1 ≠ x) :
    Memory.get (Memory.putAll m cells) x = Memory.get m x := by
  induction cells generalizing m with
  | nil => rfl
  | cons c cells ih =>
    have := ih (Memory.put m c.1 c.2) fun d hd => h d (List.mem_cons_of_mem _ hd)
    rw [← get_put_other m c.2 (h c List.mem_cons_self).symm]
    exact this

theorem mem_cellsAt {a : Nat} {bs : List Byte} {c : Host.Cell} (h : c ∈ cellsAt a bs) : a ≤ c.1 ∧ c.1 < a + bs.length := by
  induction bs generalizing a with
  | nil => simp [cellsAt] at h
  | cons b bs ih =>
    simp only [cellsAt, List.mem_cons] at h
    rcases h with rfl | h
    · simp
    · have := ih h
      simp only [List.length_cons]; omega

/-- A run of bytes written at an address is read back byte by byte. -/
theorem get_cellsAt {m : List Host.Cell} (a : Nat) (bs : List Byte) (hm : Memory.wf m = true) (i : Nat) (h : i < bs.length) :
    Memory.get (Memory.putAll m (cellsAt a bs)) (a + i) = bs[i] := by
  induction bs generalizing m a i with
  | nil => simp at h
  | cons b bs ih =>
    show Memory.get (Memory.putAll (Memory.put m a b) (cellsAt (a + 1) bs)) (a + i) = _
    cases i with
    | zero =>
      rw [get_putAll_other]
      · exact get_put_same a b hm
      · intro c hc; have := mem_cellsAt hc; omega
    | succ i =>
      have := ih (a + 1) (wf_put a b hm) i (by simpa using h)
      rw [show a + (i + 1) = a + 1 + i by omega, this]; rfl

/-! ### Global memory (R106) -/

theorem storeLine_wf {m : GlobalMem} (mat : Nat × Nat) (line : Nat) (cells : List Host.Cell) (h : Memory.wf m.cells = true) :
    Memory.wf (m.storeLine mat line cells).cells = true := wf_putAll _ (wf_putAll _ h)

theorem storeAt_wf {s : State} (l : LineWrite) (h : Memory.wf s.mem.cells = true) :
    Memory.wf (s.storeAt l).mem.cells = true := by
  unfold State.storeAt
  split
  · exact storeLine_wf _ _ _ h
  · exact h

theorem foldl_storeAt_wf (ls : List LineWrite) {s : State} (h : Memory.wf s.mem.cells = true) :
    Memory.wf (ls.foldl State.storeAt s).mem.cells = true := by
  induction ls generalizing s with
  | nil => exact h
  | cons l ls ih => exact ih (storeAt_wf l h)

theorem count_mem_eq (s : State) (n k : Nat) : (s.count n k).mem = s.mem := by unfold State.count; split <;> rfl

@[simp] theorem freshLine_cells (s : State) (line : Nat) : (s.freshLine line).mem.cells = s.mem.cells := rfl

theorem poisonPlace_cells (s : State) (line : Nat) : (s.poisonPlace line).mem.cells = s.mem.cells := by
  unfold State.poisonPlace State.countLine
  split
  · rfl
  · rw [count_mem_eq]

theorem post_mem_eq (s : State) (e : Event) : (s.post e).mem = s.mem := by
  have h : s.postLost.mem = s.mem := by
    unfold State.postLost
    repeat' (first | rfl | split)
  unfold State.post
  dsimp only
  split
  · rw [count_mem_eq, h]
  · split
    · exact h
    · exact (count_mem_eq _ _ _).trans h

/-- An abort may put back bytes of the destination, and poisons a line. -/
theorem abortRestow_wf {s : State} (r : Restow) (reason i : Nat) (h : Memory.wf s.mem.cells = true) :
    Memory.wf (s.abortRestow r reason i).mem.cells = true := by
  have h1 : Memory.wf (s.freeDestination r).mem.cells = true := foldl_storeAt_wf _ h
  have h2 : Memory.wf (if reason = 1 then (s.freeDestination r).poisonLine r.srcBerth (r.srcPa + 64 * i)
      else s.freeDestination r).mem.cells = true := by
    split
    · unfold State.poisonLine
      split
      · rw [poisonPlace_cells]; exact h1
      · exact h1
    · exact h1
  unfold State.abortRestow State.wakeHeld
  dsimp only
  rw [post_mem_eq]
  exact h2

theorem mirrorLine_wf {s : State} (w pa : Nat) (h : Memory.wf s.mem.cells = true) :
    Memory.wf (s.mirrorLine w pa).mem.cells = true := by
  unfold State.mirrorLine
  split
  · dsimp only
    split
    · exact h
    · split
      · exact abortRestow_wf _ _ _ h
      · exact storeAt_wf _ h
  · exact h

theorem writeLine_wf {s : State} (cover : Nat) (l : LineWrite) (h : Memory.wf s.mem.cells = true) :
    Memory.wf (s.writeLine cover l).mem.cells = true := by
  unfold State.writeLine
  split
  · exact h
  · dsimp only
    split
    · split
      · exact mirrorLine_wf _ _ (storeAt_wf l h)
      · split
        · exact storeAt_wf l h
        · rw [count_mem_eq]; exact h
    · apply mirrorLine_wf
      split <;> exact storeAt_wf l h

/-- A write of global memory keeps its canonical form. -/
theorem gWrite_wf {s : State} (agent : Nat) (cover : Nat → Nat) (bytes : List (Nat × Nat × Byte))
    (h : Memory.wf s.mem.cells = true) : Memory.wf (s.gWrite agent cover bytes).mem.cells = true := by
  unfold State.gWrite
  generalize lineWrites bytes = ls
  induction ls generalizing s with
  | nil => exact h
  | cons l ls ih =>
    apply ih
    apply writeLine_wf
    split <;> exact h

end Sys2Proof.Laws
end

