-- ==== Sys2Proof/Laws/State.lean ====
section
/-! SUPPORT. What the named updates of the state and of a room leave alone, field by field, and what they write. -/

namespace Sys2Proof.Machine

/-! ### `State.count` -/

@[simp] theorem State.count_me (s : State) (n k : Nat) : (s.count n k).me = s.me := by unfold State.count; split <;> rfl
@[simp] theorem State.count_others (s : State) (n k : Nat) : (s.count n k).others = s.others := by unfold State.count; split <;> rfl
@[simp] theorem State.count_agenda (s : State) (n k : Nat) : (s.count n k).agenda = s.agenda := by unfold State.count; split <;> rfl
@[simp] theorem State.count_queue (s : State) (n k : Nat) : (s.count n k).queue = s.queue := by unfold State.count; split <;> rfl
@[simp] theorem State.count_cores (s : State) (n k : Nat) : (s.count n k).cores = s.cores := by unfold State.count; split <;> rfl
@[simp] theorem State.count_mem (s : State) (n k : Nat) : (s.count n k).mem = s.mem := by unfold State.count; split <;> rfl
@[simp] theorem State.count_pages (s : State) (n k : Nat) : (s.count n k).pages = s.pages := by unfold State.count; split <;> rfl
@[simp] theorem State.count_loads (s : State) (n k : Nat) : (s.count n k).loads = s.loads := by unfold State.count; split <;> rfl
@[simp] theorem State.count_teams (s : State) (n k : Nat) : (s.count n k).teams = s.teams := by unfold State.count; split <;> rfl
@[simp] theorem State.count_kinds (s : State) (n k : Nat) : (s.count n k).kinds = s.kinds := by unfold State.count; split <;> rfl
@[simp] theorem State.count_roots (s : State) (n k : Nat) : (s.count n k).roots = s.roots := by unfold State.count; split <;> rfl
@[simp] theorem State.count_tlb (s : State) (n k : Nat) : (s.count n k).tlb = s.tlb := by unfold State.count; split <;> rfl
@[simp] theorem State.count_handles (s : State) (n k : Nat) : (s.count n k).handles = s.handles := by unfold State.count; split <;> rfl
@[simp] theorem State.count_restows (s : State) (n k : Nat) : (s.count n k).restows = s.restows := by unfold State.count; split <;> rfl
@[simp] theorem State.count_shootdowns (s : State) (n k : Nat) : (s.count n k).shootdowns = s.shootdowns := by unfold State.count; split <;> rfl
@[simp] theorem State.count_sessions (s : State) (n k : Nat) : (s.count n k).sessions = s.sessions := by unfold State.count; split <;> rfl
@[simp] theorem State.count_events (s : State) (n k : Nat) : (s.count n k).events = s.events := by unfold State.count; split <;> rfl
@[simp] theorem State.count_hall (s : State) (n k : Nat) : (s.count n k).hall = s.hall := by unfold State.count; split <;> rfl
@[simp] theorem State.count_trace (s : State) (n k : Nat) : (s.count n k).trace = s.trace := by unfold State.count; split <;> rfl
@[simp] theorem State.count_dumps (s : State) (n k : Nat) : (s.count n k).dumps = s.dumps := by unfold State.count; split <;> rfl
@[simp] theorem State.count_power (s : State) (n k : Nat) : (s.count n k).power = s.power := by unfold State.count; split <;> rfl
@[simp] theorem State.count_mgmt (s : State) (n k : Nat) : (s.count n k).mgmt = s.mgmt := by unfold State.count; split <;> rfl
@[simp] theorem State.count_free (s : State) (n k : Nat) : (s.count n k).free = s.free := by unfold State.count; split <;> rfl
@[simp] theorem State.count_nextHandle (s : State) (n k : Nat) : (s.count n k).nextHandle = s.nextHandle := by unfold State.count; split <;> rfl
@[simp] theorem State.count_basins (s : State) (n k : Nat) : (s.count n k).basins = s.basins := by unfold State.count; split <;> rfl
@[simp] theorem State.count_pointers (s : State) (n k : Nat) : (s.count n k).pointers = s.pointers := by unfold State.count; split <;> rfl
@[simp] theorem State.count_nextSub (s : State) (n k : Nat) : (s.count n k).nextSub = s.nextSub := by unfold State.count; split <;> rfl
@[simp] theorem State.count_roundDue (s : State) (n k : Nat) : (s.count n k).roundDue = s.roundDue := by unfold State.count; split <;> rfl
@[simp] theorem State.count_victims (s : State) (n k : Nat) : (s.count n k).victims = s.victims := by unfold State.count; split <;> rfl
@[simp] theorem State.count_oldHandles (s : State) (n k : Nat) : (s.count n k).oldHandles = s.oldHandles := by unfold State.count; split <;> rfl
@[simp] theorem State.count_held (s : State) (n k : Nat) : (s.count n k).held = s.held := by unfold State.count; split <;> rfl
@[simp] theorem State.count_moved (s : State) (n k : Nat) : (s.count n k).moved = s.moved := by unfold State.count; split <;> rfl
@[simp] theorem State.count_nextId (s : State) (n k : Nat) : (s.count n k).nextId = s.nextId := by unfold State.count; split <;> rfl
@[simp] theorem State.count_atomics (s : State) (n k : Nat) : (s.count n k).atomics = s.atomics := by unfold State.count; split <;> rfl
@[simp] theorem State.count_refresh (s : State) (n k : Nat) : (s.count n k).refresh = s.refresh := by unfold State.count; split <;> rfl
@[simp] theorem State.count_clocks (s : State) (n k : Nat) : (s.count n k).clocks = s.clocks := by unfold State.count; split <;> rfl
@[simp] theorem State.count_sent (s : State) (n k : Nat) : (s.count n k).sent = s.sent := by unfold State.count; split <;> rfl
@[simp] theorem State.count_ring (s : State) (n k : Nat) : (s.count n k).ring = s.ring := by unfold State.count; split <;> rfl
@[simp] theorem State.count_ringWrites (s : State) (n k : Nat) : (s.count n k).ringWrites = s.ringWrites := by unfold State.count; split <;> rfl
@[simp] theorem State.count_windows (s : State) (n k : Nat) : (s.count n k).windows = s.windows := by unfold State.count; split <;> rfl
@[simp] theorem State.count_rdma (s : State) (n k : Nat) : (s.count n k).rdma = s.rdma := by unfold State.count; split <;> rfl
@[simp] theorem State.count_qps (s : State) (n k : Nat) : (s.count n k).qps = s.qps := by unfold State.count; split <;> rfl
@[simp] theorem State.count_hostWaits (s : State) (n k : Nat) : (s.count n k).hostWaits = s.hostWaits := by unfold State.count; split <;> rfl
@[simp] theorem State.count_rdmaAtomics (s : State) (n k : Nat) : (s.count n k).rdmaAtomics = s.rdmaAtomics := by unfold State.count; split <;> rfl
@[simp] theorem State.count_acl (s : State) (n k : Nat) : (s.count n k).acl = s.acl := by unfold State.count; split <;> rfl
@[simp] theorem State.count_ports (s : State) (n k : Nat) : (s.count n k).ports = s.ports := by unfold State.count; split <;> rfl
@[simp] theorem State.count_peerReplies (s : State) (n k : Nat) : (s.count n k).peerReplies = s.peerReplies := by unfold State.count; split <;> rfl
@[simp] theorem State.count_peerAsks (s : State) (n k : Nat) : (s.count n k).peerAsks = s.peerAsks := by unfold State.count; split <;> rfl
@[simp] theorem State.count_links (s : State) (n k : Nat) : (s.count n k).links = s.links := by unfold State.count; split <;> rfl
@[simp] theorem State.count_routing (s : State) (n k : Nat) : (s.count n k).routing = s.routing := by unfold State.count; split <;> rfl
@[simp] theorem State.count_lockTb (s : State) (n k : Nat) : (s.count n k).lockTb = s.lockTb := by unfold State.count; split <;> rfl
@[simp] theorem State.count_armed (s : State) (n k : Nat) : (s.count n k).armed = s.armed := by unfold State.count; split <;> rfl
@[simp] theorem State.count_fired (s : State) (n k : Nat) : (s.count n k).fired = s.fired := by unfold State.count; split <;> rfl
@[simp] theorem State.count_scrubPos (s : State) (n k : Nat) : (s.count n k).scrubPos = s.scrubPos := by unfold State.count; split <;> rfl
@[simp] theorem State.count_errLast (s : State) (n k : Nat) : (s.count n k).errLast = s.errLast := by unfold State.count; split <;> rfl
@[simp] theorem State.count_errSeen (s : State) (n k : Nat) : (s.count n k).errSeen = s.errSeen := by unfold State.count; split <;> rfl
@[simp] theorem State.count_shadow (s : State) (n k : Nat) : (s.count n k).shadow = s.shadow := by unfold State.count; split <;> rfl
@[simp] theorem State.count_dumpArea (s : State) (n k : Nat) : (s.count n k).dumpArea = s.dumpArea := by unfold State.count; split <;> rfl

/-! ### `State.clockMsg` -/

@[simp] theorem State.clockMsg_me (s : State) (a b : Nat) : (s.clockMsg a b).me = s.me := rfl
@[simp] theorem State.clockMsg_others (s : State) (a b : Nat) : (s.clockMsg a b).others = s.others := rfl
@[simp] theorem State.clockMsg_agenda (s : State) (a b : Nat) : (s.clockMsg a b).agenda = s.agenda := rfl
@[simp] theorem State.clockMsg_queue (s : State) (a b : Nat) : (s.clockMsg a b).queue = s.queue := rfl
@[simp] theorem State.clockMsg_cores (s : State) (a b : Nat) : (s.clockMsg a b).cores = s.cores := rfl
@[simp] theorem State.clockMsg_mem (s : State) (a b : Nat) : (s.clockMsg a b).mem = s.mem := rfl
@[simp] theorem State.clockMsg_pages (s : State) (a b : Nat) : (s.clockMsg a b).pages = s.pages := rfl
@[simp] theorem State.clockMsg_loads (s : State) (a b : Nat) : (s.clockMsg a b).loads = s.loads := rfl
@[simp] theorem State.clockMsg_teams (s : State) (a b : Nat) : (s.clockMsg a b).teams = s.teams := rfl
@[simp] theorem State.clockMsg_kinds (s : State) (a b : Nat) : (s.clockMsg a b).kinds = s.kinds := rfl
@[simp] theorem State.clockMsg_roots (s : State) (a b : Nat) : (s.clockMsg a b).roots = s.roots := rfl
@[simp] theorem State.clockMsg_tlb (s : State) (a b : Nat) : (s.clockMsg a b).tlb = s.tlb := rfl
@[simp] theorem State.clockMsg_handles (s : State) (a b : Nat) : (s.clockMsg a b).handles = s.handles := rfl
@[simp] theorem State.clockMsg_restows (s : State) (a b : Nat) : (s.clockMsg a b).restows = s.restows := rfl
@[simp] theorem State.clockMsg_shootdowns (s : State) (a b : Nat) : (s.clockMsg a b).shootdowns = s.shootdowns := rfl
@[simp] theorem State.clockMsg_sessions (s : State) (a b : Nat) : (s.clockMsg a b).sessions = s.sessions := rfl
@[simp] theorem State.clockMsg_events (s : State) (a b : Nat) : (s.clockMsg a b).events = s.events := rfl
@[simp] theorem State.clockMsg_hall (s : State) (a b : Nat) : (s.clockMsg a b).hall = s.hall := rfl
@[simp] theorem State.clockMsg_counters (s : State) (a b : Nat) : (s.clockMsg a b).counters = s.counters := rfl
@[simp] theorem State.clockMsg_trace (s : State) (a b : Nat) : (s.clockMsg a b).trace = s.trace := rfl
@[simp] theorem State.clockMsg_dumps (s : State) (a b : Nat) : (s.clockMsg a b).dumps = s.dumps := rfl
@[simp] theorem State.clockMsg_power (s : State) (a b : Nat) : (s.clockMsg a b).power = s.power := rfl
@[simp] theorem State.clockMsg_mgmt (s : State) (a b : Nat) : (s.clockMsg a b).mgmt = s.mgmt := rfl
@[simp] theorem State.clockMsg_free (s : State) (a b : Nat) : (s.clockMsg a b).free = s.free := rfl
@[simp] theorem State.clockMsg_nextHandle (s : State) (a b : Nat) : (s.clockMsg a b).nextHandle = s.nextHandle := rfl
@[simp] theorem State.clockMsg_basins (s : State) (a b : Nat) : (s.clockMsg a b).basins = s.basins := rfl
@[simp] theorem State.clockMsg_pointers (s : State) (a b : Nat) : (s.clockMsg a b).pointers = s.pointers := rfl
@[simp] theorem State.clockMsg_nextSub (s : State) (a b : Nat) : (s.clockMsg a b).nextSub = s.nextSub := rfl
@[simp] theorem State.clockMsg_roundDue (s : State) (a b : Nat) : (s.clockMsg a b).roundDue = s.roundDue := rfl
@[simp] theorem State.clockMsg_victims (s : State) (a b : Nat) : (s.clockMsg a b).victims = s.victims := rfl
@[simp] theorem State.clockMsg_oldHandles (s : State) (a b : Nat) : (s.clockMsg a b).oldHandles = s.oldHandles := rfl
@[simp] theorem State.clockMsg_held (s : State) (a b : Nat) : (s.clockMsg a b).held = s.held := rfl
@[simp] theorem State.clockMsg_moved (s : State) (a b : Nat) : (s.clockMsg a b).moved = s.moved := rfl
@[simp] theorem State.clockMsg_nextId (s : State) (a b : Nat) : (s.clockMsg a b).nextId = s.nextId := rfl
@[simp] theorem State.clockMsg_atomics (s : State) (a b : Nat) : (s.clockMsg a b).atomics = s.atomics := rfl
@[simp] theorem State.clockMsg_refresh (s : State) (a b : Nat) : (s.clockMsg a b).refresh = s.refresh := rfl
@[simp] theorem State.clockMsg_sent (s : State) (a b : Nat) : (s.clockMsg a b).sent = s.sent := rfl
@[simp] theorem State.clockMsg_ring (s : State) (a b : Nat) : (s.clockMsg a b).ring = s.ring := rfl
@[simp] theorem State.clockMsg_ringWrites (s : State) (a b : Nat) : (s.clockMsg a b).ringWrites = s.ringWrites := rfl
@[simp] theorem State.clockMsg_windows (s : State) (a b : Nat) : (s.clockMsg a b).windows = s.windows := rfl
@[simp] theorem State.clockMsg_rdma (s : State) (a b : Nat) : (s.clockMsg a b).rdma = s.rdma := rfl
@[simp] theorem State.clockMsg_qps (s : State) (a b : Nat) : (s.clockMsg a b).qps = s.qps := rfl
@[simp] theorem State.clockMsg_hostWaits (s : State) (a b : Nat) : (s.clockMsg a b).hostWaits = s.hostWaits := rfl
@[simp] theorem State.clockMsg_rdmaAtomics (s : State) (a b : Nat) : (s.clockMsg a b).rdmaAtomics = s.rdmaAtomics := rfl
@[simp] theorem State.clockMsg_acl (s : State) (a b : Nat) : (s.clockMsg a b).acl = s.acl := rfl
@[simp] theorem State.clockMsg_ports (s : State) (a b : Nat) : (s.clockMsg a b).ports = s.ports := rfl
@[simp] theorem State.clockMsg_peerReplies (s : State) (a b : Nat) : (s.clockMsg a b).peerReplies = s.peerReplies := rfl
@[simp] theorem State.clockMsg_peerAsks (s : State) (a b : Nat) : (s.clockMsg a b).peerAsks = s.peerAsks := rfl
@[simp] theorem State.clockMsg_links (s : State) (a b : Nat) : (s.clockMsg a b).links = s.links := rfl
@[simp] theorem State.clockMsg_routing (s : State) (a b : Nat) : (s.clockMsg a b).routing = s.routing := rfl
@[simp] theorem State.clockMsg_lockTb (s : State) (a b : Nat) : (s.clockMsg a b).lockTb = s.lockTb := rfl
@[simp] theorem State.clockMsg_armed (s : State) (a b : Nat) : (s.clockMsg a b).armed = s.armed := rfl
@[simp] theorem State.clockMsg_fired (s : State) (a b : Nat) : (s.clockMsg a b).fired = s.fired := rfl
@[simp] theorem State.clockMsg_scrubPos (s : State) (a b : Nat) : (s.clockMsg a b).scrubPos = s.scrubPos := rfl
@[simp] theorem State.clockMsg_errLast (s : State) (a b : Nat) : (s.clockMsg a b).errLast = s.errLast := rfl
@[simp] theorem State.clockMsg_errSeen (s : State) (a b : Nat) : (s.clockMsg a b).errSeen = s.errSeen := rfl
@[simp] theorem State.clockMsg_shadow (s : State) (a b : Nat) : (s.clockMsg a b).shadow = s.shadow := rfl
@[simp] theorem State.clockMsg_dumpArea (s : State) (a b : Nat) : (s.clockMsg a b).dumpArea = s.dumpArea := rfl

/-! ### `State.onCore` -/

@[simp] theorem State.onCore_me (s : State) (n : Nat) (f : Core → Core) : (s.onCore n f).me = s.me := rfl
@[simp] theorem State.onCore_others (s : State) (n : Nat) (f : Core → Core) : (s.onCore n f).others = s.others := rfl
@[simp] theorem State.onCore_agenda (s : State) (n : Nat) (f : Core → Core) : (s.onCore n f).agenda = s.agenda := rfl
@[simp] theorem State.onCore_queue (s : State) (n : Nat) (f : Core → Core) : (s.onCore n f).queue = s.queue := rfl
@[simp] theorem State.onCore_mem (s : State) (n : Nat) (f : Core → Core) : (s.onCore n f).mem = s.mem := rfl
@[simp] theorem State.onCore_pages (s : State) (n : Nat) (f : Core → Core) : (s.onCore n f).pages = s.pages := rfl
@[simp] theorem State.onCore_loads (s : State) (n : Nat) (f : Core → Core) : (s.onCore n f).loads = s.loads := rfl
@[simp] theorem State.onCore_teams (s : State) (n : Nat) (f : Core → Core) : (s.onCore n f).teams = s.teams := rfl
@[simp] theorem State.onCore_kinds (s : State) (n : Nat) (f : Core → Core) : (s.onCore n f).kinds = s.kinds := rfl
@[simp] theorem State.onCore_roots (s : State) (n : Nat) (f : Core → Core) : (s.onCore n f).roots = s.roots := rfl
@[simp] theorem State.onCore_tlb (s : State) (n : Nat) (f : Core → Core) : (s.onCore n f).tlb = s.tlb := rfl
@[simp] theorem State.onCore_handles (s : State) (n : Nat) (f : Core → Core) : (s.onCore n f).handles = s.handles := rfl
@[simp] theorem State.onCore_restows (s : State) (n : Nat) (f : Core → Core) : (s.onCore n f).restows = s.restows := rfl
@[simp] theorem State.onCore_shootdowns (s : State) (n : Nat) (f : Core → Core) : (s.onCore n f).shootdowns = s.shootdowns := rfl
@[simp] theorem State.onCore_sessions (s : State) (n : Nat) (f : Core → Core) : (s.onCore n f).sessions = s.sessions := rfl
@[simp] theorem State.onCore_events (s : State) (n : Nat) (f : Core → Core) : (s.onCore n f).events = s.events := rfl
@[simp] theorem State.onCore_hall (s : State) (n : Nat) (f : Core → Core) : (s.onCore n f).hall = s.hall := rfl
@[simp] theorem State.onCore_counters (s : State) (n : Nat) (f : Core → Core) : (s.onCore n f).counters = s.counters := rfl
@[simp] theorem State.onCore_trace (s : State) (n : Nat) (f : Core → Core) : (s.onCore n f).trace = s.trace := rfl
@[simp] theorem State.onCore_dumps (s : State) (n : Nat) (f : Core → Core) : (s.onCore n f).dumps = s.dumps := rfl
@[simp] theorem State.onCore_power (s : State) (n : Nat) (f : Core → Core) : (s.onCore n f).power = s.power := rfl
@[simp] theorem State.onCore_mgmt (s : State) (n : Nat) (f : Core → Core) : (s.onCore n f).mgmt = s.mgmt := rfl
@[simp] theorem State.onCore_free (s : State) (n : Nat) (f : Core → Core) : (s.onCore n f).free = s.free := rfl
@[simp] theorem State.onCore_nextHandle (s : State) (n : Nat) (f : Core → Core) : (s.onCore n f).nextHandle = s.nextHandle := rfl
@[simp] theorem State.onCore_basins (s : State) (n : Nat) (f : Core → Core) : (s.onCore n f).basins = s.basins := rfl
@[simp] theorem State.onCore_pointers (s : State) (n : Nat) (f : Core → Core) : (s.onCore n f).pointers = s.pointers := rfl
@[simp] theorem State.onCore_nextSub (s : State) (n : Nat) (f : Core → Core) : (s.onCore n f).nextSub = s.nextSub := rfl
@[simp] theorem State.onCore_roundDue (s : State) (n : Nat) (f : Core → Core) : (s.onCore n f).roundDue = s.roundDue := rfl
@[simp] theorem State.onCore_victims (s : State) (n : Nat) (f : Core → Core) : (s.onCore n f).victims = s.victims := rfl
@[simp] theorem State.onCore_oldHandles (s : State) (n : Nat) (f : Core → Core) : (s.onCore n f).oldHandles = s.oldHandles := rfl
@[simp] theorem State.onCore_held (s : State) (n : Nat) (f : Core → Core) : (s.onCore n f).held = s.held := rfl
@[simp] theorem State.onCore_moved (s : State) (n : Nat) (f : Core → Core) : (s.onCore n f).moved = s.moved := rfl
@[simp] theorem State.onCore_nextId (s : State) (n : Nat) (f : Core → Core) : (s.onCore n f).nextId = s.nextId := rfl
@[simp] theorem State.onCore_atomics (s : State) (n : Nat) (f : Core → Core) : (s.onCore n f).atomics = s.atomics := rfl
@[simp] theorem State.onCore_refresh (s : State) (n : Nat) (f : Core → Core) : (s.onCore n f).refresh = s.refresh := rfl
@[simp] theorem State.onCore_clocks (s : State) (n : Nat) (f : Core → Core) : (s.onCore n f).clocks = s.clocks := rfl
@[simp] theorem State.onCore_sent (s : State) (n : Nat) (f : Core → Core) : (s.onCore n f).sent = s.sent := rfl
@[simp] theorem State.onCore_ring (s : State) (n : Nat) (f : Core → Core) : (s.onCore n f).ring = s.ring := rfl
@[simp] theorem State.onCore_ringWrites (s : State) (n : Nat) (f : Core → Core) : (s.onCore n f).ringWrites = s.ringWrites := rfl
@[simp] theorem State.onCore_windows (s : State) (n : Nat) (f : Core → Core) : (s.onCore n f).windows = s.windows := rfl
@[simp] theorem State.onCore_rdma (s : State) (n : Nat) (f : Core → Core) : (s.onCore n f).rdma = s.rdma := rfl
@[simp] theorem State.onCore_qps (s : State) (n : Nat) (f : Core → Core) : (s.onCore n f).qps = s.qps := rfl
@[simp] theorem State.onCore_hostWaits (s : State) (n : Nat) (f : Core → Core) : (s.onCore n f).hostWaits = s.hostWaits := rfl
@[simp] theorem State.onCore_rdmaAtomics (s : State) (n : Nat) (f : Core → Core) : (s.onCore n f).rdmaAtomics = s.rdmaAtomics := rfl
@[simp] theorem State.onCore_acl (s : State) (n : Nat) (f : Core → Core) : (s.onCore n f).acl = s.acl := rfl
@[simp] theorem State.onCore_ports (s : State) (n : Nat) (f : Core → Core) : (s.onCore n f).ports = s.ports := rfl
@[simp] theorem State.onCore_peerReplies (s : State) (n : Nat) (f : Core → Core) : (s.onCore n f).peerReplies = s.peerReplies := rfl
@[simp] theorem State.onCore_peerAsks (s : State) (n : Nat) (f : Core → Core) : (s.onCore n f).peerAsks = s.peerAsks := rfl
@[simp] theorem State.onCore_links (s : State) (n : Nat) (f : Core → Core) : (s.onCore n f).links = s.links := rfl
@[simp] theorem State.onCore_routing (s : State) (n : Nat) (f : Core → Core) : (s.onCore n f).routing = s.routing := rfl
@[simp] theorem State.onCore_lockTb (s : State) (n : Nat) (f : Core → Core) : (s.onCore n f).lockTb = s.lockTb := rfl
@[simp] theorem State.onCore_armed (s : State) (n : Nat) (f : Core → Core) : (s.onCore n f).armed = s.armed := rfl
@[simp] theorem State.onCore_fired (s : State) (n : Nat) (f : Core → Core) : (s.onCore n f).fired = s.fired := rfl
@[simp] theorem State.onCore_scrubPos (s : State) (n : Nat) (f : Core → Core) : (s.onCore n f).scrubPos = s.scrubPos := rfl
@[simp] theorem State.onCore_errLast (s : State) (n : Nat) (f : Core → Core) : (s.onCore n f).errLast = s.errLast := rfl
@[simp] theorem State.onCore_errSeen (s : State) (n : Nat) (f : Core → Core) : (s.onCore n f).errSeen = s.errSeen := rfl
@[simp] theorem State.onCore_shadow (s : State) (n : Nat) (f : Core → Core) : (s.onCore n f).shadow = s.shadow := rfl
@[simp] theorem State.onCore_dumpArea (s : State) (n : Nat) (f : Core → Core) : (s.onCore n f).dumpArea = s.dumpArea := rfl

/-! ### `State.onRoom` -/

@[simp] theorem State.onRoom_agenda (s : State) (r : RoomId) (f : Room → Room) : (s.onRoom r f).agenda = s.agenda := by unfold State.onRoom; split <;> rfl
@[simp] theorem State.onRoom_queue (s : State) (r : RoomId) (f : Room → Room) : (s.onRoom r f).queue = s.queue := by unfold State.onRoom; split <;> rfl
@[simp] theorem State.onRoom_cores (s : State) (r : RoomId) (f : Room → Room) : (s.onRoom r f).cores = s.cores := by unfold State.onRoom; split <;> rfl
@[simp] theorem State.onRoom_mem (s : State) (r : RoomId) (f : Room → Room) : (s.onRoom r f).mem = s.mem := by unfold State.onRoom; split <;> rfl
@[simp] theorem State.onRoom_pages (s : State) (r : RoomId) (f : Room → Room) : (s.onRoom r f).pages = s.pages := by unfold State.onRoom; split <;> rfl
@[simp] theorem State.onRoom_loads (s : State) (r : RoomId) (f : Room → Room) : (s.onRoom r f).loads = s.loads := by unfold State.onRoom; split <;> rfl
@[simp] theorem State.onRoom_teams (s : State) (r : RoomId) (f : Room → Room) : (s.onRoom r f).teams = s.teams := by unfold State.onRoom; split <;> rfl
@[simp] theorem State.onRoom_kinds (s : State) (r : RoomId) (f : Room → Room) : (s.onRoom r f).kinds = s.kinds := by unfold State.onRoom; split <;> rfl
@[simp] theorem State.onRoom_roots (s : State) (r : RoomId) (f : Room → Room) : (s.onRoom r f).roots = s.roots := by unfold State.onRoom; split <;> rfl
@[simp] theorem State.onRoom_tlb (s : State) (r : RoomId) (f : Room → Room) : (s.onRoom r f).tlb = s.tlb := by unfold State.onRoom; split <;> rfl
@[simp] theorem State.onRoom_handles (s : State) (r : RoomId) (f : Room → Room) : (s.onRoom r f).handles = s.handles := by unfold State.onRoom; split <;> rfl
@[simp] theorem State.onRoom_restows (s : State) (r : RoomId) (f : Room → Room) : (s.onRoom r f).restows = s.restows := by unfold State.onRoom; split <;> rfl
@[simp] theorem State.onRoom_shootdowns (s : State) (r : RoomId) (f : Room → Room) : (s.onRoom r f).shootdowns = s.shootdowns := by unfold State.onRoom; split <;> rfl
@[simp] theorem State.onRoom_sessions (s : State) (r : RoomId) (f : Room → Room) : (s.onRoom r f).sessions = s.sessions := by unfold State.onRoom; split <;> rfl
@[simp] theorem State.onRoom_events (s : State) (r : RoomId) (f : Room → Room) : (s.onRoom r f).events = s.events := by unfold State.onRoom; split <;> rfl
@[simp] theorem State.onRoom_hall (s : State) (r : RoomId) (f : Room → Room) : (s.onRoom r f).hall = s.hall := by unfold State.onRoom; split <;> rfl
@[simp] theorem State.onRoom_counters (s : State) (r : RoomId) (f : Room → Room) : (s.onRoom r f).counters = s.counters := by unfold State.onRoom; split <;> rfl
@[simp] theorem State.onRoom_trace (s : State) (r : RoomId) (f : Room → Room) : (s.onRoom r f).trace = s.trace := by unfold State.onRoom; split <;> rfl
@[simp] theorem State.onRoom_dumps (s : State) (r : RoomId) (f : Room → Room) : (s.onRoom r f).dumps = s.dumps := by unfold State.onRoom; split <;> rfl
@[simp] theorem State.onRoom_power (s : State) (r : RoomId) (f : Room → Room) : (s.onRoom r f).power = s.power := by unfold State.onRoom; split <;> rfl
@[simp] theorem State.onRoom_mgmt (s : State) (r : RoomId) (f : Room → Room) : (s.onRoom r f).mgmt = s.mgmt := by unfold State.onRoom; split <;> rfl
@[simp] theorem State.onRoom_free (s : State) (r : RoomId) (f : Room → Room) : (s.onRoom r f).free = s.free := by unfold State.onRoom; split <;> rfl
@[simp] theorem State.onRoom_nextHandle (s : State) (r : RoomId) (f : Room → Room) : (s.onRoom r f).nextHandle = s.nextHandle := by unfold State.onRoom; split <;> rfl
@[simp] theorem State.onRoom_basins (s : State) (r : RoomId) (f : Room → Room) : (s.onRoom r f).basins = s.basins := by unfold State.onRoom; split <;> rfl
@[simp] theorem State.onRoom_pointers (s : State) (r : RoomId) (f : Room → Room) : (s.onRoom r f).pointers = s.pointers := by unfold State.onRoom; split <;> rfl
@[simp] theorem State.onRoom_nextSub (s : State) (r : RoomId) (f : Room → Room) : (s.onRoom r f).nextSub = s.nextSub := by unfold State.onRoom; split <;> rfl
@[simp] theorem State.onRoom_roundDue (s : State) (r : RoomId) (f : Room → Room) : (s.onRoom r f).roundDue = s.roundDue := by unfold State.onRoom; split <;> rfl
@[simp] theorem State.onRoom_victims (s : State) (r : RoomId) (f : Room → Room) : (s.onRoom r f).victims = s.victims := by unfold State.onRoom; split <;> rfl
@[simp] theorem State.onRoom_oldHandles (s : State) (r : RoomId) (f : Room → Room) : (s.onRoom r f).oldHandles = s.oldHandles := by unfold State.onRoom; split <;> rfl
@[simp] theorem State.onRoom_held (s : State) (r : RoomId) (f : Room → Room) : (s.onRoom r f).held = s.held := by unfold State.onRoom; split <;> rfl
@[simp] theorem State.onRoom_moved (s : State) (r : RoomId) (f : Room → Room) : (s.onRoom r f).moved = s.moved := by unfold State.onRoom; split <;> rfl
@[simp] theorem State.onRoom_nextId (s : State) (r : RoomId) (f : Room → Room) : (s.onRoom r f).nextId = s.nextId := by unfold State.onRoom; split <;> rfl
@[simp] theorem State.onRoom_atomics (s : State) (r : RoomId) (f : Room → Room) : (s.onRoom r f).atomics = s.atomics := by unfold State.onRoom; split <;> rfl
@[simp] theorem State.onRoom_refresh (s : State) (r : RoomId) (f : Room → Room) : (s.onRoom r f).refresh = s.refresh := by unfold State.onRoom; split <;> rfl
@[simp] theorem State.onRoom_clocks (s : State) (r : RoomId) (f : Room → Room) : (s.onRoom r f).clocks = s.clocks := by unfold State.onRoom; split <;> rfl
@[simp] theorem State.onRoom_sent (s : State) (r : RoomId) (f : Room → Room) : (s.onRoom r f).sent = s.sent := by unfold State.onRoom; split <;> rfl
@[simp] theorem State.onRoom_ring (s : State) (r : RoomId) (f : Room → Room) : (s.onRoom r f).ring = s.ring := by unfold State.onRoom; split <;> rfl
@[simp] theorem State.onRoom_ringWrites (s : State) (r : RoomId) (f : Room → Room) : (s.onRoom r f).ringWrites = s.ringWrites := by unfold State.onRoom; split <;> rfl
@[simp] theorem State.onRoom_windows (s : State) (r : RoomId) (f : Room → Room) : (s.onRoom r f).windows = s.windows := by unfold State.onRoom; split <;> rfl
@[simp] theorem State.onRoom_rdma (s : State) (r : RoomId) (f : Room → Room) : (s.onRoom r f).rdma = s.rdma := by unfold State.onRoom; split <;> rfl
@[simp] theorem State.onRoom_qps (s : State) (r : RoomId) (f : Room → Room) : (s.onRoom r f).qps = s.qps := by unfold State.onRoom; split <;> rfl
@[simp] theorem State.onRoom_hostWaits (s : State) (r : RoomId) (f : Room → Room) : (s.onRoom r f).hostWaits = s.hostWaits := by unfold State.onRoom; split <;> rfl
@[simp] theorem State.onRoom_rdmaAtomics (s : State) (r : RoomId) (f : Room → Room) : (s.onRoom r f).rdmaAtomics = s.rdmaAtomics := by unfold State.onRoom; split <;> rfl
@[simp] theorem State.onRoom_acl (s : State) (r : RoomId) (f : Room → Room) : (s.onRoom r f).acl = s.acl := by unfold State.onRoom; split <;> rfl
@[simp] theorem State.onRoom_ports (s : State) (r : RoomId) (f : Room → Room) : (s.onRoom r f).ports = s.ports := by unfold State.onRoom; split <;> rfl
@[simp] theorem State.onRoom_peerReplies (s : State) (r : RoomId) (f : Room → Room) : (s.onRoom r f).peerReplies = s.peerReplies := by unfold State.onRoom; split <;> rfl
@[simp] theorem State.onRoom_peerAsks (s : State) (r : RoomId) (f : Room → Room) : (s.onRoom r f).peerAsks = s.peerAsks := by unfold State.onRoom; split <;> rfl
@[simp] theorem State.onRoom_links (s : State) (r : RoomId) (f : Room → Room) : (s.onRoom r f).links = s.links := by unfold State.onRoom; split <;> rfl
@[simp] theorem State.onRoom_routing (s : State) (r : RoomId) (f : Room → Room) : (s.onRoom r f).routing = s.routing := by unfold State.onRoom; split <;> rfl
@[simp] theorem State.onRoom_lockTb (s : State) (r : RoomId) (f : Room → Room) : (s.onRoom r f).lockTb = s.lockTb := by unfold State.onRoom; split <;> rfl
@[simp] theorem State.onRoom_armed (s : State) (r : RoomId) (f : Room → Room) : (s.onRoom r f).armed = s.armed := by unfold State.onRoom; split <;> rfl
@[simp] theorem State.onRoom_fired (s : State) (r : RoomId) (f : Room → Room) : (s.onRoom r f).fired = s.fired := by unfold State.onRoom; split <;> rfl
@[simp] theorem State.onRoom_scrubPos (s : State) (r : RoomId) (f : Room → Room) : (s.onRoom r f).scrubPos = s.scrubPos := by unfold State.onRoom; split <;> rfl
@[simp] theorem State.onRoom_errLast (s : State) (r : RoomId) (f : Room → Room) : (s.onRoom r f).errLast = s.errLast := by unfold State.onRoom; split <;> rfl
@[simp] theorem State.onRoom_errSeen (s : State) (r : RoomId) (f : Room → Room) : (s.onRoom r f).errSeen = s.errSeen := by unfold State.onRoom; split <;> rfl
@[simp] theorem State.onRoom_shadow (s : State) (r : RoomId) (f : Room → Room) : (s.onRoom r f).shadow = s.shadow := by unfold State.onRoom; split <;> rfl
@[simp] theorem State.onRoom_dumpArea (s : State) (r : RoomId) (f : Room → Room) : (s.onRoom r f).dumpArea = s.dumpArea := by unfold State.onRoom; split <;> rfl

/-! ### `State.onTeam` -/

@[simp] theorem State.onTeam_me (s : State) (n : Nat) (f : Team → Team) : (s.onTeam n f).me = s.me := rfl
@[simp] theorem State.onTeam_others (s : State) (n : Nat) (f : Team → Team) : (s.onTeam n f).others = s.others := rfl
@[simp] theorem State.onTeam_agenda (s : State) (n : Nat) (f : Team → Team) : (s.onTeam n f).agenda = s.agenda := rfl
@[simp] theorem State.onTeam_queue (s : State) (n : Nat) (f : Team → Team) : (s.onTeam n f).queue = s.queue := rfl
@[simp] theorem State.onTeam_cores (s : State) (n : Nat) (f : Team → Team) : (s.onTeam n f).cores = s.cores := rfl
@[simp] theorem State.onTeam_mem (s : State) (n : Nat) (f : Team → Team) : (s.onTeam n f).mem = s.mem := rfl
@[simp] theorem State.onTeam_pages (s : State) (n : Nat) (f : Team → Team) : (s.onTeam n f).pages = s.pages := rfl
@[simp] theorem State.onTeam_loads (s : State) (n : Nat) (f : Team → Team) : (s.onTeam n f).loads = s.loads := rfl
@[simp] theorem State.onTeam_kinds (s : State) (n : Nat) (f : Team → Team) : (s.onTeam n f).kinds = s.kinds := rfl
@[simp] theorem State.onTeam_roots (s : State) (n : Nat) (f : Team → Team) : (s.onTeam n f).roots = s.roots := rfl
@[simp] theorem State.onTeam_tlb (s : State) (n : Nat) (f : Team → Team) : (s.onTeam n f).tlb = s.tlb := rfl
@[simp] theorem State.onTeam_handles (s : State) (n : Nat) (f : Team → Team) : (s.onTeam n f).handles = s.handles := rfl
@[simp] theorem State.onTeam_restows (s : State) (n : Nat) (f : Team → Team) : (s.onTeam n f).restows = s.restows := rfl
@[simp] theorem State.onTeam_shootdowns (s : State) (n : Nat) (f : Team → Team) : (s.onTeam n f).shootdowns = s.shootdowns := rfl
@[simp] theorem State.onTeam_sessions (s : State) (n : Nat) (f : Team → Team) : (s.onTeam n f).sessions = s.sessions := rfl
@[simp] theorem State.onTeam_events (s : State) (n : Nat) (f : Team → Team) : (s.onTeam n f).events = s.events := rfl
@[simp] theorem State.onTeam_hall (s : State) (n : Nat) (f : Team → Team) : (s.onTeam n f).hall = s.hall := rfl
@[simp] theorem State.onTeam_counters (s : State) (n : Nat) (f : Team → Team) : (s.onTeam n f).counters = s.counters := rfl
@[simp] theorem State.onTeam_trace (s : State) (n : Nat) (f : Team → Team) : (s.onTeam n f).trace = s.trace := rfl
@[simp] theorem State.onTeam_dumps (s : State) (n : Nat) (f : Team → Team) : (s.onTeam n f).dumps = s.dumps := rfl
@[simp] theorem State.onTeam_power (s : State) (n : Nat) (f : Team → Team) : (s.onTeam n f).power = s.power := rfl
@[simp] theorem State.onTeam_mgmt (s : State) (n : Nat) (f : Team → Team) : (s.onTeam n f).mgmt = s.mgmt := rfl
@[simp] theorem State.onTeam_free (s : State) (n : Nat) (f : Team → Team) : (s.onTeam n f).free = s.free := rfl
@[simp] theorem State.onTeam_nextHandle (s : State) (n : Nat) (f : Team → Team) : (s.onTeam n f).nextHandle = s.nextHandle := rfl
@[simp] theorem State.onTeam_basins (s : State) (n : Nat) (f : Team → Team) : (s.onTeam n f).basins = s.basins := rfl
@[simp] theorem State.onTeam_pointers (s : State) (n : Nat) (f : Team → Team) : (s.onTeam n f).pointers = s.pointers := rfl
@[simp] theorem State.onTeam_nextSub (s : State) (n : Nat) (f : Team → Team) : (s.onTeam n f).nextSub = s.nextSub := rfl
@[simp] theorem State.onTeam_roundDue (s : State) (n : Nat) (f : Team → Team) : (s.onTeam n f).roundDue = s.roundDue := rfl
@[simp] theorem State.onTeam_victims (s : State) (n : Nat) (f : Team → Team) : (s.onTeam n f).victims = s.victims := rfl
@[simp] theorem State.onTeam_oldHandles (s : State) (n : Nat) (f : Team → Team) : (s.onTeam n f).oldHandles = s.oldHandles := rfl
@[simp] theorem State.onTeam_held (s : State) (n : Nat) (f : Team → Team) : (s.onTeam n f).held = s.held := rfl
@[simp] theorem State.onTeam_moved (s : State) (n : Nat) (f : Team → Team) : (s.onTeam n f).moved = s.moved := rfl
@[simp] theorem State.onTeam_nextId (s : State) (n : Nat) (f : Team → Team) : (s.onTeam n f).nextId = s.nextId := rfl
@[simp] theorem State.onTeam_atomics (s : State) (n : Nat) (f : Team → Team) : (s.onTeam n f).atomics = s.atomics := rfl
@[simp] theorem State.onTeam_refresh (s : State) (n : Nat) (f : Team → Team) : (s.onTeam n f).refresh = s.refresh := rfl
@[simp] theorem State.onTeam_clocks (s : State) (n : Nat) (f : Team → Team) : (s.onTeam n f).clocks = s.clocks := rfl
@[simp] theorem State.onTeam_sent (s : State) (n : Nat) (f : Team → Team) : (s.onTeam n f).sent = s.sent := rfl
@[simp] theorem State.onTeam_ring (s : State) (n : Nat) (f : Team → Team) : (s.onTeam n f).ring = s.ring := rfl
@[simp] theorem State.onTeam_ringWrites (s : State) (n : Nat) (f : Team → Team) : (s.onTeam n f).ringWrites = s.ringWrites := rfl
@[simp] theorem State.onTeam_windows (s : State) (n : Nat) (f : Team → Team) : (s.onTeam n f).windows = s.windows := rfl
@[simp] theorem State.onTeam_rdma (s : State) (n : Nat) (f : Team → Team) : (s.onTeam n f).rdma = s.rdma := rfl
@[simp] theorem State.onTeam_qps (s : State) (n : Nat) (f : Team → Team) : (s.onTeam n f).qps = s.qps := rfl
@[simp] theorem State.onTeam_hostWaits (s : State) (n : Nat) (f : Team → Team) : (s.onTeam n f).hostWaits = s.hostWaits := rfl
@[simp] theorem State.onTeam_rdmaAtomics (s : State) (n : Nat) (f : Team → Team) : (s.onTeam n f).rdmaAtomics = s.rdmaAtomics := rfl
@[simp] theorem State.onTeam_acl (s : State) (n : Nat) (f : Team → Team) : (s.onTeam n f).acl = s.acl := rfl
@[simp] theorem State.onTeam_ports (s : State) (n : Nat) (f : Team → Team) : (s.onTeam n f).ports = s.ports := rfl
@[simp] theorem State.onTeam_peerReplies (s : State) (n : Nat) (f : Team → Team) : (s.onTeam n f).peerReplies = s.peerReplies := rfl
@[simp] theorem State.onTeam_peerAsks (s : State) (n : Nat) (f : Team → Team) : (s.onTeam n f).peerAsks = s.peerAsks := rfl
@[simp] theorem State.onTeam_links (s : State) (n : Nat) (f : Team → Team) : (s.onTeam n f).links = s.links := rfl
@[simp] theorem State.onTeam_routing (s : State) (n : Nat) (f : Team → Team) : (s.onTeam n f).routing = s.routing := rfl
@[simp] theorem State.onTeam_lockTb (s : State) (n : Nat) (f : Team → Team) : (s.onTeam n f).lockTb = s.lockTb := rfl
@[simp] theorem State.onTeam_armed (s : State) (n : Nat) (f : Team → Team) : (s.onTeam n f).armed = s.armed := rfl
@[simp] theorem State.onTeam_fired (s : State) (n : Nat) (f : Team → Team) : (s.onTeam n f).fired = s.fired := rfl
@[simp] theorem State.onTeam_scrubPos (s : State) (n : Nat) (f : Team → Team) : (s.onTeam n f).scrubPos = s.scrubPos := rfl
@[simp] theorem State.onTeam_errLast (s : State) (n : Nat) (f : Team → Team) : (s.onTeam n f).errLast = s.errLast := rfl
@[simp] theorem State.onTeam_errSeen (s : State) (n : Nat) (f : Team → Team) : (s.onTeam n f).errSeen = s.errSeen := rfl
@[simp] theorem State.onTeam_shadow (s : State) (n : Nat) (f : Team → Team) : (s.onTeam n f).shadow = s.shadow := rfl
@[simp] theorem State.onTeam_dumpArea (s : State) (n : Nat) (f : Team → Team) : (s.onTeam n f).dumpArea = s.dumpArea := rfl

/-! ### `State.onRestow` -/

@[simp] theorem State.onRestow_me (s : State) (n : Nat) (f : Restow → Restow) : (s.onRestow n f).me = s.me := rfl
@[simp] theorem State.onRestow_others (s : State) (n : Nat) (f : Restow → Restow) : (s.onRestow n f).others = s.others := rfl
@[simp] theorem State.onRestow_agenda (s : State) (n : Nat) (f : Restow → Restow) : (s.onRestow n f).agenda = s.agenda := rfl
@[simp] theorem State.onRestow_queue (s : State) (n : Nat) (f : Restow → Restow) : (s.onRestow n f).queue = s.queue := rfl
@[simp] theorem State.onRestow_cores (s : State) (n : Nat) (f : Restow → Restow) : (s.onRestow n f).cores = s.cores := rfl
@[simp] theorem State.onRestow_mem (s : State) (n : Nat) (f : Restow → Restow) : (s.onRestow n f).mem = s.mem := rfl
@[simp] theorem State.onRestow_pages (s : State) (n : Nat) (f : Restow → Restow) : (s.onRestow n f).pages = s.pages := rfl
@[simp] theorem State.onRestow_loads (s : State) (n : Nat) (f : Restow → Restow) : (s.onRestow n f).loads = s.loads := rfl
@[simp] theorem State.onRestow_teams (s : State) (n : Nat) (f : Restow → Restow) : (s.onRestow n f).teams = s.teams := rfl
@[simp] theorem State.onRestow_kinds (s : State) (n : Nat) (f : Restow → Restow) : (s.onRestow n f).kinds = s.kinds := rfl
@[simp] theorem State.onRestow_roots (s : State) (n : Nat) (f : Restow → Restow) : (s.onRestow n f).roots = s.roots := rfl
@[simp] theorem State.onRestow_tlb (s : State) (n : Nat) (f : Restow → Restow) : (s.onRestow n f).tlb = s.tlb := rfl
@[simp] theorem State.onRestow_handles (s : State) (n : Nat) (f : Restow → Restow) : (s.onRestow n f).handles = s.handles := rfl
@[simp] theorem State.onRestow_shootdowns (s : State) (n : Nat) (f : Restow → Restow) : (s.onRestow n f).shootdowns = s.shootdowns := rfl
@[simp] theorem State.onRestow_sessions (s : State) (n : Nat) (f : Restow → Restow) : (s.onRestow n f).sessions = s.sessions := rfl
@[simp] theorem State.onRestow_events (s : State) (n : Nat) (f : Restow → Restow) : (s.onRestow n f).events = s.events := rfl
@[simp] theorem State.onRestow_hall (s : State) (n : Nat) (f : Restow → Restow) : (s.onRestow n f).hall = s.hall := rfl
@[simp] theorem State.onRestow_counters (s : State) (n : Nat) (f : Restow → Restow) : (s.onRestow n f).counters = s.counters := rfl
@[simp] theorem State.onRestow_trace (s : State) (n : Nat) (f : Restow → Restow) : (s.onRestow n f).trace = s.trace := rfl
@[simp] theorem State.onRestow_dumps (s : State) (n : Nat) (f : Restow → Restow) : (s.onRestow n f).dumps = s.dumps := rfl
@[simp] theorem State.onRestow_power (s : State) (n : Nat) (f : Restow → Restow) : (s.onRestow n f).power = s.power := rfl
@[simp] theorem State.onRestow_mgmt (s : State) (n : Nat) (f : Restow → Restow) : (s.onRestow n f).mgmt = s.mgmt := rfl
@[simp] theorem State.onRestow_free (s : State) (n : Nat) (f : Restow → Restow) : (s.onRestow n f).free = s.free := rfl
@[simp] theorem State.onRestow_nextHandle (s : State) (n : Nat) (f : Restow → Restow) : (s.onRestow n f).nextHandle = s.nextHandle := rfl
@[simp] theorem State.onRestow_basins (s : State) (n : Nat) (f : Restow → Restow) : (s.onRestow n f).basins = s.basins := rfl
@[simp] theorem State.onRestow_pointers (s : State) (n : Nat) (f : Restow → Restow) : (s.onRestow n f).pointers = s.pointers := rfl
@[simp] theorem State.onRestow_nextSub (s : State) (n : Nat) (f : Restow → Restow) : (s.onRestow n f).nextSub = s.nextSub := rfl
@[simp] theorem State.onRestow_roundDue (s : State) (n : Nat) (f : Restow → Restow) : (s.onRestow n f).roundDue = s.roundDue := rfl
@[simp] theorem State.onRestow_victims (s : State) (n : Nat) (f : Restow → Restow) : (s.onRestow n f).victims = s.victims := rfl
@[simp] theorem State.onRestow_oldHandles (s : State) (n : Nat) (f : Restow → Restow) : (s.onRestow n f).oldHandles = s.oldHandles := rfl
@[simp] theorem State.onRestow_held (s : State) (n : Nat) (f : Restow → Restow) : (s.onRestow n f).held = s.held := rfl
@[simp] theorem State.onRestow_moved (s : State) (n : Nat) (f : Restow → Restow) : (s.onRestow n f).moved = s.moved := rfl
@[simp] theorem State.onRestow_nextId (s : State) (n : Nat) (f : Restow → Restow) : (s.onRestow n f).nextId = s.nextId := rfl
@[simp] theorem State.onRestow_atomics (s : State) (n : Nat) (f : Restow → Restow) : (s.onRestow n f).atomics = s.atomics := rfl
@[simp] theorem State.onRestow_refresh (s : State) (n : Nat) (f : Restow → Restow) : (s.onRestow n f).refresh = s.refresh := rfl
@[simp] theorem State.onRestow_clocks (s : State) (n : Nat) (f : Restow → Restow) : (s.onRestow n f).clocks = s.clocks := rfl
@[simp] theorem State.onRestow_sent (s : State) (n : Nat) (f : Restow → Restow) : (s.onRestow n f).sent = s.sent := rfl
@[simp] theorem State.onRestow_ring (s : State) (n : Nat) (f : Restow → Restow) : (s.onRestow n f).ring = s.ring := rfl
@[simp] theorem State.onRestow_ringWrites (s : State) (n : Nat) (f : Restow → Restow) : (s.onRestow n f).ringWrites = s.ringWrites := rfl
@[simp] theorem State.onRestow_windows (s : State) (n : Nat) (f : Restow → Restow) : (s.onRestow n f).windows = s.windows := rfl
@[simp] theorem State.onRestow_rdma (s : State) (n : Nat) (f : Restow → Restow) : (s.onRestow n f).rdma = s.rdma := rfl
@[simp] theorem State.onRestow_qps (s : State) (n : Nat) (f : Restow → Restow) : (s.onRestow n f).qps = s.qps := rfl
@[simp] theorem State.onRestow_hostWaits (s : State) (n : Nat) (f : Restow → Restow) : (s.onRestow n f).hostWaits = s.hostWaits := rfl
@[simp] theorem State.onRestow_rdmaAtomics (s : State) (n : Nat) (f : Restow → Restow) : (s.onRestow n f).rdmaAtomics = s.rdmaAtomics := rfl
@[simp] theorem State.onRestow_acl (s : State) (n : Nat) (f : Restow → Restow) : (s.onRestow n f).acl = s.acl := rfl
@[simp] theorem State.onRestow_ports (s : State) (n : Nat) (f : Restow → Restow) : (s.onRestow n f).ports = s.ports := rfl
@[simp] theorem State.onRestow_peerReplies (s : State) (n : Nat) (f : Restow → Restow) : (s.onRestow n f).peerReplies = s.peerReplies := rfl
@[simp] theorem State.onRestow_peerAsks (s : State) (n : Nat) (f : Restow → Restow) : (s.onRestow n f).peerAsks = s.peerAsks := rfl
@[simp] theorem State.onRestow_links (s : State) (n : Nat) (f : Restow → Restow) : (s.onRestow n f).links = s.links := rfl
@[simp] theorem State.onRestow_routing (s : State) (n : Nat) (f : Restow → Restow) : (s.onRestow n f).routing = s.routing := rfl
@[simp] theorem State.onRestow_lockTb (s : State) (n : Nat) (f : Restow → Restow) : (s.onRestow n f).lockTb = s.lockTb := rfl
@[simp] theorem State.onRestow_armed (s : State) (n : Nat) (f : Restow → Restow) : (s.onRestow n f).armed = s.armed := rfl
@[simp] theorem State.onRestow_fired (s : State) (n : Nat) (f : Restow → Restow) : (s.onRestow n f).fired = s.fired := rfl
@[simp] theorem State.onRestow_scrubPos (s : State) (n : Nat) (f : Restow → Restow) : (s.onRestow n f).scrubPos = s.scrubPos := rfl
@[simp] theorem State.onRestow_errLast (s : State) (n : Nat) (f : Restow → Restow) : (s.onRestow n f).errLast = s.errLast := rfl
@[simp] theorem State.onRestow_errSeen (s : State) (n : Nat) (f : Restow → Restow) : (s.onRestow n f).errSeen = s.errSeen := rfl
@[simp] theorem State.onRestow_shadow (s : State) (n : Nat) (f : Restow → Restow) : (s.onRestow n f).shadow = s.shadow := rfl
@[simp] theorem State.onRestow_dumpArea (s : State) (n : Nat) (f : Restow → Restow) : (s.onRestow n f).dumpArea = s.dumpArea := rfl

/-! ### `State.onLink` -/

@[simp] theorem State.onLink_me (s : State) (n : Nat) (f : Link → Link) : (s.onLink n f).me = s.me := rfl
@[simp] theorem State.onLink_others (s : State) (n : Nat) (f : Link → Link) : (s.onLink n f).others = s.others := rfl
@[simp] theorem State.onLink_agenda (s : State) (n : Nat) (f : Link → Link) : (s.onLink n f).agenda = s.agenda := rfl
@[simp] theorem State.onLink_queue (s : State) (n : Nat) (f : Link → Link) : (s.onLink n f).queue = s.queue := rfl
@[simp] theorem State.onLink_cores (s : State) (n : Nat) (f : Link → Link) : (s.onLink n f).cores = s.cores := rfl
@[simp] theorem State.onLink_mem (s : State) (n : Nat) (f : Link → Link) : (s.onLink n f).mem = s.mem := rfl
@[simp] theorem State.onLink_pages (s : State) (n : Nat) (f : Link → Link) : (s.onLink n f).pages = s.pages := rfl
@[simp] theorem State.onLink_loads (s : State) (n : Nat) (f : Link → Link) : (s.onLink n f).loads = s.loads := rfl
@[simp] theorem State.onLink_teams (s : State) (n : Nat) (f : Link → Link) : (s.onLink n f).teams = s.teams := rfl
@[simp] theorem State.onLink_kinds (s : State) (n : Nat) (f : Link → Link) : (s.onLink n f).kinds = s.kinds := rfl
@[simp] theorem State.onLink_roots (s : State) (n : Nat) (f : Link → Link) : (s.onLink n f).roots = s.roots := rfl
@[simp] theorem State.onLink_tlb (s : State) (n : Nat) (f : Link → Link) : (s.onLink n f).tlb = s.tlb := rfl
@[simp] theorem State.onLink_handles (s : State) (n : Nat) (f : Link → Link) : (s.onLink n f).handles = s.handles := rfl
@[simp] theorem State.onLink_restows (s : State) (n : Nat) (f : Link → Link) : (s.onLink n f).restows = s.restows := rfl
@[simp] theorem State.onLink_shootdowns (s : State) (n : Nat) (f : Link → Link) : (s.onLink n f).shootdowns = s.shootdowns := rfl
@[simp] theorem State.onLink_sessions (s : State) (n : Nat) (f : Link → Link) : (s.onLink n f).sessions = s.sessions := rfl
@[simp] theorem State.onLink_events (s : State) (n : Nat) (f : Link → Link) : (s.onLink n f).events = s.events := rfl
@[simp] theorem State.onLink_hall (s : State) (n : Nat) (f : Link → Link) : (s.onLink n f).hall = s.hall := rfl
@[simp] theorem State.onLink_counters (s : State) (n : Nat) (f : Link → Link) : (s.onLink n f).counters = s.counters := rfl
@[simp] theorem State.onLink_trace (s : State) (n : Nat) (f : Link → Link) : (s.onLink n f).trace = s.trace := rfl
@[simp] theorem State.onLink_dumps (s : State) (n : Nat) (f : Link → Link) : (s.onLink n f).dumps = s.dumps := rfl
@[simp] theorem State.onLink_power (s : State) (n : Nat) (f : Link → Link) : (s.onLink n f).power = s.power := rfl
@[simp] theorem State.onLink_mgmt (s : State) (n : Nat) (f : Link → Link) : (s.onLink n f).mgmt = s.mgmt := rfl
@[simp] theorem State.onLink_free (s : State) (n : Nat) (f : Link → Link) : (s.onLink n f).free = s.free := rfl
@[simp] theorem State.onLink_nextHandle (s : State) (n : Nat) (f : Link → Link) : (s.onLink n f).nextHandle = s.nextHandle := rfl
@[simp] theorem State.onLink_basins (s : State) (n : Nat) (f : Link → Link) : (s.onLink n f).basins = s.basins := rfl
@[simp] theorem State.onLink_pointers (s : State) (n : Nat) (f : Link → Link) : (s.onLink n f).pointers = s.pointers := rfl
@[simp] theorem State.onLink_nextSub (s : State) (n : Nat) (f : Link → Link) : (s.onLink n f).nextSub = s.nextSub := rfl
@[simp] theorem State.onLink_roundDue (s : State) (n : Nat) (f : Link → Link) : (s.onLink n f).roundDue = s.roundDue := rfl
@[simp] theorem State.onLink_victims (s : State) (n : Nat) (f : Link → Link) : (s.onLink n f).victims = s.victims := rfl
@[simp] theorem State.onLink_oldHandles (s : State) (n : Nat) (f : Link → Link) : (s.onLink n f).oldHandles = s.oldHandles := rfl
@[simp] theorem State.onLink_held (s : State) (n : Nat) (f : Link → Link) : (s.onLink n f).held = s.held := rfl
@[simp] theorem State.onLink_moved (s : State) (n : Nat) (f : Link → Link) : (s.onLink n f).moved = s.moved := rfl
@[simp] theorem State.onLink_nextId (s : State) (n : Nat) (f : Link → Link) : (s.onLink n f).nextId = s.nextId := rfl
@[simp] theorem State.onLink_atomics (s : State) (n : Nat) (f : Link → Link) : (s.onLink n f).atomics = s.atomics := rfl
@[simp] theorem State.onLink_refresh (s : State) (n : Nat) (f : Link → Link) : (s.onLink n f).refresh = s.refresh := rfl
@[simp] theorem State.onLink_clocks (s : State) (n : Nat) (f : Link → Link) : (s.onLink n f).clocks = s.clocks := rfl
@[simp] theorem State.onLink_sent (s : State) (n : Nat) (f : Link → Link) : (s.onLink n f).sent = s.sent := rfl
@[simp] theorem State.onLink_ring (s : State) (n : Nat) (f : Link → Link) : (s.onLink n f).ring = s.ring := rfl
@[simp] theorem State.onLink_ringWrites (s : State) (n : Nat) (f : Link → Link) : (s.onLink n f).ringWrites = s.ringWrites := rfl
@[simp] theorem State.onLink_windows (s : State) (n : Nat) (f : Link → Link) : (s.onLink n f).windows = s.windows := rfl
@[simp] theorem State.onLink_rdma (s : State) (n : Nat) (f : Link → Link) : (s.onLink n f).rdma = s.rdma := rfl
@[simp] theorem State.onLink_qps (s : State) (n : Nat) (f : Link → Link) : (s.onLink n f).qps = s.qps := rfl
@[simp] theorem State.onLink_hostWaits (s : State) (n : Nat) (f : Link → Link) : (s.onLink n f).hostWaits = s.hostWaits := rfl
@[simp] theorem State.onLink_rdmaAtomics (s : State) (n : Nat) (f : Link → Link) : (s.onLink n f).rdmaAtomics = s.rdmaAtomics := rfl
@[simp] theorem State.onLink_acl (s : State) (n : Nat) (f : Link → Link) : (s.onLink n f).acl = s.acl := rfl
@[simp] theorem State.onLink_ports (s : State) (n : Nat) (f : Link → Link) : (s.onLink n f).ports = s.ports := rfl
@[simp] theorem State.onLink_peerReplies (s : State) (n : Nat) (f : Link → Link) : (s.onLink n f).peerReplies = s.peerReplies := rfl
@[simp] theorem State.onLink_peerAsks (s : State) (n : Nat) (f : Link → Link) : (s.onLink n f).peerAsks = s.peerAsks := rfl
@[simp] theorem State.onLink_routing (s : State) (n : Nat) (f : Link → Link) : (s.onLink n f).routing = s.routing := rfl
@[simp] theorem State.onLink_lockTb (s : State) (n : Nat) (f : Link → Link) : (s.onLink n f).lockTb = s.lockTb := rfl
@[simp] theorem State.onLink_armed (s : State) (n : Nat) (f : Link → Link) : (s.onLink n f).armed = s.armed := rfl
@[simp] theorem State.onLink_fired (s : State) (n : Nat) (f : Link → Link) : (s.onLink n f).fired = s.fired := rfl
@[simp] theorem State.onLink_scrubPos (s : State) (n : Nat) (f : Link → Link) : (s.onLink n f).scrubPos = s.scrubPos := rfl
@[simp] theorem State.onLink_errLast (s : State) (n : Nat) (f : Link → Link) : (s.onLink n f).errLast = s.errLast := rfl
@[simp] theorem State.onLink_errSeen (s : State) (n : Nat) (f : Link → Link) : (s.onLink n f).errSeen = s.errSeen := rfl
@[simp] theorem State.onLink_shadow (s : State) (n : Nat) (f : Link → Link) : (s.onLink n f).shadow = s.shadow := rfl
@[simp] theorem State.onLink_dumpArea (s : State) (n : Nat) (f : Link → Link) : (s.onLink n f).dumpArea = s.dumpArea := rfl

/-! ### `State.post` -/

theorem State.count_frame (s : State) (n k : Nat) : s.count n k = { s with counters := (s.count n k).counters } := by
  unfold State.count; split <;> rfl

theorem State.postLost_frame (s : State) :
    s.postLost = { s with events := s.postLost.events, ring := s.postLost.ring, ringWrites := s.postLost.ringWrites } := by
  unfold State.postLost
  split
  · split <;> rfl
  · rfl

/-- An event changes the ring, what goes to it, and a counter. -/
theorem State.post_frame (s : State) (e : Event) :
    s.post e = { s with
      events := (s.post e).events, ring := (s.post e).ring, ringWrites := (s.post e).ringWrites
      counters := (s.post e).counters } := by
  have h := s.postLost_frame
  unfold State.post
  generalize s.postLost = z at h ⊢
  dsimp only
  split
  · rw [State.count_frame, h]
  · split
    · rw [h]; rfl
    · rw [State.count_frame, h]

@[simp] theorem State.post_me (s : State) (e : Event) : (s.post e).me = s.me := by rw [State.post_frame]
@[simp] theorem State.post_others (s : State) (e : Event) : (s.post e).others = s.others := by rw [State.post_frame]
@[simp] theorem State.post_agenda (s : State) (e : Event) : (s.post e).agenda = s.agenda := by rw [State.post_frame]
@[simp] theorem State.post_queue (s : State) (e : Event) : (s.post e).queue = s.queue := by rw [State.post_frame]
@[simp] theorem State.post_cores (s : State) (e : Event) : (s.post e).cores = s.cores := by rw [State.post_frame]
@[simp] theorem State.post_mem (s : State) (e : Event) : (s.post e).mem = s.mem := by rw [State.post_frame]
@[simp] theorem State.post_pages (s : State) (e : Event) : (s.post e).pages = s.pages := by rw [State.post_frame]
@[simp] theorem State.post_loads (s : State) (e : Event) : (s.post e).loads = s.loads := by rw [State.post_frame]
@[simp] theorem State.post_teams (s : State) (e : Event) : (s.post e).teams = s.teams := by rw [State.post_frame]
@[simp] theorem State.post_kinds (s : State) (e : Event) : (s.post e).kinds = s.kinds := by rw [State.post_frame]
@[simp] theorem State.post_roots (s : State) (e : Event) : (s.post e).roots = s.roots := by rw [State.post_frame]
@[simp] theorem State.post_tlb (s : State) (e : Event) : (s.post e).tlb = s.tlb := by rw [State.post_frame]
@[simp] theorem State.post_handles (s : State) (e : Event) : (s.post e).handles = s.handles := by rw [State.post_frame]
@[simp] theorem State.post_restows (s : State) (e : Event) : (s.post e).restows = s.restows := by rw [State.post_frame]
@[simp] theorem State.post_shootdowns (s : State) (e : Event) : (s.post e).shootdowns = s.shootdowns := by rw [State.post_frame]
@[simp] theorem State.post_sessions (s : State) (e : Event) : (s.post e).sessions = s.sessions := by rw [State.post_frame]
@[simp] theorem State.post_hall (s : State) (e : Event) : (s.post e).hall = s.hall := by rw [State.post_frame]
@[simp] theorem State.post_trace (s : State) (e : Event) : (s.post e).trace = s.trace := by rw [State.post_frame]
@[simp] theorem State.post_dumps (s : State) (e : Event) : (s.post e).dumps = s.dumps := by rw [State.post_frame]
@[simp] theorem State.post_power (s : State) (e : Event) : (s.post e).power = s.power := by rw [State.post_frame]
@[simp] theorem State.post_mgmt (s : State) (e : Event) : (s.post e).mgmt = s.mgmt := by rw [State.post_frame]
@[simp] theorem State.post_free (s : State) (e : Event) : (s.post e).free = s.free := by rw [State.post_frame]
@[simp] theorem State.post_nextHandle (s : State) (e : Event) : (s.post e).nextHandle = s.nextHandle := by rw [State.post_frame]
@[simp] theorem State.post_basins (s : State) (e : Event) : (s.post e).basins = s.basins := by rw [State.post_frame]
@[simp] theorem State.post_pointers (s : State) (e : Event) : (s.post e).pointers = s.pointers := by rw [State.post_frame]
@[simp] theorem State.post_nextSub (s : State) (e : Event) : (s.post e).nextSub = s.nextSub := by rw [State.post_frame]
@[simp] theorem State.post_roundDue (s : State) (e : Event) : (s.post e).roundDue = s.roundDue := by rw [State.post_frame]
@[simp] theorem State.post_victims (s : State) (e : Event) : (s.post e).victims = s.victims := by rw [State.post_frame]
@[simp] theorem State.post_oldHandles (s : State) (e : Event) : (s.post e).oldHandles = s.oldHandles := by rw [State.post_frame]
@[simp] theorem State.post_held (s : State) (e : Event) : (s.post e).held = s.held := by rw [State.post_frame]
@[simp] theorem State.post_moved (s : State) (e : Event) : (s.post e).moved = s.moved := by rw [State.post_frame]
@[simp] theorem State.post_nextId (s : State) (e : Event) : (s.post e).nextId = s.nextId := by rw [State.post_frame]
@[simp] theorem State.post_atomics (s : State) (e : Event) : (s.post e).atomics = s.atomics := by rw [State.post_frame]
@[simp] theorem State.post_refresh (s : State) (e : Event) : (s.post e).refresh = s.refresh := by rw [State.post_frame]
@[simp] theorem State.post_clocks (s : State) (e : Event) : (s.post e).clocks = s.clocks := by rw [State.post_frame]
@[simp] theorem State.post_sent (s : State) (e : Event) : (s.post e).sent = s.sent := by rw [State.post_frame]
@[simp] theorem State.post_windows (s : State) (e : Event) : (s.post e).windows = s.windows := by rw [State.post_frame]
@[simp] theorem State.post_rdma (s : State) (e : Event) : (s.post e).rdma = s.rdma := by rw [State.post_frame]
@[simp] theorem State.post_qps (s : State) (e : Event) : (s.post e).qps = s.qps := by rw [State.post_frame]
@[simp] theorem State.post_hostWaits (s : State) (e : Event) : (s.post e).hostWaits = s.hostWaits := by rw [State.post_frame]
@[simp] theorem State.post_rdmaAtomics (s : State) (e : Event) : (s.post e).rdmaAtomics = s.rdmaAtomics := by rw [State.post_frame]
@[simp] theorem State.post_acl (s : State) (e : Event) : (s.post e).acl = s.acl := by rw [State.post_frame]
@[simp] theorem State.post_ports (s : State) (e : Event) : (s.post e).ports = s.ports := by rw [State.post_frame]
@[simp] theorem State.post_peerReplies (s : State) (e : Event) : (s.post e).peerReplies = s.peerReplies := by rw [State.post_frame]
@[simp] theorem State.post_peerAsks (s : State) (e : Event) : (s.post e).peerAsks = s.peerAsks := by rw [State.post_frame]
@[simp] theorem State.post_links (s : State) (e : Event) : (s.post e).links = s.links := by rw [State.post_frame]
@[simp] theorem State.post_routing (s : State) (e : Event) : (s.post e).routing = s.routing := by rw [State.post_frame]
@[simp] theorem State.post_lockTb (s : State) (e : Event) : (s.post e).lockTb = s.lockTb := by rw [State.post_frame]
@[simp] theorem State.post_armed (s : State) (e : Event) : (s.post e).armed = s.armed := by rw [State.post_frame]
@[simp] theorem State.post_fired (s : State) (e : Event) : (s.post e).fired = s.fired := by rw [State.post_frame]
@[simp] theorem State.post_scrubPos (s : State) (e : Event) : (s.post e).scrubPos = s.scrubPos := by rw [State.post_frame]
@[simp] theorem State.post_errLast (s : State) (e : Event) : (s.post e).errLast = s.errLast := by rw [State.post_frame]
@[simp] theorem State.post_errSeen (s : State) (e : Event) : (s.post e).errSeen = s.errSeen := by rw [State.post_frame]
@[simp] theorem State.post_shadow (s : State) (e : Event) : (s.post e).shadow = s.shadow := by rw [State.post_frame]
@[simp] theorem State.post_dumpArea (s : State) (e : Event) : (s.post e).dumpArea = s.dumpArea := by rw [State.post_frame]

/-! ### `State.startDump` -/

@[simp] theorem State.startDump_me (s : State) (r : RoomId) (n a b c : Nat) : (s.startDump r n a b c).me = s.me := by unfold State.startDump; dsimp only; split <;> rfl
@[simp] theorem State.startDump_others (s : State) (r : RoomId) (n a b c : Nat) : (s.startDump r n a b c).others = s.others := by unfold State.startDump; dsimp only; split <;> rfl
@[simp] theorem State.startDump_agenda (s : State) (r : RoomId) (n a b c : Nat) : (s.startDump r n a b c).agenda = s.agenda := by unfold State.startDump; dsimp only; split <;> rfl
@[simp] theorem State.startDump_queue (s : State) (r : RoomId) (n a b c : Nat) : (s.startDump r n a b c).queue = s.queue := by unfold State.startDump; dsimp only; split <;> rfl
@[simp] theorem State.startDump_cores (s : State) (r : RoomId) (n a b c : Nat) : (s.startDump r n a b c).cores = s.cores := by unfold State.startDump; dsimp only; split <;> rfl
@[simp] theorem State.startDump_mem (s : State) (r : RoomId) (n a b c : Nat) : (s.startDump r n a b c).mem = s.mem := by unfold State.startDump; dsimp only; split <;> rfl
@[simp] theorem State.startDump_pages (s : State) (r : RoomId) (n a b c : Nat) : (s.startDump r n a b c).pages = s.pages := by unfold State.startDump; dsimp only; split <;> rfl
@[simp] theorem State.startDump_loads (s : State) (r : RoomId) (n a b c : Nat) : (s.startDump r n a b c).loads = s.loads := by unfold State.startDump; dsimp only; split <;> rfl
@[simp] theorem State.startDump_teams (s : State) (r : RoomId) (n a b c : Nat) : (s.startDump r n a b c).teams = s.teams := by unfold State.startDump; dsimp only; split <;> rfl
@[simp] theorem State.startDump_kinds (s : State) (r : RoomId) (n a b c : Nat) : (s.startDump r n a b c).kinds = s.kinds := by unfold State.startDump; dsimp only; split <;> rfl
@[simp] theorem State.startDump_roots (s : State) (r : RoomId) (n a b c : Nat) : (s.startDump r n a b c).roots = s.roots := by unfold State.startDump; dsimp only; split <;> rfl
@[simp] theorem State.startDump_tlb (s : State) (r : RoomId) (n a b c : Nat) : (s.startDump r n a b c).tlb = s.tlb := by unfold State.startDump; dsimp only; split <;> rfl
@[simp] theorem State.startDump_handles (s : State) (r : RoomId) (n a b c : Nat) : (s.startDump r n a b c).handles = s.handles := by unfold State.startDump; dsimp only; split <;> rfl
@[simp] theorem State.startDump_restows (s : State) (r : RoomId) (n a b c : Nat) : (s.startDump r n a b c).restows = s.restows := by unfold State.startDump; dsimp only; split <;> rfl
@[simp] theorem State.startDump_shootdowns (s : State) (r : RoomId) (n a b c : Nat) : (s.startDump r n a b c).shootdowns = s.shootdowns := by unfold State.startDump; dsimp only; split <;> rfl
@[simp] theorem State.startDump_sessions (s : State) (r : RoomId) (n a b c : Nat) : (s.startDump r n a b c).sessions = s.sessions := by unfold State.startDump; dsimp only; split <;> rfl
@[simp] theorem State.startDump_events (s : State) (r : RoomId) (n a b c : Nat) : (s.startDump r n a b c).events = s.events := by unfold State.startDump; dsimp only; split <;> rfl
@[simp] theorem State.startDump_hall (s : State) (r : RoomId) (n a b c : Nat) : (s.startDump r n a b c).hall = s.hall := by unfold State.startDump; dsimp only; split <;> rfl
@[simp] theorem State.startDump_counters (s : State) (r : RoomId) (n a b c : Nat) : (s.startDump r n a b c).counters = s.counters := by unfold State.startDump; dsimp only; split <;> rfl
@[simp] theorem State.startDump_trace (s : State) (r : RoomId) (n a b c : Nat) : (s.startDump r n a b c).trace = s.trace := by unfold State.startDump; dsimp only; split <;> rfl
@[simp] theorem State.startDump_power (s : State) (r : RoomId) (n a b c : Nat) : (s.startDump r n a b c).power = s.power := by unfold State.startDump; dsimp only; split <;> rfl
@[simp] theorem State.startDump_mgmt (s : State) (r : RoomId) (n a b c : Nat) : (s.startDump r n a b c).mgmt = s.mgmt := by unfold State.startDump; dsimp only; split <;> rfl
@[simp] theorem State.startDump_free (s : State) (r : RoomId) (n a b c : Nat) : (s.startDump r n a b c).free = s.free := by unfold State.startDump; dsimp only; split <;> rfl
@[simp] theorem State.startDump_nextHandle (s : State) (r : RoomId) (n a b c : Nat) : (s.startDump r n a b c).nextHandle = s.nextHandle := by unfold State.startDump; dsimp only; split <;> rfl
@[simp] theorem State.startDump_basins (s : State) (r : RoomId) (n a b c : Nat) : (s.startDump r n a b c).basins = s.basins := by unfold State.startDump; dsimp only; split <;> rfl
@[simp] theorem State.startDump_pointers (s : State) (r : RoomId) (n a b c : Nat) : (s.startDump r n a b c).pointers = s.pointers := by unfold State.startDump; dsimp only; split <;> rfl
@[simp] theorem State.startDump_nextSub (s : State) (r : RoomId) (n a b c : Nat) : (s.startDump r n a b c).nextSub = s.nextSub := by unfold State.startDump; dsimp only; split <;> rfl
@[simp] theorem State.startDump_roundDue (s : State) (r : RoomId) (n a b c : Nat) : (s.startDump r n a b c).roundDue = s.roundDue := by unfold State.startDump; dsimp only; split <;> rfl
@[simp] theorem State.startDump_victims (s : State) (r : RoomId) (n a b c : Nat) : (s.startDump r n a b c).victims = s.victims := by unfold State.startDump; dsimp only; split <;> rfl
@[simp] theorem State.startDump_oldHandles (s : State) (r : RoomId) (n a b c : Nat) : (s.startDump r n a b c).oldHandles = s.oldHandles := by unfold State.startDump; dsimp only; split <;> rfl
@[simp] theorem State.startDump_held (s : State) (r : RoomId) (n a b c : Nat) : (s.startDump r n a b c).held = s.held := by unfold State.startDump; dsimp only; split <;> rfl
@[simp] theorem State.startDump_moved (s : State) (r : RoomId) (n a b c : Nat) : (s.startDump r n a b c).moved = s.moved := by unfold State.startDump; dsimp only; split <;> rfl
@[simp] theorem State.startDump_nextId (s : State) (r : RoomId) (n a b c : Nat) : (s.startDump r n a b c).nextId = s.nextId := by unfold State.startDump; dsimp only; split <;> rfl
@[simp] theorem State.startDump_atomics (s : State) (r : RoomId) (n a b c : Nat) : (s.startDump r n a b c).atomics = s.atomics := by unfold State.startDump; dsimp only; split <;> rfl
@[simp] theorem State.startDump_refresh (s : State) (r : RoomId) (n a b c : Nat) : (s.startDump r n a b c).refresh = s.refresh := by unfold State.startDump; dsimp only; split <;> rfl
@[simp] theorem State.startDump_clocks (s : State) (r : RoomId) (n a b c : Nat) : (s.startDump r n a b c).clocks = s.clocks := by unfold State.startDump; dsimp only; split <;> rfl
@[simp] theorem State.startDump_sent (s : State) (r : RoomId) (n a b c : Nat) : (s.startDump r n a b c).sent = s.sent := by unfold State.startDump; dsimp only; split <;> rfl
@[simp] theorem State.startDump_ring (s : State) (r : RoomId) (n a b c : Nat) : (s.startDump r n a b c).ring = s.ring := by unfold State.startDump; dsimp only; split <;> rfl
@[simp] theorem State.startDump_ringWrites (s : State) (r : RoomId) (n a b c : Nat) : (s.startDump r n a b c).ringWrites = s.ringWrites := by unfold State.startDump; dsimp only; split <;> rfl
@[simp] theorem State.startDump_windows (s : State) (r : RoomId) (n a b c : Nat) : (s.startDump r n a b c).windows = s.windows := by unfold State.startDump; dsimp only; split <;> rfl
@[simp] theorem State.startDump_rdma (s : State) (r : RoomId) (n a b c : Nat) : (s.startDump r n a b c).rdma = s.rdma := by unfold State.startDump; dsimp only; split <;> rfl
@[simp] theorem State.startDump_qps (s : State) (r : RoomId) (n a b c : Nat) : (s.startDump r n a b c).qps = s.qps := by unfold State.startDump; dsimp only; split <;> rfl
@[simp] theorem State.startDump_hostWaits (s : State) (r : RoomId) (n a b c : Nat) : (s.startDump r n a b c).hostWaits = s.hostWaits := by unfold State.startDump; dsimp only; split <;> rfl
@[simp] theorem State.startDump_rdmaAtomics (s : State) (r : RoomId) (n a b c : Nat) : (s.startDump r n a b c).rdmaAtomics = s.rdmaAtomics := by unfold State.startDump; dsimp only; split <;> rfl
@[simp] theorem State.startDump_acl (s : State) (r : RoomId) (n a b c : Nat) : (s.startDump r n a b c).acl = s.acl := by unfold State.startDump; dsimp only; split <;> rfl
@[simp] theorem State.startDump_ports (s : State) (r : RoomId) (n a b c : Nat) : (s.startDump r n a b c).ports = s.ports := by unfold State.startDump; dsimp only; split <;> rfl
@[simp] theorem State.startDump_peerReplies (s : State) (r : RoomId) (n a b c : Nat) : (s.startDump r n a b c).peerReplies = s.peerReplies := by unfold State.startDump; dsimp only; split <;> rfl
@[simp] theorem State.startDump_peerAsks (s : State) (r : RoomId) (n a b c : Nat) : (s.startDump r n a b c).peerAsks = s.peerAsks := by unfold State.startDump; dsimp only; split <;> rfl
@[simp] theorem State.startDump_links (s : State) (r : RoomId) (n a b c : Nat) : (s.startDump r n a b c).links = s.links := by unfold State.startDump; dsimp only; split <;> rfl
@[simp] theorem State.startDump_routing (s : State) (r : RoomId) (n a b c : Nat) : (s.startDump r n a b c).routing = s.routing := by unfold State.startDump; dsimp only; split <;> rfl
@[simp] theorem State.startDump_lockTb (s : State) (r : RoomId) (n a b c : Nat) : (s.startDump r n a b c).lockTb = s.lockTb := by unfold State.startDump; dsimp only; split <;> rfl
@[simp] theorem State.startDump_armed (s : State) (r : RoomId) (n a b c : Nat) : (s.startDump r n a b c).armed = s.armed := by unfold State.startDump; dsimp only; split <;> rfl
@[simp] theorem State.startDump_fired (s : State) (r : RoomId) (n a b c : Nat) : (s.startDump r n a b c).fired = s.fired := by unfold State.startDump; dsimp only; split <;> rfl
@[simp] theorem State.startDump_scrubPos (s : State) (r : RoomId) (n a b c : Nat) : (s.startDump r n a b c).scrubPos = s.scrubPos := by unfold State.startDump; dsimp only; split <;> rfl
@[simp] theorem State.startDump_errLast (s : State) (r : RoomId) (n a b c : Nat) : (s.startDump r n a b c).errLast = s.errLast := by unfold State.startDump; dsimp only; split <;> rfl
@[simp] theorem State.startDump_errSeen (s : State) (r : RoomId) (n a b c : Nat) : (s.startDump r n a b c).errSeen = s.errSeen := by unfold State.startDump; dsimp only; split <;> rfl
@[simp] theorem State.startDump_shadow (s : State) (r : RoomId) (n a b c : Nat) : (s.startDump r n a b c).shadow = s.shadow := by unfold State.startDump; dsimp only; split <;> rfl
@[simp] theorem State.startDump_dumpArea (s : State) (r : RoomId) (n a b c : Nat) : (s.startDump r n a b c).dumpArea = s.dumpArea := by unfold State.startDump; dsimp only; split <;> rfl

/-! ### `State.focus` -/

@[simp] theorem State.focus_agenda (s : State) (r : RoomId) : (s.focus r).agenda = s.agenda := by unfold State.focus; split <;> [rfl; (split <;> rfl)]
@[simp] theorem State.focus_queue (s : State) (r : RoomId) : (s.focus r).queue = s.queue := by unfold State.focus; split <;> [rfl; (split <;> rfl)]
@[simp] theorem State.focus_cores (s : State) (r : RoomId) : (s.focus r).cores = s.cores := by unfold State.focus; split <;> [rfl; (split <;> rfl)]
@[simp] theorem State.focus_mem (s : State) (r : RoomId) : (s.focus r).mem = s.mem := by unfold State.focus; split <;> [rfl; (split <;> rfl)]
@[simp] theorem State.focus_pages (s : State) (r : RoomId) : (s.focus r).pages = s.pages := by unfold State.focus; split <;> [rfl; (split <;> rfl)]
@[simp] theorem State.focus_loads (s : State) (r : RoomId) : (s.focus r).loads = s.loads := by unfold State.focus; split <;> [rfl; (split <;> rfl)]
@[simp] theorem State.focus_teams (s : State) (r : RoomId) : (s.focus r).teams = s.teams := by unfold State.focus; split <;> [rfl; (split <;> rfl)]
@[simp] theorem State.focus_kinds (s : State) (r : RoomId) : (s.focus r).kinds = s.kinds := by unfold State.focus; split <;> [rfl; (split <;> rfl)]
@[simp] theorem State.focus_roots (s : State) (r : RoomId) : (s.focus r).roots = s.roots := by unfold State.focus; split <;> [rfl; (split <;> rfl)]
@[simp] theorem State.focus_tlb (s : State) (r : RoomId) : (s.focus r).tlb = s.tlb := by unfold State.focus; split <;> [rfl; (split <;> rfl)]
@[simp] theorem State.focus_handles (s : State) (r : RoomId) : (s.focus r).handles = s.handles := by unfold State.focus; split <;> [rfl; (split <;> rfl)]
@[simp] theorem State.focus_restows (s : State) (r : RoomId) : (s.focus r).restows = s.restows := by unfold State.focus; split <;> [rfl; (split <;> rfl)]
@[simp] theorem State.focus_shootdowns (s : State) (r : RoomId) : (s.focus r).shootdowns = s.shootdowns := by unfold State.focus; split <;> [rfl; (split <;> rfl)]
@[simp] theorem State.focus_sessions (s : State) (r : RoomId) : (s.focus r).sessions = s.sessions := by unfold State.focus; split <;> [rfl; (split <;> rfl)]
@[simp] theorem State.focus_events (s : State) (r : RoomId) : (s.focus r).events = s.events := by unfold State.focus; split <;> [rfl; (split <;> rfl)]
@[simp] theorem State.focus_hall (s : State) (r : RoomId) : (s.focus r).hall = s.hall := by unfold State.focus; split <;> [rfl; (split <;> rfl)]
@[simp] theorem State.focus_counters (s : State) (r : RoomId) : (s.focus r).counters = s.counters := by unfold State.focus; split <;> [rfl; (split <;> rfl)]
@[simp] theorem State.focus_trace (s : State) (r : RoomId) : (s.focus r).trace = s.trace := by unfold State.focus; split <;> [rfl; (split <;> rfl)]
@[simp] theorem State.focus_dumps (s : State) (r : RoomId) : (s.focus r).dumps = s.dumps := by unfold State.focus; split <;> [rfl; (split <;> rfl)]
@[simp] theorem State.focus_power (s : State) (r : RoomId) : (s.focus r).power = s.power := by unfold State.focus; split <;> [rfl; (split <;> rfl)]
@[simp] theorem State.focus_mgmt (s : State) (r : RoomId) : (s.focus r).mgmt = s.mgmt := by unfold State.focus; split <;> [rfl; (split <;> rfl)]
@[simp] theorem State.focus_free (s : State) (r : RoomId) : (s.focus r).free = s.free := by unfold State.focus; split <;> [rfl; (split <;> rfl)]
@[simp] theorem State.focus_nextHandle (s : State) (r : RoomId) : (s.focus r).nextHandle = s.nextHandle := by unfold State.focus; split <;> [rfl; (split <;> rfl)]
@[simp] theorem State.focus_basins (s : State) (r : RoomId) : (s.focus r).basins = s.basins := by unfold State.focus; split <;> [rfl; (split <;> rfl)]
@[simp] theorem State.focus_pointers (s : State) (r : RoomId) : (s.focus r).pointers = s.pointers := by unfold State.focus; split <;> [rfl; (split <;> rfl)]
@[simp] theorem State.focus_nextSub (s : State) (r : RoomId) : (s.focus r).nextSub = s.nextSub := by unfold State.focus; split <;> [rfl; (split <;> rfl)]
@[simp] theorem State.focus_roundDue (s : State) (r : RoomId) : (s.focus r).roundDue = s.roundDue := by unfold State.focus; split <;> [rfl; (split <;> rfl)]
@[simp] theorem State.focus_victims (s : State) (r : RoomId) : (s.focus r).victims = s.victims := by unfold State.focus; split <;> [rfl; (split <;> rfl)]
@[simp] theorem State.focus_oldHandles (s : State) (r : RoomId) : (s.focus r).oldHandles = s.oldHandles := by unfold State.focus; split <;> [rfl; (split <;> rfl)]
@[simp] theorem State.focus_held (s : State) (r : RoomId) : (s.focus r).held = s.held := by unfold State.focus; split <;> [rfl; (split <;> rfl)]
@[simp] theorem State.focus_moved (s : State) (r : RoomId) : (s.focus r).moved = s.moved := by unfold State.focus; split <;> [rfl; (split <;> rfl)]
@[simp] theorem State.focus_nextId (s : State) (r : RoomId) : (s.focus r).nextId = s.nextId := by unfold State.focus; split <;> [rfl; (split <;> rfl)]
@[simp] theorem State.focus_atomics (s : State) (r : RoomId) : (s.focus r).atomics = s.atomics := by unfold State.focus; split <;> [rfl; (split <;> rfl)]
@[simp] theorem State.focus_refresh (s : State) (r : RoomId) : (s.focus r).refresh = s.refresh := by unfold State.focus; split <;> [rfl; (split <;> rfl)]
@[simp] theorem State.focus_clocks (s : State) (r : RoomId) : (s.focus r).clocks = s.clocks := by unfold State.focus; split <;> [rfl; (split <;> rfl)]
@[simp] theorem State.focus_sent (s : State) (r : RoomId) : (s.focus r).sent = s.sent := by unfold State.focus; split <;> [rfl; (split <;> rfl)]
@[simp] theorem State.focus_ring (s : State) (r : RoomId) : (s.focus r).ring = s.ring := by unfold State.focus; split <;> [rfl; (split <;> rfl)]
@[simp] theorem State.focus_ringWrites (s : State) (r : RoomId) : (s.focus r).ringWrites = s.ringWrites := by unfold State.focus; split <;> [rfl; (split <;> rfl)]
@[simp] theorem State.focus_windows (s : State) (r : RoomId) : (s.focus r).windows = s.windows := by unfold State.focus; split <;> [rfl; (split <;> rfl)]
@[simp] theorem State.focus_rdma (s : State) (r : RoomId) : (s.focus r).rdma = s.rdma := by unfold State.focus; split <;> [rfl; (split <;> rfl)]
@[simp] theorem State.focus_qps (s : State) (r : RoomId) : (s.focus r).qps = s.qps := by unfold State.focus; split <;> [rfl; (split <;> rfl)]
@[simp] theorem State.focus_hostWaits (s : State) (r : RoomId) : (s.focus r).hostWaits = s.hostWaits := by unfold State.focus; split <;> [rfl; (split <;> rfl)]
@[simp] theorem State.focus_rdmaAtomics (s : State) (r : RoomId) : (s.focus r).rdmaAtomics = s.rdmaAtomics := by unfold State.focus; split <;> [rfl; (split <;> rfl)]
@[simp] theorem State.focus_acl (s : State) (r : RoomId) : (s.focus r).acl = s.acl := by unfold State.focus; split <;> [rfl; (split <;> rfl)]
@[simp] theorem State.focus_ports (s : State) (r : RoomId) : (s.focus r).ports = s.ports := by unfold State.focus; split <;> [rfl; (split <;> rfl)]
@[simp] theorem State.focus_peerReplies (s : State) (r : RoomId) : (s.focus r).peerReplies = s.peerReplies := by unfold State.focus; split <;> [rfl; (split <;> rfl)]
@[simp] theorem State.focus_peerAsks (s : State) (r : RoomId) : (s.focus r).peerAsks = s.peerAsks := by unfold State.focus; split <;> [rfl; (split <;> rfl)]
@[simp] theorem State.focus_links (s : State) (r : RoomId) : (s.focus r).links = s.links := by unfold State.focus; split <;> [rfl; (split <;> rfl)]
@[simp] theorem State.focus_routing (s : State) (r : RoomId) : (s.focus r).routing = s.routing := by unfold State.focus; split <;> [rfl; (split <;> rfl)]
@[simp] theorem State.focus_lockTb (s : State) (r : RoomId) : (s.focus r).lockTb = s.lockTb := by unfold State.focus; split <;> [rfl; (split <;> rfl)]
@[simp] theorem State.focus_armed (s : State) (r : RoomId) : (s.focus r).armed = s.armed := by unfold State.focus; split <;> [rfl; (split <;> rfl)]
@[simp] theorem State.focus_fired (s : State) (r : RoomId) : (s.focus r).fired = s.fired := by unfold State.focus; split <;> [rfl; (split <;> rfl)]
@[simp] theorem State.focus_scrubPos (s : State) (r : RoomId) : (s.focus r).scrubPos = s.scrubPos := by unfold State.focus; split <;> [rfl; (split <;> rfl)]
@[simp] theorem State.focus_errLast (s : State) (r : RoomId) : (s.focus r).errLast = s.errLast := by unfold State.focus; split <;> [rfl; (split <;> rfl)]
@[simp] theorem State.focus_errSeen (s : State) (r : RoomId) : (s.focus r).errSeen = s.errSeen := by unfold State.focus; split <;> [rfl; (split <;> rfl)]
@[simp] theorem State.focus_shadow (s : State) (r : RoomId) : (s.focus r).shadow = s.shadow := by unfold State.focus; split <;> [rfl; (split <;> rfl)]
@[simp] theorem State.focus_dumpArea (s : State) (r : RoomId) : (s.focus r).dumpArea = s.dumpArea := by unfold State.focus; split <;> [rfl; (split <;> rfl)]

/-! ### `Room.latchAll` -/

@[simp] theorem Room.latchAll_id (r : Room) : r.latchAll.id = r.id := rfl
@[simp] theorem Room.latchAll_life (r : Room) : r.latchAll.life = r.life := rfl
@[simp] theorem Room.latchAll_stop (r : Room) : r.latchAll.stop = r.stop := rfl
@[simp] theorem Room.latchAll_core (r : Room) : r.latchAll.core = r.core := rfl
@[simp] theorem Room.latchAll_asid (r : Room) : r.latchAll.asid = r.asid := rfl
@[simp] theorem Room.latchAll_scratch (r : Room) : r.latchAll.scratch = r.scratch := rfl
@[simp] theorem Room.latchAll_sills (r : Room) : r.latchAll.sills = r.sills := rfl
@[simp] theorem Room.latchAll_tiles (r : Room) : r.latchAll.tiles = r.tiles := rfl
@[simp] theorem Room.latchAll_windows (r : Room) : r.latchAll.windows = r.windows := rfl
@[simp] theorem Room.latchAll_overflow (r : Room) : r.latchAll.overflow = r.overflow := rfl
@[simp] theorem Room.latchAll_aside (r : Room) : r.latchAll.aside = r.aside := rfl
@[simp] theorem Room.latchAll_slotNo (r : Room) : r.latchAll.slotNo = r.slotNo := rfl
@[simp] theorem Room.latchAll_pg (r : Room) : r.latchAll.pg = r.pg := rfl
@[simp] theorem Room.latchAll_loadH (r : Room) : r.latchAll.loadH = r.loadH := rfl
@[simp] theorem Room.latchAll_timePriv (r : Room) : r.latchAll.timePriv = r.timePriv := rfl
@[simp] theorem Room.latchAll_nb (r : Room) : r.latchAll.nb = r.nb := rfl
@[simp] theorem Room.latchAll_roomid (r : Room) : r.latchAll.roomid = r.roomid := rfl
@[simp] theorem Room.latchAll_roomxy (r : Room) : r.latchAll.roomxy = r.roomxy := rfl
@[simp] theorem Room.latchAll_roomz (r : Room) : r.latchAll.roomz = r.roomz := rfl
@[simp] theorem Room.latchAll_teamid (r : Room) : r.latchAll.teamid = r.teamid := rfl
@[simp] theorem Room.latchAll_teamxy (r : Room) : r.latchAll.teamxy = r.teamxy := rfl
@[simp] theorem Room.latchAll_teamz (r : Room) : r.latchAll.teamz = r.teamz := rfl
@[simp] theorem Room.latchAll_spsize (r : Room) : r.latchAll.spsize = r.spsize := rfl
@[simp] theorem Room.latchAll_dm (r : Room) : r.latchAll.dm = r.dm := rfl
@[simp] theorem Room.latchAll_atticBase (r : Room) : r.latchAll.atticBase = r.atticBase := rfl
@[simp] theorem Room.latchAll_atticSize (r : Room) : r.latchAll.atticSize = r.atticSize := rfl
@[simp] theorem Room.latchAll_atticOvf (r : Room) : r.latchAll.atticOvf = r.atticOvf := rfl
@[simp] theorem Room.latchAll_ports (r : Room) : r.latchAll.ports = r.ports := rfl
@[simp] theorem Room.latchAll_eccHits (r : Room) : r.latchAll.eccHits = r.eccHits := rfl
@[simp] theorem Room.latchAll_miss (r : Room) : r.latchAll.miss = r.miss := rfl
@[simp] theorem Room.latchAll_heldBy (r : Room) : r.latchAll.heldBy = r.heldBy := rfl
@[simp] theorem Room.latchAll_ctl (r : Room) : r.latchAll.ctl = r.ctl := rfl
@[simp] theorem Room.latchAll_snap (r : Room) : r.latchAll.snap = r.snap := rfl
@[simp] theorem Room.latchAll_snapAside (r : Room) : r.latchAll.snapAside = r.snapAside := rfl
@[simp] theorem Room.latchAll_snapTiles (r : Room) : r.latchAll.snapTiles = r.snapTiles := rfl
@[simp] theorem Room.latchAll_snapDue (r : Room) : r.latchAll.snapDue = r.snapDue := rfl
@[simp] theorem Room.latchAll_entries (r : Room) : r.latchAll.entries = r.entries := rfl
@[simp] theorem Room.latchAll_writers (r : Room) : r.latchAll.writers = r.writers := rfl
@[simp] theorem Room.latchAll_bkpt (r : Room) : r.latchAll.bkpt = r.bkpt := rfl
@[simp] theorem Room.latchAll_watch (r : Room) : r.latchAll.watch = r.watch := rfl
@[simp] theorem Room.latchAll_stepOnce (r : Room) : r.latchAll.stepOnce = r.stepOnce := rfl
@[simp] theorem Room.latchAll_stopAsked (r : Room) : r.latchAll.stopAsked = r.stopAsked := rfl
@[simp] theorem Room.latchAll_spHere (r : Room) : r.latchAll.spHere = r.spHere := rfl
@[simp] theorem Room.latchAll_stopHere (r : Room) : r.latchAll.stopHere = r.stopHere := rfl
@[simp] theorem Room.latchAll_owes (r : Room) : r.latchAll.owes = r.owes := rfl
@[simp] theorem Room.latchAll_lastM (r : Room) : r.latchAll.lastM = r.lastM := rfl
@[simp] theorem Room.latchAll_phasePc (r : Room) : r.latchAll.phasePc = r.phasePc := rfl
@[simp] theorem Room.latchAll_bkptPassed (r : Room) : r.latchAll.bkptPassed = r.bkptPassed := rfl
@[simp] theorem Room.latchAll_stopTb (r : Room) : r.latchAll.stopTb = r.stopTb := rfl
@[simp] theorem Room.latchAll_ctx_pc (r : Room) : r.latchAll.ctx.pc = r.ctx.pc := rfl
@[simp] theorem Room.latchAll_ctx_s (r : Room) : r.latchAll.ctx.s = r.ctx.s := rfl
@[simp] theorem Room.latchAll_ctx_a (r : Room) : r.latchAll.ctx.a = r.ctx.a := rfl
@[simp] theorem Room.latchAll_ctx_g (r : Room) : r.latchAll.ctx.g = r.ctx.g := rfl
@[simp] theorem Room.latchAll_ctx_q (r : Room) : r.latchAll.ctx.q = r.ctx.q := rfl
@[simp] theorem Room.latchAll_ctx_d (r : Room) : r.latchAll.ctx.d = r.ctx.d := rfl
@[simp] theorem Room.latchAll_ctx_m (r : Room) : r.latchAll.ctx.m = r.ctx.m := rfl
@[simp] theorem Room.latchAll_ctx_fx (r : Room) : r.latchAll.ctx.fx = r.ctx.fx := rfl
@[simp] theorem Room.latchAll_ctx_qx (r : Room) : r.latchAll.ctx.qx = r.ctx.qx := rfl
@[simp] theorem Room.latchAll_ctx_winb (r : Room) : r.latchAll.ctx.winb = r.ctx.winb := rfl
@[simp] theorem Room.latchAll_ctx_repc (r : Room) : r.latchAll.ctx.repc = r.ctx.repc := rfl
@[simp] theorem Room.latchAll_ctx_phase (r : Room) : r.latchAll.ctx.phase = r.ctx.phase := rfl
@[simp] theorem Room.latchAll_ctx_trapc (r : Room) : r.latchAll.ctx.trapc = r.ctx.trapc := rfl
@[simp] theorem Room.latchAll_ctx_trappc (r : Room) : r.latchAll.ctx.trappc = r.ctx.trappc := rfl
@[simp] theorem Room.latchAll_ctx_landings (r : Room) : r.latchAll.ctx.landings = r.ctx.landings := rfl
@[simp] theorem Room.latchAll_ctx_flights (r : Room) : r.latchAll.ctx.flights = r.ctx.flights := rfl
@[simp] theorem Room.latchAll_ctx_due (r : Room) : r.latchAll.ctx.due = r.ctx.due := rfl
@[simp] theorem Room.latchAll_ctx_wait (r : Room) : r.latchAll.ctx.wait = r.ctx.wait := rfl
@[simp] theorem Room.latchAll_ctx_loops (r : Room) : r.latchAll.ctx.loops = r.ctx.loops := rfl

/-! ### `Room.onEntry` -/

@[simp] theorem Room.onEntry_id (r : Room) (n : Nat) (f : XEntry → XEntry) : (r.onEntry n f).id = r.id := rfl
@[simp] theorem Room.onEntry_life (r : Room) (n : Nat) (f : XEntry → XEntry) : (r.onEntry n f).life = r.life := rfl
@[simp] theorem Room.onEntry_stop (r : Room) (n : Nat) (f : XEntry → XEntry) : (r.onEntry n f).stop = r.stop := rfl
@[simp] theorem Room.onEntry_core (r : Room) (n : Nat) (f : XEntry → XEntry) : (r.onEntry n f).core = r.core := rfl
@[simp] theorem Room.onEntry_asid (r : Room) (n : Nat) (f : XEntry → XEntry) : (r.onEntry n f).asid = r.asid := rfl
@[simp] theorem Room.onEntry_scratch (r : Room) (n : Nat) (f : XEntry → XEntry) : (r.onEntry n f).scratch = r.scratch := rfl
@[simp] theorem Room.onEntry_sills (r : Room) (n : Nat) (f : XEntry → XEntry) : (r.onEntry n f).sills = r.sills := rfl
@[simp] theorem Room.onEntry_tiles (r : Room) (n : Nat) (f : XEntry → XEntry) : (r.onEntry n f).tiles = r.tiles := rfl
@[simp] theorem Room.onEntry_windows (r : Room) (n : Nat) (f : XEntry → XEntry) : (r.onEntry n f).windows = r.windows := rfl
@[simp] theorem Room.onEntry_overflow (r : Room) (n : Nat) (f : XEntry → XEntry) : (r.onEntry n f).overflow = r.overflow := rfl
@[simp] theorem Room.onEntry_aside (r : Room) (n : Nat) (f : XEntry → XEntry) : (r.onEntry n f).aside = r.aside := rfl
@[simp] theorem Room.onEntry_slotNo (r : Room) (n : Nat) (f : XEntry → XEntry) : (r.onEntry n f).slotNo = r.slotNo := rfl
@[simp] theorem Room.onEntry_pg (r : Room) (n : Nat) (f : XEntry → XEntry) : (r.onEntry n f).pg = r.pg := rfl
@[simp] theorem Room.onEntry_loadH (r : Room) (n : Nat) (f : XEntry → XEntry) : (r.onEntry n f).loadH = r.loadH := rfl
@[simp] theorem Room.onEntry_timePriv (r : Room) (n : Nat) (f : XEntry → XEntry) : (r.onEntry n f).timePriv = r.timePriv := rfl
@[simp] theorem Room.onEntry_nb (r : Room) (n : Nat) (f : XEntry → XEntry) : (r.onEntry n f).nb = r.nb := rfl
@[simp] theorem Room.onEntry_roomid (r : Room) (n : Nat) (f : XEntry → XEntry) : (r.onEntry n f).roomid = r.roomid := rfl
@[simp] theorem Room.onEntry_roomxy (r : Room) (n : Nat) (f : XEntry → XEntry) : (r.onEntry n f).roomxy = r.roomxy := rfl
@[simp] theorem Room.onEntry_roomz (r : Room) (n : Nat) (f : XEntry → XEntry) : (r.onEntry n f).roomz = r.roomz := rfl
@[simp] theorem Room.onEntry_teamid (r : Room) (n : Nat) (f : XEntry → XEntry) : (r.onEntry n f).teamid = r.teamid := rfl
@[simp] theorem Room.onEntry_teamxy (r : Room) (n : Nat) (f : XEntry → XEntry) : (r.onEntry n f).teamxy = r.teamxy := rfl
@[simp] theorem Room.onEntry_teamz (r : Room) (n : Nat) (f : XEntry → XEntry) : (r.onEntry n f).teamz = r.teamz := rfl
@[simp] theorem Room.onEntry_spsize (r : Room) (n : Nat) (f : XEntry → XEntry) : (r.onEntry n f).spsize = r.spsize := rfl
@[simp] theorem Room.onEntry_dm (r : Room) (n : Nat) (f : XEntry → XEntry) : (r.onEntry n f).dm = r.dm := rfl
@[simp] theorem Room.onEntry_atticBase (r : Room) (n : Nat) (f : XEntry → XEntry) : (r.onEntry n f).atticBase = r.atticBase := rfl
@[simp] theorem Room.onEntry_atticSize (r : Room) (n : Nat) (f : XEntry → XEntry) : (r.onEntry n f).atticSize = r.atticSize := rfl
@[simp] theorem Room.onEntry_atticOvf (r : Room) (n : Nat) (f : XEntry → XEntry) : (r.onEntry n f).atticOvf = r.atticOvf := rfl
@[simp] theorem Room.onEntry_ports (r : Room) (n : Nat) (f : XEntry → XEntry) : (r.onEntry n f).ports = r.ports := rfl
@[simp] theorem Room.onEntry_eccHits (r : Room) (n : Nat) (f : XEntry → XEntry) : (r.onEntry n f).eccHits = r.eccHits := rfl
@[simp] theorem Room.onEntry_miss (r : Room) (n : Nat) (f : XEntry → XEntry) : (r.onEntry n f).miss = r.miss := rfl
@[simp] theorem Room.onEntry_heldBy (r : Room) (n : Nat) (f : XEntry → XEntry) : (r.onEntry n f).heldBy = r.heldBy := rfl
@[simp] theorem Room.onEntry_ctl (r : Room) (n : Nat) (f : XEntry → XEntry) : (r.onEntry n f).ctl = r.ctl := rfl
@[simp] theorem Room.onEntry_snap (r : Room) (n : Nat) (f : XEntry → XEntry) : (r.onEntry n f).snap = r.snap := rfl
@[simp] theorem Room.onEntry_snapAside (r : Room) (n : Nat) (f : XEntry → XEntry) : (r.onEntry n f).snapAside = r.snapAside := rfl
@[simp] theorem Room.onEntry_snapTiles (r : Room) (n : Nat) (f : XEntry → XEntry) : (r.onEntry n f).snapTiles = r.snapTiles := rfl
@[simp] theorem Room.onEntry_snapDue (r : Room) (n : Nat) (f : XEntry → XEntry) : (r.onEntry n f).snapDue = r.snapDue := rfl
@[simp] theorem Room.onEntry_entries (r : Room) (n : Nat) (f : XEntry → XEntry) : (r.onEntry n f).entries = r.entries := rfl
@[simp] theorem Room.onEntry_writers (r : Room) (n : Nat) (f : XEntry → XEntry) : (r.onEntry n f).writers = r.writers := rfl
@[simp] theorem Room.onEntry_bkpt (r : Room) (n : Nat) (f : XEntry → XEntry) : (r.onEntry n f).bkpt = r.bkpt := rfl
@[simp] theorem Room.onEntry_watch (r : Room) (n : Nat) (f : XEntry → XEntry) : (r.onEntry n f).watch = r.watch := rfl
@[simp] theorem Room.onEntry_stepOnce (r : Room) (n : Nat) (f : XEntry → XEntry) : (r.onEntry n f).stepOnce = r.stepOnce := rfl
@[simp] theorem Room.onEntry_stopAsked (r : Room) (n : Nat) (f : XEntry → XEntry) : (r.onEntry n f).stopAsked = r.stopAsked := rfl
@[simp] theorem Room.onEntry_spHere (r : Room) (n : Nat) (f : XEntry → XEntry) : (r.onEntry n f).spHere = r.spHere := rfl
@[simp] theorem Room.onEntry_stopHere (r : Room) (n : Nat) (f : XEntry → XEntry) : (r.onEntry n f).stopHere = r.stopHere := rfl
@[simp] theorem Room.onEntry_owes (r : Room) (n : Nat) (f : XEntry → XEntry) : (r.onEntry n f).owes = r.owes := rfl
@[simp] theorem Room.onEntry_lastM (r : Room) (n : Nat) (f : XEntry → XEntry) : (r.onEntry n f).lastM = r.lastM := rfl
@[simp] theorem Room.onEntry_phasePc (r : Room) (n : Nat) (f : XEntry → XEntry) : (r.onEntry n f).phasePc = r.phasePc := rfl
@[simp] theorem Room.onEntry_bkptPassed (r : Room) (n : Nat) (f : XEntry → XEntry) : (r.onEntry n f).bkptPassed = r.bkptPassed := rfl
@[simp] theorem Room.onEntry_stopTb (r : Room) (n : Nat) (f : XEntry → XEntry) : (r.onEntry n f).stopTb = r.stopTb := rfl
@[simp] theorem Room.onEntry_ctx_pc (r : Room) (n : Nat) (f : XEntry → XEntry) : (r.onEntry n f).ctx.pc = r.ctx.pc := rfl
@[simp] theorem Room.onEntry_ctx_s (r : Room) (n : Nat) (f : XEntry → XEntry) : (r.onEntry n f).ctx.s = r.ctx.s := rfl
@[simp] theorem Room.onEntry_ctx_a (r : Room) (n : Nat) (f : XEntry → XEntry) : (r.onEntry n f).ctx.a = r.ctx.a := rfl
@[simp] theorem Room.onEntry_ctx_g (r : Room) (n : Nat) (f : XEntry → XEntry) : (r.onEntry n f).ctx.g = r.ctx.g := rfl
@[simp] theorem Room.onEntry_ctx_q (r : Room) (n : Nat) (f : XEntry → XEntry) : (r.onEntry n f).ctx.q = r.ctx.q := rfl
@[simp] theorem Room.onEntry_ctx_d (r : Room) (n : Nat) (f : XEntry → XEntry) : (r.onEntry n f).ctx.d = r.ctx.d := rfl
@[simp] theorem Room.onEntry_ctx_m (r : Room) (n : Nat) (f : XEntry → XEntry) : (r.onEntry n f).ctx.m = r.ctx.m := rfl
@[simp] theorem Room.onEntry_ctx_fx (r : Room) (n : Nat) (f : XEntry → XEntry) : (r.onEntry n f).ctx.fx = r.ctx.fx := rfl
@[simp] theorem Room.onEntry_ctx_qx (r : Room) (n : Nat) (f : XEntry → XEntry) : (r.onEntry n f).ctx.qx = r.ctx.qx := rfl
@[simp] theorem Room.onEntry_ctx_winb (r : Room) (n : Nat) (f : XEntry → XEntry) : (r.onEntry n f).ctx.winb = r.ctx.winb := rfl
@[simp] theorem Room.onEntry_ctx_repc (r : Room) (n : Nat) (f : XEntry → XEntry) : (r.onEntry n f).ctx.repc = r.ctx.repc := rfl
@[simp] theorem Room.onEntry_ctx_phase (r : Room) (n : Nat) (f : XEntry → XEntry) : (r.onEntry n f).ctx.phase = r.ctx.phase := rfl
@[simp] theorem Room.onEntry_ctx_trapc (r : Room) (n : Nat) (f : XEntry → XEntry) : (r.onEntry n f).ctx.trapc = r.ctx.trapc := rfl
@[simp] theorem Room.onEntry_ctx_trappc (r : Room) (n : Nat) (f : XEntry → XEntry) : (r.onEntry n f).ctx.trappc = r.ctx.trappc := rfl
@[simp] theorem Room.onEntry_ctx_landings (r : Room) (n : Nat) (f : XEntry → XEntry) : (r.onEntry n f).ctx.landings = r.ctx.landings := rfl
@[simp] theorem Room.onEntry_ctx_flights (r : Room) (n : Nat) (f : XEntry → XEntry) : (r.onEntry n f).ctx.flights = r.ctx.flights := rfl
@[simp] theorem Room.onEntry_ctx_due (r : Room) (n : Nat) (f : XEntry → XEntry) : (r.onEntry n f).ctx.due = r.ctx.due := rfl
@[simp] theorem Room.onEntry_ctx_wait (r : Room) (n : Nat) (f : XEntry → XEntry) : (r.onEntry n f).ctx.wait = r.ctx.wait := rfl
@[simp] theorem Room.onEntry_ctx_loops (r : Room) (n : Nat) (f : XEntry → XEntry) : (r.onEntry n f).ctx.loops = r.ctx.loops := rfl

/-! ### `Room.dropEntry` -/

@[simp] theorem Room.dropEntry_id (r : Room) (n : Nat) : (r.dropEntry n).id = r.id := rfl
@[simp] theorem Room.dropEntry_life (r : Room) (n : Nat) : (r.dropEntry n).life = r.life := rfl
@[simp] theorem Room.dropEntry_stop (r : Room) (n : Nat) : (r.dropEntry n).stop = r.stop := rfl
@[simp] theorem Room.dropEntry_core (r : Room) (n : Nat) : (r.dropEntry n).core = r.core := rfl
@[simp] theorem Room.dropEntry_asid (r : Room) (n : Nat) : (r.dropEntry n).asid = r.asid := rfl
@[simp] theorem Room.dropEntry_scratch (r : Room) (n : Nat) : (r.dropEntry n).scratch = r.scratch := rfl
@[simp] theorem Room.dropEntry_sills (r : Room) (n : Nat) : (r.dropEntry n).sills = r.sills := rfl
@[simp] theorem Room.dropEntry_tiles (r : Room) (n : Nat) : (r.dropEntry n).tiles = r.tiles := rfl
@[simp] theorem Room.dropEntry_windows (r : Room) (n : Nat) : (r.dropEntry n).windows = r.windows := rfl
@[simp] theorem Room.dropEntry_overflow (r : Room) (n : Nat) : (r.dropEntry n).overflow = r.overflow := rfl
@[simp] theorem Room.dropEntry_aside (r : Room) (n : Nat) : (r.dropEntry n).aside = r.aside := rfl
@[simp] theorem Room.dropEntry_slotNo (r : Room) (n : Nat) : (r.dropEntry n).slotNo = r.slotNo := rfl
@[simp] theorem Room.dropEntry_pg (r : Room) (n : Nat) : (r.dropEntry n).pg = r.pg := rfl
@[simp] theorem Room.dropEntry_loadH (r : Room) (n : Nat) : (r.dropEntry n).loadH = r.loadH := rfl
@[simp] theorem Room.dropEntry_timePriv (r : Room) (n : Nat) : (r.dropEntry n).timePriv = r.timePriv := rfl
@[simp] theorem Room.dropEntry_nb (r : Room) (n : Nat) : (r.dropEntry n).nb = r.nb := rfl
@[simp] theorem Room.dropEntry_roomid (r : Room) (n : Nat) : (r.dropEntry n).roomid = r.roomid := rfl
@[simp] theorem Room.dropEntry_roomxy (r : Room) (n : Nat) : (r.dropEntry n).roomxy = r.roomxy := rfl
@[simp] theorem Room.dropEntry_roomz (r : Room) (n : Nat) : (r.dropEntry n).roomz = r.roomz := rfl
@[simp] theorem Room.dropEntry_teamid (r : Room) (n : Nat) : (r.dropEntry n).teamid = r.teamid := rfl
@[simp] theorem Room.dropEntry_teamxy (r : Room) (n : Nat) : (r.dropEntry n).teamxy = r.teamxy := rfl
@[simp] theorem Room.dropEntry_teamz (r : Room) (n : Nat) : (r.dropEntry n).teamz = r.teamz := rfl
@[simp] theorem Room.dropEntry_spsize (r : Room) (n : Nat) : (r.dropEntry n).spsize = r.spsize := rfl
@[simp] theorem Room.dropEntry_dm (r : Room) (n : Nat) : (r.dropEntry n).dm = r.dm := rfl
@[simp] theorem Room.dropEntry_atticBase (r : Room) (n : Nat) : (r.dropEntry n).atticBase = r.atticBase := rfl
@[simp] theorem Room.dropEntry_atticSize (r : Room) (n : Nat) : (r.dropEntry n).atticSize = r.atticSize := rfl
@[simp] theorem Room.dropEntry_atticOvf (r : Room) (n : Nat) : (r.dropEntry n).atticOvf = r.atticOvf := rfl
@[simp] theorem Room.dropEntry_ports (r : Room) (n : Nat) : (r.dropEntry n).ports = r.ports := rfl
@[simp] theorem Room.dropEntry_eccHits (r : Room) (n : Nat) : (r.dropEntry n).eccHits = r.eccHits := rfl
@[simp] theorem Room.dropEntry_miss (r : Room) (n : Nat) : (r.dropEntry n).miss = r.miss := rfl
@[simp] theorem Room.dropEntry_heldBy (r : Room) (n : Nat) : (r.dropEntry n).heldBy = r.heldBy := rfl
@[simp] theorem Room.dropEntry_ctl (r : Room) (n : Nat) : (r.dropEntry n).ctl = r.ctl := rfl
@[simp] theorem Room.dropEntry_snap (r : Room) (n : Nat) : (r.dropEntry n).snap = r.snap := rfl
@[simp] theorem Room.dropEntry_snapAside (r : Room) (n : Nat) : (r.dropEntry n).snapAside = r.snapAside := rfl
@[simp] theorem Room.dropEntry_snapTiles (r : Room) (n : Nat) : (r.dropEntry n).snapTiles = r.snapTiles := rfl
@[simp] theorem Room.dropEntry_snapDue (r : Room) (n : Nat) : (r.dropEntry n).snapDue = r.snapDue := rfl
@[simp] theorem Room.dropEntry_entries (r : Room) (n : Nat) : (r.dropEntry n).entries = r.entries := rfl
@[simp] theorem Room.dropEntry_writers (r : Room) (n : Nat) : (r.dropEntry n).writers = r.writers := rfl
@[simp] theorem Room.dropEntry_bkpt (r : Room) (n : Nat) : (r.dropEntry n).bkpt = r.bkpt := rfl
@[simp] theorem Room.dropEntry_watch (r : Room) (n : Nat) : (r.dropEntry n).watch = r.watch := rfl
@[simp] theorem Room.dropEntry_stepOnce (r : Room) (n : Nat) : (r.dropEntry n).stepOnce = r.stepOnce := rfl
@[simp] theorem Room.dropEntry_stopAsked (r : Room) (n : Nat) : (r.dropEntry n).stopAsked = r.stopAsked := rfl
@[simp] theorem Room.dropEntry_spHere (r : Room) (n : Nat) : (r.dropEntry n).spHere = r.spHere := rfl
@[simp] theorem Room.dropEntry_stopHere (r : Room) (n : Nat) : (r.dropEntry n).stopHere = r.stopHere := rfl
@[simp] theorem Room.dropEntry_owes (r : Room) (n : Nat) : (r.dropEntry n).owes = r.owes := rfl
@[simp] theorem Room.dropEntry_lastM (r : Room) (n : Nat) : (r.dropEntry n).lastM = r.lastM := rfl
@[simp] theorem Room.dropEntry_phasePc (r : Room) (n : Nat) : (r.dropEntry n).phasePc = r.phasePc := rfl
@[simp] theorem Room.dropEntry_bkptPassed (r : Room) (n : Nat) : (r.dropEntry n).bkptPassed = r.bkptPassed := rfl
@[simp] theorem Room.dropEntry_stopTb (r : Room) (n : Nat) : (r.dropEntry n).stopTb = r.stopTb := rfl
@[simp] theorem Room.dropEntry_ctx_pc (r : Room) (n : Nat) : (r.dropEntry n).ctx.pc = r.ctx.pc := rfl
@[simp] theorem Room.dropEntry_ctx_s (r : Room) (n : Nat) : (r.dropEntry n).ctx.s = r.ctx.s := rfl
@[simp] theorem Room.dropEntry_ctx_a (r : Room) (n : Nat) : (r.dropEntry n).ctx.a = r.ctx.a := rfl
@[simp] theorem Room.dropEntry_ctx_g (r : Room) (n : Nat) : (r.dropEntry n).ctx.g = r.ctx.g := rfl
@[simp] theorem Room.dropEntry_ctx_q (r : Room) (n : Nat) : (r.dropEntry n).ctx.q = r.ctx.q := rfl
@[simp] theorem Room.dropEntry_ctx_d (r : Room) (n : Nat) : (r.dropEntry n).ctx.d = r.ctx.d := rfl
@[simp] theorem Room.dropEntry_ctx_m (r : Room) (n : Nat) : (r.dropEntry n).ctx.m = r.ctx.m := rfl
@[simp] theorem Room.dropEntry_ctx_fx (r : Room) (n : Nat) : (r.dropEntry n).ctx.fx = r.ctx.fx := rfl
@[simp] theorem Room.dropEntry_ctx_qx (r : Room) (n : Nat) : (r.dropEntry n).ctx.qx = r.ctx.qx := rfl
@[simp] theorem Room.dropEntry_ctx_winb (r : Room) (n : Nat) : (r.dropEntry n).ctx.winb = r.ctx.winb := rfl
@[simp] theorem Room.dropEntry_ctx_repc (r : Room) (n : Nat) : (r.dropEntry n).ctx.repc = r.ctx.repc := rfl
@[simp] theorem Room.dropEntry_ctx_phase (r : Room) (n : Nat) : (r.dropEntry n).ctx.phase = r.ctx.phase := rfl
@[simp] theorem Room.dropEntry_ctx_trapc (r : Room) (n : Nat) : (r.dropEntry n).ctx.trapc = r.ctx.trapc := rfl
@[simp] theorem Room.dropEntry_ctx_trappc (r : Room) (n : Nat) : (r.dropEntry n).ctx.trappc = r.ctx.trappc := rfl
@[simp] theorem Room.dropEntry_ctx_landings (r : Room) (n : Nat) : (r.dropEntry n).ctx.landings = r.ctx.landings := rfl
@[simp] theorem Room.dropEntry_ctx_flights (r : Room) (n : Nat) : (r.dropEntry n).ctx.flights = r.ctx.flights := rfl
@[simp] theorem Room.dropEntry_ctx_due (r : Room) (n : Nat) : (r.dropEntry n).ctx.due = r.ctx.due := rfl
@[simp] theorem Room.dropEntry_ctx_wait (r : Room) (n : Nat) : (r.dropEntry n).ctx.wait = r.ctx.wait := rfl
@[simp] theorem Room.dropEntry_ctx_loops (r : Room) (n : Nat) : (r.dropEntry n).ctx.loops = r.ctx.loops := rfl

/-! ### What an update of one room does to it -/

theorem mem_rooms {s : State} {r : Room} (h : r ∈ s.rooms) : r.life ≠ .absent := by
  simpa [State.rooms] using (List.mem_filter.1 h).2

theorem room?_some {s : State} {id : RoomId} {r : Room} (h : s.room? id = some r) : r.id = id ∧ r.life ≠ .absent :=
  ⟨by simpa using List.find?_some h, mem_rooms (List.mem_of_find?_eq_some h)⟩

theorem find?_mapIf {α : Type} {p q : α → Bool} {f : α → α} {l : List α} {x : α} (h : l.find? p = some x)
    (hq : ∀ y ∈ l, p y = true → q y = true ∧ p (f y) = true) (hn : ∀ y ∈ l, p y = false → q y = false) :
    (mapIf q f l).find? p = some (f x) := by
  induction l with
  | nil => simp at h
  | cons y l ih =>
    simp only [mapIf, List.map_cons, List.find?_cons] at h ⊢
    cases hy : p y with
    | true =>
      rw [hy] at h
      obtain rfl : y = x := by simpa using h
      obtain ⟨h1, h2⟩ := hq y List.mem_cons_self hy
      simp [h1, h2]
    | false =>
      rw [hy] at h
      simp only [hn y List.mem_cons_self hy, Bool.false_eq_true, if_false, hy]
      exact ih h (fun z hz => hq z (List.mem_cons_of_mem _ hz)) fun z hz => hn z (List.mem_cons_of_mem _ hz)

theorem room?_eq (s : State) (id : RoomId) :
    s.room? id = (s.me :: s.others).find? fun r => r.life != .absent && r.id == id := by
  simp only [State.room?, State.rooms, List.find?_filter, Bool.decide_and, Bool.decide_eq_true]

/-- A room changed in place is found changed. -/
theorem room?_onRoom {s : State} {id : RoomId} {x : Room} {f : Room → Room} (h : s.room? id = some x)
    (hf : ∀ y, y.id = id → y.life ≠ .absent → (f y).id = id ∧ (f y).life ≠ .absent) :
    (s.onRoom id f).room? id = some (f x) := by
  rw [room?_eq] at h ⊢
  unfold State.onRoom
  by_cases hm : s.me.id = id ∧ s.me.life ≠ .absent
  · have hc : (decide (s.me.id = id) && s.me.life != Life.absent) = true := by simp [hm.1, hm.2]
    rw [if_pos hc]
    obtain rfl : s.me = x := by simpa [hm.1, hm.2] using h
    obtain ⟨h1, h2⟩ := hf s.me hm.1 hm.2
    simp [h1, h2]
  · have hc : (decide (s.me.id = id) && s.me.life != Life.absent) = false := by
      by_cases h1 : s.me.id = id
      · have := not_and.1 hm h1
        simp at this; simp [h1, this]
      · simp [h1]
    have hp : (s.me.life != Life.absent && s.me.id == id) = false := by
      by_cases h1 : s.me.id = id
      · have := not_and.1 hm h1
        simp at this; simp [h1, this]
      · simp [h1]
    simp only [hc, Bool.false_eq_true, if_false]
    rw [List.find?_cons, hp] at h ⊢
    exact find?_mapIf h (fun y _ hy => by
      simp only [Bool.and_eq_true, bne_iff_ne, beq_iff_eq] at hy
      obtain ⟨h1, h2⟩ := hf y hy.2 hy.1
      simp [h1, h2, hy.1, hy.2]) fun y _ hy => by rw [Bool.and_comm]; exact hy

end Sys2Proof.Machine
end

