-- ==== Sys2Proof/Laws/Ops.lean ====
section
/-! SUPPORT. What each shared operation does, said once: landings, slot instructions, entries of the transfer queue,
commands, and accesses to global memory. -/

namespace Sys2Proof.Machine

/-! ### Landings (R157, R158, R168) -/

/-- A landing on no discarded register that meets no other is pending, and nothing else changes. -/
theorem Ctx.landAt_ok {c : Ctx} {slot lat : Nat} {v : LandVal} (r : Raised) (hd : discarded v = false)
    (hc : ∀ l ∈ c.landings, l.due = c.ic + lat → sameReg l.val v = false) :
    c.landAt slot lat v r = .ok { c with landings := c.landings ++
      [{ due := c.ic + lat, val := v, slot := slot, raised := r, escape := none }] } := by
  have : (c.landings.any fun l => l.due == c.ic + lat && sameReg l.val v) = false := by
    rw [List.any_eq_false]
    intro l hl
    by_cases h : l.due = c.ic + lat
    · simp [h, hc l hl h]
    · simp [h]
  simp [Ctx.landAt, hd, this]

/-- A result without flags for s0 or g0 leaves no trace. -/
theorem Ctx.landAt_discarded {c : Ctx} {slot lat : Nat} {v : LandVal} (hd : discarded v = true) :
    c.landAt slot lat v Raised.none = .ok c := by simp [Ctx.landAt, hd]

/-- A landing that meets another on its register is SLOT_BUSY. -/
theorem Ctx.landAt_busy {c : Ctx} {slot lat : Nat} {v : LandVal} (r : Raised) (hd : discarded v = false) {l : Landing}
    (hl : l ∈ c.landings) (ht : l.due = c.ic + lat) (hs : sameReg l.val v = true) :
    c.landAt slot lat v r = .error (busy slot) := by
  have : (c.landings.any fun l => l.due == c.ic + lat && sameReg l.val v) = true :=
    List.any_eq_true.2 ⟨l, hl, by simp [ht, hs]⟩
  simp [Ctx.landAt, hd, this]

/-- A landing made or not, only the landings pending change. -/
theorem Ctx.landAt_frame {c d : Ctx} {slot lat : Nat} {v : LandVal} {r : Raised} (h : c.landAt slot lat v r = .ok d) :
    d = { c with landings := d.landings } := by
  unfold Ctx.landAt at h
  split at h
  · split at h <;> cases h <;> rfl
  · split at h
    · cases h
    · cases h; rfl

/-! ### Slot instructions (R149, R159) -/

theorem slotOp_ok {i : Instr} {slot : Nat} {s t : State} {body : State → Except Cause State} (hw : i.wellFormed = true)
    (h : body s = .ok t) : slotOp i slot s body = .next t := by simp [slotOp, hw, h]

theorem slotOp_trap {i : Instr} {slot : Nat} {s : State} {body : State → Except Cause State} {c : Cause}
    (hw : i.wellFormed = true) (h : body s = .error c) : slotOp i slot s body = .next (s.takeTrap c s.me.ctx.pc) := by
  simp [slotOp, hw, h, State.issueTrap]

theorem slotOp_illegal {i : Instr} {slot : Nat} {s : State} {body : State → Except Cause State} (hw : i.wellFormed = false) :
    slotOp i slot s body = .next (s.takeTrap (illegal slot) s.me.ctx.pc) := by simp [slotOp, hw, State.issueTrap]

theorem roomOp_ok {i : Instr} {slot : Nat} {s : State} {r : Room} {body : Room → Except Cause Room}
    (hw : i.wellFormed = true) (h : body s.me = .ok r) : roomOp i slot s body = .next { s with me := r } :=
  slotOp_ok hw (by simp [h])

theorem roomOp_trap {i : Instr} {slot : Nat} {s : State} {c : Cause} {body : Room → Except Cause Room}
    (hw : i.wellFormed = true) (h : body s.me = .error c) : roomOp i slot s body = .next (s.takeTrap c s.me.ctx.pc) :=
  slotOp_trap hw (by simp [h])

/-- An S-slot instruction that lands one value completes when its landing meets no other. -/
theorem scalarOp_ok {i : Instr} {sl : SSlot} {lat : Nat} {val : Ctx → LandVal} {s : State} {d : Ctx}
    (hw : i.wellFormed = true) (h : s.me.ctx.landAt (sNum sl) lat (val s.me.ctx) Raised.none = .ok d) :
    scalarOp i sl lat val s = .next { s with me := { s.me with ctx := d } } := roomOp_ok hw (by simp [h])

/-- An instruction that takes one entry completes when every check passes. -/
theorem entryOp_ok {i : Instr} {f : XForm} {ok aligned : Ctx → XEntry → Bool} {reads writes : Ctx → XEntry → List Iv}
    {fill : State → XEntry → XEntry} {s : State} (hw : i.wellFormed = true)
    (h1 : ok s.me.ctx (s.me.ctx.entryOf (s.me.entries + 1) i f) = true) (h2 : s.me.queueIsFull = false)
    (h3 : aligned s.me.ctx (s.me.ctx.entryOf (s.me.entries + 1) i f) = true)
    (h4 : s.me.setsOk 2 (reads s.me.ctx (s.me.ctx.entryOf (s.me.entries + 1) i f))
      (writes s.me.ctx (s.me.ctx.entryOf (s.me.entries + 1) i f)) = true) :
    entryOp i f ok aligned reads writes fill s = .next { s with
      me := s.me.enqueue (fill s (s.me.ctx.entryOf (s.me.entries + 1) i f)) 2
        (reads s.me.ctx (s.me.ctx.entryOf (s.me.entries + 1) i f))
        (writes s.me.ctx (s.me.ctx.entryOf (s.me.entries + 1) i f)) } :=
  slotOp_ok hw (by simp [h1, h2, h3, h4])

/-! ### Commands (R412 to R414) -/

/-- A command in its turn with its privilege is executed and its reply recorded. -/
theorem cmdOp_inTurn {h : CmdHdr} {i : Instr} {need : Nat} {body : State → Session → State × Answer} {s : State}
    {x : Session} (hx : s.session? h.session = some x) (hs : h.seq = x.e + 1) (hm : x.may need = true) :
    cmdOp h i need body s = .next ((body s x).1.recordReply h i (body s x).2) := by
  simp [cmdOp, State.command, hx, hs, hm]

/-- A command in its turn without its privilege has no effect but its reply. -/
theorem cmdOp_denied {h : CmdHdr} {i : Instr} {need : Nat} {body : State → Session → State × Answer} {s : State}
    {x : Session} (hx : s.session? h.session = some x) (hs : h.seq = x.e + 1) (hm : x.may need = false) :
    cmdOp h i need body s = .next (s.recordReply h i Answer.denied) := by
  simp [cmdOp, State.command, hx, hs, hm]

/-- Where no restow holds what the command needs, a command that may wait is one like any other. -/
theorem cmdHeld_free {h : CmdHdr} {i : Instr} {need : Nat} {held : State → Bool} {body : State → Session → State × Answer}
    {s : State} (hh : held s = false) : cmdHeld h i need held body s = cmdOp h i need body s := by
  simp [cmdHeld, hh]

/-! ### Accesses to global memory: what one leaves alone

`s.readAside` is s without what an access that writes nothing may change, `s.writeAside` s without what a write may: two
states with one image differ in nothing else. -/

/-- What an access that writes nothing leaves alone: all but the caches, the cores whose lines keep victims, the free choices, the
counters, the clocks, and the lines found in error. -/
def State.readAside (s : State) : State :=
  { s with l1 := [], tlb := [], victims := [], cores := [], free := 0, counters := [], clocks := []
           mem := { s.mem with poisoned := [], failing := [], weak := [] } }

/-- What a write leaves alone: all but memory, the counters, the clocks, and what an abort of a restow changes (R409). -/
def State.writeAside (s : State) : State :=
  { s with mem := { s.mem with cells := [], tags := [], poisoned := [], failing := [], weak := [] }, counters := [], clocks := [], free := 0, restows := [], held := [], hostWaits := [], agenda := []
           events := [], ring := none, ringWrites := [] }

theorem foldl_aside {α β : Type} (e : State → β) (f : State → α → State) (hf : ∀ s a, e (f s a) = e s) (l : List α) (s : State) :
    e (l.foldl f s) = e s := by
  induction l generalizing s with
  | nil => rfl
  | cons a l ih => exact (ih (f s a)).trans (hf s a)

theorem count_readAside (s : State) (n k : Nat) : (s.count n k).readAside = s.readAside := by
  unfold State.count; split <;> rfl

theorem clockReplies_readAside (s : State) (agent : Nat) (l : List (Nat × Nat)) :
    (s.clockReplies agent l).readAside = s.readAside :=
  foldl_aside State.readAside (fun s d => s.clockMsg d agent) (fun _ _ => rfl) _ s

theorem walkClock_readAside (s : State) (floor asid va : Nat) : (s.walkClock floor asid va).readAside = s.readAside := by
  unfold State.walkClock
  split
  · exact clockReplies_readAside _ _ _
  · rfl

theorem evictL2_readAside (s : State) (floor : Nat) : (s.evictL2 floor).readAside = s.readAside := by
  unfold State.evictL2
  dsimp only
  repeat' (first | rfl | split)

theorem fillL1_readAside (s : State) (core : Nat) (t : Tlb) : (s.fillL1 core t).readAside = s.readAside := by
  unfold State.fillL1
  dsimp only
  repeat' (first | rfl | split)

theorem cacheWalk_readAside (s : State) (floor asid va : Nat) (t : Trans) :
    (s.cacheWalk floor asid va t).readAside = s.readAside := by
  unfold State.cacheWalk
  split
  · exact evictL2_readAside _ _
  · rfl

theorem cached_readAside (s : State) (core asid va : Nat) : (s.cached core asid va).1.readAside = s.readAside := by
  unfold State.cached
  dsimp only
  split
  · rfl
  · split
    · exact fillL1_readAside _ _ _
    · rfl

theorem oldChoice_readAside (s : State) (floor asid va : Nat) : (s.oldChoice floor asid va).1.readAside = s.readAside := by
  unfold State.oldChoice
  split <;> rfl

/-- Only caches, the core whose line keeps a victim, counts, clocks and free choices can change in a translation. -/
theorem translate_readAside (s : State) (mmu asid va : Nat) (k : AccessKind) (sl : Bool) :
    (s.translate mmu asid va k sl).1.readAside = s.readAside := by
  have ho := oldChoice_readAside s (mmuFloor mmu) asid va
  have hc := (cached_readAside (s.oldChoice (mmuFloor mmu) asid va).1 mmu asid va).trans ho
  have hw (r : Trans) := (cacheWalk_readAside _ (mmuFloor mmu) asid va r).trans
    ((walkClock_readAside _ (mmuFloor mmu) asid va).trans ((count_readAside _ (counterNo (mmuFloor mmu) 0xFF 0x21) 1).trans hc))
  unfold State.translate
  dsimp only
  split
  · split
    · exact ho
    · split
      · exact hc
      · dsimp only
        split
        · exact (fillL1_readAside _ _ _).trans (hw _)
        · exact hw _
  · exact walkClock_readAside _ _ _ _

theorem poisonPlace_readAside (s : State) (line : Nat) : (s.poisonPlace line).readAside = s.readAside := by
  unfold State.poisonPlace State.countLine
  split
  · rfl
  · exact count_readAside _ _ _

theorem readLine_readAside (s : State) (line : Nat) : (s.readLine line).readAside = s.readAside := by
  unfold State.readLine
  split
  · exact poisonPlace_readAside _ _
  · split
    · exact count_readAside _ _ _
    · rfl

theorem discover_readAside (s : State) (l : List (Nat × Nat)) : (s.discover l).readAside = s.readAside := by
  unfold State.discover
  split
  · rfl
  · exact foldl_aside _ _ readLine_readAside _ s

theorem found_readAside (s : State) (k : AccessKind) (o : Reach) : (s.found k o).readAside = s.readAside := by
  unfold State.found
  split <;> first | rfl | exact discover_readAside _ _

theorem request_readAside (s : State) : s.request.readAside = s.readAside := by
  unfold State.request; split <;> rfl

/-- What an access that writes nothing can change: what a translation can, and the lines that it finds in error. -/
theorem reach_readAside (s : State) (mmu asid va n : Nat) (k : AccessKind) :
    (s.reach mmu asid va n k).1.readAside = s.readAside := by
  unfold State.reach
  refine (found_readAside _ _ _).trans ?_
  generalize hf : (fun (acc : State × Reach) (i : Nat) => _ : State × Reach → Nat → State × Reach) = f
  have hs : ∀ a i, (f a i).1.readAside = a.1.readAside := by
    intro a i
    subst hf
    dsimp only
    split
    · split <;> exact translate_readAside _ _ _ _ _ _
    · rfl
  have : ∀ (l : List Nat) (a : State × Reach), (l.foldl f a).1.readAside = a.1.readAside := by
    intro l
    induction l with
    | nil => exact fun _ => rfl
    | cons i l ih => exact fun a => (ih (f a i)).trans (hs a i)
  exact (this _ _).trans (request_readAside s)

@[simp] theorem reach_cells (s : State) (mmu asid va n : Nat) (k : AccessKind) :
    (s.reach mmu asid va n k).1.mem.cells = s.mem.cells := congrArg (fun t => t.mem.cells) (reach_readAside s mmu asid va n k)
@[simp] theorem reach_me (s : State) (mmu asid va n : Nat) (k : AccessKind) :
    (s.reach mmu asid va n k).1.me = s.me := by
  have h := congrArg State.me (reach_readAside s mmu asid va n k)
  exact h
@[simp] theorem reach_others (s : State) (mmu asid va n : Nat) (k : AccessKind) :
    (s.reach mmu asid va n k).1.others = s.others := by
  have h := congrArg State.others (reach_readAside s mmu asid va n k)
  exact h

theorem count_writeAside (s : State) (n k : Nat) : (s.count n k).writeAside = s.writeAside := by
  unfold State.count; split <;> rfl

theorem storeAt_writeAside (s : State) (l : LineWrite) : (s.storeAt l).writeAside = s.writeAside := by
  unfold State.storeAt; split <;> rfl

theorem poisonPlace_writeAside (s : State) (line : Nat) : (s.poisonPlace line).writeAside = s.writeAside := by
  unfold State.poisonPlace State.countLine
  split
  · rfl
  · exact count_writeAside _ _ _

theorem post_writeAside (s : State) (e : Event) : (s.post e).writeAside = s.writeAside := by
  rw [State.post_frame]; rfl

theorem abortRestow_writeAside (s : State) (r : Restow) (reason i : Nat) :
    (s.abortRestow r reason i).writeAside = s.writeAside := by
  have h1 : (s.freeDestination r).writeAside = s.writeAside := foldl_aside _ _ storeAt_writeAside _ s
  refine (post_writeAside _ _).trans (Eq.trans ?_ h1)
  show (if reason = 1 then (s.freeDestination r).poisonLine r.srcBerth (r.srcPa + 64 * i)
    else s.freeDestination r).writeAside = _
  split
  · unfold State.poisonLine
    split
    · exact poisonPlace_writeAside _ _
    · rfl
  · rfl

theorem mirrorLine_writeAside (s : State) (w pa : Nat) : (s.mirrorLine w pa).writeAside = s.writeAside := by
  unfold State.mirrorLine
  split
  · dsimp only
    split
    · rfl
    · split
      · exact abortRestow_writeAside _ _ _ _
      · exact storeAt_writeAside _ _
  · rfl

theorem writeLine_writeAside (s : State) (cover : Nat) (l : LineWrite) : (s.writeLine cover l).writeAside = s.writeAside := by
  unfold State.writeLine
  split
  · rfl
  · dsimp only
    split
    · split
      · exact (mirrorLine_writeAside _ _ _).trans (storeAt_writeAside s l)
      · split
        · exact storeAt_writeAside s l
        · exact count_writeAside _ _ _
    · split
      · exact (mirrorLine_writeAside _ _ _).trans (storeAt_writeAside s l)
      · exact (mirrorLine_writeAside _ _ _).trans (storeAt_writeAside s l)

/-- A write of global memory changes memory, the vector clocks and the counters, and, where it meets a source line that cannot be
read under a restow, what the abort of that restow changes. -/
theorem gWrite_writeAside (s : State) (agent : Nat) (cover : Nat → Nat) (bytes : List (Nat × Nat × Byte)) :
    (s.gWrite agent cover bytes).writeAside = s.writeAside := by
  refine foldl_aside _ _ (fun s l => ?_) _ s
  refine (writeLine_writeAside _ _ _).trans ?_
  split <;> rfl

@[simp] theorem gWrite_me (s : State) (agent : Nat) (cover : Nat → Nat) (bytes : List (Nat × Nat × Byte)) :
    (s.gWrite agent cover bytes).me = s.me := by
  have h := congrArg State.me (gWrite_writeAside s agent cover bytes)
  exact h
@[simp] theorem gWrite_others (s : State) (agent : Nat) (cover : Nat → Nat) (bytes : List (Nat × Nat × Byte)) :
    (s.gWrite agent cover bytes).others = s.others := by
  have h := congrArg State.others (gWrite_writeAside s agent cover bytes)
  exact h

end Sys2Proof.Machine
end

