-- ==== Sys2Proof/Laws/Stores.lean ====
section
/-! SUPPORT. The byte stores of rooms keep their canonical form under landings and under the writes of the canal port. -/

namespace Sys2Proof.Laws

open Sys2Proof.Machine Sys2Proof.Safety

theorem mem_modAt {α : Type} {f : α → α} {n : Nat} {l : List α} {x : α} (h : x ∈ modAt f n l) : x ∈ l ∨ ∃ y ∈ l, x = f y := by
  induction l generalizing n with
  | nil => simp [modAt] at h
  | cons y l ih =>
    cases n with
    | zero =>
      simp only [modAt, List.mem_cons] at h
      rcases h with rfl | h
      · exact .inr ⟨y, List.mem_cons_self, rfl⟩
      · exact .inl (List.mem_cons_of_mem _ h)
    | succ n =>
      simp only [modAt, List.mem_cons] at h
      rcases h with rfl | h
      · exact .inl List.mem_cons_self
      · rcases ih h with h | ⟨z, hz, rfl⟩
        · exact .inl (List.mem_cons_of_mem _ h)
        · exact .inr ⟨z, List.mem_cons_of_mem _ hz, rfl⟩

theorem markWritten_scratch (r : Room) (l : List Nat) : (r.markWritten l).scratch = r.scratch := by
  unfold Room.markWritten; split <;> rfl

theorem markWritten_sills (r : Room) (l : List Nat) : (r.markWritten l).sills = r.sills := by
  unfold Room.markWritten; split <;> rfl

theorem landTile_wf {r : Room} (t : Tile) (h : RoomWf r) : RoomWf (r.landTile t) := by
  unfold Room.landTile Room.setTile
  repeat' (first | exact h | split)

/-- A landing keeps the stores of its room canonical. -/
theorem land_wf {r : Room} (l : Landing) (h : RoomWf r) : RoomWf (r.land l) := by
  have key : ∀ r1 : Room, RoomWf r1 → RoomWf (match l.escape with
      | some i => { (if l.raised = Raised.none then r1 else { r1 with ctx := r1.ctx.raise l.slot l.raised }) with
          ctx.due := (if l.raised = Raised.none then r1 else { r1 with ctx := r1.ctx.raise l.slot l.raised }).ctx.due ++
            [{ code := 0x09, slot := l.slot, sub := 0, aux := 0, index := i }] }
      | none => if l.raised = Raised.none then r1 else { r1 with ctx := r1.ctx.raise l.slot l.raised }) := by
    intro r1 h1
    split <;> split <;> exact h1
  unfold Room.land
  dsimp only
  apply key
  split
  · exact h
  · exact h
  · exact h
  · exact h
  · exact h
  · exact h
  · exact h
  · exact ⟨wf_putAll _ h.1, by rw [markWritten_sills]; exact h.2⟩
  · exact ⟨wf_putAll _ h.1, by rw [markWritten_sills]; exact h.2⟩
  · exact h
  · refine ⟨h.1, fun m hm => ?_⟩
    rcases mem_modAt hm with hm | ⟨y, hy, rfl⟩
    · exact h.2 m hm
    · exact wf_putAll _ (h.2 y hy)
  · exact landTile_wf _ h
  · exact h

theorem foldl_land_wf (l : List Landing) {r : Room} (h : RoomWf r) : RoomWf (l.foldl Room.land r) := by
  induction l generalizing r with
  | nil => exact h
  | cons x l ih => exact ih (land_wf x h)

theorem landDue_wf {r : Room} (h : RoomWf r) : RoomWf r.landDue := foldl_land_wf _ h

theorem landStores_wf {r : Room} (h : RoomWf r) : RoomWf r.landStores := by
  unfold Room.landStores
  dsimp only
  split
  · exact h
  · exact foldl_land_wf _ h

/-- A change of one room keeps every store canonical when it keeps that room's. -/
theorem onRoom_wf {s : State} {id : RoomId} {f : Room → Room} (h : StoresWf s) (hf : ∀ r, RoomWf r → RoomWf (f r)) :
    StoresWf (s.onRoom id f) := by
  obtain ⟨h1, h2, h3, h4⟩ := h
  unfold State.onRoom
  split
  · exact ⟨h1, hf _ h2, h3, h4⟩
  · refine ⟨h1, h2, fun r hr => ?_, h4⟩
    simp only [mapIf, List.mem_map] at hr
    obtain ⟨y, hy, rfl⟩ := hr
    split
    · exact hf _ (h3 y hy)
    · exact h3 y hy

end Sys2Proof.Laws
end

