-- ==== Sys2Proof/Tests/Slice0.lean ====
section
/-! SUPPORT. Tests: ill-formed terms that the checks refuse, words written out from the encoding tables, single steps against
the manual's tables and worked examples, and for each statement a concrete state that meets its hypotheses. -/

namespace Sys2Proof.Tests

set_option Elab.async false

open Sys2Proof.Machine Sys2Proof.Claims

/-! ### Small states -/

def rf (d a b : BitVec 6) : RForm :=
  { sh := 0, fn := 0, d := d, a := a, ma := 0, b := b, mb := 0, gi := 0, gn := 0, td := 0, ta := 0, tb := 0 }
def imf (d a : BitVec 6) (v : BitVec 12) : IForm :=
  { sh := 0, fn := 0, d := d, a := a, ma := 0, imm := .short v, gi := 0, gn := 0, td := 0, ta := 0 }
def bf (off : BitVec 24) : BForm := { gi := 0, gn := 0, off := off, a := 0 }
def vf : VForm := { rm := 0, dd := 0, da := 1, db := 2, dc := 3, cfmt := 0, qd := 0, fn := 0 }
def maf : MAForm := { bd := 0, da := 1, db := 2, w := 0, ws := 0, rm := 0, fmt := 0, pi := 0, pj := 0, fn := 0 }
def mqf : MQForm := { qd := 1, qs := 2, sa := 3, sb := 4, da := 0, db := 0, rm := 0, fmt := 0 }
def xf : XForm := { ch := 0, aa := 0, ab := 0, sa := 0, ms := 0, sc := 0, gi := 0, gn := 0, da := 0, fn := 0 }

/-- A region descriptor of R153. -/
def dsc (base stride count fmt rows rstride : Nat) : DescWord :=
  BitVec.ofNat 128 (base + 2 ^ 24 * stride + 2 ^ 44 * count + 2 ^ 60 * fmt + 2 ^ 72 * rows + 2 ^ 88 * rstride)

/-- Every engine may read and write the whole partition. -/
def openSets : Footprint :=
  { Footprint.nil with reads := List.replicate 7 [], writes := List.replicate 7 [{ lo := 0, hi := 0xFFFFFF }] }

/-- A room that runs on core 0 with the whole partition and 32 bays. -/
def r0 : Room := { fetchMe with nb := 32, timePriv := true, atticSize := 64, atticBase := 0xFFFFC0,
                                ctx := { fetchMe.ctx with footprint := openSets } }

/-- Two cores, one room, no memory written. -/
def s0 : State := { State.reset with me := r0, cores := [{ Core.atReset 0 with resident := some fetchRoom }, Core.atReset 1],
                                     loads := [fetchLoad], links := [Link.atReset 0], basins := [{ num := 0, cls := 0, weight := 1 }] }

/-- The context of the room changed. -/
def onCtx (f : Ctx → Ctx) : State := { s0 with me := { r0 with ctx := f r0.ctx } }
def onMe (f : Room → Room) : State := { s0 with me := f r0 }

/-- Registers set: number and value. -/
def withS (l : List (Nat × Word)) (c : Ctx) : Ctx :=
  { c with s := Vector.ofFn fun i : Fin 64 => match l.find? fun x => x.1 == i.val with | some x => x.2 | none => c.s[i] }
def withA (l : List (Nat × DWord)) (c : Ctx) : Ctx :=
  { c with a := Vector.ofFn fun i : Fin 16 => match l.find? fun x => x.1 == i.val with | some x => x.2 | none => c.a[i] }
def withD (l : List (Nat × DescWord)) (c : Ctx) : Ctx :=
  { c with d := Vector.ofFn fun i : Fin 32 => match l.find? fun x => x.1 == i.val with | some x => x.2 | none => c.d[i] }

theorem noneAll {α : Type} {o : Option α} {p : α → Prop} (h : o = none) : ∀ x, o = some x → p x := by
  intro x hx; rw [h] at hx; cases hx

theorem someAll {α : Type} {o : Option α} {a : α} {p : α → Prop} (h : o = some a) (ha : p a) : ∀ x, o = some x → p x := by
  intro x hx; rw [h] at hx; cases hx; exact ha

/-- The state that a step leads to; the one it started from where it stops. -/
def after (o : Host.Outcome State Fault Refusal) : State := match o with | .next t => t | _ => s0

/-- The cause that stops the room with the turn. -/
def stopOf (s : State) : Option Cause := match s.me.stop with | .frozen c => some c | _ => none

/-! ### Ill-formed terms (R149, R150, R160), one for each check -/

theorem ill_fn : (Instr.add .s0 { rf 1 2 3 with fn := 1 }).wellFormed = false := by decide +kernel
theorem ill_guard : (Instr.add .s0 { rf 1 2 3 with gi := 1 }).wellFormed = false := by decide +kernel
theorem ill_unary_b : (Instr.abs .s0 (rf 1 2 3)).wellFormed = false := by decide +kernel
theorem ill_word_shape : (Instr.and .s0 { rf 1 2 3 with sh := 1 }).wellFormed = false := by decide +kernel
theorem ill_compare_dest : (Instr.ceq .s0 (rf 8 2 3)).wellFormed = false := by decide +kernel
theorem ill_guard_name : (Instr.gand .s0 (rf 1 8 3)).wellFormed = false := by decide +kernel
theorem ill_sel_shape : (Instr.sel .s0 { rf 1 2 0 with sh := 1 }).wellFormed = false := by decide +kernel
theorem ill_aadd_dest : (Instr.aadd .s0 (rf 16 2 3)).wellFormed = false := by decide +kernel
theorem ill_float_mode : (Instr.fadd .s0 { rf 1 2 3 with fn := 5 }).wellFormed = false := by decide +kernel
theorem ill_fcvt_code : (Instr.fcvt .s0 (rf 1 2 8)).wellFormed = false := by decide +kernel
theorem ill_bext_fn : (Instr.bext .s0 { rf 1 2 3 with fn := 2 }).wellFormed = false := by decide +kernel
theorem ill_shift_imm : (Instr.shli .s0 { imf 1 2 16 with sh := 1 }).wellFormed = false := by decide +kernel
theorem ill_load_pair : (Instr.ldq .s0 (imf 1 2 0)).wellFormed = false := by decide +kernel
theorem ill_load_base : (Instr.ldw .s0 (imf 1 16 0)).wellFormed = false := by decide +kernel
theorem ill_br_field : (Instr.br { bf 1 with a := 1 }).wellFormed = false := by decide +kernel
theorem ill_jr_field : (Instr.jr (bf 1)).wellFormed = false := by decide +kernel
theorem ill_halt_guard : (Instr.halt { bf 0 with gi := 1 }).wellFormed = false := by decide +kernel
theorem ill_loop_body : (Instr.loop { rot := 0, cr := 0, endB := 0, cnt := 1 }).wellFormed = false := by decide +kernel
theorem ill_mfs_number : (Instr.mfs .s0 (imf 1 0 0x003)).wellFormed = false := by decide +kernel
theorem ill_mts_readonly : (Instr.mts (imf 0 1 0x030)).wellFormed = false := by decide +kernel
theorem ill_vadd_block : (Instr.vadd { vf with cfmt := 0x20, dc := 0 }).wellFormed = false := by decide +kernel
theorem ill_vadd_q : (Instr.vadd { vf with dc := 0, qd := 1 }).wellFormed = false := by decide +kernel
theorem ill_mrel_field : (Instr.mrel { maf with da := 1 }).wellFormed = false := by decide +kernel
theorem ill_mmac_mode : (Instr.mmac { maf with rm := 1 }).wellFormed = false := by decide +kernel
theorem ill_qadd_sa : (Instr.qadd mqf).wellFormed = false := by decide +kernel
theorem ill_put_guard : (Instr.put { xf with gi := 1 }).wellFormed = false := by decide +kernel
theorem ill_sl_type : (Instr.slFadd { xf with fn := 0 }).wellFormed = false := by decide +kernel
theorem ill_amo_type : (Instr.amoAnd { xf with fn := 4 }).wellFormed = false := by decide +kernel
theorem ill_fence_field : (Instr.fenceAcq { xf with aa := 1 }).wellFormed = false := by decide +kernel
theorem ill_tret_field : (Instr.tret { xf with ms := 1 }).wellFormed = false := by decide +kernel
theorem ill_refused : stopOf (after (exec (.add .s0 { rf 1 2 3 with fn := 1 }) s0)) = some (cause 0x01 0) := by decide +kernel

/-! ### Words of R145 to R148 and R161, packed field by field, one for each instruction -/

/-- R171. -/
theorem words_arith :
    Decode.checked (Decode.slotS .s0 0x01821AAA6828#48 none) = some (.add .s0 ⟨2, 0, 33, 42, 5, 19, 2, 0, 0, 1, 0, 1⟩) ∧
    Decode.checked (Decode.slotS .s1 0x02821AAA6828#48 none) = some (.sub .s1 ⟨2, 0, 33, 42, 5, 19, 2, 0, 0, 1, 0, 1⟩) ∧
    Decode.checked (Decode.slotS .s0 0x03821AAA6828#48 none) = some (.mul .s0 ⟨2, 0, 33, 42, 5, 19, 2, 0, 0, 1, 0, 1⟩) ∧
    Decode.checked (Decode.slotS .s1 0x04821AAA6828#48 none) = some (.mulh .s1 ⟨2, 0, 33, 42, 5, 19, 2, 0, 0, 1, 0, 1⟩) ∧
    Decode.checked (Decode.slotS .s0 0x05821AAA6828#48 none) = some (.mulhu .s0 ⟨2, 0, 33, 42, 5, 19, 2, 0, 0, 1, 0, 1⟩) ∧
    Decode.checked (Decode.slotS .s1 0x06821AAA6828#48 none) = some (.min .s1 ⟨2, 0, 33, 42, 5, 19, 2, 0, 0, 1, 0, 1⟩) ∧
    Decode.checked (Decode.slotS .s0 0x07821AAA6828#48 none) = some (.max .s0 ⟨2, 0, 33, 42, 5, 19, 2, 0, 0, 1, 0, 1⟩) ∧
    Decode.checked (Decode.slotS .s1 0x08821AAA6828#48 none) = some (.minu .s1 ⟨2, 0, 33, 42, 5, 19, 2, 0, 0, 1, 0, 1⟩) ∧
    Decode.checked (Decode.slotS .s0 0x09821AAA6828#48 none) = some (.maxu .s0 ⟨2, 0, 33, 42, 5, 19, 2, 0, 0, 1, 0, 1⟩) ∧
    Decode.checked (Decode.slotS .s1 0x0A821AAA6828#48 none) = some (.adds .s1 ⟨2, 0, 33, 42, 5, 19, 2, 0, 0, 1, 0, 1⟩) ∧
    Decode.checked (Decode.slotS .s0 0x0B821AAA6828#48 none) = some (.addus .s0 ⟨2, 0, 33, 42, 5, 19, 2, 0, 0, 1, 0, 1⟩) ∧
    Decode.checked (Decode.slotS .s1 0x0C821AAA6828#48 none) = some (.subs .s1 ⟨2, 0, 33, 42, 5, 19, 2, 0, 0, 1, 0, 1⟩) ∧
    Decode.checked (Decode.slotS .s0 0x0D821AAA6828#48 none) = some (.subus .s0 ⟨2, 0, 33, 42, 5, 19, 2, 0, 0, 1, 0, 1⟩) ∧
    Decode.checked (Decode.slotS .s1 0x0E821AA80020#48 none) = some (.abs .s1 ⟨2, 0, 33, 42, 5, 0, 0, 0, 0, 1, 0, 0⟩) ∧
    Decode.checked (Decode.slotS .s0 0x0F821AA80020#48 none) = some (.neg .s0 ⟨2, 0, 33, 42, 5, 0, 0, 0, 0, 1, 0, 0⟩) := by decide +kernel

/-- R172 to R174. -/
theorem words_logic :
    Decode.checked (Decode.slotS .s0 0x10021AAA6828#48 none) = some (.and .s0 ⟨0, 0, 33, 42, 5, 19, 2, 0, 0, 1, 0, 1⟩) ∧
    Decode.checked (Decode.slotS .s1 0x11021AAA6828#48 none) = some (.or .s1 ⟨0, 0, 33, 42, 5, 19, 2, 0, 0, 1, 0, 1⟩) ∧
    Decode.checked (Decode.slotS .s0 0x12021AAA6828#48 none) = some (.xor .s0 ⟨0, 0, 33, 42, 5, 19, 2, 0, 0, 1, 0, 1⟩) ∧
    Decode.checked (Decode.slotS .s1 0x13021AAA6828#48 none) = some (.andn .s1 ⟨0, 0, 33, 42, 5, 19, 2, 0, 0, 1, 0, 1⟩) ∧
    Decode.checked (Decode.slotS .s0 0x1A021AAA6828#48 none) = some (.bins .s0 ⟨0, 0, 33, 42, 5, 19, 2, 0, 0, 1, 0, 1⟩) ∧
    Decode.checked (Decode.slotS .s1 0x1B021AAA6828#48 none) = some (.bperm .s1 ⟨0, 0, 33, 42, 5, 19, 2, 0, 0, 1, 0, 1⟩) ∧
    Decode.checked (Decode.slotS .s0 0x14C21AAA6828#48 none) = some (.shl .s0 ⟨3, 0, 33, 42, 5, 19, 2, 0, 0, 1, 0, 1⟩) ∧
    Decode.checked (Decode.slotS .s1 0x15C21AAA6828#48 none) = some (.shr .s1 ⟨3, 0, 33, 42, 5, 19, 2, 0, 0, 1, 0, 1⟩) ∧
    Decode.checked (Decode.slotS .s0 0x16C21AAA6828#48 none) = some (.sar .s0 ⟨3, 0, 33, 42, 5, 19, 2, 0, 0, 1, 0, 1⟩) ∧
    Decode.checked (Decode.slotS .s1 0x17421AA80020#48 none) = some (.clz .s1 ⟨1, 0, 33, 42, 5, 0, 0, 0, 0, 1, 0, 0⟩) ∧
    Decode.checked (Decode.slotS .s0 0x18421AA80020#48 none) = some (.popc .s0 ⟨1, 0, 33, 42, 5, 0, 0, 0, 0, 1, 0, 0⟩) ∧
    Decode.checked (Decode.slotS .s1 0x19061AAA6828#48 none) = some (.bext .s1 ⟨0, 1, 33, 42, 5, 19, 2, 0, 0, 1, 0, 1⟩) := by decide +kernel

/-- R177 to R179. -/
theorem words_compare :
    Decode.checked (Decode.slotS .s0 0x20007AAA6828#48 none) = some (.ceq .s0 ⟨0, 0, 7, 42, 5, 19, 2, 0, 0, 1, 0, 1⟩) ∧
    Decode.checked (Decode.slotS .s1 0x21007AAA6828#48 none) = some (.cne .s1 ⟨0, 0, 7, 42, 5, 19, 2, 0, 0, 1, 0, 1⟩) ∧
    Decode.checked (Decode.slotS .s0 0x22007AAA6828#48 none) = some (.clt .s0 ⟨0, 0, 7, 42, 5, 19, 2, 0, 0, 1, 0, 1⟩) ∧
    Decode.checked (Decode.slotS .s1 0x23007AAA6828#48 none) = some (.cle .s1 ⟨0, 0, 7, 42, 5, 19, 2, 0, 0, 1, 0, 1⟩) ∧
    Decode.checked (Decode.slotS .s0 0x24007AAA6828#48 none) = some (.cltu .s0 ⟨0, 0, 7, 42, 5, 19, 2, 0, 0, 1, 0, 1⟩) ∧
    Decode.checked (Decode.slotS .s1 0x25007AAA6828#48 none) = some (.cleu .s1 ⟨0, 0, 7, 42, 5, 19, 2, 0, 0, 1, 0, 1⟩) ∧
    Decode.checked (Decode.slotS .s0 0x261470C0C000#48 none) = some (.gand .s0 ⟨0, 5, 7, 3, 0, 6, 0, 0, 0, 0, 0, 0⟩) ∧
    Decode.checked (Decode.slotS .s1 0x271470C0C000#48 none) = some (.gor .s1 ⟨0, 5, 7, 3, 0, 6, 0, 0, 0, 0, 0, 0⟩) ∧
    Decode.checked (Decode.slotS .s0 0x28021AA80370#48 none) = some (.sel .s0 ⟨0, 0, 33, 42, 5, 0, 0, 6, 1, 1, 1, 0⟩) := by decide +kernel

/-- R175, R176, R180. -/
theorem words_imm :
    Decode.checked (Decode.slotS .s0 0x30021AAD5E06#48 none) = some (.addi .s0 ⟨0, 0, 33, 42, 5, .short 2748, 0, 0, 1, 1⟩) ∧
    Decode.checked (Decode.slotS .s1 0x31021AAD5E06#48 none) = some (.andi .s1 ⟨0, 0, 33, 42, 5, .short 2748, 0, 0, 1, 1⟩) ∧
    Decode.checked (Decode.slotS .s0 0x32021AAD5E06#48 none) = some (.ori .s0 ⟨0, 0, 33, 42, 5, .short 2748, 0, 0, 1, 1⟩) ∧
    Decode.checked (Decode.slotS .s1 0x33021AAD5E06#48 none) = some (.xori .s1 ⟨0, 0, 33, 42, 5, .short 2748, 0, 0, 1, 1⟩) ∧
    Decode.checked (Decode.slotS .s0 0x34421AA80786#48 none) = some (.shli .s0 ⟨1, 0, 33, 42, 5, .short 15, 0, 0, 1, 1⟩) ∧
    Decode.checked (Decode.slotS .s1 0x35421AA80786#48 none) = some (.shri .s1 ⟨1, 0, 33, 42, 5, .short 15, 0, 0, 1, 1⟩) ∧
    Decode.checked (Decode.slotS .s0 0x36421AA80786#48 none) = some (.sari .s0 ⟨1, 0, 33, 42, 5, .short 15, 0, 0, 1, 1⟩) ∧
    Decode.checked (Decode.slotS .s1 0x37005AAFFF86#48 none) = some (.ceqi .s1 ⟨0, 0, 5, 42, 5, .short 4095, 0, 0, 1, 1⟩) ∧
    Decode.checked (Decode.slotS .s0 0x38005AAFFF86#48 none) = some (.clti .s0 ⟨0, 0, 5, 42, 5, .short 4095, 0, 0, 1, 1⟩) ∧
    Decode.checked (Decode.slotS .s1 0x39005AAFFF86#48 none) = some (.cltui .s1 ⟨0, 0, 5, 42, 5, .short 4095, 0, 0, 1, 1⟩) ∧
    Decode.checked (Decode.slotS .s0 0x3C8AAF37A000#48 none) = some (.seth .s0 ⟨34, 703710, 1⟩) ∧
    Decode.checked (Decode.slotS .s1 0x400CE2455428#48 none) = some (.aadd .s1 ⟨0, 3, 14, 9, 0, 42, 5, 0, 0, 1, 0, 1⟩) ∧
    Decode.checked (Decode.slotS .s0 0x4120E0040084#48 none) = some (.aaddi .s0 ⟨0, 8, 14, 0, 0, .short 2049, 0, 0, 1, 0⟩) := by decide +kernel

/-- R181. -/
theorem words_mem :
    Decode.checked (Decode.slotS .s0 0x480463455E06#48 none) = some (.ldb .s0 ⟨0, 1, 6, 13, 0, .short 2748, 0, 0, 1, 1⟩) ∧
    Decode.checked (Decode.slotS .s1 0x490463455E06#48 none) = some (.ldbu .s1 ⟨0, 1, 6, 13, 0, .short 2748, 0, 0, 1, 1⟩) ∧
    Decode.checked (Decode.slotS .s0 0x4A0463455E06#48 none) = some (.ldh .s0 ⟨0, 1, 6, 13, 0, .short 2748, 0, 0, 1, 1⟩) ∧
    Decode.checked (Decode.slotS .s1 0x4B0463455E06#48 none) = some (.ldhu .s1 ⟨0, 1, 6, 13, 0, .short 2748, 0, 0, 1, 1⟩) ∧
    Decode.checked (Decode.slotS .s0 0x4C0463455E06#48 none) = some (.ldw .s0 ⟨0, 1, 6, 13, 0, .short 2748, 0, 0, 1, 1⟩) ∧
    Decode.checked (Decode.slotS .s1 0x4D0463455E06#48 none) = some (.ldq .s1 ⟨0, 1, 6, 13, 0, .short 2748, 0, 0, 1, 1⟩) ∧
    Decode.checked (Decode.slotS .s0 0x520463455E06#48 none) = some (.lda .s0 ⟨0, 1, 6, 13, 0, .short 2748, 0, 0, 1, 1⟩) ∧
    Decode.checked (Decode.slotS .s1 0x5401F3455E06#48 none) = some (.ldd .s1 ⟨0, 0, 31, 13, 0, .short 2748, 0, 0, 1, 1⟩) ∧
    Decode.checked (Decode.slotS .s0 0x4E0463455E5E#48 none) = some (.stb .s0 ⟨0, 1, 6, 13, 0, .short 2748, 5, 1, 1, 1⟩) ∧
    Decode.checked (Decode.slotS .s1 0x4F0463455E5E#48 none) = some (.sth .s1 ⟨0, 1, 6, 13, 0, .short 2748, 5, 1, 1, 1⟩) ∧
    Decode.checked (Decode.slotS .s0 0x500463455E5E#48 none) = some (.stw .s0 ⟨0, 1, 6, 13, 0, .short 2748, 5, 1, 1, 1⟩) ∧
    Decode.checked (Decode.slotS .s1 0x510463455E5E#48 none) = some (.stq .s1 ⟨0, 1, 6, 13, 0, .short 2748, 5, 1, 1, 1⟩) ∧
    Decode.checked (Decode.slotS .s0 0x530463455E5E#48 none) = some (.sta .s0 ⟨0, 1, 6, 13, 0, .short 2748, 5, 1, 1, 1⟩) ∧
    Decode.checked (Decode.slotS .s1 0x5505F3455E5E#48 none) = some (.std .s1 ⟨0, 1, 31, 13, 0, .short 2748, 5, 1, 1, 1⟩) := by decide +kernel

/-- R185 to R187. -/
theorem words_float :
    Decode.checked (Decode.slotS .s0 0x581E1AAA6828#48 none) = some (.fadd .s0 ⟨0, 7, 33, 42, 5, 19, 2, 0, 0, 1, 0, 1⟩) ∧
    Decode.checked (Decode.slotS .s1 0x59121AAA6828#48 none) = some (.fsub .s1 ⟨0, 4, 33, 42, 5, 19, 2, 0, 0, 1, 0, 1⟩) ∧
    Decode.checked (Decode.slotS .s0 0x5A061AAA6828#48 none) = some (.fmul .s0 ⟨0, 1, 33, 42, 5, 19, 2, 0, 0, 1, 0, 1⟩) ∧
    Decode.checked (Decode.slotS .s1 0x5B0A1AAA6828#48 none) = some (.ffma .s1 ⟨0, 2, 33, 42, 5, 19, 2, 0, 0, 1, 0, 1⟩) ∧
    Decode.checked (Decode.slotS .s0 0x5C107AAA6828#48 none) = some (.fcmp .s0 ⟨0, 4, 7, 42, 5, 19, 2, 0, 0, 1, 0, 1⟩) ∧
    Decode.checked (Decode.slotS .s1 0x5D1E1AA8C020#48 none) = some (.fcvt .s1 ⟨0, 7, 33, 42, 5, 6, 0, 0, 0, 1, 0, 0⟩) := by decide +kernel

/-- R188 to R204. -/
theorem words_control :
    Decode.checked (Decode.slotS .s0 0x60B800001000#48 none) = some (.br ⟨5, 1, 8388609, 0⟩) ∧
    Decode.checked (Decode.slotS .s0 0x62B800001000#48 none) = some (.call ⟨5, 1, 8388609, 0⟩) ∧
    Decode.checked (Decode.slotS .s0 0x61B000000D00#48 none) = some (.jr ⟨5, 1, 0, 13⟩) ∧
    Decode.checked (Decode.slotS .s0 0x63B000000D00#48 none) = some (.callr ⟨5, 1, 0, 13⟩) ∧
    Decode.checked (Decode.slotS .s0 0x64B000000000#48 none) = some (.ret ⟨5, 1, 0, 0⟩) ∧
    Decode.checked (Decode.slotS .s0 0x65E00C008400#48 none) = some (.loop ⟨1, 1, 2051, 33⟩) ∧
    Decode.checked (Decode.slotS .s0 0x668005840000#48 none) = some (.rep ⟨32773, 33⟩) ∧
    Decode.checked (Decode.slotS .s0 0x670000055E00#48 none) = some (.rot ⟨0, 0, 0, 0, 0, .short 2748, 0, 0, 0, 0⟩) ∧
    Decode.checked (Decode.slotS .s0 0x680000055E00#48 none) = some (.trap ⟨0, 0, 0, 0, 0, .short 2748, 0, 0, 0, 0⟩) ∧
    Decode.checked (Decode.slotS .s1 0x6900F0003084#48 none) = some (.mfs .s1 ⟨0, 0, 15, 0, 0, .short 97, 0, 0, 1, 0⟩) ∧
    Decode.checked (Decode.slotS .s0 0x6A000A800102#48 none) = some (.mts ⟨0, 0, 0, 42, 0, .short 2, 0, 0, 0, 1⟩) ∧
    Decode.checked (Decode.slotS .s0 0x6A000A801082#48 none) = some (.repcWrite ⟨0, 0, 0, 42, 0, .short 33, 0, 0, 0, 1⟩) ∧
    Decode.checked (Decode.slotS .s0 0x6B0000000000#48 none) = some (.halt ⟨0, 0, 0, 0⟩) := by decide +kernel

/-- R217 to R221. -/
theorem words_v1 :
    Decode.checked (Decode.slotV 0x01F15540D000#48) = some (.vadd ⟨7, 17, 10, 21, 0, 26, 0, 0⟩) ∧
    Decode.checked (Decode.slotV 0x02F15540D000#48) = some (.vsub ⟨7, 17, 10, 21, 0, 26, 0, 0⟩) ∧
    Decode.checked (Decode.slotV 0x03F15540D000#48) = some (.vmul ⟨7, 17, 10, 21, 0, 26, 0, 0⟩) ∧
    Decode.checked (Decode.slotV 0x0491555C9000#48) = some (.vfma ⟨4, 17, 10, 21, 14, 18, 0, 0⟩) ∧
    Decode.checked (Decode.slotV 0x051155409010#48) = some (.vmin ⟨0, 17, 10, 21, 0, 18, 0, 1⟩) ∧
    Decode.checked (Decode.slotV 0x061155409010#48) = some (.vmax ⟨0, 17, 10, 21, 0, 18, 0, 1⟩) ∧
    Decode.checked (Decode.slotV 0x071150003000#48) = some (.vabs ⟨0, 17, 10, 0, 0, 6, 0, 0⟩) ∧
    Decode.checked (Decode.slotV 0x081150003000#48) = some (.vneg ⟨0, 17, 10, 0, 0, 6, 0, 0⟩) ∧
    Decode.checked (Decode.slotV 0x091155402800#48) = some (.vadds ⟨0, 17, 10, 21, 0, 5, 0, 0⟩) ∧
    Decode.checked (Decode.slotV 0x0A1155402800#48) = some (.vsubs ⟨0, 17, 10, 21, 0, 5, 0, 0⟩) ∧
    Decode.checked (Decode.slotV 0x0E1155402800#48) = some (.vshl ⟨0, 17, 10, 21, 0, 5, 0, 0⟩) ∧
    Decode.checked (Decode.slotV 0x0F1155402800#48) = some (.vshr ⟨0, 17, 10, 21, 0, 5, 0, 0⟩) ∧
    Decode.checked (Decode.slotV 0x0B1155409000#48) = some (.vand ⟨0, 17, 10, 21, 0, 18, 0, 0⟩) ∧
    Decode.checked (Decode.slotV 0x0C1155409000#48) = some (.vor ⟨0, 17, 10, 21, 0, 18, 0, 0⟩) ∧
    Decode.checked (Decode.slotV 0x0D1155409000#48) = some (.vxor ⟨0, 17, 10, 21, 0, 18, 0, 0⟩) := by decide +kernel

/-- R222 to R230. -/
theorem words_v2 :
    Decode.checked (Decode.slotV 0x107150013000#48) = some (.vcvt ⟨3, 17, 10, 0, 0, 38, 0, 0⟩) ∧
    Decode.checked (Decode.slotV 0x117150009010#48) = some (.vrint ⟨3, 17, 10, 0, 0, 18, 0, 1⟩) ∧
    Decode.checked (Decode.slotV 0x121150010000#48) = some (.vmov ⟨0, 17, 10, 0, 0, 32, 0, 0⟩) ∧
    Decode.checked (Decode.slotV 0x181150009000#48) = some (.vfexp ⟨0, 17, 10, 0, 0, 18, 0, 0⟩) ∧
    Decode.checked (Decode.slotV 0x1A1150009000#48) = some (.vgetexp ⟨0, 17, 10, 0, 0, 18, 0, 0⟩) ∧
    Decode.checked (Decode.slotV 0x1B1150009000#48) = some (.vgetman ⟨0, 17, 10, 0, 0, 18, 0, 0⟩) ∧
    Decode.checked (Decode.slotV 0x1D1150009000#48) = some (.vrcp ⟨0, 17, 10, 0, 0, 18, 0, 0⟩) ∧
    Decode.checked (Decode.slotV 0x1E1150009000#48) = some (.vrsqrt ⟨0, 17, 10, 0, 0, 18, 0, 0⟩) ∧
    Decode.checked (Decode.slotV 0x211150009000#48) = some (.vflog ⟨0, 17, 10, 0, 0, 18, 0, 0⟩) ∧
    Decode.checked (Decode.slotV 0x195155409000#48) = some (.vscale ⟨2, 17, 10, 21, 0, 18, 0, 0⟩) ∧
    Decode.checked (Decode.slotV 0x1C115000C800#48) = some (.vclass ⟨0, 17, 10, 0, 0, 25, 0, 0⟩) ∧
    Decode.checked (Decode.slotV 0x1F3155409000#48) = some (.vdiv ⟨1, 17, 10, 21, 0, 18, 0, 0⟩) ∧
    Decode.checked (Decode.slotV 0x203150009000#48) = some (.vsqrt ⟨1, 17, 10, 0, 0, 18, 0, 0⟩) := by decide +kernel

/-- R231 to R240. -/
theorem words_v3 :
    Decode.checked (Decode.slotV 0x281155409040#48) = some (.vcmp ⟨0, 17, 10, 21, 0, 18, 0, 4⟩) ∧
    Decode.checked (Decode.slotV 0x2911555C9000#48) = some (.vsel ⟨0, 17, 10, 21, 14, 18, 0, 0⟩) ∧
    Decode.checked (Decode.slotV 0x2A1155401800#48) = some (.vperm ⟨0, 17, 10, 21, 0, 3, 0, 0⟩) ∧
    Decode.checked (Decode.slotV 0x2B1155401800#48) = some (.vgather ⟨0, 17, 10, 21, 0, 3, 0, 0⟩) ∧
    Decode.checked (Decode.slotV 0x2C1155401800#48) = some (.vscatter ⟨0, 17, 10, 21, 0, 3, 0, 0⟩) ∧
    Decode.checked (Decode.slotV 0x2D115000C000#48) = some (.vbmax ⟨0, 17, 10, 0, 0, 24, 0, 0⟩) ∧
    Decode.checked (Decode.slotV 0x301155409800#48) = some (.vsplit ⟨0, 17, 10, 21, 0, 19, 0, 0⟩) ∧
    Decode.checked (Decode.slotV 0x3111055C0810#48) = some (.vrand ⟨0, 17, 0, 21, 14, 1, 0, 1⟩) ∧
    Decode.checked (Decode.slotV 0x380050009600#48) = some (.vsum ⟨0, 0, 10, 0, 0, 18, 6, 0⟩) ∧
    Decode.checked (Decode.slotV 0x390055409600#48) = some (.vdot ⟨0, 0, 10, 21, 0, 18, 6, 0⟩) ∧
    Decode.checked (Decode.slotV 0x3A1150009010#48) = some (.vrmax ⟨0, 17, 10, 0, 0, 18, 0, 1⟩) ∧
    Decode.checked (Decode.slotV 0x3B1150009010#48) = some (.vrmin ⟨0, 17, 10, 0, 0, 18, 0, 1⟩) := by decide +kernel

/-- R250 to R258. -/
theorem words_ma :
    Decode.checked (Decode.slotM 0x01002B000000#48) = some (.msill ⟨0, 0, 21, 2, 0, 0, 0, 0, 0, 0⟩) ∧
    Decode.checked (Decode.slotM 0x028AAB400000#48) = some (.mmul ⟨17, 10, 21, 2, 1, 0, 0, 0, 0, 0⟩) ∧
    Decode.checked (Decode.slotM 0x038AAB400000#48) = some (.mmac ⟨17, 10, 21, 2, 1, 0, 0, 0, 0, 0⟩) ∧
    Decode.checked (Decode.slotM 0x048AAB401980#48) = some (.mslice ⟨17, 10, 21, 2, 1, 0, 0, 6, 3, 0⟩) ∧
    Decode.checked (Decode.slotM 0x058A80000018#48) = some (.mscale ⟨17, 10, 0, 0, 0, 0, 0, 0, 0, 3⟩) ∧
    Decode.checked (Decode.slotM 0x068A801A2000#48) = some (.mround ⟨17, 10, 0, 0, 0, 3, 17, 0, 0, 0⟩) ∧
    Decode.checked (Decode.slotM 0x078800000000#48) = some (.mrel ⟨17, 0, 0, 0, 0, 0, 0, 0, 0, 0⟩) ∧
    Decode.checked (Decode.slotM 0x088800000010#48) = some (.mzero ⟨17, 0, 0, 0, 0, 0, 0, 0, 0, 2⟩) ∧
    Decode.checked (Decode.slotM 0x098A80000000#48) = some (.msave ⟨17, 10, 0, 0, 0, 0, 0, 0, 0, 0⟩) ∧
    Decode.checked (Decode.slotM 0x0A8A80000008#48) = some (.mload ⟨17, 10, 0, 0, 0, 0, 0, 0, 0, 1⟩) ∧
    Decode.checked (Decode.slotM 0x0B02AB000000#48) = some (.msplit ⟨0, 10, 21, 2, 0, 0, 0, 0, 0, 0⟩) := by decide +kernel

/-- R259 to R262. -/
theorem words_mq :
    Decode.checked (Decode.slotM 0x10C2A0000000#48) = some (.qclr ⟨6, 0, 42, 0, 0, 0, 0, 0⟩) ∧
    Decode.checked (Decode.slotM 0x11C2A54030C8#48) = some (.qfma ⟨6, 0, 42, 21, 0, 3, 0, 25⟩) ∧
    Decode.checked (Decode.slotM 0x12C2A54030C8#48) = some (.qdot ⟨6, 0, 42, 21, 0, 3, 0, 25⟩) ∧
    Decode.checked (Decode.slotM 0x13CC00000000#48) = some (.qadd ⟨6, 3, 0, 0, 0, 0, 0, 0⟩) ∧
    Decode.checked (Decode.slotM 0x14CC00000000#48) = some (.qsub ⟨6, 3, 0, 0, 0, 0, 0, 0⟩) ∧
    Decode.checked (Decode.slotM 0x15CC00000000#48) = some (.qneg ⟨6, 3, 0, 0, 0, 0, 0, 0⟩) ∧
    Decode.checked (Decode.slotM 0x160EA0000E98#48) = some (.qround ⟨0, 3, 42, 0, 0, 0, 7, 19⟩) ∧
    Decode.checked (Decode.slotM 0x170CDA801000#48) = some (.qst ⟨0, 3, 13, 42, 0, 1, 0, 0⟩) ∧
    Decode.checked (Decode.slotM 0x18C0DA801000#48) = some (.qld ⟨6, 0, 13, 42, 0, 1, 0, 0⟩) := by decide +kernel

/-- R272 to R288. -/
theorem words_x1 :
    Decode.checked (Decode.slotX 0x01B400A80000#48) = some (.bcopy ⟨2, 13, 0, 0, 42, 0, 0, 0, 0, 0⟩) ∧
    Decode.checked (Decode.slotX 0x02B400A80000#48) = some (.bconv ⟨2, 13, 0, 0, 42, 0, 0, 0, 0, 0⟩) ∧
    Decode.checked (Decode.slotX 0x03B400A80000#48) = some (.bquant ⟨2, 13, 0, 0, 42, 0, 0, 0, 0, 0⟩) ∧
    Decode.checked (Decode.slotX 0x04B400A80000#48) = some (.bgather ⟨2, 13, 0, 0, 42, 0, 0, 0, 0, 0⟩) ∧
    Decode.checked (Decode.slotX 0x05B400A80000#48) = some (.bscatter ⟨2, 13, 0, 0, 42, 0, 0, 0, 0, 0⟩) ∧
    Decode.checked (Decode.slotX 0x06B400A80000#48) = some (.bfill ⟨2, 13, 0, 0, 42, 0, 0, 0, 0, 0⟩) ∧
    Decode.checked (Decode.slotX 0x07B400A80000#48) = some (.bnext ⟨2, 13, 0, 0, 42, 0, 0, 0, 0, 0⟩) ∧
    Decode.checked (Decode.slotX 0x08B400A80004#48) = some (.bchain ⟨2, 13, 0, 0, 42, 0, 0, 0, 0, 1⟩) ∧
    Decode.checked (Decode.slotX 0x1035AA540000#48) = some (.put ⟨0, 13, 6, 42, 21, 0, 0, 0, 0, 0⟩) ∧
    Decode.checked (Decode.slotX 0x1235AA540000#48) = some (.putT ⟨0, 13, 6, 42, 21, 0, 0, 0, 0, 0⟩) ∧
    Decode.checked (Decode.slotX 0x113405540000#48) = some (.putQ ⟨0, 13, 0, 5, 21, 0, 0, 0, 0, 0⟩) ∧
    Decode.checked (Decode.slotX 0x14002A540000#48) = some (.sinit ⟨0, 0, 0, 42, 21, 0, 0, 0, 0, 0⟩) ∧
    Decode.checked (Decode.slotX 0x15002A540000#48) = some (.sinc ⟨0, 0, 0, 42, 21, 0, 0, 0, 0, 0⟩) ∧
    Decode.checked (Decode.slotX 0x16002A540004#48) = some (.swait ⟨0, 0, 0, 42, 21, 0, 0, 0, 0, 1⟩) ∧
    Decode.checked (Decode.slotX 0x183400000000#48) = some (.twait ⟨0, 13, 0, 0, 0, 0, 0, 0, 0, 0⟩) ∧
    Decode.checked (Decode.slotX 0x190000000000#48) = some (.tbsync ⟨0, 0, 0, 0, 0, 0, 0, 0, 0, 0⟩) := by decide +kernel

/-- R289 to R292. -/
theorem words_x2 :
    Decode.checked (Decode.slotX 0x20342A000008#48) = some (.slAdd ⟨0, 13, 0, 42, 0, 0, 0, 0, 0, 2⟩) ∧
    Decode.checked (Decode.slotX 0x21342A000004#48) = some (.slMin ⟨0, 13, 0, 42, 0, 0, 0, 0, 0, 1⟩) ∧
    Decode.checked (Decode.slotX 0x22342A000010#48) = some (.slMax ⟨0, 13, 0, 42, 0, 0, 0, 0, 0, 4⟩) ∧
    Decode.checked (Decode.slotX 0x23342A000008#48) = some (.slAnd ⟨0, 13, 0, 42, 0, 0, 0, 0, 0, 2⟩) ∧
    Decode.checked (Decode.slotX 0x24342A000008#48) = some (.slOr ⟨0, 13, 0, 42, 0, 0, 0, 0, 0, 2⟩) ∧
    Decode.checked (Decode.slotX 0x25342A000008#48) = some (.slXor ⟨0, 13, 0, 42, 0, 0, 0, 0, 0, 2⟩) ∧
    Decode.checked (Decode.slotX 0x26342A000010#48) = some (.slFadd ⟨0, 13, 0, 42, 0, 0, 0, 0, 0, 4⟩) ∧
    Decode.checked (Decode.slotX 0x27342A540028#48) = some (.slCas ⟨0, 13, 0, 42, 21, 0, 0, 0, 0, 10⟩) ∧
    Decode.checked (Decode.slotX 0x2835AA000000#48) = some (.slFill ⟨0, 13, 6, 42, 0, 0, 0, 0, 0, 0⟩) ∧
    Decode.checked (Decode.slotX 0x2935AA540020#48) = some (.slSum ⟨0, 13, 6, 42, 21, 0, 0, 0, 0, 8⟩) ∧
    Decode.checked (Decode.slotX 0x3035AA54582C#48) = some (.amoAdd ⟨0, 13, 6, 42, 21, 0, 5, 1, 0, 11⟩) ∧
    Decode.checked (Decode.slotX 0x3135AA545824#48) = some (.amoMin ⟨0, 13, 6, 42, 21, 0, 5, 1, 0, 9⟩) ∧
    Decode.checked (Decode.slotX 0x3235AA545820#48) = some (.amoMax ⟨0, 13, 6, 42, 21, 0, 5, 1, 0, 8⟩) ∧
    Decode.checked (Decode.slotX 0x3335AA545828#48) = some (.amoAnd ⟨0, 13, 6, 42, 21, 0, 5, 1, 0, 10⟩) ∧
    Decode.checked (Decode.slotX 0x3435AA545820#48) = some (.amoOr ⟨0, 13, 6, 42, 21, 0, 5, 1, 0, 8⟩) ∧
    Decode.checked (Decode.slotX 0x3535AA545828#48) = some (.amoXor ⟨0, 13, 6, 42, 21, 0, 5, 1, 0, 10⟩) ∧
    Decode.checked (Decode.slotX 0x3635AA545828#48) = some (.amoSwap ⟨0, 13, 6, 42, 21, 0, 5, 1, 0, 10⟩) ∧
    Decode.checked (Decode.slotX 0x3735AA545828#48) = some (.amoCas ⟨0, 13, 6, 42, 21, 0, 5, 1, 0, 10⟩) ∧
    Decode.checked (Decode.slotX 0x3835AA545834#48) = some (.amoFadd ⟨0, 13, 6, 42, 21, 0, 5, 1, 0, 13⟩) := by decide +kernel

/-- R293 to R305. -/
theorem words_x3 :
    Decode.checked (Decode.slotX 0x400000020000#48) = some (.fenceAcq ⟨0, 0, 0, 0, 0, 4, 0, 0, 0, 0⟩) ∧
    Decode.checked (Decode.slotX 0x410000018000#48) = some (.fenceRel ⟨0, 0, 0, 0, 0, 3, 0, 0, 0, 0⟩) ∧
    Decode.checked (Decode.slotX 0x420000008000#48) = some (.fenceAr ⟨0, 0, 0, 0, 0, 1, 0, 0, 0, 0⟩) ∧
    Decode.checked (Decode.slotX 0x433580000000#48) = some (.fenceBank ⟨0, 13, 6, 0, 0, 0, 0, 0, 0, 0⟩) ∧
    Decode.checked (Decode.slotX 0x430000000004#48) = some (.fenceBankAll ⟨0, 0, 0, 0, 0, 0, 0, 0, 0, 1⟩) ∧
    Decode.checked (Decode.slotX 0x440000000000#48) = some (.fenceGeo ⟨0, 0, 0, 0, 0, 0, 0, 0, 0, 0⟩) ∧
    Decode.checked (Decode.slotX 0x483400000000#48) = some (.phase ⟨0, 13, 0, 0, 0, 0, 0, 0, 0, 0⟩) ∧
    Decode.checked (Decode.slotX 0x490000030000#48) = some (.dbar ⟨0, 0, 0, 0, 0, 6, 0, 0, 0, 0⟩) ∧
    Decode.checked (Decode.slotX 0x4C0000570450#48) = some (.collSum ⟨0, 0, 0, 0, 21, 6, 0, 0, 17, 4⟩) ∧
    Decode.checked (Decode.slotX 0x4C342A570020#48) = some (.collSumQ ⟨0, 13, 0, 42, 21, 6, 0, 0, 0, 8⟩) ∧
    Decode.checked (Decode.slotX 0x4D002A570440#48) = some (.collBcast ⟨0, 0, 0, 42, 21, 6, 0, 0, 17, 0⟩) ∧
    Decode.checked (Decode.slotX 0x50340054045C#48) = some (.wmap ⟨0, 13, 0, 0, 21, 0, 0, 0, 17, 7⟩) ∧
    Decode.checked (Decode.slotX 0x51000054001C#48) = some (.wflush ⟨0, 0, 0, 0, 21, 0, 0, 0, 0, 7⟩) ∧
    Decode.checked (Decode.slotX 0x510000540020#48) = some (.wflushAll ⟨0, 0, 0, 0, 21, 0, 0, 0, 0, 8⟩) ∧
    Decode.checked (Decode.slotX 0x580000000000#48) = some (.tret ⟨0, 0, 0, 0, 0, 0, 0, 0, 0, 0⟩) := by decide +kernel

/-- R142, R160: an all-zero slot is its no-op; R161: an unassigned opcode, an S0 opcode in S1 and a set reserved bit are refused. -/
theorem words_none :
    Decode.slotS .s0 0#48 none = some (.nop .s0) ∧ Decode.slotS .s1 0#48 none = some (.nop .s1) ∧
    Decode.slotV 0#48 = some .vnop ∧ Decode.slotM 0#48 = some .mnop ∧ Decode.slotX 0#48 = some .xnop ∧
    Decode.slotS .s0 0x1C0000000000#48 none = none ∧ Decode.slotS .s1 0x600000001000#48 none = none ∧
    Decode.slotV 0x130000000000#48 = none ∧ Decode.slotM 0x0C0000000000#48 = none ∧ Decode.slotX 0x590000000000#48 = none ∧
    Decode.slotV 0x010308802001#48 = none ∧ Decode.slotX 0x101146180001#48 = none := by decide +kernel

/-- R142, R143, R144: the fields of a bundle, and its header: SP, a long immediate in S1's place, a reserved CLS and H[0]. -/
theorem words_bundle :
    Decode.bundle 0x0000000000000000000000000000000000000000000000006000000010002000#256 =
      some { sp := true, s0 := some (.br ⟨0, 0, 1, 0⟩), s1 := some (.nop .s1), v := some .vnop, m := some .mnop, x := some .xnop } ∧
    (Decode.bundle 0x0000000000000000000000000000000000008000000000013000410000004000#256).map (fun b => b.s0) =
      some (some (.addi .s0 ⟨0, 0, 4, 4, 0, .long 0x800000000001#48, 0, 0, 0, 0⟩)) ∧
    Decode.bundle 0x1011461C00000320440000000103088020000000000000000000000000000000#256 = some { sp := false, s0 := some (.nop .s0), s1 := some (.nop .s1), v := some (.vadd ⟨0, 3, 1, 2, 0, 4, 0, 0⟩), m := some (.mmac ⟨4, 1, 2, 0, 0, 0, 0, 0, 0, 0⟩), x := some (.put ⟨0, 4, 5, 6, 7, 0, 0, 0, 0, 0⟩) } ∧
    Decode.bundle 0x8000#256 = none ∧ Decode.bundle 0x0001#256 = none := by decide +kernel

/-! ### For each statement, states and operands that meet what it assumes, one or more for each clause -/

/-- The outcome is a next state with a property. -/
def ends (o : Host.Outcome State Fault Refusal) (p : State → Bool) : Bool := match o with | .next t => p t | _ => false

def faultOf (o : Host.Outcome State Fault Refusal) : Option Fault := match o with | .fault f => some f | _ => none

theorem noClash {s : State} (h : s.me.ctx.landings = []) (l : Nat) (v : LandVal) : NoClash s l v :=
  Or.inr (by rw [h]; intro x hx; cases hx)

/-- A signed image of version 1. -/
def img : SignedImage := { version := 1, digest := 7, ecdsaOk := true, lmsOk := true }

/-- A configuration record with that image. -/
def record : ConfigRecord :=
  { image := img, certChain := [[1, 2]], linkLocal := 0xFE80 <<< 112, globalAddr := 0, powerCapWatts := 1300, floorVersion := 0,
    certs := [], ptpDomain := 0, lpddrBankBytes := 1 }

/-- Room 0 of a team about to issue the bundle given, with every footprint open. -/
def placed (w : BitVec 256) : State :=
  { s0 with queue := [fetchRoom], pages := [{ core := 0, load := 1, page := 0, frame := 0, bundles := [w] }] }

theorem met_DecodeOfEncode :
    (let i := Instr.vadd { vf with dc := 0, cfmt := 0x1A, rm := 7 }
     i.wellFormed = true ∧ (Decode.encodeSlot i).isSome = true ∧ i ≠ .nop .s1 ∧ i ≠ .vnop ∧ i ≠ .mnop ∧ i ≠ .xnop ∧
       Decode.longImm i = none) ∧
    (let i := Instr.addi .s0 { imf 1 2 0 with imm := .long 0x800000000000 }
     i.wellFormed = true ∧ Decode.longImm i = some 0x800000000000 ∧ (Decode.encodeSlot i).map Prod.fst = some .s0) := by
  decide +kernel

theorem met_EncodeOfDecode :
    Decode.checked (Decode.slotS .s0 0x6AFFFFFFFFFF#48 none) = none ∧
    (Decode.slotS .s0 0x010000000000#48 none = some (.add .s0 (rf 0 0 0)) ∧ (Instr.add .s0 (rf 0 0 0)).wellFormed = true) ∧
    (Decode.slotS .s1 0x3FFFFFFFE000#48 none = none) ∧
    (Decode.slotS .s1 0x3CFFFFFFE000#48 none = some (.seth .s1 ⟨63, 0xFFFFF, 1⟩) ∧ (Instr.seth .s1 ⟨63, 0xFFFFF, 1⟩).wellFormed = true) ∧
    (Decode.slotV 0x12FFFFC00000#48 = some (.vmov ⟨7, 31, 31, 31, 0, 0, 0, 0⟩)) ∧
    (Decode.slotV 0x121FFFC00000#48).isSome = true ∧
    (Decode.slotM 0x07F800000000#48 = some (.mrel ⟨31, 0, 0, 0, 0, 0, 0, 0, 0, 0⟩) ∧
      (Instr.mrel ⟨31, 0, 0, 0, 0, 0, 0, 0, 0, 0⟩).wellFormed = true) ∧
    (Decode.slotX 0x193FFFFFFFFF#48).isNone = true ∧
    (Decode.slotX 0x190000000000#48 = some (.tbsync { xf with ch := 0 }) ∧ (Instr.tbsync xf).wellFormed = true) := by
  decide +kernel

theorem met_IllegalEncodingTraps :
    let bad (i : Instr) (p : Decode.Place) : Bool := (Decode.encodeSlot i).map Prod.fst == some p && !i.wellFormed
    bad (.add .s0 { rf 1 2 3 with fn := 1 }) .s0 = true ∧ bad (.add .s1 { rf 1 2 3 with gn := 1 }) .s1 = true ∧
    bad (.vadd { vf with cfmt := 0x3F, dc := 0 }) .v = true ∧ bad (.mzero { maf with fn := 4 }) .m = true ∧
    bad (.tbsync { xf with fn := 1 }) .x = true := by decide +kernel

theorem met_StepTakesNextEvent :
    (let s := { s0 with agenda := [.thermalWarnClear, .thermalWarn], queue := [fetchRoom] }
     s.power.on = true ∧ s.agenda = .thermalWarnClear :: [.thermalWarn]) ∧
    (let s (l : List Instr) : State := { s0 with power := { s0.power with on := false }, agenda := l }
     (s [.thermalTrip]).power.on = false ∧ (s []).agenda = [] ∧ faultOf (step (s [])) = some .poweredOff ∧
     ends (step (s [.powerUp img img record])) (fun t => t.power.on) = true) := by decide +kernel

/-- What StepIssuesInstruction assumes of a state, its bundle, and how the instruction ends. -/
def issues (s : State) (i : Instr) (p : State → Bool) : Bool :=
  match s.queue with
  | [] => false
  | r :: rest =>
    let f := (State.focus { s with queue := rest } r).flushEcc
    let t := f.openCycle
    let g := State.focus { s with queue := rest } r
    match f.codeAt f.me f.me.ctx.pc with
    | .word w =>
      (match Decode.bundle w with
       | some b =>
         s.power.on && s.agenda == [] && decide (g.me.id = r) && f.me.life == .running && f.me.stop == .none &&
         f.me.ctx.due == [] && f.me.ctx.wait == .none && b.s0 == some i && b.s1 == some (.nop .s1) && b.v == some .vnop &&
         b.m == some .mnop && b.x == some .xnop && f.me.breakpoint == none && t.me.stop == .none && !t.me.ctx.repFresh &&
         !t.me.ctx.repZero && repRem t.me.ctx.repc == 0 && ends (exec i t) p
       | none => false)
    | _ => false

theorem met_StepIssuesInstruction :
    issues (placed (0x010010806000#256 <<< 16)) (.add .s0 (rf 1 2 3)) (fun u => u.me.stop == .none && u.me.miss == none) = true ∧
    (let s := placed (0x4C0010800000#256 <<< 16)
     let win : Window := { num := 0, base := 0, len := 256, gva := 0, resident := [], written := [] }
     issues { s with me := { s.me with windows := [win] } } (.ldw .s0 (imf 1 2 0))
       (fun u => u.me.stop == .none && u.me.miss == some (.window 0 0)) = true) ∧
    issues (placed (0x4C0010800080#256 <<< 16)) (.ldw .s0 (imf 1 2 1)) (fun u => u.me.stop == .frozen (cause 0x07 0)) = true := by
  decide +kernel

theorem met_CoreCycleAdvancesTime :
    s0.power.on = true ∧ s0.agenda = [] ∧ s0.queue = [] ∧ s0.hall.rate = 0 ∧ s0.hall.hold = 0 ∧ s0.hall.realign = none ∧
    s0.hall.lock = false ∧ s0.hall.realignAway = [] ∧
    (let s := { s0 with hall := { s0.hall with lock := true } }
     s.power.on = true ∧ s.agenda = [] ∧ s.queue = [] ∧ s.hall.lock = true ∧ s.hall.ref ≤ s.hall.tb + 8 * 2 ^ 16 ∧
       s.hall.tb ≤ s.hall.ref + 8 * 2 ^ 16) := by
  decide +kernel

theorem wf_s0 : Safety.StoresWf s0 := by
  unfold Safety.StoresWf Safety.RoomWf; decide +kernel

/-! #### Traps, scalars and control -/

/-- Causes of four places of R382, two of one place, and of every place of R159 but one, with two slots at one of them. -/
theorem met_CauseOrder :
    (let l := [cause 0x2A 0, cause 0x21 4, cause 0x20 4, cause 0x15 2]
     l ≠ [] ∧ (∀ c ∈ l, ∃ x ∈ boundaryOrder, c.code ∈ x) ∧ firstCause l = some (cause 0x15 2) ∧
       firstCause (l.take 3) = some (cause 0x21 4) ∧
       firstCause (onCtx fun c => { c with due := l }).me.ctx.due = some (cause 0x15 2)) ∧
    (let l := [(4, cause 0x07 4), (1, cause 0x01 1), (0, cause 0x01 0), (6, cause 0x23 6), (0, cause 0x05 0), (1, cause 0x06 1),
               (2, cause 0x03 2), (3, cause 0x08 3), (2, cause 0x09 2), (0, cause 0x0A 0)]
     l ≠ [] ∧ (∀ x ∈ l, ∃ y ∈ issueOrder, x.2.code ∈ y) ∧ firstIssue l = some (cause 0x01 0)) := by decide +kernel

def asideNone : SetAside :=
  { loops := [], repc := 5, repZero := false, repFresh := false, redirects := [], landings := [], flights := [], vFree := 0,
    mFree := 0, ic := 7, wait := .swait 3 1 false, due := [], latchDue := [], bkptPassed := false, tileMarks := [] }

theorem met_TrapReturn :
    (Instr.tret xf).wellFormed = true ∧ s0.me.ctx.hmode = false ∧
    (let s := onMe fun r => { r with aside := some asideNone, ctx := { r.ctx with hmode := true } }
     s.me.ctx.hmode = true ∧ s.me.ctx.landings = [] ∧ s.me.ctx.flights = [] ∧ s.me.aside = some asideNone ∧
       (after (exec (.tret xf) s)).me.ctx.repc = 5 ∧ s.me.aside ≠ none) ∧ r0.aside = none ∧
    ({ r0 with stop := .debug, ctx := { r0.ctx with hmode := true } } : Room).ctx.hmode = true ∧
    ({ r0 with stop := .debug } : Room).stop = .debug ∧ ({ r0 with stop := .frozen (cause 1 0) } : Room).stop ≠ .debug := by
  decide +kernel

/-- A state whose s5 is to take a landing in the next issue cycle but one. -/
def clashing : State := onCtx fun c =>
  { c with landings := [{ due := c.ic + 1, val := .s 5 1, slot := 0, raised := Raised.none, escape := none },
                        { due := c.ic + 2, val := .s 5 1, slot := 0, raised := Raised.none, escape := none },
                        { due := c.ic + 3, val := .s 5 1, slot := 0, raised := Raised.none, escape := none }] }

theorem met_LaneArithmetic :
    (∀ row ∈ laneArith ++ laneShift, (row.op .s0 { rf 63 1 0 with sh := 3 }).wellFormed = true ∧
      (row.op .s1 (rf 0 1 0)).wellFormed = true ∧ (row.op .s0 (rf 5 1 0)).wellFormed = true) ∧
    (∀ row ∈ laneArith ++ laneShift, NoClash s0 row.lat (destS s0.me.ctx 63 0) ∧ NoClash clashing row.lat (destS s0.me.ctx 6 0) ∧
      NoClash clashing row.lat (destS s0.me.ctx 0 0) ∧ ¬ NoClash clashing row.lat (destS clashing.me.ctx 5 0)) := by
  unfold NoClash; decide +kernel

theorem met_LogicAndShifts :
    (∀ row ∈ logicRows, (row.op .s0 (rf 63 1 2)).wellFormed = true ∧ NoClash s0 1 (destS s0.me.ctx 63 0)) ∧
    (∀ row ∈ laneShift, (row.op .s1 { rf 63 1 2 with sh := 3 }).wellFormed = true ∧ NoClash s0 1 (destS s0.me.ctx 63 0)) ∧
    (Instr.clz .s0 { rf 63 1 0 with sh := 3 }).wellFormed = true ∧ (Instr.popc .s1 { rf 0 1 0 with sh := 1 }).wellFormed = true := by
  unfold NoClash; decide +kernel

theorem met_BitFields :
    (Instr.bext .s0 { rf 63 1 2 with fn := 1 }).wellFormed = true ∧ (Instr.bins .s1 (rf 63 1 2)).wellFormed = true ∧
    (Instr.bperm .s0 (rf 0 1 2)).wellFormed = true ∧ NoClash s0 1 (destS s0.me.ctx 63 0) ∧ NoClash s0 1 (destS s0.me.ctx 0 0) := by
  unfold NoClash; decide +kernel

theorem met_ImmediateForms :
    (∀ row ∈ immRows, (row.op .s0 (imf 63 1 0x800)).wellFormed = true) ∧
    (∀ row ∈ immRows, (row.op .s0 { imf 63 1 0 with imm := .long 0x800000000000 }).wellFormed = true) ∧
    (∀ row ∈ immShiftRows, (row.op .s1 { imf 0 1 7 with sh := 2 }).wellFormed = true) ∧
    (∀ row ∈ immCompareRows, (row.op .s1 (imf 7 1 0xFFF)).wellFormed = true) ∧
    NoClash s0 1 (destS s0.me.ctx 63 0) ∧ NoClash s0 1 (destS s0.me.ctx 0 0) ∧ NoClash s0 1 (destG 7 false) := by
  unfold NoClash; decide +kernel

theorem met_ComparesAndGuards :
    (∀ row ∈ compareRows, (row.op .s0 (rf 7 1 2)).wellFormed = true ∧ (row.op .s1 (rf 0 63 63)).wellFormed = true) ∧
    (Instr.gand .s0 { rf 7 7 0 with fn := 7 }).wellFormed = true ∧ (Instr.gor .s1 (rf 0 1 2)).wellFormed = true ∧
    NoClash s0 1 (destG 7 false) ∧ NoClash clashing 1 (destG 0 false) := by
  unfold NoClash; decide +kernel

theorem met_SetHigh : NoClash s0 1 (destS s0.me.ctx 34 0) ∧ NoClash clashing 1 (destS s0.me.ctx 0 0) := by
  unfold NoClash; decide +kernel

theorem met_SelectAndAddresses :
    (Instr.sel .s0 { rf 63 1 0 with gi := 3 }).wellFormed = true ∧ s0.me.ctx.guard 3 0 = false ∧ s0.me.ctx.guard 0 0 = true ∧
    (Instr.aadd .s0 { rf 15 0 2 with fn := 11 }).wellFormed = true ∧ (Instr.aadd .s1 { rf 0 15 2 with fn := 3 }).wellFormed = true ∧
    (Instr.aaddi .s0 { imf 15 0 0x800 with fn := 8 }).wellFormed = true ∧ (Instr.aaddi .s1 (imf 0 15 0x7FF)).wellFormed = true ∧
    NoClash s0 1 (destS s0.me.ctx 63 0) ∧ NoClash s0 1 (destA 15 0) := by
  unfold NoClash; decide +kernel

theorem met_ScalarFloat :
    (∀ row ∈ floatRows, ∀ m ∈ [0, 1, 2, 3, 4, 7], (row.op .s0 { rf 63 1 2 with fn := m }).wellFormed = true) ∧
    (∀ row ∈ floatRows, NoClash s0 row.lat (destS s0.me.ctx 63 0) ∧ NoClash s0 row.lat (destS s0.me.ctx 0 0)) ∧
    (∀ m ∈ [0, 1, 2, 3, 4], (Instr.fcmp .s1 { rf 7 1 2 with fn := m }).wellFormed = true) ∧ NoClash s0 2 (destG 7 false) ∧
    (∀ b ∈ [0, 1, 2, 3, 4, 5, 6, 7], (Instr.fcvt .s0 (rf 63 1 b)).wellFormed = true) ∧ NoClash s0 3 (destS s0.me.ctx 63 0) := by
  unfold NoClash; decide +kernel

theorem met_LandingsWrite :
    (let l (v : LandVal) : Landing := { due := 0, val := v, slot := 0, raised := Raised.none, escape := none }
     (l (.s 63 1)).raised = Raised.none ∧ (l (.a 15 1)).escape = none ∧ (l (.g 7 true)).val = .g 7 true ∧
     (l (.mAdd 63 1)).val = .mAdd 63 1 ∧ (l (.store (cellsAt 4 [1, 2]))).val = .store (cellsAt 4 [1, 2])) ∧
    Memory.wf ([(3, 9), (5, 1)] : List Host.Cell) = true ∧
    Memory.putAll [(3, 9), (5, 1)] (cellsAt 4 [1, 0]) = [(3, 9), (4, 1)] ∧ Distinct (cellsAt 4 [1, 0]) ∧
    (∀ v ∈ [LandVal.q 7 Quire.clear, .d 31 5, .mSet 63 9, .bytes (cellsAt 0xFFFFFF [1]), .sill 3 (cellsAt 0 [1, 2]), .overflow (cellsAt 255 [1]),
        .tile (Tile.fresh 28 .q512 0), .flagsOnly],
      ({ due := 0, val := v, slot := 0, raised := Raised.none, escape := none } : Landing).raised = Raised.none) ∧
    (∀ m ∈ r0.sills, Memory.wf m = true) ∧ (3#2).toNat < r0.sills.length ∧
    (let x (n : Nat) : Tile := { Tile.fresh 28 .q512 0 with issued := n }
     let r : Room := { r0 with tiles := [x 5] }
     r.tile? (x 4).head = some (x 5) ∧ (x 4).issued < (x 5).issued ∧ (x 5).issued ≤ (x 6).issued ∧ r0.tile? (x 4).head = none) := by
  unfold Distinct; decide +kernel

/-- a2 = 16 and an attic of 64 bytes at 128, with one line of overflow area resident. -/
def memS : State :=
  onMe fun r => { r with
    atticBase := 128, atticSize := 64, atticOvf := (1#64 <<< 52)
    overflow := [{ num := 0, bytes := List.replicate 256 0, dirty := false }]
    ctx := withA [(2, 16), (3, 64), (4, 60), (5, 0xFFFFF0)] { r.ctx with s := r.ctx.s } }

theorem met_LoadsComplete :
    ∀ row ∈ loadRows, ∀ f ∈ [imf 4 2 0, imf 4 5 0], (row.op .s0 f).wellFormed = true ∧ ea memS f % row.size = 0 ∧
      (∀ v ∈ row.lands memS.me.ctx f 0, NoClash memS 3 v) ∧ PartitionAt memS f (ea memS f) ∧
      MayTouch memS false (ea memS f) row.size ∧ TakesPlace memS 0 false (span (ea memS f) row.size) ∧ NoErrors memS := by
  unfold NoClash PartitionAt MayTouch TakesPlace NoErrors; decide +kernel

theorem met_LoadsComplete_attic :
    ∀ row ∈ loadRows, ∀ f ∈ [{ imf 4 2 0 with fn := 1 }, { imf 4 2 32 with fn := 1 }], (row.op .s1 f).wellFormed = true ∧ ea memS f % row.size = 0 ∧
      PartitionAt memS f (128 + ea memS f) ∧ MayTouch memS false (128 + ea memS f) row.size ∧
      TakesPlace memS 1 false (span (128 + ea memS f) row.size) := by
  unfold PartitionAt MayTouch TakesPlace; decide +kernel

theorem met_LoadsComplete_overflow :
    ∀ row ∈ loadRows, (row.op .s1 { imf 4 3 0 with fn := 1 }).wellFormed = true ∧ ea memS { imf 4 3 0 with fn := 1 } % row.size = 0 ∧
      OverflowAt memS { imf 4 3 0 with fn := 1 } 0 ∧ (memS.me.overBytes 0 row.size).isSome = true := by
  unfold OverflowAt; decide +kernel

theorem met_StoresComplete :
    (∀ row ∈ storeRows, (row.op .s0 { imf 4 2 0 with gi := 3 }).wellFormed = true ∧ memS.me.ctx.guard 3 0 = false) ∧
    (∀ row ∈ storeRows, ∀ f ∈ [imf 4 2 0, imf 4 5 0], (row.op .s0 f).wellFormed = true ∧ memS.me.ctx.guard f.gi f.gn = true ∧ ea memS f % row.size = 0 ∧
      PartitionAt memS f (ea memS f) ∧ MayTouch memS true (ea memS f) row.size ∧ TakesPlace memS 0 true (span (ea memS f) row.size)) ∧
    (∀ row ∈ storeRows, OverflowAt memS { imf 4 3 0 with fn := 1 } 0 ∧ (memS.me.overBytes 0 row.size).isSome = true) := by
  unfold PartitionAt MayTouch TakesPlace OverflowAt; decide +kernel

/-- Beyond the overflow area, outside the footprint, and off the partition. -/
theorem met_AddressFaults :
    (∀ row ∈ loadRows, 1 < row.size → (row.op .s0 (imf 4 2 1)).wellFormed = true ∧ ea memS (imf 4 2 1) % row.size ≠ 0) ∧
    (∀ row ∈ storeRows, 1 < row.size → (row.op .s0 (imf 4 2 1)).wellFormed = true ∧ ea memS (imf 4 2 1) % row.size ≠ 0) ∧
    (∀ row ∈ loadRows, let s : State := { memS with me := { memS.me with ctx := withA [(2, 64 + 65536)] memS.me.ctx } }
      isAttic { imf 4 2 0 with fn := 1 } = true ∧ ea s { imf 4 2 0 with fn := 1 } % row.size = 0 ∧ 
      s.me.atticSize.toNat % 2 ^ 25 + 65536 * (s.me.atticOvf.toNat / 2 ^ 52 % 256) ≤ ea s { imf 4 2 0 with fn := 1 }) ∧
    (∀ row ∈ storeRows, let s : State := onCtx fun c => { withA [(2, 0x1000000)] c with footprint := openSets }
      ea s (imf 4 2 0) % row.size = 0 ∧ PartitionAt s (imf 4 2 0) 0x1000000 ∧ ¬ MayTouch s true 0x1000000 row.size) ∧
    (∀ row ∈ loadRows, let s : State := onCtx fun c => { c with footprint := Footprint.nil }
      ea s (imf 4 2 0) % row.size = 0 ∧ PartitionAt s (imf 4 2 0) 0 ∧ ¬ MayTouch s false 0 row.size) := by
  unfold PartitionAt MayTouch; decide +kernel

/-- No landing is pending in those states. -/
theorem met_AddressFaults_lands :
    (∀ row ∈ loadRows, ∀ f ∈ [imf 4 2 1, imf 4 2 0, { imf 4 2 0 with fn := 1 }], ∀ v ∈ row.lands memS.me.ctx f 0, NoClash memS 3 v) ∧
    (let s : State := { memS with me := { memS.me with ctx := withA [(2, 64 + 65536)] memS.me.ctx } }
     s.me.ctx.landings = []) ∧
    (onCtx fun c => { c with footprint := Footprint.nil }).me.ctx.landings = [] := by
  unfold NoClash; decide +kernel


theorem met_Branches :
    (∀ row ∈ branchRows, ∀ f ∈ [({ gi := 3, gn := 0, off := 0, a := 0 } : BForm)], (row.op f).wellFormed = true ∧
      s0.me.ctx.guard f.gi f.gn = false) ∧
    (∀ row ∈ branchRows, let s : State := onCtx (withA [(0, 8), (15, 8)])
      (row.target s.me.ctx (bf 0)).toNat % 32 ≠ 0 ∨ row.target s.me.ctx (bf 0) = s.me.ctx.pc) ∧
    (∀ row ∈ branchRows, (row.op (bf 0)).wellFormed = true ∧ s0.me.ctx.guard (bf 0).gi (bf 0).gn = true ∧
      (row.target s0.me.ctx (bf 0)).toNat % 32 = 0 ∧ NoClash s0 1 (.a 15 0)) ∧
    (let s := onCtx fun c => { c with landings := [{ due := c.ic + 1, val := .a 15 9, slot := 0, raised := Raised.none, escape := none }] }
     ¬ NoClash s 1 (.a 15 0)) ∧
    (Instr.br (bf 0x800000)).wellFormed = true ∧ ((s0.me.ctx.pc + 32 * (0x800000#24).signExtend 64)).toNat % 32 = 0 := by
  unfold NoClash; decide +kernel

def loopE (n : Nat) : LoopEntry := { start := 0, last := 32, count := n, rot := false }
def redir (n : Nat) : Redirect := { due := n, target := 64, pops := true }

theorem met_LoopsAndRepeats :
    (let f : LForm := { rot := 1, cr := 0, endB := 0xFFF, cnt := 0xFFFF }
     let g : LForm := { rot := 0, cr := 1, endB := 1, cnt := 63 }
     (Instr.loop f).wellFormed = true ∧ (Instr.loop g).wellFormed = true ∧ s0.me.ctx.redirects = [] ∧
     (s0.me.ctx.readS (g.cnt.truncate 6)).toNat = 0 ∧ s0.me.ctx.loops.length < 6 ∧
     (let s := onCtx fun c => { c with loops := List.replicate 5 (loopE 1) }
      s.me.ctx.loops.length < 6) ∧
     (let s := onCtx fun c => { c with loops := List.replicate 6 (loopE 1) }
      s.me.ctx.redirects = [] ∧ 6 ≤ s.me.ctx.loops.length) ∧
     (onCtx fun c => { c with redirects := [redir 3] }).me.ctx.redirects ≠ []) ∧
    (let f : PForm := { n := 0xFFFF, k := 63 }
     let s : State := { (placed 0) with pages := [{ core := 0, load := 1, page := 0, frame := 0, bundles := [0, 0x010010806000#256 <<< 16] }] }
     (Instr.rep f).wellFormed = true ∧ s.me.ctx.redirects = [] ∧
     s.codeAt s.me (s.me.ctx.seqNext s.me.ctl).pc = .word (0x010010806000#256 <<< 16) ∧
     repeatCheck (0x010010806000#256 <<< 16) 0xFFFF 63 0 = none ∧ s.me.ctx.sysWrites = [] ∧ s.me.ctl = .none) ∧
    (Instr.rot (imf 0 0 0x800)).wellFormed = true := by decide +kernel

theorem met_SystemInstructions :
    (Instr.trap (imf 0 0 0xFFF)).wellFormed = true ∧ (Instr.halt (bf 0)).wellFormed = true ∧
    (∀ n ∈ [0x001, 0x002, 0x011, 0x012, 0x020, 0x021, 0x030, 0x036, 0x037, 0x040, 0x047, 0x050, 0x051, 0x062, 0x063],
      (Instr.mfs .s0 (imf 63 0 (BitVec.ofNat 12 n))).wellFormed = true ∧ sysWidth (imm32 false (.short (BitVec.ofNat 12 n))).toNat = some 32) ∧
    (∀ n ∈ [0x010, 0x052, 0x060, 0x061],
      (Instr.mfs .s1 (imf 15 0 (BitVec.ofNat 12 n))).wellFormed = true ∧ sysWidth (imm32 false (.short (BitVec.ofNat 12 n))).toNat = some 64) ∧
    NoClash s0 1 (destS s0.me.ctx 63 0) ∧ NoClash s0 1 (destA 15 0) ∧
    (∀ n ∈ [0x001, 0x002, 0x020], (Instr.mts (imf 0 63 n)).wellFormed = true) ∧ (Instr.repcWrite (imf 0 63 0x021)).wellFormed = true ∧
    (∀ x ∈ [(0x00050000, false), (0x0004FFFF, true), (0, true)], let s := onCtx (withS [(63, BitVec.ofNat 32 x.1)])
      decide ((s.me.ctx.readS 63).toNat / 2 ^ 16 % 8 < 5) = x.2 ∧ s.me.ctx.sysWrites = [] ∧ s.me.ctx.landings = [] ∧ s.me.ctl = .none) := by
  unfold NoClash; decide +kernel

theorem met_NextBundle :
    (let c := { r0.ctx with redirects := [{ redir r0.ctx.ic with target := 0x40 }, redir (r0.ctx.ic + 3)], loops := [{ loopE 2 with last := 0x20 }, { loopE 1 with last := 0x60 }] }
     c.redirects = [{ redir r0.ctx.ic with target := 0x40 }, redir (r0.ctx.ic + 3)] ∧ (redir r0.ctx.ic).due ≤ c.ic ∧ (redir 0).pops = true ∧
       c.arrive.loops = c.loops.drop 1 ∧ c.arrive.redirects = [redir (r0.ctx.ic + 3)] ∧ ({ redir 0 with pops := false } : Redirect).pops = false) ∧
    (let r (f : Ctx → Ctx) : Room := { r0 with ctx := f r0.ctx }
     (∀ f ∈ [fun c : Ctx => c], (r f).ctl ≠ .halts ∧ (r f).ctl = .none) ∧
     1 < ((r fun c => { c with repc := 0x00020000 }).ctx.repc.toNat / 2 ^ 16) ∧
     (let x := r fun c => { c with redirects := [redir (c.ic + 1)] }
      x.ctx.repc.toNat / 2 ^ 16 ≤ 1 ∧ x.ctx.redirects = [redir (x.ctx.ic + 1)] ∧ (redir (x.ctx.ic + 1)).due = x.ctx.ic + 1) ∧
     (let x := r fun c => { c with redirects := [redir (c.ic + 2)], loops := [{ loopE 2 with last := c.pc }], repc := 0x00010000 }
      x.ctx.repc.toNat / 2 ^ 16 ≤ 1 ∧ (∀ y ∈ x.ctx.redirects, y.due ≠ x.ctx.ic + 1) ∧
      x.ctx.loops = [{ loopE 2 with last := x.ctx.pc }]) ∧
     (let x := r fun c => { c with loops := [{ loopE 1 with last := c.pc }, loopE 3] }
      x.ctx.loops = [{ loopE 1 with last := x.ctx.pc }, loopE 3] ∧ (∀ e ∈ [loopE 3], e.last ≠ x.ctx.pc) ∧ x.ctl = .none) ∧
     (∀ e ∈ (r fun c => { c with loops := [loopE 3] }).ctx.loops.head?, e.last ≠ r0.ctx.pc) ∧
     ({ r0 with ctl := .skip 0 } : Room).ctl = .skip 0) := by decide +kernel


theorem nextBundle_ctl (again ended : Bool) : r0.ctl ≠ .returned again ended := by
  intro h; exact absurd (h.symm.trans (show r0.ctl = .none by decide +kernel)) (by intro h; cases h)

/-- A rotating loop that ends with the bundle, for `rot`, and a room with nothing queued for its sequencer. -/
theorem met_LoopsAndRepeats_rot :
    (let s := onCtx fun c => { c with loops := [{ loopE 2 with last := c.pc, rot := true }] }
     s.me.ctx.sysWrites = [] ∧ s.me.ctl = .none ∧ repRem s.me.ctx.repc ≤ 1 ∧
       s.me.ctx.loops = [{ loopE 2 with last := s.me.ctx.pc, rot := true }] ∧ ({ loopE 2 with rot := true } : LoopEntry).rot = true) ∧
    s0.me.ctx.sysWrites = [] ∧ s0.me.ctl = .none ∧ s0.me.ctx.loops = [] ∧ repRem s0.me.ctx.repc ≤ 1 := by decide +kernel


/-! #### The V slot -/

/-- A packed region of n values of a format of z bytes. -/
def reg (base fmt z n : Nat) : DescWord := dsc base z n fmt 0 0

def onD (l : List (Nat × DescWord)) (s : State) : State := { s with me := { s.me with ctx := withD l s.me.ctx } }

def f32 (n : Nat) (base : Nat) : DescWord := reg base 0x12 4 n
def i32 (n : Nat) (base : Nat) : DescWord := reg base 0x04 4 n
def n8r (n : Nat) (base : Nat) : DescWord := reg base 0x01 1 n

def v3 (cf : BitVec 6) : VForm := { vf with dc := 0, cfmt := cf }
def v2 (cf : BitVec 6) : VForm := { vf with db := 0, dc := 0, cfmt := cf }

/-- For each row of R217, in their order, a form and four regions. -/
def vCases : List (VForm × DescWord × DescWord × DescWord × DescWord) :=
  let f := f32 5
  let k := (f 0x1000, f 0x2000, f 0x3000, f 0x4000)
  let ki := (i32 5 0x1000, i32 5 0x2000, i32 5 0x3000, i32 5 0x4000)
  let km := (n8r 5 0x1000, f 0x2000, f 0x3000, f 0x4000)
  let kb (b : DescWord) := (f 0x1000, f 0x2000, b, f 0x4000)
  [(v3 0x12, k), (v3 0x12, k), (v3 0x12, k), ({ vf with cfmt := 0x12 }, k), (v3 0x12, k), (v3 0x12, k), (v2 0x12, k), (v2 0x12, k),
   (v3 4, ki), (v3 4, ki), (v3 0x12, k), (v3 0x12, k), (v3 0x12, k), (v3 4, ki)] ++
  [(v3 4, ki), (v2 0x12, (f 0x1000, reg 0x2000 0x13 8 5, f 0, f 0)), (v2 0x12, k), (v2 0x12, k), (v2 0x12, k), (v3 0x12, kb (i32 5 0x3000)),
   (v2 0x12, k), (v2 0x12, k), (v2 0x12, km), (v2 0x12, k), (v2 0x12, k), (v3 0x12, k), (v2 0x12, k), (v2 0x12, k)] ++
  [(v3 0x12, km), ({ vf with cfmt := 0x12 }, (f 0x1000, f 0x2000, f 0x3000, n8r 5 0x4000)), (v3 0x12, kb (n8r 5 0x3000)),
   (v3 0x12, kb (reg 0x3000 0x05 4 5)), (v3 0x12, kb (reg 0x3000 0x05 4 5)), (v2 0x12, (n8r 1 0x1000, f 0x2000, f 0, f 0)),
   (v3 0x13, (dsc 0x1000 1 5 0x00 8 16, reg 0x2000 0x13 8 5, reg 0x3000 0x02 2 1, f 0)), ({ vf with da := 0, cfmt := 0x12 }, k)] ++
  [({ v2 0x12 with dd := 0, qd := 7 }, k), ({ v3 0x12 with dd := 0, qd := 7 }, k), (v2 0x12, (f32 1 0x1000, f 0x2000, f 0, f 0)),
   (v2 0x12, (f32 1 0x1000, f 0x2000, f 0, f 0))]

def vState (k : DescWord × DescWord × DescWord × DescWord) : State := onD [(0, k.1), (1, k.2.1), (2, k.2.2.1), (3, k.2.2.2)] s0

/-- Every row of R217 issues somewhere. -/
theorem met_VectorIssue : ∀ x ∈ vectorRows.zip vCases,
    let s := vState x.2.2
    let i := x.1.op x.2.1
    i.wellFormed = true ∧ (∃ p, VLegal i x.2.1 (vRegs s x.2.1) p) ∧ VFree i s ∧ VAligned i (vRegs s x.2.1) ∧
      VInside i (vRegs s x.2.1) s.me := by
  have h : ∀ x ∈ vectorRows.zip vCases,
      let s := vState x.2.2
      let i := x.1.op x.2.1
      let g := vRegs s x.2.1
      i.wellFormed = true ∧ ((∀ d ∈ vReads i g ++ vWrites i g, descCheck d ≠ .illegal) ∧ vFmtOk i x.2.1.cfmt.toNat g = true ∧
        (vPlan i g).isSome = true) ∧ (s.me.ctx.vFree ≤ s.me.ctx.ic ∧ ∀ n : BitVec 3, s.me.qBusy n = false) ∧
        ((∀ d ∈ vReads i g ++ vWrites i g, descCheck d ≠ .misaligned) ∧ descBase g.db % 64 = 0) ∧ VInside i g s.me := by
    unfold VInside; decide +kernel
  intro x hx
  obtain ⟨h1, ⟨a, b, c⟩, ⟨d, e⟩, ⟨f, g⟩, k⟩ := h x hx
  obtain ⟨p, hp⟩ := Option.isSome_iff_exists.mp c
  exact ⟨h1, ⟨p, fun d hd _ => a d hd, b, hp⟩, ⟨d, fun f _ => e f.qd⟩, ⟨fun d hd _ => f d hd, fun _ _ => g⟩, k⟩

/-- `vadd` on a region of another format; with its engine busy; on a misaligned region; on a region past the partition. -/
theorem met_VectorIssue_traps :
    let i := Instr.vadd (v3 0x12)
    let g (d : DescWord) : VRegs := vRegs (vState (d, f32 5 0x2000, f32 5 0x3000, 0)) (v3 0x12)
    vFmtOk i 0x12 (g (i32 5 0x1000)) = false ∧ (vPlan i (g (f32 5 0x1000))).isSome = true ∧
    (¬ (onCtx fun c => { c with vFree := c.ic + 1 }).me.ctx.vFree ≤ s0.me.ctx.ic) ∧
    (∃ d ∈ vWrites i (g (f32 5 0x1002)), descCheck d = .misaligned) ∧ (∃ d ∈ vWrites i (g (f32 5 0xFFFFF0)), r0.regionOk 0 true d = false) := by
  decide +kernel

theorem met_VectorIntegerValues :
    (let g : VRegs := { dd := (n8r 5 0).toNat, da := (n8r 5 0).toNat, db := (n8r 5 0).toNat, dc := (n8r 5 0).toNat }
     (8 ∈ [4, 8, 16, 32]) ∧ descFmt g.dd = .int false 8 ∧ (255 : Nat) < 2 ^ 8) ∧
    descFmt (reg 0 0x06 1 4).toNat = .int true 4 ∧ descFmt (reg 0 0x02 2 4).toNat = .int true 16 ∧
    descFmt (reg 0 0x05 4 4).toNat = .int false 32 := by decide +kernel

def vFlight : Flight :=
  { op := .vadd (v3 0x12), slot := 2, pc := 0, c0 := s0.me.ctx.ic, occ := 1, lat := 4, rm := .rne, dd := (f32 5 0x1000).toNat
    da := (f32 5 0x400000).toNat, db := (f32 5 0x800000).toNat, dc := 0, next := 0, lost := false, hold := [], holdEnd := 0, buf := []
    rowInvalid := false, rowExp := 0, acc := Quire.clear, tile := none, fill := [], raised := Raised.none, escape := none, writes := [] }

/-- The regions of a case, each in a bank group of its own. -/
def apart (x : VForm × DescWord × DescWord × DescWord × DescWord) : VRegs :=
  { dd := x.2.1.toNat, da := x.2.2.1.toNat + 0x400000, db := x.2.2.2.1.toNat + 0x800000, dc := x.2.2.2.2.toNat + 0xC00000 }

/-- An operation in flight whose first beat reads now. -/
def beatFlight (row : VectorRow) (f : VForm) (g : VRegs) (p : VPlan) : Flight :=
  { vFlight with op := row.op f, dd := g.dd, da := g.da, db := g.db, dc := g.dc, occ := p.nb, lat := max 1 p.nb + row.p g.dd - 1 }

/-- The first beat of a case reads what it needs. -/
def beatReads (row : VectorRow) (f : VForm) (g : VRegs) : Bool :=
  match vPlan (row.op f) g with
  | some p => decide (0 < p.nb) && (vRead (heldRoom r0 (beatFlight row f g p)) (Core.atReset 0) f g p (beatFlight row f g p) 0).2.2
  | none => false

theorem atBeat {row : VectorRow} {f : VForm} {g : VRegs} (h : beatReads row f g = true) :
    ∃ p fl, AtBeat row f r0 (Core.atReset 0) fl g p 0 ∧ (vRead (heldRoom r0 fl) (Core.atReset 0) f g p fl 0).2.2 = true := by
  unfold beatReads at h
  split at h
  · next p hp =>
    rw [Bool.and_eq_true] at h
    have e : (Core.atReset 0).errors = [] ∧ (Core.atReset 0).failed.length < 3 := by decide +kernel
    exact ⟨p, beatFlight row f g p,
      ⟨rfl, rfl, hp, ⟨of_decide_eq_true h.1, rfl⟩, rfl, (fun w hw => by cases hw), e, rfl, fun h => absurd rfl h⟩, h.2⟩
  · cases h

/-- Every row of R217 has a beat that reads. -/
theorem met_VectorBeat : ∀ x ∈ vectorRows.zip vCases, ∃ p fl, AtBeat x.1 x.2.1 r0 (Core.atReset 0) fl (apart x.2) p 0 ∧
    (vRead (heldRoom r0 fl) (Core.atReset 0) x.2.1 (apart x.2) p fl 0).2.2 = true := by
  have h : ∀ x ∈ vectorRows.zip vCases, beatReads x.1 x.2.1 (apart x.2) = true := by decide +kernel
  exact fun x hx => atBeat (h x hx)

/-- A conversion to blocks and a move of blocks have such a beat too. -/
theorem met_VectorBeat_blocks :
    (let b : DescWord := dsc 0x1000 9 2 0x20 0 0
     let g : VRegs := { dd := b.toNat, da := (f32 64 0x400000).toNat, db := 0, dc := 0 }
     (descFmt g.dd).isBlk = true ∧ ∃ row ∈ vectorRows, row.op (v2 0x12) = .vcvt (v2 0x12) ∧ beatReads row (v2 0x12) g = true) ∧
    (let b : DescWord := dsc 0x1000 9 2 0x20 0 0
     let g : VRegs := { dd := b.toNat, da := b.toNat + 0x400000, db := 0, dc := 0 }
     (descFmt g.da).isBlk = true ∧ ∃ row ∈ vectorRows, row.op (v2 0x20) = .vmov (v2 0x20) ∧ beatReads row (v2 0x20) g = true) := by
  decide +kernel

/-- A write whose turn has come, sums whose class is there, and the cycle before an operation's results land. -/
theorem met_VectorBeat_ends :
    (let w : BeatWrite := { cycle := r0.ctx.ic, cells := [(0x1000, 1)], halves := [], raised := Raised.none }
     ({ vFlight with writes := [w] } : Flight).writes = [w] ∧ w.cycle ≤ r0.ctx.ic ∧ w.cells ≠ [] ∧ w.halves = [] ∧
       (r0.engAccess 2 vFlight.c0 false true (w.cells.map Prod.fst)).2 = true) ∧
    (let f := descFmt (f32 5 0).toNat
     (classOf f 0).isSome = true ∧ (classOf2 f 0 f 0).isSome = true) ∧
    (let r : Room := { r0 with ctx := { r0.ctx with ic := vFlight.c0 + 3 } }
     vFlight.writes = [] ∧ r.ctx.ic + 1 = vFlight.c0 + vFlight.lat ∧ vFlight.hold = []) := by
  decide +kernel

/-! #### The M slot -/

/-- Two rows of 64 i8 values. -/
def m8 (base : Nat) : DescWord := dsc base 1 64 0 2 64
def mS (f : Room → Room) (a b : DescWord) : State := onD [(1, a), (2, b)] (onMe f)
def bound (n : Nat) (c : QCls) (sigma : Int) : Tile := { Tile.fresh n c sigma with elems := [{ idx := 129, state := .finite, raw := 5 }] }

def arrayMeets (row : ArrayRow) (f : MAForm) (s : State) : Bool :=
  let da := mDa s f
  let db := mDb s f
  (row.op f).wellFormed && arrayShapeOk f row.slice da db && s.me.arrayTileOk f row.slice da db && decide (s.me.ctx.mFree ≤ s.me.ctx.ic) &&
  (f.ws == 0 || !s.me.sillPending f.w) && arrayAlignOk f da db && s.me.regionOk 1 false da && (f.ws == 1 || s.me.regionOk 1 false db)


/-- Bindings, a bound tile, a sill in B's place; operands in one bank group for the placement that R245 refuses. -/
theorem met_ArrayIssue :
    (∀ row ∈ arrayRows, let f : MAForm := { maf with bd := if row.slice then 28 else 0 }
      let a := if row.slice then dsc 0 1 64 0 8 64 else m8 0
      let s := mS id a (a + 0x400000)
      arrayMeets row f s = true ∧ s.me.badPlacement (arrayOps f (mDa s f) (mDb s f)) true = none ∧
      (let s := mS id a (a + 0x10000)
       arrayMeets row f s = true ∧ (s.me.badPlacement (arrayOps f (mDa s f) (mDb s f)) true).isSome = true)) ∧
    (∀ row ∈ arrayRows, let f : MAForm := { maf with bd := 28, ws := 1, w := 3, db := 2 }
      let a := if row.slice then dsc 0 1 64 0 8 64 else m8 0
      let s := mS (fun r => { r with tiles := [bound 28 .q512 (-112)] }) a (a + 0x10000)
      arrayMeets row f s = true ∧ s.me.badPlacement (arrayOps f (mDa s f) (mDb s f)) false = none ∧
        s.me.tile? 28 = some (bound 28 .q512 (-112))) := by decide +kernel

theorem met_MatrixProducts :
    (classOf2 (descFmt (m8 0).toNat) (descEs (m8 0).toNat) (descFmt (m8 0).toNat) (descEs (m8 0).toNat) = some .q128) ∧
    QCls.rank .q128 ≤ (bound 0 .q512 0).cls.rank ∧ (bound 0 .q512 0).cls ≠ .clear ∧ descRows (m8 0).toNat ≤ 128 ∧
    (bound 0 .q512 0).elems.Pairwise (fun x y => x.idx < y.idx) ∧
    (let fl := { vFlight with op := .mmac maf, slot := 3, tile := some (bound 0 .q512 0), da := (m8 0).toNat, db := (m8 0).toNat }
     fl.op = .mmac maf ∧ fl.tile = some (bound 0 .q512 0) ∧ descRows fl.db ≤ 128) := by decide +kernel

/-- Sets of one, 64 and 36 pairs, two of their cycles, a pair on its tile, and the operation that lands it. -/
theorem met_MatrixProducts_slices :
    (let d := (dsc 0 1 64 0 8 64).toNat
     let t := bound 28 .q512 (-112)
     let fl := { vFlight with op := .mslice { maf with fn := 2 }, slot := 3, tile := some t, da := d, db := d }
     max 1 (cdiv (descVals d) 2) = 32 ∧ (7, 0) ∈ (slicePairs { maf with fn := 2 })[1151 / 32]? ∧
     (0, 0) ∈ (slicePairs { maf with fn := 1 })[0]? ∧ (slicePairs { maf with fn := 0, pi := 7, pj := 7 }) = [(7, 7)] ∧
     t.cls = .q512 ∧ t.sigma = -112 ∧ descRows d ≤ 1024 ∧ descRows d / 8 = 1 ∧
     t.elems.Pairwise (fun x y => x.idx < y.idx) ∧ fl.tile = some t ∧ t.cls ≠ .clear) := by decide +kernel

theorem met_TileControl :
    (let s := mS (fun r => { r with tiles := [bound 4 .q128 3, bound 8 .q512 0] }) 5 0
     MFree s ∧ (∀ op ∈ [Instr.mzero, Instr.mscale], (op { maf with bd := 4, da := if op { maf with bd := 0 } = .mzero { maf with bd := 0 } then 0 else 1, db := 0, fn := 1 }).wellFormed = true) ∧
     s.me.tileNamesOk 4 (suffixCls { maf with fn := 1 }).bays = true ∧ suffixCls { maf with fn := 1 } = (bound 4 .q128 3).cls ∧
     s.me.tile? 4 = some (bound 4 .q128 3) ∧ s.me.tileNow 4 = some (bound 4 .q128 3) ∧ s.me.tileNow 31 = none ∧ s.me.tile? 31 = none ∧ s.me.tileNamesOk 31 (suffixCls { maf with fn := 1 }).bays = true ∧
     (bound 4 .q128 3).cls ≠ suffixCls { maf with fn := 2 } ∧
     (∀ h ∈ [4, 8, 31], s.me.tileNamesOk h (s.me.namedWidth h) = true ∧ s.me.tilePending h = false) ∧
     (Instr.mrel { maf with bd := 31, da := 0, db := 0 }).wellFormed = true) := by
  unfold MFree; decide +kernel

theorem met_TileMoves :
    (let s := mS id 0 (dsc 0 1 128 0 64 128)
     let f : MAForm := { maf with bd := 0, da := 0, w := 3 }
     let db := mDb s f
     MFree s ∧ (Instr.msill f).wellFormed = true ∧ sillShapeOk db = true ∧ arrayAligned db = true ∧ descCheck db ≠ .misaligned ∧
       s.me.regionOk 1 false db = true ∧ s.me.badPlacement [db] false = none) ∧
    (let s := mS (fun r => { r with tiles := [bound 28 .q512 (-112)] }) (dsc 0 8 16 0x13 2 128) (dsc 0x400000 2 18 0x02 0 0)
     ∀ f ∈ [{ maf with bd := 28, da := 1, db := 2, fmt := 0x13, rm := 7 }],
       (Instr.mround f).wellFormed = true ∧ s.me.roundTileOk f = true ∧
       roundShapeOk f (s.me.ctx.mode f.rm.toNat) (mDa s f) (mDb s f) = true ∧ s.me.tilePending 28 = false ∧
       roundAlignOk f (mDa s f) (mDb s f) = true ∧ s.me.regionOk 1 true (mDa s f) = true ∧ s.me.regionOk 1 false (mDb s f) = true ∧
       s.me.badPlacement [mDa s f, mDb s f] false = none) ∧
    (let s := mS (fun r => { r with tiles := [bound 28 .q128 0] }) (dsc 0 4 128 0x12 128 512) 0
     ∀ f ∈ [{ maf with bd := 28, da := 1, db := 0, fmt := 0x12, rm := 4 }],
       (Instr.mround f).wellFormed = true ∧ s.me.roundTileOk f = true ∧
       roundShapeOk f (s.me.ctx.mode f.rm.toNat) (mDa s f) (mDb s f) = true ∧ roundAlignOk f (mDa s f) (mDb s f) = true ∧
       s.me.regionOk 1 true (mDa s f) = true ∧ s.me.badPlacement [mDa s f] false = none) ∧
    (let s := mS (fun r => { r with tiles := [bound 28 .q512 0] }) 0x1000 0
     let f : MAForm := { maf with bd := 28, db := 0 }
     s.me.tile? 28 = some (bound 28 .q512 0) ∧ (Instr.msave f).wellFormed = true ∧ s.me.tileNamesOk 28 QCls.q512.bays = true ∧
       s.me.tilePending 28 = false ∧ descBase (mDa s f) % 64 = 0 ∧ s.me.mayAccess 1 true (imageIv (mDa s f) .q512) = true ∧
       (Instr.mload { f with fn := 2 }).wellFormed = true ∧ suffixCls { f with fn := 2 } = .q512 ∧
       s.me.mayAccess 1 false (imageIv (mDa s f) .q512) = true ∧ s.me.tileNow 28 = some (bound 28 .q512 0) ∧ (bound 28 .q512 0).head = 28) ∧
    (∀ n ∈ [0, 64], let s := mS id (dsc 0x400000 2 2 0x02 0 0) (dsc 0 8 n 0x13 2 512)
     let f : MAForm := { maf with bd := 0, w := 3 }
     (Instr.msplit f).wellFormed = true ∧ msplitShapeOk (mDa s f) (mDb s f) = true ∧ arrayAligned (mDb s f) = true ∧
       descCheck (mDb s f) ≠ .misaligned ∧ descCheck (mDa s f) ≠ .misaligned ∧ s.me.regionOk 1 false (mDb s f) = true ∧
       s.me.regionOk 1 true (mDa s f) = true ∧ s.me.badPlacement [mDa s f, mDb s f] false = none) := by
  unfold MFree; decide +kernel

theorem met_QuireOperations :
    QFree s0 7 ∧ (Instr.qclr { mqf with qd := 7, qs := 0, sb := 0 }).wellFormed = true ∧
    (∀ op ∈ [Instr.qadd, Instr.qneg, Instr.qsub], (op { mqf with qd := 7, qs := 7, sa := 0, sb := 0 }).wellFormed = true) ∧
    (∀ op ∈ [Instr.qfma, Instr.qdot], ∀ x ∈ [(0x12, 0), (0x06, 0), (0x18, 3)],
      (op { mqf with qd := 7, qs := 0, fmt := x.1, db := x.2 }).wellFormed = true ∧
      (classOf (mqFmt { mqf with fmt := x.1, db := x.2 }) (mqEs { mqf with fmt := x.1, db := x.2 })).isSome = true) ∧
    (Instr.qround { mqf with qd := 0, sa := 63, sb := 0, fmt := 0x12, rm := 7 }).wellFormed = true ∧
    (Instr.qround { mqf with qd := 0, sa := 62, sb := 0, fmt := 0x13, rm := 7 }).wellFormed = true ∧
    NoClash s0 4 (destS s0.me.ctx 62 0) ∧ NoClash s0 4 (destS s0.me.ctx (nextS 62) 0) := by
  unfold QFree MFree NoClash; decide +kernel

theorem met_QuireOperations_memory :
    (let s := onCtx fun c => withA [(15, 0xFFFF80)] (withS [(63, 0xFFFFFFF0)] c)
     let f : MQForm := { mqf with sa := 15, sb := 63 }
     let a := (s.me.ctx.readA f.sa.toNat + (s.me.ctx.readS f.sb).signExtend 64).toNat
     a + 144 = s.me.spSize ∧ f.db.getLsbD 0 = false ∧ a % 16 = 0 ∧ s.me.missOf (span a 144) = none ∧
       (Instr.qst { f with qd := 0 }).wellFormed = true ∧ (Instr.qld { f with qs := 0 }).wellFormed = true ∧ MFree s ∧ QFree s 7 ∧ NoErrors s ∧
       s.me.ctx.footprint.allows 1 true { lo := a, hi := (a + 144 : Nat) - 1 } = true ∧
       s.me.ctx.footprint.allows 1 false { lo := a, hi := (a + 144 : Nat) - 1 } = true) := by
  unfold QFree MFree NoErrors; decide +kernel

/-- An attic address of which 16 bytes lie in the attic of 64 bytes and the rest in its overflow line. -/
theorem met_QuireOperations_attic :
    (let s : State := onMe fun r => { r with
       atticBase := 128, atticSize := 64, atticOvf := (1#64 <<< 52)
       overflow := [{ num := 0, bytes := List.replicate 256 0, dirty := false }]
       ctx := withA [(3, 48)] r.ctx }
     let f : MQForm := { mqf with sa := 3, sb := 0, db := 1 }
     let a := (s.me.ctx.readA f.sa.toNat + (s.me.ctx.readS f.sb).signExtend 64).toNat
     a = 48 ∧ min 144 (64 - a) = 16 ∧ f.db.getLsbD 0 = true ∧ a % 16 = 0 ∧ a + 144 ≤ 64 + 65536 * (s.me.atticOvf.toNat / 2 ^ 52 % 256) ∧
       128 + a + 16 ≤ s.me.spSize ∧ s.me.missOf (span (128 + a) 16) = none ∧
       (∀ l ∈ s.me.overflow, l.num = 0) ∧ (48 + 143 - 64) / 256 = 0 ∧
       s.me.ctx.footprint.allows 1 true { lo := 176, hi := 191 } = true ∧ s.me.ctx.footprint.allows 1 false { lo := 176, hi := 191 } = true ∧
       (List.replicate 144 (0 : Byte)).length = 144 ∧ (∀ i ∈ List.range 16, Memory.get s.me.scratch (176 + i) = 0) ∧
       (∀ i ∈ List.range 128, s.me.overBytes i 1 = some [0]) ∧
       (Instr.qst { f with qd := 0 }).wellFormed = true ∧ (Instr.qld { f with qs := 0 }).wellFormed = true ∧ MFree s ∧ QFree s 7 ∧ NoErrors s) := by
  unfold QFree MFree NoErrors; decide +kernel

theorem met_CutChainsMerge :
    (let x (a b : Nat) : Val × Val := (decodeVal fp16 0 a, decodeVal fp16 0 b)
     (QCls.q128 ≠ .clear) ∧ [x 0x3C00 0x4000, x 0xBC00 0x0400, x 0x7BFF 0x0001].Perm
       ([x 0x7BFF 0x0001] ++ [x 0x3C00 0x4000, x 0xBC00 0x0400]) ∧
     ([x 0x3C00 0x4000, x 0xBC00 0x0400, x 0x7BFF 0x0001].map (rawOf .q128 0)).sum < 2 ^ (QCls.q128.width + 31) ∧
     0 < ([x 0x3C00 0x4000, x 0xBC00 0x0400, x 0x7BFF 0x0001].map (rawOf .q128 0)).sum) := by
  decide +kernel

/-! #### The X slot -/

def xS : State := onCtx fun c =>
  withA [(1, 0), (2, 64), (3, BitVec.ofNat 64 (2 ^ 40)), (4, 32)] (withS [(1, 0xFFFFFF), (2, 65536), (3, 4096), (4, 32)] c)

/-- A state whose transfer queue holds 64 entries that wait. -/
def fullQ : State := onCtx fun c => { c with xq := List.replicate 64 (c.entryOf 1 (.tbsync xf) xf) }

theorem met_EntriesIssue :
    (let s := xS
     QueueFree s ∧ ¬ QueueFree fullQ ∧
     (∀ f ∈ [{ xf with aa := 3, ab := 1, sa := 2, ms := 63 }], (Instr.put f).wellFormed = true ∧ TargetOk (s.me.ctx.readA f.aa.toNat) ∧
       (s.me.ctx.readS f.sa).toNat = 65536 ∧ (s.me.ctx.readA f.ab.toNat).toNat < 2 ^ 24 ∧ InSets s.me 2 (spanIv 0 65536) []) ∧
     (∀ f ∈ [{ xf with aa := 3, sa := 7, ms := 63 }], (Instr.putQ f).wellFormed = true ∧ TargetOk (s.me.ctx.readA f.aa.toNat) ∧
       (s.me.ctx.readA f.aa.toNat).toNat % 16 = 0) ∧
     (∀ op ∈ [Instr.fenceAcq, .fenceRel, .fenceAr], (op { xf with sc := 4 }).wellFormed = true) ∧
     (Instr.fenceBank { xf with aa := 3, ab := 1 }).wellFormed = true ∧ (Instr.fenceBankAll { xf with fn := 1 }).wellFormed = true ∧
     (Instr.fenceGeo xf).wellFormed = true) := by
  unfold QueueFree TargetOk InSets; decide +kernel

/-- A target with reserved bits, a length above 65,536, an address that is not a multiple of 16, and a span past the sets. -/
theorem met_EntriesIssue_causes :
    (let s := onCtx fun c => withA [(1, 0), (2, 64), (3, BitVec.ofNat 64 (2 ^ 56)), (4, 8)] (withS [(1, 0x10001)] c)
     (Instr.put { xf with aa := 3 }).wellFormed = true ∧ ¬ TargetOk (s.me.ctx.readA 3) ∧ 65536 < (s.me.ctx.readS 1).toNat ∧
     TargetOk (s.me.ctx.readA 4) ∧ (s.me.ctx.readA 4).toNat % 16 ≠ 0 ∧ QueueFree s ∧ ¬ QueueFree fullQ ∧
     ¬ InSets { s.me with ctx := { s.me.ctx with footprint := Footprint.nil } } 2 (spanIv 0 64) [] ∧
     TargetOk (s.me.ctx.readA 2) ∧ ¬ InSets s.me 2 (spanIv 0xFFFFF0 64) []) := by
  unfold QueueFree TargetOk InSets; decide +kernel

theorem met_EntriesIssue_applied :
    (let s := xS
     let fns : List (BitVec 4) := [0, 1, 4, 2, 2, 2, 4, 10, 0, 8]
     (∀ x ∈ sluiceRows.zip fns, let f : XForm := { xf with aa := 4, ab := if x.1.2 then 2 else 0, sa := 4, fn := x.2 }
       (x.1.1 f).wellFormed = true ∧ (s.me.ctx.readA f.ab.toNat).toNat < 65536 ∧ (s.me.ctx.readA f.aa.toNat).toNat % 32 = 0 ∧
       (s.me.ctx.readS f.sa).toNat % 2 ^ 24 % 32 = 0 ∧
       InSets s.me 2 (spanIv 32 32) (if f.fn.getLsbD 3 then spanIv 64 8 else [])) ∧
     (let fns : List (BitVec 4) := [0, 11, 8, 10, 2, 8, 2, 10, 13]
      (∀ x ∈ atomicRows.zip fns, let f : XForm := { xf with aa := 4, ab := 2, sa := if x.2.getLsbD 3 then 4 else 0, fn := x.2 }
        (x.1 f).wellFormed = true ∧ (x.1 { f with gi := 3 }).wellFormed = true ∧ s.me.ctx.guard 3 0 = false ∧
        s.me.ctx.guard f.gi f.gn = true ∧ (s.me.ctx.readA f.aa.toNat).toNat % amoSize f = 0 ∧
        (s.me.ctx.readS f.sa).toNat % amoSize f = 0 ∧ InSets s.me 2 [] (spanIv 32 (amoSize f))))) := by
  unfold InSets; decide +kernel

theorem met_CollectivesIssue :
    (let s := onMe fun r => { r with dm := r.dm.set 7 0x80000000, ctx := withD [(1, m8 0)] (withA [(1, 0)] (withS [(1, 4096), (2, 1)] r.ctx)) }
     QueueFree s ∧ s.me.dmDefined 7 = true ∧ s.me.dmDefined 6 = false ∧
     (Instr.collSum { xf with sc := 7, da := 1, fn := 4 }).wellFormed = true ∧ descCheck (m8 0).toNat = .ok ∧
     (descFmt (m8 0).toNat).isBlk = false ∧ descFmt (m8 0).toNat ≠ fp64 ∧ InSets s.me 2 [] (descIv (m8 0).toNat).toList ∧
     (Instr.collSumQ { xf with sc := 7, aa := 1, sa := 1, fn := 8 }).wellFormed = true ∧ InSets s.me 2 [] (spanIv 0 (144 * 4096)) ∧
     (Instr.collBcast { xf with sc := 7, da := 1, sa := 0 }).wellFormed = true ∧ (s.me.ctx.readS 0).toNat = s.me.id.lin ∧
     InSets s.me 2 (descIv (m8 0).toNat).toList [] ∧ (s.me.ctx.readS 2).toNat ≠ s.me.id.lin) := by
  unfold QueueFree InSets; decide +kernel

/-- Cards of the six kinds on four values at 0x1000, and a block of 32. -/
def cardOf (kind : Nat) : Nat :=
  let l (d : DescWord) := 2 ^ 64 * d.toNat
  2 ^ 301 * kind + match kind with
  | 2 => l (dsc 0x1000 5 1 0x20 0 0) + 2 ^ 256 * 4 + 2 ^ 288 * 0x12 + 2 ^ 384 * 32
  | 3 => l (dsc 0x1000 1 4 0 0 0) + 2 ^ 256 + 2 ^ 320 * (dsc 0x2000 2 4 0x03 0 0).toNat
  | 4 => l (dsc 0x1000 1 4 0 0 0) + 2 ^ 256 + 2 ^ 300 + 2 ^ 320 * (dsc 0x2000 2 4 0x03 0 0).toNat
  | _ => l (dsc 0x1000 1 4 0 0 0) + 2 ^ 256

def cardS (n : Nat) : State :=
  onMe fun r => { r with scratch := Memory.putAll [] (cellsAt 64 (toBytes 64 n)), ctx := withA [(1, 64)] r.ctx }

theorem met_CardsIssue :
    ∀ x ∈ cardRows.zip [(0, 0), (1, 0), (2, 0), (3, 0), (4, 0), (5, 0), (5, 0), (2, (1 : BitVec 4))],
      let s := cardS (cardOf x.2.1)
      let f : XForm := { xf with ch := 3, aa := 1, fn := x.2.2 }
      let n := fromBytes (Memory.read s.me.scratch 64 64)
      (x.1.1 f).wellFormed = true ∧ n = cardOf x.2.1 ∧ InSets s.me 6 (spanIv 64 64) [] ∧ s.me.missOf (span 64 64) = none ∧ NoErrors s ∧
      cardLegal (xOpcode (x.1.1 f)) n = true ∧ cardAligned n = true ∧ s.me.cardBusy 3 x.1.2.1 = none ∧
      InSets s.me 6 (cardReads 64 n) (cardWrites n) := by
  unfold InSets NoErrors; decide +kernel

/-- A channel that can take no card, three ways; cards of this channel's own chain, at a bad address, illegal, misaligned, outside
the sets, and with a byte in error. -/
theorem met_CardsIssue_causes :
    (let e (ch : BitVec 2) (st : XStatus) : XEntry := { s0.me.ctx.entryOf 1 (.bcopy { xf with ch := ch }) { xf with ch := ch } with status := st }
     let q (l : List XEntry) : State := onCtx fun c => { c with xq := l }
     CardBusy fullQ 3 false { cause 0x03 4 with sub := 1 } ∧
     CardBusy (q (List.replicate 16 (e 3 .started))) 3 false { cause 0x03 4 with sub := 2, aux := 3 } ∧
     CardBusy (q [{ e 3 .queued with shadow := true }]) 3 true { cause 0x03 4 with sub := 3 }) ∧
    ({ xf with ch := 2, aa := 1, fn := 2 } : XForm).fn.toNat % 4 = (2#2).toNat ∧
    (let s (a : DWord) : State := onCtx (withA [(1, a)])
     ((s 65).me.ctx.readA 1).toNat % 64 ≠ 0 ∧ ((s 0x1000000).me.ctx.readA 1).toNat % 64 = 0 ∧ ¬ InSets s0.me 6 (spanIv 0x1000000 64) []) ∧
    (let s := cardS (cardOf 0 + 2 ^ 511)
     cardLegal (xOpcode (.bcopy xf)) (cardOf 0 + 2 ^ 511) = false ∧ NoErrors s ∧ InSets s.me 6 (spanIv 64 64) [] ∧ s.me.missOf (span 64 64) = none ∧
     cardLegal (xOpcode (.bquant xf)) (cardOf 2) = true) ∧
    (let n := 1 + 2 ^ 64 * (dsc 0x1000 2 4 0x02 0 0).toNat + 2 ^ 256 * 2 + 2 ^ 288 * 0x02
     cardLegal (xOpcode (.bcopy xf)) n = true ∧ cardAligned n = false) ∧
    (let n := 2 ^ 64 * (dsc 0xFFFFFE 1 4 0 0 0).toNat + 2 ^ 256
     cardLegal (xOpcode (.bcopy xf)) n = true ∧ cardAligned n = true ∧ ¬ InSets s0.me 6 (cardReads 64 n) (cardWrites n)) ∧
    (let s := cardS (cardOf 0)
     let t : State := { s with cores := [{ Core.atReset 0 with failed := [0, 1, 2] }] }
     (∃ a ∈ span 64 64, t.me.byteBad (t.coreOf t.me.core) a = true) ∧ t.me.missOf (span 64 64) = none ∧ InSets t.me 6 (spanIv 64 64) []) := by
  unfold CardBusy QueueFree InSets NoErrors; decide +kernel

theorem met_SemaphoresAndTime :
    (Instr.sinit { xf with sa := 63, ms := 63 }).wellFormed = true ∧ (Instr.sinc { xf with sa := 63, ms := 63 }).wellFormed = true ∧
    NoClash s0 1 (.mSet 63 0) ∧ NoClash s0 1 (.mAdd 63 0) ∧ (Instr.swait { xf with sa := 1, ms := 1, fn := 1 }).wellFormed = true ∧
    (Instr.twait { xf with aa := 15 }).wellFormed = true ∧ s0.sharing s0.me ≤ 1 ∧
    (let s : State := { s0 with others := [{ r0 with id := { team := 1, lin := 1 }, slotNo := 1 }] }
     1 < s.sharing s.me) ∧
    (Instr.tbsync xf).wellFormed = true ∧ s0.me.timePriv = true ∧ (onMe fun r => { r with timePriv := false }).me.timePriv = false := by
  unfold NoClash; decide +kernel

theorem met_SemaphoresAndTime_put :
    (let f : XForm := { xf with aa := 3, ab := 1, sa := 3, ms := 63 }
     let s : State := { xS with me := { xS.me with ctx := { xS.me.ctx with timed := [{ tofs := 0, tper := 64, dst := 1, lastUsed := none }] } } }
     let tb := (s.coreOf s.me.core).tb
     QueueFree s ∧ (Instr.putT f).wellFormed = true ∧ TargetOk (s.me.ctx.readA f.aa.toNat) ∧ (s.me.ctx.readS f.sa).toNat = 4096 ∧
       (s.me.ctx.readA f.ab.toNat).toNat < 2 ^ 24 ∧ InSets s.me 2 (spanIv 0 4096) [] ∧ s.sharing s.me ≤ 1 ∧
       (s.me.ctx.readA f.aa.toNat).toNat / 2 ^ 40 % 2 ^ 16 = 1 ∧ openWindow tb 1 s.me.ctx.timed = some (0, 0) ∧
       openWindow tb 1 xS.me.ctx.timed = none) := by
  unfold QueueFree TargetOk InSets; decide +kernel

theorem met_OpenWindows :
    (let e : TimedEntry := { tofs := 100, tper := 50, dst := 3, lastUsed := some 1 }
     openWindow (231 * 2 ^ 16 + 65535) 3 [{ e with dst := 2 }, e] = some (1, 2) ∧ openWindow (232 * 2 ^ 16) 3 [e] = none ∧
     openWindow (200 * 2 ^ 16) 3 [e] = some (0, 2) ∧ openWindow (181 * 2 ^ 16) 3 [e] = none ∧ e.tofs + 1 * e.tper ≤ 181 ∧
     181 < e.tofs + (1 + 1) * e.tper ∧ 181 < e.tofs + 1 * e.tper + 32) := by decide +kernel

/-- A footprint record at 64: the V engine reads a region, and the engine given writes it. -/
def recordAt (e : Nat) : List Host.Cell :=
  Memory.putAll [] (cellsAt 64 (toBytes 64 (1 + 2 ^ (8 * e) * 16) ++ toBytes 16 (m8 0x1000).toNat ++ toBytes 16 (m8 0x1000).toNat))

theorem met_PhasesAndBarriers :
    (let s (e : Nat) : State := onMe fun r => { r with scratch := recordAt e, ctx := withA [(1, 64), (2, 32)] r.ctx }
     let f : XForm := { xf with aa := 1 }
     (Instr.phase f).wellFormed = true ∧ ((s 0).me.ctx.readA 2).toNat % 64 ≠ 0 ∧
     (∀ e ∈ [0, 1], let h := Memory.readNat (s e).me.scratch 64 64
       fpHeaderOk h = true ∧ 64 + fpLength h ≤ (s e).me.spSize ∧ (s e).me.missOf (span 64 (fpLength h)) = none ∧ NoErrors (s e) ∧
       fpImagesOk (Memory.read (s e).me.scratch 64 (fpLength h)) = true ∧
       ((s e).me.overlapPair (fpParse (Memory.read (s e).me.scratch 64 (fpLength h)))).isSome = decide (e = 1))) ∧
    (let s := onMe fun r => { r with dm := r.dm.set 0 0x80000000 }
     (Instr.dbar { xf with sc := 7 }).wellFormed = true ∧ s.me.dmDefined 0 = true ∧ s.me.dmDefined 7 = false) := by
  unfold NoErrors; decide +kernel

/-- Window 7 stands at 0x2000 with two bytes written, window 0 at 0x4000. -/
def winS : State :=
  onMe fun r => { r with windows := [{ num := 7, base := 0x2000, len := 256, gva := 0x10000, resident := [0], written := [0x2000, 0x20FF] },
                                     { num := 0, base := 0x4000, len := 256, gva := 0x20000, resident := [], written := [] }]
                         ctx := withA [(1, 0x30000)] (withD [(1, dsc 0x1000 1 512 0 0 0), (2, dsc 0 1 0 0 0 0)] r.ctx) }

theorem met_WindowsIssue :
    QueueFree winS ∧ QueueFree s0 ∧ (Instr.wmap { xf with aa := 1, da := 1, fn := 7 }).wellFormed = true ∧
    (let d := (winS.me.ctx.readD 1).toNat
     descCheck d = .ok ∧ (∀ w ∈ (winS.me.window? 7).toList, winS.me.mayAccess 2 false w.iv = true) ∧
     (∀ iv ∈ (descIv d).toList, iv.lo % 256 = 0 ∧ (iv.hi - iv.lo + 1) % 256 = 0 ∧ winS.me.inPartition iv = true ∧
       ∀ w ∈ winS.me.windows.filter fun w => w.num != 7, w.iv.overlaps iv = false) ∧ (descIv d).isSome = true ∧
     (winS.me.ctx.readA 1).toNat % 256 = 0) ∧
    descIv (winS.me.ctx.readD 2).toNat = none ∧ descCheck (winS.me.ctx.readD 2).toNat = .ok ∧
    (Instr.wflush { xf with ms := 63, fn := 7 }).wellFormed = true ∧ (Instr.wflushAll { xf with ms := 63, fn := 8 }).wellFormed = true ∧
    (∀ w ∈ winS.me.windows, winS.me.mayAccess 2 false w.iv = true) ∧ winS.me.windows.flatMap Window.dirty ≠ [] ∧
    s0.me.windows = [] ∧ s0.me.overflowDirty = [] := by
  unfold QueueFree; decide +kernel

/-! #### Commands -/

def sess : Session := { num := 1, spdm := 1, privs := 7, key := 0, e := 300, replies := [], held := [] }
def hdr (seq : Nat) : CmdHdr := { session := 1, seq := seq }
def withSess (s : State) : State := { s with sessions := [sess] }

def onStop (st : Stop) : State := withSess (onMe fun r => { r with stop := st })

theorem met_CommandOrder :
    commandOf (.unload (hdr 301) 1) = some (hdr 301, 0) ∧ (s0.session? 1).isNone = true ∧
    (let s := withSess s0
     s.session? 1 = some sess ∧ (hdr 301).seq = sess.e + 1 ∧ ({ sess with privs := 0 } : Session).may 1 = false ∧
     (hdr 45).seq + 255 = sess.e ∧ (hdr 44).seq + 255 < sess.e ∧ sess.e + 2 ≤ (hdr 302).seq ∧ (hdr 364).seq ≤ sess.e + 64 ∧
     sess.e + 64 < (hdr 365).seq) ∧
    (let x := { sess with replies := [{ opcode := 0x0002, seq := 45, status := 0, data := [], bytes := [] }], held := [(302, .unload (hdr 302) 1)] }
     (x.replies.find? fun y => y.seq == 45).isSome = true ∧ (∀ y ∈ x.held, y.1 ≠ 303) ∧ ((302 : Nat), Instr.unload (hdr 302) 1) ∈ x.held ∧
      ∃ y ∈ x.held, y.1 = 302) ∧ opcodeKnown (0xFFFF : BitVec 16).toNat = false ∧ opcodeKnown 0x0002 = true := by
  decide +kernel

/-- The next command of the session in a state. -/
theorem inTurn {s : State} (h : s.sessions = [sess]) (need : Nat) (hn : sess.may need = true) : InTurn s (hdr 301) need :=
  ⟨sess, by simp [State.session?, h, sess, hdr], rfl, hn⟩

/-- A container of no records for room 0 of the team. -/
def emptyImage : List Byte := toBytes 4 0x1A58434F ++ toBytes 4 0 ++ toBytes 8 64 ++ toBytes 4 1 ++ List.replicate 44 0

theorem met_ContextCommands :
    InTurn (onStop .debug) (hdr 301) 4 ∧ (onStop .debug).room? fetchRoom = some { r0 with stop := .debug } ∧
    MayResume { r0 with stop := .frozen (cause 0x2A 0) } ∧ MayResume { r0 with stop := .debug } ∧
    fatal (cause 0x2A 0) r0.ctx.hmode = false ∧ (cause 0x2A 0).code ≠ 0x20 ∧ s0.load? r0.loadH = some fetchLoad ∧
    fetchLoad.lb ≤ (0x40000FE0 : Nat) ∧ 0x40000FE0 < fetchLoad.lb + fetchLoad.codeSize ∧ (0x40000FE0 % 32 = 0) ∧
    Frozen { r0 with stop := .debug } ∧ Frozen { r0 with stop := .fatalPage (cause 0x20 0) } ∧
    ((r0.restore emptyImage).isSome = true ∧ r0.restore [] = none) ∧ s0.dumps = [] ∧ r0.freeStop = true ∧ r0.life = .running ∧
    s0.slotHeld fetchRoom .write = false ∧ s0.slotHeld fetchRoom .read = false := by
  refine ⟨inTurn rfl 4 (by decide), ?_, .inr ⟨_, rfl, by decide, by decide⟩, .inl rfl, ?_⟩
  · decide +kernel
  refine ⟨by decide +kernel, by decide, by decide +kernel, by decide, by decide, by decide, .inl rfl, .inr (.inr ⟨_, .inr (.inr rfl)⟩), ?_⟩
  decide +kernel

theorem met_ContextCommands_not : ¬ MayResume r0 ∧ ¬ Frozen r0 ∧ NotStopped r0 ∧ ¬ NotStopped { r0 with stop := .debug } := by
  have h : r0.stop = .none := by decide +kernel
  refine ⟨?_, ?_, .inl h, ?_⟩
  · rintro (x | ⟨c, x, -⟩) <;> rw [h] at x <;> cases x
  · rintro (x | x | ⟨c, x | x | x⟩) <;> rw [h] at x <;> cases x
  · rintro (x | ⟨m, x⟩) <;> cases x

def teamOf (st : TeamState) : Team :=
  { sub := 1
    launch := { loadH := 1, kidx := 0, basin := 0, time := true, noDiscard := false, stream := 0, nb := 0, argva := 0,
                spsize := 0x10000, fxen := 0, qxen := 0, ovbase := 0, drainCy := 0, stopCy := 0, foot := [], preload := [], timed := [],
                ctxva := 0x1000 }
    variant := { entry := 32, prof := 1, nx := 1, ny := 1, nz := 1, attic := 0, ovsz := 0, dm := [], fp0 := [] }
    asid := 0, state := st, eligibleAt := none, deadline := 0, deps := [], saved := [] }


/-- A code object of 304 bytes: one code page with no section over it, no kernel and no variant, and no data; its DATAHASH
is the SHA-384 of no bytes, 38B060A7...4898B95B. -/
def tinyObject : List Byte :=
  [79, 67, 79, 26, 1, 0, 128, 0, 4, 0, 0, 0, 0, 0, 0, 0] ++
   [128, 0, 0, 0, 0, 0, 0, 0, 0, 0, 3, 0, 0, 0, 0, 0] ++
   [0, 16, 0, 0, 0, 0, 0, 0, 0, 0, 0, 0, 0, 0, 0, 0] ++
   [56, 176, 96, 167, 81, 172, 150, 56, 76, 217, 50, 126, 177, 177, 227, 106] ++
   [33, 253, 183, 17, 20, 190, 7, 67, 76, 12, 199, 191, 99, 246, 225, 218] ++
   [39, 78, 222, 191, 231, 111, 101, 251, 213, 26, 210, 241, 72, 152, 185, 91] ++ List.replicate 32 0 ++
   [1, 0, 0, 0, 0, 0, 0, 0, 0, 1, 0, 0, 0, 0, 0, 0] ++
   [0, 0, 0, 0, 0, 0, 0, 0, 0, 0, 0, 0, 0, 0, 0, 0] ++
   [2, 0, 0, 0, 0, 0, 0, 0, 0, 1, 0, 0, 0, 0, 0, 0] ++
   [48, 0, 0, 0, 0, 0, 0, 0, 0, 0, 0, 0, 0, 0, 0, 0] ++
   [5, 0, 0, 0, 0, 0, 0, 0, 0, 1, 0, 0, 0, 0, 0, 0] ++
   [0, 0, 0, 0, 0, 0, 0, 0, 0, 0, 0, 0, 0, 0, 0, 0] ++
   [6, 0, 0, 0, 0, 0, 0, 0, 0, 1, 0, 0, 0, 0, 0, 0] ++
   [0, 0, 0, 0, 0, 0, 0, 0, 0, 0, 0, 0, 0, 0, 0, 0] ++ List.replicate 48 0

/-- The tables of one 256 MiB page and the object at 0x20000, byte by place. -/
def objectCells : List Host.Cell :=
  [(0, 1), (2, 1), (32768, 31), (32776, 4), (65536, 79), (65537, 67), (65538, 79), (65539, 26), (65540, 1), (65542, 128), (65544, 4), (65552, 128), (65562, 3), (65569, 16), (65584, 56), (65585, 176)] ++
   [(65586, 96), (65587, 167), (65588, 81), (65589, 172), (65590, 150), (65591, 56), (65592, 76), (65593, 217), (65594, 50), (65595, 126), (65596, 177), (65597, 177), (65598, 227), (65599, 106), (65600, 33), (65601, 253)] ++
   [(65602, 183), (65603, 17), (65604, 20), (65605, 190), (65606, 7), (65607, 67), (65608, 76), (65609, 12), (65610, 199), (65611, 191), (65612, 99), (65613, 246), (65614, 225), (65615, 218), (65616, 39), (65617, 78)] ++
   [(65618, 222), (65619, 191), (65620, 231), (65621, 111), (65622, 101), (65623, 251), (65624, 213), (65625, 26), (65626, 210), (65627, 241), (65628, 72), (65629, 152), (65630, 185), (65631, 91), (65664, 1), (65673, 1)] ++
   [(65696, 2), (65705, 1), (65712, 48), (65728, 5), (65737, 1), (65760, 6), (65769, 1)]

def objectS : State :=
  { withSess s0 with roots := [{ asid := 0, valid := true, root := 0, tberth := 4 }], mem := { s0.mem with cells := objectCells } }

def loadEndOk (e : LoadEnd) (n : Nat) : Bool := match e with | .good l c _ => l.lb == n && c.length == 4096 | .bad _ _ => false
def loadEndBad (e : LoadEnd) : Option Nat := match e with | .bad c _ => some c | _ => none


/-- Address space 0 is mapped one to one below 256 MiB, in a plain page of stack 0. -/
structure Plain (s : State) : Prop where
  root : s.roots.find? (fun r => r.asid == 0) = some { asid := 0, valid := true, root := 0, tberth := 4 }
  e0 : s.gNat 4 0 8 = 0x10001
  e1 : s.gNat 4 8 8 = 0
  l0 : s.gNat 4 65536 8 = 0x1F
  l1 : s.gNat 4 65544 8 = 4
  restows : s.restows = []
  moved : s.moved = []

theorem plain_objectS : Plain objectS := by
  constructor <;> decide +kernel

theorem place_plain {pa : Nat} (h : pa < 2 ^ 24) : ∃ p, placeOf 4 pa = some p := by
  have h1 : berthTier 4 = 0 ∧ berthGran 4 = 0 ∧ berthK 4 = 1 := by decide +kernel
  have h2 : bankLimit 4 = 2 ^ 24 := by decide +kernel
  have h3 : ¬ bankLimit 4 ≤ offsetOf 4 pa := by
    simp only [h2, offsetOf, h1, Nat.shiftRight_eq_div_pow, Nat.shiftLeft_eq]
    simp
    omega
  have h4 : pa < 2 ^ 48 := by omega
  simp only [placeOf, h4, if_true, placeIn, h3, if_false]
  split <;> exact ⟨_, rfl⟩

theorem plain_allows {pa : Nat} (h : pa < 2 ^ 24) (k : AccessKind) : berthRefuses 4 pa k false = false := by
  have h2 : berthTier 4 = 0 := by decide +kernel
  obtain ⟨p, hp⟩ := place_plain h
  simp [berthRefuses, h2, hp]

theorem Plain.walk {s : State} (h : Plain s) {va : Nat} (hv : va < 2 ^ 24) (k : AccessKind) :
    s.walk 0 va k = .ok va 4 0 (2 ^ 28) 0x1F := by
  have h1 : va >>> 40 % 4096 = 0 := by rw [Nat.shiftRight_eq_div_pow]; omega
  have h2 : va >>> 28 % 4096 = 0 := by rw [Nat.shiftRight_eq_div_pow]; omega
  have p0 : (placeOf 4 0).isNone = false := by decide +kernel
  have p1 : (placeOf 4 65536).isNone = false := by decide +kernel
  have h3 : va % 2 ^ 28 = va := Nat.mod_eq_of_lt (by omega)
  have h4 : va / 2 ^ 28 = 0 := Nat.div_eq_of_lt (by omega)
  have h5 := plain_allows hv k
  simp only [State.walk, h.root, State.walkFrom, levelShift, h1, h2]
  simp only [Nat.mul_zero, Nat.add_zero, Nat.zero_add, p0, h.e0, h.e1]
  have f0 : bitsOf 0x10001 47 16 * 65536 = 65536 := by decide +kernel
  have b1 : Nat.testBit 65537 0 = true ∧ Nat.testBit 65537 1 = false ∧ bitsOf 65537 63 48 = 0 ∧ bitsOf 65537 15 5 = 0 := by
    decide +kernel
  have b2 : Nat.testBit 31 0 = true ∧ Nat.testBit 31 1 = true ∧ bitsOf 31 63 48 = 0 ∧ bitsOf 31 15 5 = 0 ∧ bitsOf 31 47 16 = 0 := by
    decide +kernel
  have b3 : berthOk 4 = true ∧ tierRangeOk 4 0 268435456 = true := by decide +kernel
  have b4 : permitted k 31 = true := by cases k <;> decide +kernel
  simp only [f0, p1, h.l0, h.l1]
  have h6 : va % 268435456 = va := Nat.mod_eq_of_lt (by omega)
  have h7 : va / 268435456 = 0 := Nat.div_eq_of_lt (by omega)
  simp [b1, b2, b3, b4, h5, h6, h7]

theorem Plain.place {s : State} (h : Plain s) {va : Nat} (hv : va < 2 ^ 24) (k : AccessKind) : s.hallPlace 0 va k = some (4, va) := by
  have h1 : va % 2 ^ 52 = va := Nat.mod_eq_of_lt (by omega)
  have h2 : berthTier 4 ≠ 2 := by decide +kernel
  obtain ⟨p, hp⟩ := place_plain hv
  unfold State.hallPlace
  rw [h1, h.walk hv]
  simp [h2, hp, State.gone, State.movedAway, State.restowOf, h.restows, h.moved]

theorem mapM_some {α β : Type} (f : α → Option β) (g : α → β) (l : List α) (h : ∀ x ∈ l, f x = some (g x)) : l.mapM f = some (l.map g) := by
  induction l with
  | nil => rfl
  | cons x xs ih =>
    rw [List.mapM_cons, h x (by simp), ih (fun y hy => h y (by simp [hy]))]
    rfl

theorem Plain.read {s : State} (h : Plain s) {va n : Nat} (hv : va + n ≤ 2 ^ 24) (hp : s.mem.poisoned = []) (hf : s.mem.failing = []) :
    s.hallRead 0 va n = some ((List.range n).map fun i => s.gByte 4 (va + i)) := by
  refine mapM_some _ _ _ fun i hi => ?_
  have : va + i < 2 ^ 24 := by have := List.mem_range.mp hi; omega
  obtain ⟨p, hq⟩ := place_plain this
  have hz : s.gPoisoned 4 (va + i) = false := by simp [State.gPoisoned, hq, hp]
  have hg : s.gFailing 4 (va + i) = false := by simp [State.gFailing, hq, hf]
  simp [h.place this, hz, hg]

/-- What reads of the hall change where no line is in error: clocks. -/
theorem foldl_clocks {α : Type} (f : State → α → State) (hf : ∀ s a, ∃ c, f s a = { s with clocks := c }) (l : List α) (s : State) :
    ∃ c, l.foldl f s = { s with clocks := c } := by
  induction l generalizing s with
  | nil => exact ⟨s.clocks, rfl⟩
  | cons a l ih =>
    obtain ⟨c, hc⟩ := hf s a
    obtain ⟨d, hd⟩ := ih (f s a)
    exact ⟨d, by rw [List.foldl_cons, hd, hc]⟩

theorem clockReplies_clocks (s : State) (a : Nat) (l : List (Nat × Nat)) : ∃ c, s.clockReplies a l = { s with clocks := c } :=
  foldl_clocks _ (fun _ _ => ⟨_, rfl⟩) _ s

theorem hallMeets_clocks {s : State} (hf : s.mem.failing = []) (hw : s.mem.weak = []) (asid va n : Nat) :
    ∃ c, s.hallMeets asid va n = { s with clocks := c } := by
  obtain ⟨c, hc⟩ : ∃ c, s.hallWalks asid va n = { s with clocks := c } := foldl_clocks _ (fun s p => by
    unfold State.walkClock
    split
    · exact clockReplies_clocks ..
    · exact ⟨s.clocks, rfl⟩) _ s
  obtain ⟨d, hd⟩ := clockReplies_clocks { s with clocks := c } hallAgent
    ((List.range n).filterMap fun i => s.hallPlace asid (va + i) .read)
  refine ⟨d, ?_⟩
  simp only [State.hallMeets, hc, hd, State.discover, hf, hw]
  rfl

theorem Plain.clocks {s : State} (h : Plain s) (c : List (List Nat)) : Plain { s with clocks := c } :=
  ⟨h.root, h.e0, h.e1, h.l0, h.l1, h.restows, h.moved⟩

theorem Plain.meets {s : State} (h : Plain s) (hf : s.mem.failing = []) (hw : s.mem.weak = []) (asid va n : Nat) :
    Plain (s.hallMeets asid va n) := by
  obtain ⟨c, hc⟩ := hallMeets_clocks hf hw asid va n
  rw [hc]
  exact h.clocks c

theorem Plain.write {s : State} (h : Plain s) {va : Nat} {bs : List Byte} (hv : va + bs.length ≤ 2 ^ 24) :
    (s.hallWrite 0 va bs).2 = true := by
  have : (bs.zipIdx).mapM (fun b => (s.hallPlace 0 (va + b.2) .write).map fun x => (x.1, x.2, b.1)) =
      some (bs.zipIdx.map fun b => (4, va + b.2, b.1)) := by
    refine mapM_some _ _ _ fun b hb => ?_
    have hi := List.mem_zipIdx hb
    have : va + b.2 < 2 ^ 24 := by omega
    simp [h.place this]
  simp only [State.hallWrite, this]

/-- A state in which core 0 has that page cached, with no restow or shootdown, no bank held, no line in error and no key on its way. -/
structure Cached (s : State) : Prop where
  root : (s.roots.any fun r => r.asid == 0 && r.valid) = true
  l1 : s.l1 = [(0, { floor := 0, asid := 0, va := 0, size := 2 ^ 28, w0 := 0x1F, w1 := 4 })]
  shootdowns : s.shootdowns = []
  moved : s.moved = []
  weak : s.mem.weak = []
  restows : s.restows = []
  refresh : s.refresh = []
  failing : s.mem.failing = []
  keys : s.mgmt.keyPending = []

theorem Cached.translate {s : State} (h : Cached s) {va : Nat} (hv : va < 2 ^ 24) (k : AccessKind) :
    s.translate 0 0 va k = (s, .ok va 4 0 (2 ^ 28) 0x1F) := by
  have b4 : permitted k 31 = true := by cases k <;> decide +kernel
  have b5 : bitsOf 31 47 16 = 0 := by decide +kernel
  have h5 := plain_allows hv k
  have : va < 268435456 := by omega
  simp [State.translate, h.root, State.oldChoice, h.shootdowns, State.cached, Tlb.covers, Tlb.trans, h.l1, this, b4, b5, h5, mmuFloor, hallMmu, floorOf, pkgOf]

theorem Cached.reach {s : State} (h : Cached s) {va n : Nat} (hv : va + n ≤ 2 ^ 24) (k : AccessKind) :
    s.reach 0 0 va n k = (s, .ok ((List.range n).map fun i => (4, va + i))) := by
  have h2 : berthTier 4 ≠ 2 := by decide +kernel
  have hr : s.request = s := by simp [State.request, h.keys]
  have hx : ∀ n, va + n ≤ 2 ^ 24 → (List.range n).foldl (fun (acc : State × Reach) (i : Nat) =>
      if acc.2.open then
        let t := acc.1.translate 0 0 ((va + i) % 2 ^ 52) k
        match t.2 with
        | .fault c sub => (t.1, .fault c sub)
        | .ok pa w _ _ _ => (t.1, t.1.askHome acc.2 w pa k)
      else acc) (s, Reach.ok []) = (s, .ok ((List.range n).map fun i => (4, va + i))) := by
    intro n hv
    induction n with
    | zero => rfl
    | succ n ih =>
      rw [List.range_succ, List.foldl_append, ih (by omega)]
      have h3 : (va + n) % 2 ^ 52 = va + n := Nat.mod_eq_of_lt (by omega)
      obtain ⟨p, hp⟩ := place_plain (pa := va + n) (by omega)
      have h6 : s.askHome (.ok ((List.range n).map fun i => (4, va + i))) 4 (va + n) k =
          .ok (((List.range n).map fun i => (4, va + i)) ++ [(4, va + n)]) := by
        simp [State.askHome, plain_allows (pa := va + n) (by omega) k, h2, hp, State.bankHeld, State.restowOf, h.restows, h.refresh, State.movedAway, h.moved,
          Reach.add]
      simp only [List.foldl_cons, List.foldl_nil]
      rw [h3, h.translate (va := va + n) (by omega)]
      simp [Reach.open, h6]
  have hf : ∀ l, s.discover l = s := fun l => by simp [State.discover, h.failing, h.weak]
  show (fun x : State × Reach => (x.1.found k x.2, x.2)) (List.foldl _ (s.request, Reach.ok []) (List.range n)) = _
  rw [hr]
  refine (congrArg (fun x : State × Reach => (x.1.found k x.2, x.2)) (hx n hv)).trans ?_
  cases k <;> simp [State.found, hf]


/-! #### Commands that read memory -/

theorem Plain.slotClean {s : State} {t : Team} {a : Nat} (hp : s.mem.poisoned = []) : s.slotPoisoned t a = false := by
  simp only [State.slotPoisoned, List.any_eq_false]
  intro i _
  split
  · simp only [State.gPoisoned, hp]; split <;> simp
  · simp

theorem slotBytes_of {s : State} {t : Team} {a : Nat} {b : List Byte} (h1 : s.hallRead t.asid a 64 = some b)
    (h2 : s.hallRead t.asid a (leField b 8 8) = some b) : s.slotBytes t a = some b := by
  simp only [State.slotBytes, h1, Option.bind_some, h2]

/-- A room that is away, its container, of no records, at 0x1000. -/
def awayS : State :=
  { onStop (.away (cause 0x20 4)) with
    teams := [teamOf .admitted], roots := [{ asid := 0, valid := true, root := 0, tberth := 4 }]
    mem := { s0.mem with cells :=
      [(0, 1), (2, 1), (2048, 0x4F), (2049, 0x43), (2050, 0x58), (2051, 0x1A), (2056, 64), (2064, 1), (32768, 0x1F), (32776, 4)] } }

theorem plain_awayS : Plain awayS := by constructor <;> decide +kernel

theorem met_ContextCommands_away :
    awayS.room? fetchRoom = some awayS.me ∧ awayS.me.stop = .away (cause 0x20 4) ∧ awayS.team? 1 = some (teamOf .admitted) ∧
    (let a := ctxSlot (teamOf .admitted).launch.ctxva 0 (teamOf .admitted).launch.spsize (teamOf .admitted).launch.nb
     awayS.slotPoisoned (teamOf .admitted) a = false ∧ awayS.slotBytes (teamOf .admitted) a = some emptyImage) ∧
    awayS.slotHeld fetchRoom .write = false ∧ awayS.slotHeld fetchRoom .read = false ∧
    (let u := awayS.slotMeets (teamOf .admitted) 0x1000
     u.slotPoisoned (teamOf .admitted) 0x1000 = false ∧ u.slotBytes (teamOf .admitted) 0x1000 = some emptyImage) ∧
    (awayS.me.restore emptyImage).isSome = true := by
  have e : ctxSlot (teamOf .admitted).launch.ctxva 0 (teamOf .admitted).launch.spsize (teamOf .admitted).launch.nb = 0x1000 := by
    decide +kernel
  have hz : (List.range 64).map (fun i => awayS.gByte 4 (0x1000 + i)) = emptyImage := by decide +kernel
  have hl : leField emptyImage 8 8 = 64 := by decide +kernel
  have hr : awayS.hallRead 0 0x1000 64 = some emptyImage := by rw [plain_awayS.read (by decide) rfl rfl, hz]
  obtain ⟨c, hc⟩ : ∃ c, awayS.slotMeets (teamOf .admitted) 0x1000 = { awayS with clocks := c } := hallMeets_clocks rfl rfl ..
  have hp : Plain { awayS with clocks := c } := plain_awayS.clocks c
  have hr2 : State.hallRead { awayS with clocks := c } 0 0x1000 64 = some emptyImage := by rw [hp.read (by decide) rfl rfl, ← hz]; rfl
  refine ⟨by decide +kernel, rfl, by decide +kernel, ?_, rfl, rfl, ?_, by decide +kernel⟩
  · rw [e]
    exact ⟨Plain.slotClean rfl, slotBytes_of hr (by rw [hl]; exact hr)⟩
  · rw [hc]
    exact ⟨Plain.slotClean rfl, slotBytes_of hr2 (by rw [hl]; exact hr2)⟩

theorem met_LaunchCommands_load :
    objectS.hallRead 0 0x20000 304 = some tinyObject ∧ loadEndOk (objectS.checkObject 0 tinyObject 0x30000) 0x30000 = true ∧
    (∀ bs : List Byte, bs.length = 4096 → ((objectS.hallMeets 0 0x20000 304).hallWrite 0 0x30000 bs).2 = true) ∧
    objectS.loadHeld 0 0x20000 304 0x30000 = false ∧ InTurn objectS (hdr 301) 0 ∧
    loadEndBad (objectS.checkObject 0 [] 0) = some 1 ∧ objectS.hallRead 0 0x20000 0 = some [] := by
  have hz : (List.range 304).map (fun i => objectS.gByte 4 (0x20000 + i)) = tinyObject := by decide +kernel
  have h1 : objectS.hallRead 0 0x20000 304 = some tinyObject := by rw [plain_objectS.read (by decide) (by decide +kernel) (by decide +kernel), hz]
  have h2 : loadEndOk (objectS.checkObject 0 tinyObject 0x30000) 0x30000 = true := by decide +kernel
  have h3 : InTurn objectS (hdr 301) 0 := inTurn (by decide +kernel) 0 (by decide)
  have h4 : loadEndBad (objectS.checkObject 0 [] 0) = some 1 := by decide +kernel
  have h5 : objectS.hallRead 0 0x20000 0 = some [] := by decide +kernel
  exact ⟨h1, h2, fun bs h => (plain_objectS.meets (by decide +kernel) (by decide +kernel) ..).write (by rw [h]; decide), rfl, h3, h4, h5⟩

/-- A launch record at 0x1000: load 1, kernel 0, basin 0, no bays, 64 KiB of partition. -/
def launchS : State :=
  { withSess s0 with
    roots := [{ asid := 0, valid := true, root := 0, tberth := 4 }]
    loads := [{ fetchLoad with kernels := [some (teamOf .queued).variant] }]
    mem := { s0.mem with cells := [(0, 1), (2, 1), (2048, 1), (2074, 1), (32768, 0x1F), (32776, 4)] } }

theorem plain_launchS : Plain launchS := by constructor <;> decide +kernel

def launchRec : LaunchRec := { (teamOf .queued).launch with time := false, ctxva := 0 }
def launchOk (o : Except Nat Variant) (v : Variant) : Bool := match o with | .ok x => x == v | .error _ => false

theorem met_LaunchCommands_launch :
    launchS.readLaunch 0 0x1000 = some launchRec ∧ launchS.session? 1 = some sess ∧
    launchOk (launchS.launchCode 0 launchRec (sess.may 2)) (teamOf .queued).variant = true ∧
    (launchS.teams.filter fun t => t.waiting && t.launch.basin == launchRec.basin).length < 256 := by
  have hr : launchS.hallRead 0 0x1000 128 = some ((List.range 128).map fun i => launchS.gByte 4 (0x1000 + i)) :=
    plain_launchS.read (by decide) rfl rfl
  have hb : (List.range 128).map (fun i => launchS.gByte 4 (0x1000 + i)) =
      toBytes 8 1 ++ List.replicate 16 0 ++ toBytes 8 0x10000 ++ List.replicate 96 0 := by decide +kernel
  refine ⟨?_, by decide +kernel, by decide +kernel, by decide +kernel⟩
  unfold State.readLaunch
  rw [hr, hb]
  decide +kernel

theorem launchCode_clocks (s : State) (c : List (List Nat)) (asid : Nat) {l : LaunchRec} (h : l.timed = []) (p : Bool) :
    State.launchCode { s with clocks := c } asid l p = s.launchCode asid l p := by
  have e (s : State) (v : Variant) : s.scheduleRefused l v = false := by simp [State.scheduleRefused, h]
  simp only [State.launchCode, e]
  rfl

theorem runsMeet_clocks {s : State} (hf : s.mem.failing = []) (hw : s.mem.weak = []) (asid : Nat) (l : List (Nat × Nat)) :
    ∃ c, s.runsMeet asid l = { s with clocks := c } := by
  have h (l : List (Nat × Nat)) (c : List (List Nat)) : ∃ d, State.runsMeet { s with clocks := c } asid l = { s with clocks := d } := by
    induction l generalizing c with
    | nil => exact ⟨c, rfl⟩
    | cons x l ih =>
      obtain ⟨d, hd⟩ := hallMeets_clocks (s := { s with clocks := c }) hf hw asid x.1 x.2
      simpa only [State.runsMeet, List.foldl_cons, hd] using ih d
  exact h l s.clocks

theorem met_LaunchCommands_meets :
    launchS.runsHeld 0 (launchS.launchRuns 0 0x1000) = false ∧
    (let t := launchS.runsMeet 0 (launchS.launchRuns 0 0x1000)
     launchOk (t.launchCode 0 launchRec (sess.may 2)) (teamOf .queued).variant = true ∧
     (t.teams.filter fun t => t.waiting && t.launch.basin == launchRec.basin).length < 256) := by
  obtain ⟨c, hc⟩ := runsMeet_clocks (s := launchS) rfl rfl 0 (launchS.launchRuns 0 0x1000)
  refine ⟨?_, ?_⟩
  · simp only [State.runsHeld, State.hallHeld, List.any_eq_false]
    intro x _
    simp [launchS, withSess, s0, State.reset]
  · rw [hc]
    have h := met_LaunchCommands_launch
    exact ⟨by rw [launchCode_clocks _ _ _ rfl]; exact h.2.2.1, h.2.2.2⟩

def retiredS : State := { withSess s0 with teams := [teamOf .retired] }
def admittedS : State := { withSess s0 with teams := [teamOf .admitted] }

theorem met_LaunchCommands :
    InTurn retiredS (hdr 301) 0 ∧ InTurn retiredS (hdr 301) 1 ∧
    (retiredS.load? 1).isSome = true ∧ (∀ t ∈ retiredS.teams, t.live = true → t.launch.loadH ≠ 1) ∧
    retiredS.team? 1 = some (teamOf .retired) ∧ admittedS.team? 1 = some (teamOf .admitted) ∧ (teamOf .admitted).live = true ∧
    (∃ r ∈ admittedS.teamRooms 1, r.life ≠ .halted) ∧ PreemptMode.save ≠ .discard := by
  refine ⟨inTurn rfl 0 (by decide), inTurn rfl 1 (by decide), ?_⟩
  decide +kernel


def pageRestow : Restow :=
  { id := 1, src := .page 0 0, srcPa := 0, srcBerth := 4, size := 2 ^ 28, dstPa := 0x10000000, dstBerth := 2 ^ 41 + 4, leafPa := 65536,
    tberth := 4, p := 0, step := .copy, old := [] }

/-- A handle of two by three i8 values. -/
def handleRec : List DWord := [2 ^ 63 + 2 * 2 ^ 60, 4, 2 + 3 * 2 ^ 32, 1 + 2 ^ 32, 1, 0, 2 ^ 32 + 2 ^ 48, 0]


theorem met_TranslationCommands :
    (let tb : DWord := 4
     tableBerthOk tb.toNat = true ∧ (4095 : Nat) < 4096 ∧ (2 ^ 48 - 65536) % 65536 = 0 ∧ (2 ^ 48 - 65536 : Nat) < 2 ^ 48) ∧
    InTurn objectS (hdr 301) 1 ∧ objectS.roots.find? (fun x => x.asid == 0) = some { asid := 0, valid := true, root := 0, tberth := 4 } ∧
    (∀ r ∈ (objectS.restowSource (.page 0 0x12345) 0x10000000 (2 ^ 41 + 4) objectS.nextId).toList, pageRestow.sameSource r = true ∧
      ({ pageRestow with leafPa := 65552 } : Restow).sameSource r = false) ∧
    (placeOf 4 65536).isSome = true ∧ objectS.leafBusy 4 65536 = false ∧
    ({ objectS with restows := [pageRestow] } : State).leafBusy 4 65536 = true ∧
    (objectS.restowSource (.page 0 0x12345) 0x10000000 (2 ^ 41 + 4) objectS.nextId).map (fun r => restowOk r && !objectS.aclCovers r.srcPa r.size) =
      some true ∧ objectS.restows = [] ∧
    ({ objectS with restows := [pageRestow] } : State).restow? 1 = some pageRestow ∧
    ({ objectS with restows := [{ pageRestow with step := .flipped }] } : State).restow? 1 = some { pageRestow with step := .flipped } ∧
    objectS.handleBusy 4095 = false ∧ handleRecordOk (handleRec.map fun w => w.toNat) = true ∧
    ({ objectS with restows := [{ pageRestow with src := .handle 7 }] } : State).handleBusy 7 = true := by
  refine ⟨by decide +kernel, inTurn rfl 1 (by decide), ?_⟩
  decide +kernel

theorem met_HostCommands :
    InTurn retiredS (hdr 301) 4 ∧ InTurn retiredS (hdr 301) 0 ∧ retiredS.windows.length < 1024 ∧
    ((2 ^ 52 - 65536) % 65536 = 0 ∧ 2 ^ 52 - 65536 + 65536 ≤ 2 ^ 52) ∧
    aclOk [0, 65536, 4, 2 ^ 31] = true ∧ aclOk [4095, 0, 0, 2 ^ 31 + 2 ^ 30] = true ∧ retiredS.aclMeetsRestow [0, 65536, 4, 2 ^ 31] = false ∧
    routesOk 511 [(511, 0, [3])] [(0, 15)] = true ∧ counterKnown (hallCounter 0x30) = true ∧ counterKnown 0xFFFFF = false ∧
    traceArgsOk { paBase := 0, size := 65536, berth := 4, options := 0, cores := 0 } = true ∧
    (let r : EventRing := { qp := 0, addr := 0, rkey := 0, log2 := 6, prod := 9, cons := 3, lost := 0 }
     r.cons ≤ 9 ∧ 9 ≤ r.prod) := by
  refine ⟨inTurn rfl 4 (by decide), inTurn rfl 0 (by decide), ?_⟩
  decide +kernel

theorem met_HostCommands_winclose :
    (let s : State := { retiredS with windows := [{ key := 7, asid := 0, va := 0, len := 65536, rights := 7 }] }
     s.windows ≠ [] ∧ ∀ w ∈ s.windows, ∀ j ∈ s.hostWaits, ∀ q, hostRequest j ≠ some (q, w.key)) :=
  ⟨by decide, fun _ _ _ hj => absurd hj (List.not_mem_nil)⟩

/-! #### Events of rooms -/

theorem toBytes_len (n v : Nat) : (toBytes n v).length = n := by
  induction n generalizing v with
  | zero => rfl
  | succ n ih => simp [toBytes, ih]

/-- What enciphers memory, and memory, agree. -/
def SameMem (s t : State) : Prop := t.mem = s.mem ∧ t.mgmt = s.mgmt ∧ t.free = s.free ∧ t.restows = s.restows ∧ t.moved = s.moved

theorem gNat_of {s t : State} (h : SameMem s t) (w pa n : Nat) : t.gNat w pa n = s.gNat w pa n := by
  simp only [State.gNat, State.gBytes, State.gByte, State.cipher, State.material, h.1, h.2.1, h.2.2.1]

theorem Plain.of {s t : State} (h : Plain s) (hm : SameMem s t) (hr : t.roots = s.roots) : Plain t :=
  ⟨by rw [hr]; exact h.root, by rw [gNat_of hm]; exact h.e0, by rw [gNat_of hm]; exact h.e1, by rw [gNat_of hm]; exact h.l0,
   by rw [gNat_of hm]; exact h.l1, by rw [hm.2.2.2.1]; exact h.restows, by rw [hm.2.2.2.2]; exact h.moved⟩

theorem Plain.notHeld {s : State} (h : Plain s) (asid va n : Nat) (k : AccessKind) : s.hallHeld asid va n k = false := by
  simp [State.hallHeld, h.restows]

/-- Address space 0 is mapped and team 1 is admitted. -/
def mapS (f : Room → Room) : State :=
  { onMe f with teams := [teamOf .admitted], roots := awayS.roots, mem := awayS.mem }

theorem plain_mapS (f : Room → Room) : Plain (mapS f) := plain_awayS.of ⟨rfl, rfl, rfl, rfl, rfl⟩ rfl

def lastLanding : Landing := { due := 1, val := .s 5 7, slot := 2, raised := Raised.none, escape := none }

theorem met_RoomEvents :
    s0.room? fetchRoom = some s0.me ∧
    (let x := (onCtx fun c => { c with wait := .swait 63 0 true }).me
     x.ready = true ∧ (0 : Word) ≤ x.ctx.m[63]) ∧
    (let s := onCtx fun c => { c with wait := .twait 0 }
     s.me.ready = true ∧ (0 : DWord).toNat ≤ (s.coreOf s.me.core).tb / 2 ^ 16) ∧
    (s0.me.life = .running ∧ s0.me.stop = .none ∧ s0.me.ctx.wait = .none ∧ s0.me.ctx.due = []) ∧
    (let x := (onMe fun r => { r with life := .halting, ctx := { r.ctx with landings := [lastLanding] } }).me
     x.drains = true ∧ x.eccHits = []) ∧
    (let x := (onMe fun r => { r with life := .halting }).me
     x.mayHalt = true ∧ x.dirtyBytes = [] ∧ x.heldBy = none) ∧
    (let x := (onCtx fun c => { c with wait := .dbar 7 false }).me
     x.waiting = .dbar 7 false ∧ x.mayArrive = true) ∧
    (let s := onCtx fun c => { c with wait := .dbar 0 true }
     s.me.waiting = .dbar 0 true ∧ s.me ∈ s.members s.me 0 ∧ ∀ y ∈ s.members s.me 0, y.waiting = .dbar 0 true) ∧
    (let x := (onCtx fun c => { c with due := [cause 0x23 4, cause 0x20 4] }).me
     x.stop = .none ∧ x.life = .running ∧ firstCause x.ctx.due = some (cause 0x23 4)) ∧
    (let x := (onMe fun r => { r with stopAsked := some .discard }).me
     x.atStopPoint = true ∧ x.life = .running ∧ x.stop = .none ∧ x.ctx.due = []) ∧
    (let s : State := { s0 with hall := { s0.hall with realign := some 0 } }
     s.hall.realign.isSome = true ∧ s.routing.self < 512 ∧ ∀ k ∈ s.cores, pkgOf k.num = 0 → k.tb ≤ s.hall.tb + 2 * 2 ^ 16) := by
  decide +kernel

theorem met_RoomEvents_away :
    (let s : State := { s0 with cores := s0.cores ++ [Core.atReset 130], hall := { s0.hall with realignAway := [1] } }
     (1 ∈ s.hall.realignAway) ∧ (∀ d', d' = 0 ∨ d' ∈ s.hall.realignAway → s.pkgNo d' = s.pkgNo 1 → d' = 1) ∧
     ∀ k ∈ s.cores, pkgOf k.num = 1 → k.tb ≤ s.hall.tb + 2 * 2 ^ 16) := by
  refine ⟨by decide, ?_, by decide +kernel⟩
  rintro d' (rfl | h)
  · decide +kernel
  · exact fun _ => by simpa using h

theorem saveContainer_made {s : State} {t : Team} {r : Room} {reason : Nat} {inPlace : Bool} {va : Nat}
    (e : ctxSlot t.launch.ctxva r.id.lin t.launch.spsize t.launch.nb = va)
    (hl : (r.container reason (r.stopTb / 2 ^ 16) inPlace).length ≤ ctxSlotSize t.launch.spsize t.launch.nb)
    (hh : ∀ n, s.hallHeld t.asid va n .write = false) (hw : (s.hallWrite t.asid va (r.container reason (r.stopTb / 2 ^ 16) inPlace)).2 = true) :
    (s.saveContainer t r reason inPlace).2 = .made := by
  simp only [State.saveContainer, if_neg (Nat.not_lt.mpr hl), e, hh, hw]
  rfl

/-- A room that a page fault moves: its save area is the slot at 0x1000. -/
def faultS : State := mapS fun r => { r with stop := .frozen (cause 0x20 4) }

theorem met_RoomEvents_pageFault :
    faultS.me.stop = .frozen (cause 0x20 4) ∧ fatal (cause 0x20 4) faultS.me.ctx.hmode = false ∧
    faultS.team? 1 = some (teamOf .admitted) ∧ faultS.me.cardsQuiet = true ∧ faultS.me.overflowDirty = [] ∧
    (faultS.saveContainer (teamOf .admitted) faultS.me 4 true).2 = .made := by
  refine ⟨by decide +kernel, by decide +kernel, by decide +kernel, by decide +kernel, by decide +kernel, ?_⟩
  have hl : (faultS.me.records true).flatten.length ≤ 65536 := by decide +kernel
  have e : ctxSlot (teamOf .admitted).launch.ctxva faultS.me.id.lin (teamOf .admitted).launch.spsize (teamOf .admitted).launch.nb =
    0x1000 := by decide +kernel
  have hc (n : Nat) : (faultS.me.container 4 n true).length ≤ 65600 := by
    simp only [Room.container, List.length_append, toBytes_len, List.length_replicate]
    omega
  have hs : 65600 ≤ ctxSlotSize (teamOf .admitted).launch.spsize (teamOf .admitted).launch.nb := by decide +kernel
  have hp : Plain faultS := plain_mapS _
  exact saveContainer_made e (Nat.le_trans (hc _) hs) (fun n => hp.notHeld ..) (hp.write (Nat.le_trans (Nat.add_le_add_left (hc _) _) (by decide)))

/-! #### Entries -/

/-- An entry of the room, changed from a queued one. -/
def ent (id : Nat) (op : XForm → Instr) (f : XForm) (g : XEntry → XEntry) : XEntry := g (r0.ctx.entryOf id (op f) f)
def queueS (l : List XEntry) : State := onCtx fun c => { c with xq := l }

def aPut (st : XStatus) (aa : Nat) : XEntry :=
  ent 1 .put { xf with ms := 63 } fun e => { e with aa := aa, ab := 4096, sv := 2, status := st, payload := [7, 9] }

theorem met_EntryEvents :
    (let e := aPut .queued 0
     EntryIs (queueS [e]) fetchRoom 1 (queueS [e]).me e ∧ (queueS [e]).mayDispatch (queueS [e]).me e = true ∧ 0 < e.sv ∧
     (queueS [e]).me.here = true ∧ (queueS [e]).heldNow e.heldBy = .free ∧ (queueS [e]).pathOpen (queueS [e]).me e = true ∧
     NoErrors (queueS [e])) ∧
    (let a := aPut .applied 0
     let e := ent 2 .fenceRel xf id
     EntryIs (queueS [a, e]) fetchRoom 2 (queueS [a, e]).me e ∧ e.isFence = true ∧ (queueS [a, e]).me.ctx.before 2 ≠ [] ∧
     ∀ y ∈ (queueS [a, e]).me.ctx.before 2, (queueS [a, e]).fenceWaits (queueS [a, e]).me e y = false) ∧
    (let a := aPut .queued 0
     let e := ent 2 .fenceRel xf id
     EntryIs (queueS [a, e]) fetchRoom 2 (queueS [a, e]).me e ∧ e.isFence = true ∧
     ∃ y ∈ (queueS [a, e]).me.ctx.before 2, (queueS [a, e]).fenceWaits (queueS [a, e]).me e y = true) ∧
    (let e := aPut .dispatched 0x20000
     let s := onCtx fun c => { c with xq := [e], footprint := Footprint.nil }
     EntryIs s fetchRoom 1 s.me e ∧ e.isPut = true ∧ s.putArrives s.me e = true ∧ s.room? { team := 1, lin := targetLin e.aa } = some s.me ∧
     (0x20000 : Nat) = targetAddr e.aa ∧ targetAddr e.aa + e.putLen ≤ s.me.spSize ∧ s.me.putLands (targetAddr e.aa) e.putLen = true) ∧
    (let e := aPut .dispatched (2 ^ 40 * 9)
     (queueS [e]).room? { team := 1, lin := targetLin e.aa } = none) ∧
    (let e := aPut .dispatched 0xFFFFFF
     (queueS [e]).room? { team := 1, lin := targetLin e.aa } = some (queueS [e]).me ∧
     (queueS [e]).me.spSize < targetAddr e.aa + e.putLen ∧ (queueS [e]).putArrives (queueS [e]).me e = true) ∧
    (let e := ent 1 .collBcast xf fun e => { e with status := .dispatched, result := some [] }
     EntryIs (queueS [e]) fetchRoom 1 (queueS [e]).me e ∧ isCollOp e.op = true ∧ e.result = some [] ∧ e.raised = Raised.none) := by
  unfold EntryIs NoErrors
  decide +kernel

theorem met_EntryEvents_mismatch :
    (let e := ent 1 .collSumQ { xf with sc := 7 } fun e => { e with status := .dispatched, sv := 4 }
     let g := ent 1 .collSumQ { xf with sc := 7 } fun e => { e with status := .dispatched, sv := 5 }
     let dm : Room → Room := fun r => { r with dm := r.dm.set 7 0x80000000 }
     let s : State := { (queueS [e]) with
       me := dm (queueS [e]).me
       others := [{ dm (queueS [g]).me with id := { team := 1, lin := 1 }, slotNo := 1 }] }
     EntryIs s fetchRoom 1 s.me e ∧ isCollOp e.op = true ∧ e.status = .dispatched ∧ e.result = none ∧
     (s.members s.me 7).length = 2 ∧ s.me ∈ s.members s.me 7 ∧
     (∀ y ∈ s.members s.me 7, ((y.collEntry 7 e.ordinal).any fun g => g.status != .queued) = true) ∧
     ∃ y ∈ s.members s.me 7, ((y.collEntry 7 e.ordinal).any fun g => decide (g.collKey ≠ e.collKey)) = true) := by
  unfold EntryIs
  decide +kernel

theorem met_EntryEvents_alike :
    (let e := ent 1 .collSumQ { xf with sc := 7 } fun e => { e with status := .dispatched, sv := 4 }
     let s : State := { (queueS [e]) with me := { (queueS [e]).me with dm := (queueS [e]).me.dm.set 7 0x80000000 } }
     EntryIs s fetchRoom 1 s.me e ∧ isCollOp e.op = true ∧ e.result = none ∧ s.me ∈ s.members s.me 7 ∧ s.me.collEntry 7 e.ordinal = some e ∧
     ∀ y ∈ s.members s.me 7, (y.collEntry 7 e.ordinal).any (fun g => g.status != .queued && g.fault.isNone && decide (g.collKey = e.collKey)) = true) := by
  unfold EntryIs
  decide +kernel

/-- The page that sluice commands may reach, and the plain page, each cached. -/
def sluiceS (l : List XEntry) : State :=
  { (queueS l) with roots := [{ asid := 0, valid := true, root := 0, tberth := 4 }], l1 := [(0, { floor := 0, asid := 0, va := 0, size := 2 ^ 28, w0 := 0x1F, w1 := 4 + 2 ^ 30 })] }
def amoS (l : List XEntry) : State :=
  { (queueS l) with roots := [{ asid := 0, valid := true, root := 0, tberth := 4 }], l1 := [(0, { floor := 0, asid := 0, va := 0, size := 2 ^ 28, w0 := 0x1F, w1 := 4 })] }

def aFill (st : XStatus) : XEntry := ent 1 .slFill { xf with ms := 63 } fun e => { e with aa := 64, ab := 1, status := st }

theorem met_AppliedAtHome_sluice :
    (let e := aFill .dispatched
     let s := sluiceS [e]
     EntryIs s fetchRoom 1 s.me e ∧ e.isSluice = true ∧ e.fault = none ∧ e.replay = none ∧
     s.heldNow e.heldBy = .free ∧ s.staleRequest s.me e = none ∧ s.bankTurn s.me e = true ∧
     s.translate s.me.core s.me.asid (e.aa % 2 ^ 52) .readWrite true = (s, .ok 64 (4 + 2 ^ 30) 0 (2 ^ 28) 0x1F) ∧
     berthSle (4 + 2 ^ 30) = true ∧ berthTier (4 + 2 ^ 30) = 0 ∧
     (let secs := (sectorsOf (e.aa % 2 ^ 52) (slCount e) (.ok 64 (4 + 2 ^ 30) 0 (2 ^ 28) 0x1F)).getD []
      secs.length = 2 ∧
      (secs.all fun y => !(s.request.discover (secs.map fun y => (y.2.2, y.2.1))).gPoisoned y.2.2 y.2.1 && (match placeOf y.2.2 y.2.1 with | some p => !s.bankHeld (bankOfPlace p) | none => true)) ∧
      (match secs.foldl (fun (o : Reach) y => match o with | .ok _ => s.reachPa y.2.2 y.2.1 1 .readWrite | z => z) (.ok []) with
       | .ok _ => true | _ => false) = true)) ∧
    (let e := aFill .applied
     EntryIs (sluiceS [e]) fetchRoom 1 (sluiceS [e]).me e ∧ e.isSluice = true ∧ e.status = .applied) := by
  unfold EntryIs
  decide +kernel

def anAdd (st : XStatus) : XEntry := ent 1 .amoAdd { xf with fn := 10, ms := 63 } fun e => { e with aa := 64, ab := 5, status := st, seq := 3 }

theorem cached_amoS (l : List XEntry) : Cached (amoS l) := ⟨rfl, rfl, rfl, rfl, rfl, rfl, rfl, rfl, rfl⟩

theorem met_AppliedAtHome_atomic :
    (let e := anAdd .dispatched
     let s := amoS [e]
     EntryIs s fetchRoom 1 s.me e ∧ e.isAmo = true ∧ e.fault = none ∧ e.replay = none ∧ s.heldNow e.heldBy = .free ∧ s.staleRequest s.me e = none ∧
     Reached s s.me (e.aa % 2 ^ 52) (amoSize e.form) .readWrite s ((4, 64) :: (List.range 7).map fun i => (4, 65 + i)) ∧
     (placeOf 4 64).isSome = true ∧
     (∀ p ∈ (placeOf 4 64).toList, (s.atomicWindow (dieOfPlace p) e.source).find? (fun d => d.1 == e.seq) = none ∧
       olderThanWindow (s.atomicWindow (dieOfPlace p) e.source) e.seq = false ∧ s.bankHeld (bankOfPlace p) = false) ∧
     s.gPoisoned 4 64 = false ∧
     (∀ p ∈ (placeOf 4 64).toList, let t := s.recordAtomic (dieOfPlace p) e.source e.seq 7
       (t.atomicWindow (dieOfPlace p) e.source).find? (fun d => d.1 == e.seq) = some (e.seq, 7))) ∧
    (let e := anAdd .applied
     EntryIs (amoS [e]) fetchRoom 1 (amoS [e]).me e ∧ e.isAmo = true ∧ e.status = .applied ∧ e.form.fn.getLsbD 3 = true) := by
  have h : (amoS [anAdd .dispatched]).reach 0 0 64 8 .readWrite = (amoS [anAdd .dispatched], .ok ((List.range 8).map fun i => (4, 64 + i))) :=
    (cached_amoS _).reach (by decide) _
  have e1 : (anAdd .dispatched).aa % 2 ^ 52 = 64 ∧ amoSize (anAdd .dispatched).form = 8 := by decide +kernel
  have e2 : (amoS [anAdd .dispatched]).me.core = 0 ∧ (amoS [anAdd .dispatched]).me.asid = 0 := by decide +kernel
  unfold EntryIs
  refine ⟨⟨by decide +kernel, by decide +kernel, rfl, rfl, rfl, by decide +kernel, ?_, by decide +kernel⟩, by decide +kernel⟩
  unfold Reached
  rw [e1.1, e1.2, e2.1, e2.2]
  exact h

/-! #### Cards -/

def aCard (kind : Nat) (st : XStatus) (next : Nat) : XEntry :=
  ent 1 .bfill { xf with ms := 63 } fun e => { e with card := toBytes 64 (cardOf kind), status := st, next := next }

theorem met_CardEvents :
    (let e := aCard 5 .dispatched 0
     EntryIs (queueS [e]) fetchRoom 1 (queueS [e]).me e ∧ (queueS [e]).me.ctx.mayStart e = true) ∧
    (let e := aCard 5 .started 3
     EntryIs (queueS [e]) fetchRoom 1 (queueS [e]).me e ∧ Served e ∧ e.next < cardUnits (fromBytes e.card) ∧
     (match (queueS [e]).cardUnit (queueS [e]).me e (fromBytes e.card) e.next with
      | .done t _ _ => ((t.room? fetchRoom).bind fun y => y.entry? 1).isSome | _ => false) = true) ∧
    (let e := aCard 5 .started 4
     EntryIs (queueS [e]) fetchRoom 1 (queueS [e]).me e ∧ Served e ∧ cardUnits (fromBytes e.card) ≤ e.next ∧
     cKind (fromBytes e.card) ≠ 2 ∧ e.raised = Raised.none) ∧
    (let e := { aCard 0 .started 0 with replay := some 1 }
     EntryIs (queueS [e]) fetchRoom 1 (queueS [e]).me e ∧ e.fault = none ∧ (queueS [e]).requestVas (queueS [e]).me e ≠ [] ∧
     ∀ va ∈ (queueS [e]).requestVas (queueS [e]).me e, (queueS [e]).stillRefused (queueS [e]).me.asid va 1 e.access = false) ∧
    (let a := aCard 5 .applied 4
     let e := { aCard 5 .queued 0 with id := 2, shadow := true }
     (queueS [a, e]).me.ctx.xq.find? (fun e => e.isCard && e.channel == (0 : BitVec 2).toNat && e.shadow) = some e ∧
     (queueS [a, e]).me.ctx.before 2 ≠ [] ∧
     ∀ y ∈ (queueS [a, e]).me.ctx.before 2, y.isCard = true → y.channel = (0 : BitVec 2).toNat → y.status = .applied) := by
  unfold EntryIs Served
  decide +kernel

/-- A conversion to the nibbles of an i4 page, which does both values of a byte. -/
def aNibble : XEntry :=
  ent 1 .bconv { xf with ms := 63 } fun e =>
    { e with card := toBytes 64 (2 ^ 301 + 2 ^ 300 + 2 ^ 288 * 6 + 2 ^ 256 + 2 ^ 64 * (dsc 0x1000 1 4 0 0 0).toNat + 64), status := .started }

theorem met_CardEvents_pair :
    (let e := aNibble
     let s := amoS [e]
     EntryIs s fetchRoom 1 s.me e ∧ Served e ∧ e.next < cardUnits (fromBytes e.card) ∧
     (((endUnit s.me e (s.cardUnit s.me e (fromBytes e.card) e.next)).room? fetchRoom).bind fun y => y.entry? 1).any (fun e' =>
        e'.halfWritten && e'.isCard && e'.status == .started && e'.fault.isNone && e'.replay.isNone && decide (e'.next < cardUnits (fromBytes e'.card))) = true) := by
  unfold EntryIs Served
  decide +kernel

/-- A halting room with a byte of a window to write back. -/
def haltS : State :=
  { amoS [] with me := { (amoS []).me with life := .halting, windows :=
      [{ num := 0, base := 0x2000, len := 256, gva := 0x10000, resident := [0], written := [0x2001] }] } }

theorem met_RoomEvents_writeBack :
    haltS.room? fetchRoom = some haltS.me ∧ haltS.me.mayHalt = true ∧ haltS.me.dirtyBytes ≠ [] ∧
    haltS.accessHeld haltS.me true (haltS.me.dirtyBytes.map Prod.fst) = false ∧
    (let x := haltS.sourceBytes haltS.me haltS.me.dirtyBytes
     let y := x.1.writeBack haltS.me x.2
     y.2.1 = [] ∧ y.2.2 = none) := by decide +kernel

/-! #### Fills -/

theorem Cached.fill {s : State} (h : Cached s) (x : Room) (hf : x.core = 0) (ha : x.asid = 0) {va n : Nat} (hv : va + n ≤ 2 ^ 24)
    (k : AccessKind) (hb : x.heldBy = none) (hx : s.onRoom x.id (fun y => { y with heldBy := none }) = s) (event : Instr)
    (hp : s.mem.poisoned = []) : Filled s x event va n k s ((List.range n).map fun i => (4, va + i)) := by
  refine ⟨?_, fun p _ => ?_⟩
  · simp only [State.reachFresh, hf, ha, hb, State.heldNow, Option.bind_none, h.reach hv, hx]
  · simp only [State.gPoisoned, hp]; split <;> simp

theorem gByte_zero {s : State} (h : s.mem.cells = []) (ht : s.mem.tags = []) (w pa : Nat) : s.gByte w pa = 0 := by
  simp only [State.gByte, GlobalMem.byte, h, ht]
  split <;> rfl

/-- Held for line 3 of window 7, for line 2 of the overflow, and for code page 0 of a load of zeros at 0. -/
def heldS (m : Miss) : State :=
  { onMe fun r => { r with stop := .hold m, windows := [{ num := 7, base := 0x2000, len := 1024, gva := 0x10000, resident := [0], written := [] }] } with
    roots := [{ asid := 0, valid := true, root := 0, tberth := 4 }]
    l1 := [(0, { floor := 0, asid := 0, va := 0, size := 2 ^ 28, w0 := 0x1F, w1 := 4 })]
    loads := [{ fetchLoad with lb := 0, pageHash := [sha384 (List.replicate 4096 0)] }] }

theorem cached_heldS (m : Miss) : Cached (heldS m) := ⟨rfl, rfl, rfl, rfl, rfl, rfl, rfl, rfl, rfl⟩

theorem met_FillEvents_window :
    (heldS (.window 7 3)).room? fetchRoom = some (heldS (.window 7 3)).me ∧ (heldS (.window 7 3)).me.stop = .hold (.window 7 3) ∧
    (heldS (.window 7 3)).me.window? 7 = some { num := 7, base := 0x2000, len := 1024, gva := 0x10000, resident := [0], written := [] } ∧
    (heldS (.window 7 3)).accessHeld (heldS (.window 7 3)).me false (span52 0x10300) = false ∧
    (heldS (.window 7 3)).me.owesFrom (0x2000 + 256 * 3) 256 = false ∧
    Filled (heldS (.window 7 3)) (heldS (.window 7 3)).me (.windowFill fetchRoom) (va52 (0x10000 + 256 * 3 : Nat)) 256 .read (heldS (.window 7 3))
      ((List.range 256).map fun i => (4, 0x10300 + i)) := by
  have e : va52 (0x10000 + 256 * 3 : Nat) = 0x10300 := by decide +kernel
  refine ⟨by decide +kernel, rfl, by decide +kernel, by decide +kernel, by decide +kernel, ?_⟩
  rw [e]
  exact (cached_heldS _).fill _ (by decide +kernel) (by decide +kernel) (by decide) _ rfl (by decide +kernel) _ rfl

theorem met_FillEvents_overflow :
    (heldS (.overflow 2)).room? fetchRoom = some (heldS (.overflow 2)).me ∧ (heldS (.overflow 2)).me.stop = .hold (.overflow 2) ∧
    (heldS (.overflow 2)).accessHeld (heldS (.overflow 2)).me false (span52 512) = false ∧
    Filled (heldS (.overflow 2)) (heldS (.overflow 2)).me (.atticOverflowFill fetchRoom) ((heldS (.overflow 2)).me.overflowVa 2) 256 .read (heldS (.overflow 2))
      ((List.range 256).map fun i => (4, 512 + i)) := by
  have e : (heldS (.overflow 2)).me.overflowVa 2 = 512 := by decide +kernel
  refine ⟨by decide +kernel, rfl, by decide +kernel, ?_⟩
  rw [e]
  exact (cached_heldS _).fill _ (by decide +kernel) (by decide +kernel) (by decide) _ rfl (by decide +kernel) _ rfl

theorem met_FillEvents_code :
    (let s := heldS (.codePage 0)
     let o : LoadedObj := { fetchLoad with lb := 0, pageHash := [sha384 (List.replicate 4096 0)] }
     let l := (List.range 4096).map fun i => (4, 0 + i)
     s.me.stop = .hold (.codePage 0) ∧ s.load? s.me.loadH = some o ∧ o.failed = false ∧
     Filled s s.me (.codePageFill fetchRoom) (o.lb + 4096 * 0) 4096 .fetch s l ∧
     o.pageHash[0]? = some (sha384 (l.map fun q => s.gByte q.1 q.2))) := by
  refine ⟨rfl, rfl, rfl, (cached_heldS _).fill _ (by decide +kernel) (by decide +kernel) (by decide) _ rfl (by decide +kernel) _ rfl, ?_⟩
  have h : ((List.range 4096).map fun i => ((4 : Nat), 0 + i)).map (fun q => (heldS (.codePage 0)).gByte q.1 q.2) =
      List.replicate 4096 0 := by
    rw [List.map_map, List.eq_replicate_iff]
    refine ⟨by simp, fun b hb => ?_⟩
    obtain ⟨i, -, rfl⟩ := List.mem_map.mp hb
    exact gByte_zero rfl rfl ..
  rw [h]
  rfl

theorem met_FillEvents :
    (let e := aCard 0 .started 0
     let s : State := { (queueS [e]) with roots := [{ asid := 0, valid := true, root := 0, tberth := 4 }], l1 := [(0, { floor := 0, asid := 0, va := 0, size := 2 ^ 28, w0 := 0x1F, w1 := 4 + 2 })] }
     s.me.entry? 1 = some e ∧ s.waitsForPeer s.me e = true ∧ s.me.deadStop = false) ∧
    (let s : State := { s0 with ports := [{ num := 7, pid := 5, up := true, key := 0, ups := 0 }], acl := [{ lockhouse := 7, idx := 0, words := [0, 65536, 4, 2 ^ 31 + 2 ^ 29 + 5 * 2 ^ 32] }] }
     (∃ p ∈ s.ports, p.num = 7 ∧ p.up = true ∧ p.pid = 5) ∧ s.aclGrant 7 5 (.range 65536) = none ∧
     s.aclGrant 7 5 (.range 65500) = some (4, 65472) ∧ s.peerStale (.range 65500) 4 65472 = false ∧ (s.request.discover [(4, 65472)]).gPoisoned 4 65472 = false) := by
  decide +kernel

/-- The handle of an arena of 64 by one i8 values at 0. -/
def lineRec : List Nat := [2 ^ 63 + 2 * 2 ^ 60, 4, 64 + 2 ^ 32, 1 + 2 ^ 32, 1, 0, 2 ^ 32 + 2 ^ 48, 0]

/-- A peer reads by handle a tile of a page under restow, closed: it is told that the handle is stale. -/
theorem met_FillEvents_stale :
    (let s : State := { s0 with
      ports := [{ num := 7, pid := 5, up := true, key := 0, ups := 0 }], handles := [(7, lineRec)]
      acl := [{ lockhouse := 7, idx := 0, words := [7, 0, 0, 2 ^ 31 + 2 ^ 30 + 2 ^ 29 + 5 * 2 ^ 32] }]
      restows := [{ pageRestow with src := .handle 7, size := 128, step := .closed }] }
     ∀ w pa, s.aclGrant 7 5 (.handle 7 [0, 0] 0) = some (w, pa) → s.peerStale (.handle 7 [0, 0] 0) w pa = true) ∧
    (let s : State := { s0 with
      ports := [{ num := 7, pid := 5, up := true, key := 0, ups := 0 }], handles := [(7, lineRec)]
      acl := [{ lockhouse := 7, idx := 0, words := [7, 0, 0, 2 ^ 31 + 2 ^ 30 + 2 ^ 29 + 5 * 2 ^ 32] }] }
     (s.aclGrant 7 5 (.handle 7 [0, 0] 0)).isSome = true) := by
  refine ⟨?_, by decide +kernel⟩
  intro s w pa h
  have : s.aclGrant 7 5 (.handle 7 [0, 0] 0) = some (4, 0) := by decide +kernel
  rw [this] at h
  cases h
  decide +kernel

theorem met_FillEvents_walk : ∀ k, awayS.walk 0 ((2 ^ 24 - 1) % 2 ^ 52) k = .ok (2 ^ 24 - 1) 4 0 (2 ^ 28) 0x1F :=
  fun k => plain_awayS.walk (by decide) k

/-! #### Teams -/

/-- A queued team and its map, and a team that has halted or stopped. -/
def queuedS : State := { s0 with teams := [{ teamOf .queued with eligibleAt := some 0 }], me := Room.idle, roundDue := true }

theorem met_TeamEvents :
    queuedS.current = some ({ teamOf .queued with eligibleAt := some 0 }, 0, (0, 1)) ∧
    queuedS.roundDue = true ∧ (∀ m ∈ (queuedS.admissionMap { teamOf .queued with eligibleAt := some 0 } []).toList, queuedS.reserved m = true ∧
      queuedS.scheduleBad (teamOf .queued).launch m = false) ∧
    (queuedS.admissionMap { teamOf .queued with eligibleAt := some 0 } []).isSome = true ∧ queuedS.others = [] ∧
    fetchLoad.failed = false ∧ s0.roundDue = false ∧
    queuedS.absentPage { teamOf .queued with eligibleAt := some 0 } = none ∧ queuedS.load? (teamOf .queued).launch.loadH = some fetchLoad ∧
    (let s : State := { onMe fun r => { r with life := .halted } with teams := [teamOf (.stopping .save)] }
     s.team? 1 = some (teamOf (.stopping .save)) ∧ s.teamRooms 1 ≠ [] ∧ (∀ x ∈ s.teamRooms 1, x.life = .halted ∧ x.ctx.xq = []) ∧
     ∀ d ∈ s.dumps, d.room.team ≠ 1) ∧
    (let s : State := { onMe id with dumps := [{ room := fetchRoom, reason := 1, further := [], nFurther := 0 }] }
     s.room? fetchRoom = some s.me ∧ s.me.life ≠ .ended ∧ s.dumpHeld = false) ∧
    (let s : State := { s0 with dumps := [{ room := { team := 9, lin := 0 }, reason := 1, further := [], nFurther := 0 }] }
     s.room? { team := 9, lin := 0 } = none) := by
  decide +kernel

/-- A stopped room with an empty partition. -/
def stoppedS : State :=
  { mapS fun r => { r with stop := .preempted, spsize := 0 } with teams := [teamOf (.stopping .save)] }

theorem recordBytes_len (type flags : Nat) (body : List Byte) : (recordBytes type flags body).length ≤ 32 + body.length := by
  simp only [recordBytes, toBytes_len, List.length_append, List.length_replicate]
  omega

theorem container_len {r : Room} (h : (ctxRecords r.status r.ctx r.aside).flatten.length ≤ 65536 ∧ r.sills = [[], [], [], []] ∧ r.tiles = [] ∧
    r.spSize = 0 ∧ r.windows = [] ∧ r.snap = none ∧ (tokenBody (debugTokens r)).length ≤ 1000 ∧
    (tokenBody (tkL tkTimed r.ctx.timed)).length ≤ 100) (reason tb : Nat) : (r.container reason tb false).length ≤ 2 ^ 17 := by
  obtain ⟨h1, h2, h3, h4, h5, h6, h7, h8⟩ := h
  have a1 := recordBytes_len 0x0D 1 (r.sills.flatMap sillBytes)
  have a2 := recordBytes_len 0x0E 1 (toBytes 16 0)
  have a3 := recordBytes_len 0x0F 1 (Memory.read r.scratch 0 r.spSize)
  have a4 := recordBytes_len 0x10 1 (toBytes 16 0)
  have a5 := recordBytes_len 0x12 0 (tokenBody (debugTokens r))
  have a6 := recordBytes_len 0x13 1 (tokenBody (tkL tkTimed r.ctx.timed))
  have b1 : (r.sills.flatMap sillBytes).length = 32768 := by simp [h2, sillBytes, Memory.read]
  have b2 : (Memory.read r.scratch 0 r.spSize).length = 0 := by simp [h4, Memory.read]
  have b3 : (toBytes 16 0).length = 16 := toBytes_len ..
  simp only [Room.container, Room.records, bigRecords, h3, h5, h6, List.length_append, toBytes_len, List.length_replicate,
    List.flatten_append, List.flatten_cons, List.flatten_nil, List.length_nil, Bool.false_eq_true, if_false, List.flatMap_nil,
    List.append_nil]
  omega

theorem plain_stoppedS : Plain stoppedS := plain_awayS.of ⟨rfl, rfl, rfl, rfl, rfl⟩ rfl

def savedRoom : Room := stoppedS.me.toSave .save

theorem saved_stoppedS : (stoppedS.saveContainer (teamOf (.stopping .save)) savedRoom 2 false).2 = .made := by
  have e : ctxSlot (teamOf (.stopping .save)).launch.ctxva savedRoom.id.lin (teamOf (.stopping .save)).launch.spsize
    (teamOf (.stopping .save)).launch.nb = 0x1000 := by decide +kernel
  have hl := container_len (r := savedRoom) (by decide +kernel)
  have hs : 2 ^ 17 ≤ ctxSlotSize (teamOf (.stopping .save)).launch.spsize (teamOf (.stopping .save)).launch.nb := by decide +kernel
  exact saveContainer_made e (Nat.le_trans (hl _ _) hs) (fun n => plain_stoppedS.notHeld ..)
    (plain_stoppedS.write (Nat.le_trans (Nat.add_le_add_left (hl _ _) _) (by decide)))

theorem saveRooms_one {s : State} {tm : Team} {m : PreemptMode} {x y : Room} (h1 : s.saveOverflow x true (.contextSave tm.sub) = (s, .made))
    (h2 : s.room? x.id = some x) (h3 : x.toSave m = y) (h4 : (s.saveContainer tm y (modeReason m) false).2 = .made) :
    ∃ u, s.saveRooms tm m [x] = (u, .made, [{ y with overflow := [] }]) := by
  obtain ⟨v, hv⟩ : ∃ v, s.saveContainer tm y (modeReason m) false = (v, .made) := ⟨_, Prod.ext rfl h4⟩
  exact ⟨v, by simp only [State.saveRooms, State.saveRoom, h1, h2, h3, hv]; rfl⟩

theorem met_TeamEvents_save :
    stoppedS.team? 1 = some (teamOf (.stopping .save)) ∧ (teamOf (.stopping .save)).state = .stopping .save ∧
    stoppedS.teamRooms 1 ≠ [] ∧ (∀ d ∈ stoppedS.dumps, d.room.team ≠ 1) ∧
    (∀ x ∈ stoppedS.teamRooms 1, x.stoppedForSave = true ∧ stoppedS.roomQuiesced (stoppedS.spansFloors 1) x = true) ∧ stoppedS.spansFloors 1 = false ∧
    ∃ u l, stoppedS.saveRooms (teamOf (.stopping .save)) .save (stoppedS.teamRooms 1) = (u, .made, l) := by
  have h : stoppedS.teamRooms 1 = [stoppedS.me] := by decide +kernel
  refine ⟨by decide +kernel, rfl, by decide +kernel, by decide +kernel, by decide +kernel, by decide +kernel, ?_⟩
  rw [h]
  obtain ⟨u, hu⟩ := saveRooms_one (s := stoppedS) (tm := teamOf (.stopping .save)) (m := .save) (x := stoppedS.me) (y := savedRoom)
    (by decide +kernel) (by decide +kernel) rfl saved_stoppedS
  exact ⟨u, _, hu⟩

/-! #### Restows -/

def restowS (r : Restow) : State := { s0 with restows := [r] }
def handleRestow : Restow := { pageRestow with src := .handle 7, size := 128, step := .drained }

theorem met_RestowEvents :
    (let r := { pageRestow with p := 5, dstPa := 0x1000000 }
     (restowS r).restow? 1 = some r ∧ r.p < r.lines ∧ (restowS r).gPoisoned r.srcBerth (r.srcPa + 64 * r.p) = false ∧
     (restowS r).gFailing r.srcBerth (r.srcPa + 64 * r.p) = false ∧ (placeOf r.dstBerth (r.dstPa + 64 * r.p)).isSome = true) ∧
    (let r := { pageRestow with p := 2 ^ 22 }
     (restowS r).restow? 1 = some r ∧ r.step = .copy ∧ r.lines ≤ r.p) ∧
    (restowS { pageRestow with step := .closed }).restow? 1 = some { pageRestow with step := .closed } ∧
    (restowS { pageRestow with step := .drained }).restow? 1 = some { pageRestow with step := .drained } ∧
    (let s : State := { (restowS handleRestow) with handles := [(7, handleRec.map fun w => w.toNat)] }
     s.restow? 1 = some handleRestow ∧ handleRestow.step = .drained ∧ handleRestow.src = .handle 7 ∧
     s.handle? 7 = some ((2 ^ 63 + 2 * 2 ^ 60) :: 4 :: (handleRec.map fun w => w.toNat).drop 2)) ∧
    (let s := restowS { pageRestow with step := .flipped }
     s.restow? 1 = some { pageRestow with step := .flipped } ∧ (∀ x ∈ s.shootdowns, x.id ≠ 1) ∧
       ∀ x ∈ s.rooms, x.heldBy = none ∧ x.ctx.xq = []) ∧
    (let r := { pageRestow with p := 5 }
     (restowS r).restow? 1 = some r ∧ r.step ≠ .flipped ∧ (4 : Nat) < r.p ∧ (5 : Nat) < r.size / 64) ∧
    (let s : State := { s0 with shootdowns := [{ id := 3, asid := 0, range := none, old := [] }] }
     s.shootdowns.find? (fun y => y.id == 3) = some { id := 3, asid := 0, range := none, old := [] } ∧ ∀ y ∈ s.rooms, y.heldBy = none ∧ y.ctx.xq = []) := by
  decide +kernel

/-! #### The host and the fleet -/

/-- A host window on the whole of the mapped page. -/
def hostS : State :=
  { awayS with windows := [{ key := 7, asid := 0, va := 0, len := 2 ^ 28, rights := 7 }] }

theorem met_HostEvents :
    HostServes hostS 9 ∧ HostServes { hostS with qps := [9] } 9 ∧ withPair hostS 9 = { hostS with qps := [9] } ∧
    (let s : State := { hostS with mgmt := { hostS.mgmt with recovery := true } }
     s.mgmt.recovery = true) ∧
    (let h := hostS.hostReach (.rdmaRead 9 2 7 64 2) 7 64 2 0 .read
     h.2 = .ok [(4, 64), (4, 65)] ∧ ∀ p ∈ [(4, 64), (4, 65)], h.1.gPoisoned p.1 p.2 = false) ∧
    (hostS.hostReach (.rdmaWrite 9 2 7 64 [1, 2]) 7 64 ([1, 2] : List Byte).length 1 .write).2 = .ok [(4, 64), (4, 65)] ∧
    (∀ w ∈ hostS.windows, w.key ≠ 8) ∧
    (let s : State := { hostS with rdmaAtomics := [(1, 2, 9)] }
     s.rdmaAtomics.find? (fun x => x.1 == 1 && x.2.1 == 2) = some (1, 2, 9)) ∧
    (let h := hostS.hostReach (.atomicFetchAndAdd 9 2 7 64 5) 7 64 8 2 .readWrite
     hostS.rdmaAtomics.find? (fun x => x.1 == 1 && x.2.1 == 2) = none ∧
       h.2 = .ok ((4, 64) :: (List.range 7).map fun i => (4, 65 + i)) ∧ h.1.gPoisoned 4 64 = false) := by
  unfold HostServes
  refine ⟨?_, ?_, by decide +kernel⟩
  · exact ⟨rfl, .inr (by decide), fun j hj => absurd hj (List.not_mem_nil)⟩
  · exact ⟨rfl, .inl (by decide), fun j hj => absurd hj (List.not_mem_nil)⟩

theorem met_HostEvents_events :
    (let r : EventRing := { qp := 0, addr := 0, rkey := 0, log2 := 6, prod := 9, cons := 3, lost := 4 }
     0 < r.lost ∧ r.prod - r.cons < 2 ^ r.log2) ∧
    (let a : Armed := { t := 0, late := [12] }
     let s : State := { s0 with armed := some a }
     s.armed = some a ∧ (12 : Nat) ∈ a.late ∧ (∀ x ∈ s.fired, x.1 ≠ 12) ∧ (s.fired ++ [(12, [])]).length ≠ 13) ∧
    (let s : State := { s0 with armed := some { t := 0, late := [12] }, fired := (List.range 12).map fun d => (d, []) }
     (∀ x ∈ s.fired, x.1 ≠ 12) ∧ (s.fired ++ [(12, [])]).length = 13) ∧
    (let tr : Trace := { args := { paBase := 0, size := 64, berth := 4, options := 0, cores := 0 }, on := true, pos := 32
                         pending := [(1, [1]), (0, [2])] }
     takeRecord 0 tr.pending = some ([2], [(1, [1])]) ∧ 32 ≤ tr.args.size ∧ tr.pos + 32 ≤ tr.args.size ∧
     s0.traceLineOk tr.args.berth.toNat (tr.args.paBase + tr.pos % tr.args.size) = true ∧
     tierRangeOk tr.args.berth.toNat (tr.args.paBase + tr.pos % tr.args.size) 32 = true) := by
  decide +kernel

def anImage : SignedImage := { version := 3, digest := 1, ecdsaOk := true, lmsOk := true }

theorem met_FleetEvents :
    (s0.power.allows 1600 = true ∧ s0.power.holdH ≤ 48 ∧ s0.power.samples.headD 0 ≤ 1500) ∧
    (let p : Power := { s0.power with samples := 1600 :: List.replicate 98 700 }
     p.allows 700 = true ∧ 1500 < p.samples.headD 0) ∧
    (let p : Power := { s0.power with samples := List.replicate 100 700, capWatts := 600 }
     p.allows 650 = true ∧ p.samples.headD 0 ≤ 1500 ∧ 100 ≤ (650 :: p.samples).length ∧
     100 * p.cap < ((650 :: p.samples).take 100).sum) ∧
    (s0.mgmt.recovery = false ∧ s0.sessions.length < 64) ∧
    ((511 : Nat) < 512 ∧ ∃ x ∈ (withSess s0).sessions, x.spdm = 1 ∧ x.may 1 = true) ∧
    (let s : State := { s0 with mgmt := { s0.mgmt with keyPending := [(5, 9)] } }
     s.mgmt.keyPending.find? (fun x => x.1 == 5) = some (5, 9)) ∧
    (let s : State := { s0 with power := { s0.power with on := false } }
     s.power.on = false) ∧
    (anImage.ecdsaOk = true ∧ anImage.lmsOk = true ∧ s0.mgmt.floor ≤ anImage.version) ∧
    (s0.core? 1 = some (Core.atReset 1) ∧ (35 : Nat) < 36 ∧ (35 : Nat) ∉ (Core.atReset 1).failed) ∧
    (let k := { Core.atReset 1 with failed := [3] }
     let s : State := { s0 with cores := [k] }
     s.core? 1 = some k ∧ (3 : Nat) ∈ k.failed) ∧
    ((7 : Nat) < 8 ∧ 0 = s0.scrubPos.getD 7 0 ∧ 7 * stackLines + 0 ∉ s0.mem.poisoned ∧ lpddrPlace / 64 + 5 ∉ s0.mem.poisoned ∧
     (5 : Nat) ≠ s0.scrubPos.getD 7 0) ∧
    ((2 ^ 15 - 1 : Nat) < 2 ^ 15 ∧ (s0.refreshOf (2 ^ 15 - 1)).backOff = false) ∧
    (let s : State := { s0 with refresh := [{ bank := 4, owed := 7, backOff := true, lastAbo := none }] }
     (s.refreshOf 4).owed < 8 ∧ (s.refreshOf 4).backOff = true) := by
  decide +kernel

theorem met_LinkAndTimeEvents :
    s0.link? 0 = some (Link.atReset 0) ∧
    (let b := fun n : Nat => ({ seq := n, plane := 1, stamp := none, payload := [] } : Beat)
     let l := { Link.atReset 0 with replay := [b 9, b 10], resends := 15, accepted := List.replicate 3 (1, [7]) }
     let s : State := { s0 with links := [l] }
     let f : BeatFrame := { seq := 0, ack := 9, plane := 1, payload := [1], crcOk := true, stamp := none }
     s.link? 0 = some l ∧ f.crcOk = true ∧ l.retraining = false ∧ f.seq = l.expect ∧ l.replay = [] ++ b 9 :: [b 10] ∧
     4 ≤ ((l.accepted ++ [(f.plane, f.payload)]).filter fun x => x.1 == f.plane).length ∧
     ((l.accepted ++ [((2 : BitVec 2), f.payload)]).filter fun x => x.1 == 2).length < 4 ∧
     (∀ x ∈ ([] : List Beat), x.seq ≠ f.ack) ∧ l.replay ≠ [] ∧ l.resends < 16 ∧ 16 ≤ { l with resends := 16 }.resends ∧
     l.replay.length < 2048 ∧ l.lastStamp = none ∧ ({ f with seq := 7, ack := 5 } : BeatFrame).seq ≠ l.expect ∧
     (∀ x ∈ l.replay, x.seq ≠ ({ f with ack := 5 } : BeatFrame).ack) ∧ ({ f with crcOk := false } : BeatFrame).crcOk = false ∧
     ({ f with stamp := some 7 } : BeatFrame).stamp = some 7) ∧
    (let s : State := { s0 with links := [{ Link.atReset 0 with retraining := true }, Link.atReset 15]
                                routing := { s0.routing with spares := [(0, 15)] } }
     s.link? 0 = some { Link.atReset 0 with retraining := true } ∧ s.carrier 0 = some (Link.atReset 15)) ∧
    (let s : State := { s0 with hall := { s0.hall with root := some 3, rootPath := true }, routing := { self := 0, routes := [(0, 3, [0])], spares := [] } }
     (Link.atReset 0).retraining = false ∧ s.hall.root = some 3 ∧ (3 : Nat) ≠ s.routing.self ∧ s.routing.joins 3 = true ∧
     s.followsLinks = true ∧ s.rootLost = false) ∧
    (let s : State := { s0 with hall := { s0.hall with tb := 5 * 2 ^ 36, root := some 3, rootPath := true }
                                routing := { self := 0, routes := [(0, 3, [0])], spares := [] }
                                links := [{ Link.atReset 0 with retraining := true, tb := 5 * 2 ^ 36 }] }
     s.followsLinks = true ∧ s.rootLost = true) ∧
    (let l := { Link.atReset 0 with tb := 2 ^ 36 + 7, lastStamp := some 7 }
     ∀ v, l.lastStamp = some v → v + 2 ^ 36 ≤ l.tb) ∧
    s0.followsLinks = false ∧ s0.ptpDomainIs 0 = true ∧
    (let s : State := { s0 with hall := { s0.hall with goodSyncs := 15 } }
     s.hall.lock = false ∧ (-3 : Int) < 0 ∧ (-3 : Int).natAbs ≤ 4 ∧ min 16 (s.hall.goodSyncs + 1) = 16) ∧
    (let s : State := { s0 with hall := { s0.hall with lock := true } }
     s.hall.lock = true ∧ (4 : Nat) < (-5 : Int).natAbs ∧ (-4 : Int).natAbs ≤ 4) := by
  decide +kernel


/-- A state with bytes in global memory, in a partition and in a sill. -/
def storedS : State := { mapS fun r => { r with scratch := [(5, 7), (9, 1)], sills := [[(3, 4)], [], [], []] } with power := s0.power }

theorem met_StepKeepsStoresCanonical : Safety.StoresWf storedS ∧ ends (step storedS) (fun _ => true) = true := by
  refine ⟨?_, by decide +kernel⟩
  unfold Safety.StoresWf Safety.RoomWf
  decide +kernel

/-- Package reset: every byte of memory reads 0, no room runs and every core counts from 0. -/
theorem test_reset : State.reset.gByte 4 0 = 0 ∧ State.reset.me.life = .absent ∧ State.reset.cores.length = 128 ∧
    (∀ k ∈ State.reset.cores, k.tb = 0) := by decide +kernel

end Sys2Proof.Tests
end

section
/-! PROOFS. The timebase (R43 to R46, O7), what reset leaves (O8). -/

namespace Sys2Proof.Machine

/-! ### The copies of TB in a core cycle (R43)

Only the start of a core cycle moves a copy of TB; dealing the turns of the cores leaves every one of them alone. -/

/-- Every copy of TB, with the servo's registers of the hall. -/
def State.timebases (s : State) : HallTime × List Nat × List Link × List (Nat × Nat) :=
  (s.hall, s.lockTb, s.links, s.cores.map fun k => (k.num, k.tb))

/-- What both branches of a choice leave alone the choice does. -/
theorem apply_ite_eq {α β : Type} (e : α → β) {c : Prop} [Decidable c] {x y : α} {b : β} (hx : e x = b) (hy : e y = b) :
    e (if c then x else y) = b := by
  split
  · exact hx
  · exact hy

theorem State.count_timebases (s : State) (n k : Nat) : (s.count n k).timebases = s.timebases := by
  simp [State.timebases]

theorem State.post_timebases (s : State) (e : Event) : (s.post e).timebases = s.timebases := by
  simp [State.timebases]

theorem State.onRoom_timebases (s : State) (r : RoomId) (f : Room → Room) : (s.onRoom r f).timebases = s.timebases := by
  simp [State.timebases]

theorem State.onCore_timebases (s : State) (n : Nat) (f : Core → Core) (hf : ∀ k, (f k).num = k.num ∧ (f k).tb = k.tb) :
    (s.onCore n f).timebases = s.timebases := by
  have hk : ((mapIf (fun k : Core => k.num == n) f s.cores).map fun k => (k.num, k.tb)) =
      s.cores.map fun k => (k.num, k.tb) := by
    simp only [mapIf, List.map_map]
    refine List.map_congr_left fun k _ => ?_
    obtain ⟨hnum, htb⟩ := hf k
    simp only [Function.comp_apply]
    split <;> simp [hnum, htb]
  simp only [State.timebases, State.onCore_hall, State.onCore_lockTb, State.onCore_links]
  exact congrArg (fun x => (s.hall, s.lockTb, s.links, x)) hk

theorem State.switch_timebases (s : State) (core from_ : Nat) : (s.switch core from_).timebases = s.timebases := by
  have latched (r : Room) : (match (s.coreOf core).resident with
      | some i => if i = r.id then s else s.onRoom i Room.latchAll
      | none => s).timebases = s.timebases := by
    split
    · exact apply_ite_eq State.timebases rfl (s.onRoom_timebases _ _)
    · rfl
  have pass (u : State) (r : Room) : (u.onCore core fun k => { k with resident := some r.id }).timebases = u.timebases :=
    u.onCore_timebases core (fun k => { k with resident := some r.id }) fun _ => ⟨rfl, rfl⟩
  unfold State.switch
  dsimp only
  split
  · exact (pass _ _).trans (latched _)
  · split
    · exact (pass _ _).trans (latched _)
    · rfl

theorem State.ensure_timebases (s : State) (core : Nat) : (s.ensure core).timebases = s.timebases := by
  unfold State.ensure
  split
  · rfl
  · split
    · exact apply_ite_eq State.timebases rfl (s.switch_timebases _ _)
    · rfl

theorem State.chargeCycle_timebases (s : State) (core : Nat) (x : DWord × Nat) :
    (s.chargeCycle core x).timebases = s.timebases := by
  have hc := s.count_timebases (coreCounter core x.2) 1
  refine apply_ite_eq State.timebases ?_ hc
  exact (State.onCore_timebases _ core (fun k => { k with macct := chargeMacct k.macct x.1 x.2 }) fun _ => ⟨rfl, rfl⟩).trans hc

theorem State.countHeld_timebases (s : State) (core : Nat) (r : Option Room) (power : Bool) :
    (s.countHeld core r power).timebases = s.timebases := by
  cases r with
  | none => exact s.chargeCycle_timebases _ _
  | some r =>
    refine (State.chargeCycle_timebases _ _ _).trans ?_
    exact apply_ite_eq State.timebases rfl (s.count_timebases _ _)

theorem State.coreTurns_timebases (s : State) (core : Nat) : (s.coreTurns core).timebases = s.timebases := by
  unfold State.coreTurns
  cases s.core? core with
  | none => rfl
  | some k => exact apply_ite_eq State.timebases rfl (State.countHeld_timebases _ _ _ _)

theorem State.fireDie_timebases (s : State) (t die : Nat) : (s.fireDie t die).timebases = s.timebases :=
  apply_ite_eq State.timebases rfl (apply_ite_eq State.timebases rfl rfl)

theorem State.triggerDies_timebases (s : State) : s.triggerDies.timebases = s.timebases := by
  unfold State.triggerDies
  split
  · rfl
  · exact foldl_aside State.timebases _ (fun s die => s.fireDie_timebases _ die) _ s

theorem State.errEvent_timebases (s : State) (die : Nat) : (s.errEvent die).timebases = s.timebases :=
  apply_ite_eq State.timebases rfl (s.post_timebases _)

/-- After the advance of time nothing in the start of a core cycle moves a copy of TB. -/
theorem State.tick_timebases (s : State) : s.tick.timebases = s.advanceTime.timebases :=
  calc s.tick.timebases
    _ = (State.ensureAll _ _).timebases := foldl_aside State.timebases _ State.coreTurns_timebases _ _
    _ = s.advanceTime.triggerDies.errEvents.timebases := foldl_aside State.timebases _ State.ensure_timebases _ _
    _ = s.advanceTime.triggerDies.timebases := foldl_aside State.timebases _ State.errEvent_timebases _ _
    _ = s.advanceTime.timebases := s.advanceTime.triggerDies_timebases

theorem State.tick_frame (s : State) :
    s.tick.hall = s.advanceTime.hall ∧ s.tick.lockTb = s.advanceTime.lockTb ∧ s.tick.links = s.advanceTime.links ∧
    (s.tick.cores.map fun k => (k.num, k.tb)) = s.advanceTime.cores.map fun k => (k.num, k.tb) := by
  simpa only [State.timebases, Prod.mk.injEq] using s.tick_timebases

/-- With power on, no event and no room's turn left, a step is the start of a core cycle. -/
theorem step_tick {s : State} (hp : s.power.on = true) (ha : s.agenda = []) (hq : s.queue = []) : step s = .next s.tick := by
  simp [step, State.advanceAll, hp, ha, hq]

/-! ### How far a core cycle moves TB (R43, R46) -/

/-- R43: with nothing held back and no lock the hall makes the servo's step. -/
theorem State.hallNext_free {s : State} (hl : s.hall.lock = false) (hh : s.hall.hold = 0) (ref : Nat) :
    s.hallNext ref = s.hall.tb + ((Config.tbStep : Int) + s.hall.rate).toNat := by
  simp [State.hallNext, hl, hh]

/-- R46: while LOCK = 1 the hall does not go back, and ends the cycle within its bound of a reference that it was within its
bound of and that has not gone back either. -/
theorem State.hallNext_bounded {s : State} {ref : Nat} (hl : s.hall.lock = true) (href : s.hall.ref ≤ ref)
    (hb : s.hall.tb ≤ s.hall.ref + s.hallBound) :
    s.hall.tb ≤ s.hallNext ref ∧ ref ≤ s.hallNext ref + s.hallBound ∧ s.hallNext ref ≤ ref + s.hallBound := by
  simp only [State.hallNext, hl, if_true]
  omega

/-- R43, R46: the advance of time takes the hall to `hallNext` of a reference that has not gone back. -/
theorem State.advanceTime_hall (s : State) :
    s.advanceTime.hall.tb = s.hallNext s.advanceTime.hall.ref ∧ s.hall.ref ≤ s.advanceTime.hall.ref :=
  ⟨rfl, Nat.le_add_right _ _⟩

theorem HallTime.aligning_none {h : HallTime} (hr : h.realign = none) (hw : h.realignAway = []) (dist : Nat) :
    h.aligning dist = false := by
  simp [HallTime.aligning, hr, hw]

/-- R43: without a correction, a lock, or a realignment every copy of TB moves by the nominal step. -/
theorem State.advanceTime_nominal {s : State} (hr : s.hall.rate = 0) (hh : s.hall.hold = 0) (hl : s.hall.lock = false)
    (ha : ∀ dist, s.hall.aligning dist = false) :
    s.advanceTime.hall.tb = s.hall.tb + 34493 ∧ s.advanceTime.lockTb = s.lockTb.map (· + 34493) ∧
    s.advanceTime.links = (s.links.map fun l => { l with tb := l.tb + 34493 }) ∧
    (s.advanceTime.cores.map fun k => (k.num, k.tb)) = s.cores.map fun k => (k.num, k.tb + 34493) := by
  have hn (ref : Nat) : s.hallNext ref = s.hall.tb + 34493 := by
    rw [State.hallNext_free hl hh, hr]; rfl
  simp [State.advanceTime, hn, ha]

/-- Settles O7: the advance of time moves every copy, and the rest of the core cycle moves none. -/
theorem coreCycleAdvancesTime : Obligations.CoreCycleAdvancesTime := by
  unfold Obligations.CoreCycleAdvancesTime
  constructor
  · intro s hp ha hq hrate hhold hl hre haway
    obtain ⟨hhall, hlock, hlinks, hcores⟩ := State.advanceTime_nominal hrate hhold hl (HallTime.aligning_none hre haway)
    obtain ⟨thall, tlock, tlinks, tcores⟩ := s.tick_frame
    refine ⟨_, step_tick hp ha hq, ?_, ?_, ?_, ?_⟩
    · rw [thall, hhall]
    · rw [tlock, hlock]
    · rw [tlinks, hlinks, List.map_map]; rfl
    · rw [tcores, hcores]
  · intro s hp ha hq hl bound _ hb
    obtain ⟨thall, -⟩ := s.tick_frame
    obtain ⟨htb, href⟩ := s.advanceTime_hall
    refine ⟨_, step_tick hp ha hq, ?_⟩
    rw [thall, htb]
    exact State.hallNext_bounded hl href hb

/-! ### Reset -/

/-- No core of the reset state is aligned, nor is the one that stands for a core that is not there. -/
theorem reset_coreOf (n : Nat) : (State.reset.coreOf n).aligned = false := by
  unfold State.coreOf State.core?
  cases h : State.reset.cores.find? fun k => k.num == n with
  | none => rfl
  | some k =>
    obtain ⟨m, -, rfl⟩ := List.mem_map.1 (List.mem_of_find?_eq_some h)
    rfl

/-- R44: TBSTAT is 0 on every core after reset. -/
theorem reset_tbstat (n : Nat) : State.reset.tbstat n = 0 := by
  unfold State.tbstat
  rw [reset_coreOf]
  rfl

/-- Settles O8: each core, lockhouse and link of the reset state is one at its reset value. -/
theorem resetLeaves : Obligations.ResetLeaves := by
  unfold Obligations.ResetLeaves
  have hcore : ∀ k ∈ State.reset.cores, k.tb = 0 ∧ k.aligned = false ∧ k.resident = none := by
    intro k hk
    obtain ⟨n, -, rfl⟩ := List.mem_map.1 hk
    exact ⟨rfl, rfl, rfl⟩
  have hlock : ∀ x ∈ State.reset.lockTb, x = 0 := fun x hx => List.eq_of_mem_replicate hx
  have hlink : ∀ l ∈ State.reset.links, l.tb = 0 := by
    intro l hl
    obtain ⟨n, -, rfl⟩ := List.mem_map.1 hl
    rfl
  exact ⟨rfl, hcore, hlock, rfl, hlink, rfl, rfl, rfl, rfl, rfl, rfl, rfl, rfl, rfl, reset_tbstat⟩

end Sys2Proof.Machine
end

section
/-! PROOFS. Admission, retirement, context save and dumps of a team (R15, R370 to R373, R376, R397: O56). -/

namespace Sys2Proof.Machine

/-! ### Lists changed member by member -/

/-- A change of members that keeps what is sought finds the member sought, changed. -/
theorem find?_mapIf_keeps {α : Type} {p q : α → Bool} {f : α → α} (hf : ∀ y, p (f y) = p y) (l : List α) :
    (mapIf q f l).find? p = (l.find? p).map fun y => if q y then f y else y := by
  have hp : (p ∘ fun y => if q y then f y else y) = p := by
    funext y
    simp only [Function.comp_apply]
    split
    · exact hf y
    · rfl
  rw [mapIf, List.find?_map, hp]

theorem State.team?_onTeam {s : State} {sub : Nat} {f : Team → Team} {tm : Team} (h : s.team? sub = some tm)
    (hf : ∀ y, (f y).sub = y.sub) : (s.onTeam sub f).team? sub = some (f tm) := by
  have hs : tm.sub = sub := by simpa using List.find?_some h
  have hl : (s.onTeam sub f).team? sub = (s.team? sub).map fun y => if y.sub == sub then f y else y :=
    find?_mapIf_keeps (fun y => by rw [hf y]) _
  rw [hl, h]
  simp [hs]

/-! ### Which launches are eligible (R371) -/

/-- The teams after a refresh of eligibility are those before it, each with its number and where it stands. -/
theorem State.mem_refreshEligible {s : State} {v : Team} (h : v ∈ s.refreshEligible.teams) :
    ∃ w ∈ s.teams, v.sub = w.sub ∧ v.state = w.state := by
  obtain ⟨w, hw, rfl⟩ := List.mem_map.1 h
  refine ⟨w, hw, ?_⟩
  split <;> exact ⟨rfl, rfl⟩

theorem State.team?_refreshEligible {s : State} {sub : Nat} {tm : Team} (h : s.team? sub = some tm) :
    ∃ u, s.refreshEligible.team? sub = some u ∧ u.state = tm.state := by
  unfold State.team? at h ⊢
  simp only [State.refreshEligible]
  rw [find?_mapIf_keeps, h]
  · exact ⟨_, rfl, apply_ite_eq Team.state rfl rfl⟩
  · exact fun _ => rfl

/-! ### Events in a ring with a free slot (R416) -/

/-- Where a slot is free and no event was lost, an event is posted after those before it. -/
theorem State.post_events_free {s : State} {g : EventRing} (e : Event) (hg : s.ring = some g) (hf : g.free = true)
    (hl : g.lost = 0) : (s.post e).events = s.events ++ [e] := by
  have h : s.postLost = s := by simp [State.postLost, hg, hl]
  simp [State.post, h, hg, hf, State.writeRing]

theorem State.post_rooms (s : State) (e : Event) : (s.post e).rooms = s.rooms := by simp [State.rooms]

/-! ### What the hall's reads at an admission leave alone (R366) -/

theorem hallWalks_readAside (s : State) (asid va n : Nat) : (s.hallWalks asid va n).readAside = s.readAside :=
  foldl_aside State.readAside _ (fun s _ => walkClock_readAside s _ _ _) _ s

theorem hallMeets_readAside (s : State) (asid va n : Nat) : (s.hallMeets asid va n).readAside = s.readAside :=
  (discover_readAside _ _).trans ((clockReplies_readAside _ _ _).trans (hallWalks_readAside s _ _ _))

theorem runsMeet_readAside (s : State) (asid : Nat) (l : List (Nat × Nat)) : (s.runsMeet asid l).readAside = s.readAside :=
  foldl_aside State.readAside _ (fun s _ => hallMeets_readAside s _ _ _) l s

theorem rooms_of_readAside {s t : State} (h : s.readAside = t.readAside) :
    s.me = t.me ∧ s.others = t.others ∧ s.loads = t.loads := by
  have hme := congrArg State.me h
  have hothers := congrArg State.others h
  have hloads := congrArg State.loads h
  exact ⟨hme, hothers, hloads⟩

/-- The reads at the admission of a queued team leave every room and load alone. -/
theorem admissionMeets_rooms (s : State) {t : Team} (h : t.state = .queued) :
    (s.admissionMeets t).me = s.me ∧ (s.admissionMeets t).others = s.others ∧ (s.admissionMeets t).loads = s.loads := by
  have ha : s.admissionMeets t = s.preloadMeets t := by simp [State.admissionMeets, h]
  rw [ha]
  have h := rooms_of_readAside (runsMeet_readAside s t.asid (t.preloads.map fun p => (p.src, p.len)))
  exact h

/-! ### A room at its entry (R15, R365, R366) -/

/-- A room as its admission leaves it, whatever its preloads wrote: at its entry on its seat, with nothing in flight and every
register zero but a0. -/
structure AtEntry (t : Team) (o : LoadedObj) (q : Seat) (x : Room) : Prop where
  running : x.life = .running
  stop : x.stop = .none
  core : x.core = q.core
  team : x.id.team = t.sub
  lin : x.id.lin = q.lin
  loadH : x.loadH = t.launch.loadH
  aside : x.aside = none
  pc : x.ctx.pc = BitVec.ofNat 64 (o.lb + t.variant.entry)
  s : x.ctx.s = Vector.replicate 64 0
  m : x.ctx.m = Vector.replicate 64 0
  a : x.ctx.a = (Vector.replicate 16 0).set 0 (BitVec.ofNat 64 t.launch.argva)
  q : x.ctx.q = Vector.replicate 8 Quire.clear
  winb : x.ctx.winb = 0
  repc : x.ctx.repc = 0
  phase : x.ctx.phase = 0
  loops : x.ctx.loops = []
  landings : x.ctx.landings = []
  xq : x.ctx.xq = []
  wait : x.ctx.wait = .none
  tiles : x.tiles = []
  sills : x.sills = [[], [], [], []]

theorem AtEntry.written {t : Team} {o : LoadedObj} {q : Seat} {x : Room} (h : AtEntry t o q x) (scratch : List Host.Cell)
    (d : Vector DescWord 32) (poison : Bool) :
    AtEntry t o q { x with scratch := scratch, ctx := { x.ctx with d := d, poison := poison } } :=
  { h with }

theorem AtEntry.preloadRoom {t : Team} {o : LoadedObj} {q : Seat} {x : Room} (h : AtEntry t o q x) (s : State) (i : Nat)
    (p : Preload) : AtEntry t o q (s.preloadRoom x i p) := by
  unfold State.preloadRoom
  split
  · dsimp only
    split
    · exact h.written _ _ _
    · exact h.written _ _ _
  · exact h

theorem AtEntry.takeSnap {t : Team} {o : LoadedObj} {q : Seat} {x : Room} (h : AtEntry t o q x) : AtEntry t o q x.takeSnap :=
  { h with }

theorem AtEntry.preloads {t : Team} {o : LoadedObj} {q : Seat} (s : State) (l : List (Preload × Nat)) {x : Room}
    (h : AtEntry t o q x) : AtEntry t o q (l.foldl (fun r p => s.preloadRoom r p.2 p.1) x) := by
  induction l generalizing x with
  | nil => exact h
  | cons p l ih => exact ih (h.preloadRoom s p.2 p.1)

/-- R15: a room of a new team is at its entry. -/
theorem newRoom_atEntry (s : State) (t : Team) (o : LoadedObj) (q : Seat) : AtEntry t o q (s.newRoom t o q) := by
  unfold State.newRoom
  dsimp only
  split
  · exact (AtEntry.preloads s _ (by constructor <;> rfl)).takeSnap
  · exact AtEntry.preloads s _ (by constructor <;> rfl)

/-! ### The rooms of an admission (R15, R39, R371) -/

/-- A room at its entry has no `twait` to issue again. -/
theorem AtEntry.twaitAgain_eq {t : Team} {o : LoadedObj} {q : Seat} {x : Room} (h : AtEntry t o q x) (rooms : List Room)
    (team : Nat) : twaitAgain rooms team x = x := by
  unfold twaitAgain
  dsimp only
  split
  · simp only [h.wait, h.aside, Option.map_none, Bool.false_eq_true, if_false]
    rw [← h.aside]
  · rfl

theorem AtEntry.failedAgain_eq {t : Team} {o l : LoadedObj} {q : Seat} {x : Room} (h : AtEntry t o q x) {s : State}
    (hl : s.load? t.launch.loadH = some l) (hf : l.failed = false) : s.failedAgain x = x := by
  simp [State.failedAgain, h.loadH, hl, hf]

theorem twaitAgain_other {rooms : List Room} {team : Nat} {x : Room} (h : x.id.team ≠ team) : twaitAgain rooms team x = x := by
  simp [twaitAgain, h]

/-- R15: the rooms of a queued team are new, and none met an uncorrectable word. -/
theorem admittedRooms_queued {s : State} {t : Team} {o : LoadedObj} (map : List Placing) (ht : t.state = .queued)
    (ho : s.load? t.launch.loadH = some o) :
    s.admittedRooms t map = map.map fun p => (s.newRoom t o (seatOf map t.launch.spsize p), false) := by
  simp [State.admittedRooms, ho, ht]

/-- Giving the cores of a map their first rooms changes cores and clocks only. -/
theorem seatResidents_rooms (rooms : List Room) (cores : List Nat) (s : State) :
    let u := cores.foldl (fun s c => (s.seatResident rooms c).clockMsg hallAgent (floorOf c)) s
    u.me = s.me ∧ u.others = s.others ∧ u.mem = s.mem := by
  have h := foldl_aside (fun s : State => (s.me, s.others, s.mem))
    (fun s c => (s.seatResident rooms c).clockMsg hallAgent (floorOf c)) (fun _ _ => rfl) cores s
  simpa only [Prod.mk.injEq] using h

/-- R39, R371: an admission whose rooms are all sound adds them to the rooms there. -/
theorem admitRooms_sound {s u : State} {t : Team} {map : List Placing} {l : List Room}
    (hu : u = State.admissionMeets (s.seatCores map) t) (hm : u.admittedRooms t map = l.map fun x => (x, false))
    (hs : ∀ x ∈ l, x.stop = .none) :
    (s.admitRooms t map).mem = u.mem ∧ (s.admitRooms t map).me = u.me ∧
    (s.admitRooms t map).others = (u.others ++ l.map u.failedAgain).map (twaitAgain (l.map u.failedAgain) t.sub) := by
  have h1 : ((l.map fun x => (x, false)).filter fun x : Room × Bool => x.1.stop == .refused) = [] := by
    simp only [List.filter_eq_nil_iff, List.forall_mem_map]
    intro x hx
    simp [hs x hx]
  have h2 : ((l.map fun x => (x, false)).filter Prod.snd : List (Room × Bool)) = [] := by
    simp [List.filter_eq_nil_iff]
  have h3 : ((l.map fun x => (x, false)).map fun x : Room × Bool => u.failedAgain x.1) = l.map u.failedAgain := by
    simp
  unfold State.admitRooms
  dsimp only
  rw [← hu, hm, h1, h2, h3]
  obtain ⟨hme, hothers, hmem⟩ := seatResidents_rooms (l.map u.failedAgain) ((map.map fun p => p.core).eraseDups)
    (State.takeBack { u with others := (u.others ++ l.map u.failedAgain).map (twaitAgain (l.map u.failedAgain) t.sub)
                             free := u.free + 256 * 65536 * preloadDraws })
  exact ⟨hmem, hme, hothers⟩

/-- R47, R358: beside rooms of other teams, rooms at their entry under a sound load stay as they are. -/
theorem entering_rooms {u : State} {t : Team} {o : LoadedObj} {old new : List Room} (ho : u.load? t.launch.loadH = some o)
    (hf : o.failed = false) (hold : ∀ x ∈ old, x.id.team ≠ t.sub) (hnew : ∀ x ∈ new, ∃ q, AtEntry t o q x) :
    (old ++ new.map u.failedAgain).map (twaitAgain (new.map u.failedAgain) t.sub) = old ++ new := by
  have hfail : new.map u.failedAgain = new := by
    refine (List.map_congr_left fun x hx => ?_).trans (List.map_id _)
    obtain ⟨q, hq⟩ := hnew x hx
    exact hq.failedAgain_eq ho hf
  have hwait : ∀ x ∈ old ++ new, twaitAgain new t.sub x = x := by
    intro x hx
    rcases List.mem_append.1 hx with hx | hx
    · exact twaitAgain_other (hold x hx)
    · obtain ⟨q, hq⟩ := hnew x hx
      exact hq.twaitAgain_eq new t.sub
  rw [hfail]
  exact (List.map_congr_left hwait).trans (List.map_id _)

/-- R15: the admission of a queued team adds its new rooms, and leaves every other room alone. -/
theorem admitRooms_queued {s : State} {t : Team} {o : LoadedObj} (map : List Placing) (ht : t.state = .queued)
    (ho : s.load? t.launch.loadH = some o) (hf : o.failed = false) (hn : ∀ x ∈ s.others, x.id.team ≠ t.sub) :
    let u := State.admissionMeets (s.seatCores map) t
    (s.admitRooms t map).mem = u.mem ∧ (s.admitRooms t map).me = s.me ∧
    (s.admitRooms t map).others = s.others ++ map.map fun q => u.newRoom t o (seatOf map t.launch.spsize q) := by
  intro u
  obtain ⟨ume, uothers, uloads⟩ := admissionMeets_rooms (s.seatCores map) ht
  have uo : u.load? t.launch.loadH = some o := (congrArg (List.find? _) uloads).trans ho
  have un : ∀ x ∈ u.others, x.id.team ≠ t.sub := fun x hx => hn x (uothers ▸ hx)
  have hentry : ∀ x ∈ map.map fun q => u.newRoom t o (seatOf map t.launch.spsize q), ∃ q, AtEntry t o q x := by
    intro x hx
    obtain ⟨q, -, rfl⟩ := List.mem_map.1 hx
    exact ⟨_, newRoom_atEntry u t o _⟩
  have hmade : u.admittedRooms t map =
      (map.map fun q => u.newRoom t o (seatOf map t.launch.spsize q)).map fun x => (x, false) := by
    rw [admittedRooms_queued map ht uo, List.map_map]; rfl
  obtain ⟨tmem, tme, tothers⟩ := admitRooms_sound rfl hmade fun x hx => (hentry x hx).elim fun _ h => h.stop
  refine ⟨tmem, tme.trans ume, ?_⟩
  rw [tothers, entering_rooms uo hf un hentry]
  exact congrArg (· ++ _) uothers

/-! ### The round (R371 to R373) -/

/-- R285, R367: a candidate whose map may be had is admitted under it, or rejected when its schedule breaks R285. -/
theorem admissionRound_mapped {s : State} {offered map : List Placing} {t : Team} {cls : Nat} {p : Nat × Nat}
    (hd : s.roundDue = true) (hc : s.current = some (t, cls, p)) (ht : t.state = .queued) (ha : s.absentPage t = none)
    (hm : s.admissionMap t offered = some map) (hr : s.reserved map = true) :
    exec (.admissionRound offered) s = .next (if s.scheduleBad t.launch map then s.rejectTimed t
      else State.admitRooms { s with pointers := modAt (fun _ => p) cls s.pointers } t map) := by
  show execAdmissionRound offered s = _
  have hf : (s.admissionMap t offered).filter s.reserved = some map := by rw [hm, Option.filter_some, if_pos hr]
  simp only [execAdmissionRound, hd, hc, ha, hf, ht]
  rfl

theorem admissionRound_absent {s : State} {t : Team} {cls va : Nat} {p : Nat × Nat} (offered : List Placing)
    (hd : s.roundDue = true) (hc : s.current = some (t, cls, p)) (ha : s.absentPage t = some va) :
    exec (.admissionRound offered) s = .next (State.post { s with roundDue := false } (.preloadWait t.sub va)) := by
  show execAdmissionRound offered s = _
  simp [execAdmissionRound, hd, hc, ha]

theorem admissionRound_notDue {s : State} (offered : List Placing) (hd : s.roundDue = false) :
    exec (.admissionRound offered) s = .next s := by
  show execAdmissionRound offered s = _
  simp [execAdmissionRound, hd]

/-- R285, R367: a rejected launch is cancelled and reported, and no room or byte changes. -/
theorem rejectTimed_effect (s : State) (t : Team) :
    (s.rejectTimed t).mem = s.mem ∧ (s.rejectTimed t).rooms = s.rooms ∧
    (∀ v ∈ (s.rejectTimed t).teams, v.sub = t.sub → v.state = .cancelled) ∧
    ∀ g, s.ring = some g → g.free = true → g.lost = 0 → (s.rejectTimed t).events = s.events ++ [.reject 0x07 t.sub] := by
  refine ⟨State.post_mem _ _, State.post_rooms _ _, ?_, ?_⟩
  · intro v hv hs
    obtain ⟨w, hw, hsub, hstate⟩ := State.mem_refreshEligible hv
    rw [State.post_teams] at hw
    obtain ⟨y, -, rfl⟩ := List.mem_map.1 hw
    by_cases hy : y.sub = t.sub
    · simp [hstate, hy]
    · simp only [beq_iff_eq, hy, if_false] at hsub
      exact absurd (hsub.symm.trans hs) hy
  · intro g hg hf hl
    exact State.post_events_free (s := s.onTeam t.sub _) _ hg hf hl

/-! ### The end of a team (R370, R376) -/

/-- R370, R398: with no dump of it to be written, a team's rooms go. -/
theorem clearRooms_teamRooms {s : State} {team : Nat} (hd : ∀ d ∈ s.dumps, d.room.team ≠ team) :
    (s.clearRooms team).teamRooms team = [] := by
  have hgone (x : Room) (hx : x.id.team = team) : (s.dumps.any fun d => d.room == x.id) = false := by
    rw [List.any_eq_false]
    intro d hm he
    exact hd d hm (by rw [beq_iff_eq.1 he, hx])
  refine List.filter_eq_nil_iff.2 fun x hx => ?_
  obtain ⟨hmem, hlife⟩ := List.mem_filter.1 hx
  rw [beq_iff_eq]
  intro ht
  simp only [State.clearRooms, List.mem_cons, List.mem_map, List.mem_filter] at hmem
  rcases hmem with hme | ⟨y, ⟨-, hy⟩, hmark⟩
  · by_cases hm : s.me.id.team = team
    · simp [hm, hgone s.me hm] at hme
      simp [hme, Room.idle] at hlife
    · simp [hm] at hme
      exact hm (hme ▸ ht)
  · have hyt : y.id.team = team := by
      rw [← ht, ← hmark]
      split <;> rfl
    simp [hyt, hgone y hyt] at hy

theorem clockMsgs_frame (l : List Nat) (b : Nat) (s : State) :
    ∃ c, l.foldl (fun s a => s.clockMsg a b) s = { s with clocks := c } := by
  induction l generalizing s with
  | nil => exact ⟨_, rfl⟩
  | cons a l ih => exact ih (s.clockMsg a b)

/-- R370: a team retired, with its rooms taken off their cores. -/
def State.retireTeam (s : State) (team : Nat) : State :=
  (s.clearRooms team).onTeam team fun t => { t with state := .retired }

theorem State.retireTeam_team? {s : State} {team : Nat} {tm : Team} (h : s.team? team = some tm) :
    (s.retireTeam team).team? team = some { tm with state := .retired } :=
  State.team?_onTeam (s := s.clearRooms team) h fun _ => rfl

theorem State.retireTeam_teamRooms {s : State} {team : Nat} (hd : ∀ d ∈ s.dumps, d.room.team ≠ team) :
    (s.retireTeam team).teamRooms team = [] :=
  clearRooms_teamRooms hd

/-- R370: TEAM_RETIRE retires a team that has halted, up to the clocks of its messages; one that was asked to stop is
reported (R376). -/
theorem teamRetire_halted {s : State} {team : Nat} {tm : Team} (ht : s.team? team = some tm)
    (hs : tm.state = .admitted ∨ ∃ m, tm.state = .stopping m) (hn : s.teamRooms team ≠ [])
    (hq : ∀ x ∈ s.teamRooms team, x.life = .halted ∧ x.ctx.xq = []) :
    ∃ c u, exec (.teamRetire team) s = .next u.refreshEligible ∧
      (u = State.retireTeam { s with clocks := c } team ∨
        u = (State.retireTeam { s with clocks := c } team).post (.retired team)) := by
  have hquiet : s.quietTeam team = true := by
    simp only [State.quietTeam, List.all_eq_true]
    intro x hx
    obtain ⟨hl, he⟩ := hq x hx
    simp [hl, he]
  have hne : (s.teamRooms team).isEmpty = false := by simpa using hn
  obtain ⟨c, hc⟩ := clockMsgs_frame ((s.teamRooms team).map fun r => r.agent).eraseDups hallAgent s
  show ∃ c u, execTeamRetire team s = _ ∧ _
  rcases hs with hs | ⟨m, hs⟩
  · refine ⟨c, _, ?_, .inl rfl⟩
    simp [execTeamRetire, State.retireTeam, ht, hs, hne, hquiet, hc]
  · refine ⟨c, _, ?_, .inr rfl⟩
    simp [execTeamRetire, State.retireTeam, ht, hs, hne, hquiet, hc]

/-- R370: a team whose rooms have halted with empty queues retires, and its rooms go. -/
theorem teamRetire_effect {s : State} {team : Nat} {tm : Team} (ht : s.team? team = some tm)
    (hs : tm.state = .admitted ∨ ∃ m, tm.state = .stopping m) (hn : s.teamRooms team ≠ [])
    (hq : ∀ x ∈ s.teamRooms team, x.life = .halted ∧ x.ctx.xq = []) :
    ∃ t, exec (.teamRetire team) s = .next t ∧ t.mem = s.mem ∧ (∃ u, t.team? team = some u ∧ u.state = .retired) ∧
      ((∀ d ∈ s.dumps, d.room.team ≠ team) → t.teamRooms team = []) := by
  obtain ⟨c, u, hu, hr⟩ := teamRetire_halted ht hs hn hq
  have hframe : u.mem = s.mem ∧ u.teams = (State.retireTeam { s with clocks := c } team).teams ∧
      u.rooms = (State.retireTeam { s with clocks := c } team).rooms := by
    rcases hr with rfl | rfl
    · exact ⟨rfl, rfl, rfl⟩
    · exact ⟨State.post_mem _ _, State.post_teams _ _, State.post_rooms _ _⟩
  obtain ⟨hmem, hteams, hrooms⟩ := hframe
  have hteam : u.team? team = some { tm with state := .retired } :=
    (congrArg (List.find? _) hteams).trans (State.retireTeam_team? (s := { s with clocks := c }) ht)
  refine ⟨_, hu, hmem, State.team?_refreshEligible hteam, fun hd => ?_⟩
  exact (congrArg (List.filter _) hrooms).trans (State.retireTeam_teamRooms (s := { s with clocks := c }) hd)

/-- R376: a stopped team whose rooms are quiet and owe no collective is suspended once its rooms are saved. -/
theorem contextSave_made {s u : State} {team : Nat} {tm : Team} {m : PreemptMode} {l : List Room} (ht : s.team? team = some tm)
    (hs : tm.state = .stopping m) (hn : s.teamRooms team ≠ []) (hd : ∀ d ∈ s.dumps, d.room.team ≠ team)
    (hq : ∀ x ∈ s.teamRooms team, x.stoppedForSave = true ∧ s.roomQuiesced (s.spansFloors team) x = true)
    (hc : s.spansFloors team = true → ∀ x ∈ s.teamRooms team, ∀ e ∈ x.ctx.xq, isCollOp e.op = true → s.missingMembers x e = [])
    (hu : s.saveRooms tm m (s.teamRooms team) = (u, .made, l)) :
    exec (.contextSave team) s = .next ((u.clearRooms team).onTeam team fun t =>
      { t with state := .suspended, saved := l, eligibleAt := some s.hall.tb }) := by
  have hne : (s.teamRooms team).isEmpty = false := by simpa using hn
  have hdump : (s.dumps.any fun d => d.room.team == team) = false := by
    rw [List.any_eq_false]
    exact fun d hm he => hd d hm (beq_iff_eq.1 he)
  have hstop : (s.teamRooms team).all Room.stoppedForSave = true := List.all_eq_true.2 fun x hx => (hq x hx).1
  have hquiet : (s.teamRooms team).all (s.roomQuiesced (s.spansFloors team)) = true :=
    List.all_eq_true.2 fun x hx => (hq x hx).2
  have hpartial : (s.spansFloors team && !((s.teamRooms team).flatMap fun r =>
      (r.ctx.xq.filter fun e => isCollOp e.op).flatMap fun e => s.missingMembers r e).isEmpty) = false := by
    cases hf : s.spansFloors team with
    | false => rfl
    | true =>
      simp only [Bool.true_and, Bool.not_eq_false', List.isEmpty_iff, List.flatMap_eq_nil_iff, List.mem_filter]
      exact fun x hx e he => hc hf x hx e he.1 he.2
  show execContextSave team s = _
  simp [execContextSave, ht, hs, hne, hdump, hstop, hquiet, hpartial, hu]

/-! ### Dumps (R397, R398) -/

theorem dumpComplete_writes {s : State} {d : Dump} {rest : List Dump} {x : Room} (hd : s.dumps = d :: rest)
    (hx : s.room? d.room = some x) (hl : x.life ≠ .ended) (hh : s.dumpHeld = false) :
    exec .dumpComplete s = .next (State.post { (s.writeDump d x).1 with dumps := rest }
      (.dumpDone d.room (s.writeDump d x).2.1 (s.writeDump d x).2.2)) := by
  show execDumpComplete s = _
  simp [execDumpComplete, hd, hx, hl, hh]

theorem dumpComplete_gone {s : State} {d : Dump} {rest : List Dump} (hd : s.dumps = d :: rest) (hx : s.room? d.room = none) :
    exec .dumpComplete s = .next { s with dumps := rest } := by
  show execDumpComplete s = _
  simp [execDumpComplete, hd, hx]

/-- Settles O56: the outcome of each event by the branch of its rule that the hypotheses choose; a new room is at its entry
whatever its preloads wrote. -/
theorem teamEvents : Obligations.TeamEvents := by
  unfold Obligations.TeamEvents
  refine ⟨?_, ?_, ?_, ?_, ?_, ?_, ?_, ?_, ?_⟩
  · intro s offered map tm cls p o hdue hcur hq habs hmap hres hsched ho hf hn u
    refine ⟨_, ?_, admitRooms_queued (s := { s with pointers := modAt (fun _ => p) cls s.pointers }) map hq ho hf hn⟩
    rw [admissionRound_mapped hdue hcur hq habs hmap hres, hsched]
    rfl
  · intro s offered map tm cls p hdue hcur hq habs hmap hres hsched
    refine ⟨_, ?_, rejectTimed_effect s tm⟩
    rw [admissionRound_mapped hdue hcur hq habs hmap hres, hsched]
    rfl
  · intro s offered tm cls p va hdue hcur habs
    exact admissionRound_absent offered hdue hcur habs
  · intro s offered hdue
    exact admissionRound_notDue offered hdue
  · intro s tm o q x
    have h : AtEntry tm o q x := newRoom_atEntry s tm o q
    refine ⟨h.running, h.stop, h.core, h.team, h.lin, h.pc, h.s, h.m, ?_, ?_, rfl, ?_, h.winb, h.repc, h.phase, h.loops,
      h.landings, h.xq, h.wait, h.tiles, h.sills⟩
    · simp [h.a]
    · intro i hi
      have hne : 0 ≠ i.val := fun e => hi e.symm
      simp [h.a, hne]
    · intro i
      simp [h.q]
  · intro s team tm ht hs hn hq
    exact teamRetire_effect ht hs hn hq
  · intro s team tm m ht hs hn hd hq hc u l hu
    exact contextSave_made ht hs hn hd hq hc hu
  · intro s d rest x hd hx hl hh
    exact dumpComplete_writes hd hx hl hh
  · intro s d rest hd hx
    exact dumpComplete_gone hd hx

end Sys2Proof.Machine
end

section
/-! PROOFS. Fused chains of the quire: cut, accumulated in any order and merged (R78 to R87: O38). -/

namespace Sys2Proof.Machine

open Sys2Proof.Claims

/-! ### The states of two contributions (R79) -/

/-- R79: the STATE of two contributions together. -/
def QState.join (a b : QState) : QState := (a.combine b).1

@[simp] theorem QState.join_finite (a : QState) : a.join .finite = a := by cases a <;> rfl
@[simp] theorem QState.finite_join (a : QState) : QState.join .finite a = a := by cases a <;> rfl

theorem QState.join_eq_finite {a b : QState} : a.join b = .finite ↔ a = .finite ∧ b = .finite := by
  cases a <;> cases b <;> decide

theorem QState.join_assoc (a b c : QState) : (a.join b).join c = a.join (b.join c) := by
  cases a <;> cases b <;> cases c <;> rfl

theorem QState.join_comm (a b : QState) : a.join b = b.join a := by
  cases a <;> cases b <;> rfl

/-! ### Two quires of one class and scale together -/

/-- R79, R80: what a quire holds once p, of its class and scale, has joined it: the states combine, and the raw values add
while all is finite. -/
def Quire.join (q p : Quire) : Quire :=
  { q with state := q.state.join p.state, raw := if q.state.join p.state = .finite then q.raw + p.raw else 0 }

/-- A quire that is not finite holds no raw value (R79). -/
def Quire.Settled (q : Quire) : Prop := q.state ≠ .finite → q.raw = 0

/-- The finite quire of a class and a scale with value zero. -/
def Quire.zero (c : QCls) (sigma : Int) : Quire := { cls := c, sigma := sigma, state := .finite, raw := 0 }

theorem Quire.zero_settled (c : QCls) (sigma : Int) : (Quire.zero c sigma).Settled := fun h => absurd rfl h

theorem Quire.join_settled (q p : Quire) : (q.join p).Settled := fun h => if_neg h

theorem Quire.join_zero {q : Quire} (hq : q.Settled) (c : QCls) (sigma : Int) : q.join (Quire.zero c sigma) = q := by
  obtain ⟨cls, tau, st, raw⟩ := q
  simp only [Quire.join, Quire.zero, QState.join_finite, Int.add_zero, Quire.mk.injEq, true_and]
  exact ite_eq_left_iff.2 fun h => (hq h).symm

theorem Quire.zero_join {p : Quire} (hp : p.Settled) : (Quire.zero p.cls p.sigma).join p = p := by
  obtain ⟨cls, tau, st, raw⟩ := p
  simp only [Quire.join, Quire.zero, QState.finite_join, Int.zero_add, Quire.mk.injEq, true_and]
  exact ite_eq_left_iff.2 fun h => (hp h).symm

theorem Quire.join_assoc (q p r : Quire) : (q.join p).join r = q.join (p.join r) := by
  simp only [Quire.join, QState.join_assoc, Quire.mk.injEq, true_and]
  by_cases h : q.state.join (p.state.join r.state) = .finite
  · obtain ⟨hq, hpr⟩ := QState.join_eq_finite.1 h
    obtain ⟨hp, hr⟩ := QState.join_eq_finite.1 hpr
    simp [hq, hp, hr, Int.add_assoc]
  · simp [h]

theorem Quire.join_congr (q : Quire) {p r : Quire} (hs : p.state = r.state) (hv : p.raw = r.raw) : q.join p = q.join r := by
  rw [Quire.join, Quire.join, hs, hv]

theorem Quire.join_right_comm (q p r : Quire) : (q.join p).join r = (q.join r).join p := by
  have hs : (p.join r).state = (r.join p).state := QState.join_comm _ _
  have hv : (p.join r).raw = (r.join p).raw := by
    simp only [Quire.join, QState.join_comm p.state, Int.add_comm p.raw]
  rw [Quire.join_assoc, Quire.join_assoc, q.join_congr hs hv]

/-- The order in which contributions join a quire does not matter (R79, R80). -/
theorem Quire.foldl_join_perm {l m : List Quire} (h : l.Perm m) (q : Quire) : l.foldl Quire.join q = m.foldl Quire.join q :=
  haveI : RightCommutative Quire.join := ⟨Quire.join_right_comm⟩
  h.foldl_eq q

/-- Contributions that joined another quire first join with it. -/
theorem Quire.join_foldl (q p : Quire) (l : List Quire) : q.join (l.foldl Quire.join p) = l.foldl Quire.join (q.join p) := by
  induction l generalizing p with
  | nil => rfl
  | cons x l ih => rw [List.foldl_cons, ih, List.foldl_cons, Quire.join_assoc]

theorem Quire.foldl_join_settled {q : Quire} (hq : q.Settled) (l : List Quire) : (l.foldl Quire.join q).Settled := by
  induction l generalizing q with
  | nil => exact hq
  | cons x l ih => exact ih (q.join_settled x)

theorem Quire.foldl_join_form (q : Quire) (l : List Quire) :
    (l.foldl Quire.join q).cls = q.cls ∧ (l.foldl Quire.join q).sigma = q.sigma := by
  induction l generalizing q with
  | nil => exact ⟨rfl, rfl⟩
  | cons x l ih => exact ih (q.join x)

theorem Quire.join_raw_le (q p : Quire) : (q.join p).raw.natAbs ≤ q.raw.natAbs + p.raw.natAbs := by
  by_cases h : q.state.join p.state = .finite
  · simpa [Quire.join, h] using Int.natAbs_add_le q.raw p.raw
  · simp [Quire.join, h]

theorem Quire.foldl_join_raw_le (q : Quire) (l : List Quire) :
    (l.foldl Quire.join q).raw.natAbs ≤ q.raw.natAbs + (l.map fun p => p.raw.natAbs).sum := by
  induction l generalizing q with
  | nil => simp
  | cons x l ih =>
    have h1 := ih (q.join x)
    have h2 := q.join_raw_le x
    simp only [List.foldl_cons, List.map_cons, List.sum_cons]
    omega

/-! ### What one product contributes (R78 to R81) -/

/-- R81 holds every raw value below 2^(N+31) in magnitude. -/
theorem quireFits_of_natAbs_lt {c : QCls} {v : Int} (h : v.natAbs < 2 ^ (c.width + 31)) : quireFits c v = true := by
  simp only [quireFits, Bool.and_eq_true, decide_eq_true_eq]
  omega

theorem Quire.settle_of_natAbs_lt (q : Quire) {v : Int} (h : v.natAbs < 2 ^ (q.cls.width + 31)) :
    q.settle v = ({ q with raw := v }, Fl.none) := by
  simp [Quire.settle, quireFits_of_natAbs_lt h]

theorem Quire.close_of_natAbs_lt {q : Quire} (h : q.raw.natAbs < 2 ^ (q.cls.width + 31)) : q.close.1 = q := by
  unfold Quire.close
  split
  · rw [q.settle_of_natAbs_lt h]
  · rfl

theorem QCls.max_self (c : QCls) : c.max c = c := by simp [QCls.max]

theorem QCls.clear_max (c : QCls) : QCls.max .clear c = c := by cases c <;> rfl

theorem Quire.promote_self (q : Quire) : q.promote q.cls = q := by
  simp [Quire.promote, QCls.max_self]

theorem Quire.promote_clearAt (c : QCls) (sigma : Int) : (Quire.clearAt sigma).promote c = Quire.zero c sigma := by
  simp [Quire.promote, Quire.clearAt, Quire.clear, Quire.zero, QCls.clear_max]

/-- R78: a product either brings a STATE or is placed, whatever quire it is added to. -/
theorem Quire.gather_contributes (c : QCls) (a b : Val) :
    (∃ inc, ∀ q : Quire, (q.gather c a b).1 = ((q.promote c).withState inc).1) ∨
    ∃ neg m e, ∀ q : Quire, (q.gather c a b).1 = ((q.promote c).place neg m e).1 := by
  by_cases hs : (a.isSnan || b.isSnan) = true
  · exact .inl ⟨.invalid, fun q => by simp only [Quire.gather, hs, if_true]⟩
  cases a with
  | nan _ => exact .inl ⟨.invalid, fun _ => congrArg Prod.fst (if_neg hs)⟩
  | nar => cases b <;> exact .inl ⟨.invalid, fun q => by simp only [Quire.gather, hs]; rfl⟩
  | inf s =>
    cases b with
    | nan _ | nar | inf _ => exact .inl ⟨_, fun q => by simp only [Quire.gather, hs]; rfl⟩
    | fin t m e =>
      by_cases hm : m = 0
      · exact .inl ⟨.invalid, fun q => by simp only [Quire.gather, hm, if_true]; rfl⟩
      · exact .inl ⟨_, fun q => by simp only [Quire.gather, hm, if_false]; rfl⟩
  | fin s m e =>
    cases b with
    | nan _ | nar => exact .inl ⟨_, fun q => by simp only [Quire.gather, hs]; rfl⟩
    | inf t =>
      by_cases hm : m = 0
      · exact .inl ⟨.invalid, fun q => by simp only [Quire.gather, hm, if_true]; rfl⟩
      · exact .inl ⟨_, fun q => by simp only [Quire.gather, hm, if_false]; rfl⟩
    | fin t m' e' => exact .inr ⟨_, _, _, fun q => by simp only [Quire.gather, hs]; rfl⟩

theorem Quire.withState_fst (q : Quire) (inc : QState) : (q.withState inc).1 =
    if q.state.join inc = .finite then q else { q with state := q.state.join inc, raw := 0 } := rfl

theorem Quire.withState_zero (c : QCls) (sigma : Int) (inc : QState) :
    ((Quire.zero c sigma).withState inc).1 = { Quire.zero c sigma with state := inc } := by
  cases inc <;> rfl

theorem Quire.withState_eq_join (q : Quire) (inc : QState) :
    (q.withState inc).1 = q.join ((Quire.zero q.cls q.sigma).withState inc).1 := by
  rw [Quire.withState_zero, Quire.withState_fst]
  by_cases h : q.state.join inc = .finite
  · obtain ⟨cls, tau, st, raw⟩ := q
    obtain ⟨rfl, rfl⟩ := QState.join_eq_finite.1 h
    simp [Quire.join, Quire.zero]
  · simp [Quire.join, h]

/-- R80: the magnitude that a product m·2^e places in the body of a class and scale. -/
def Quire.placed (c : QCls) (sigma : Int) (m : Nat) (e : Int) : Nat :=
  let sh := e + c.w0 - sigma
  if 0 ≤ sh then m <<< sh.toNat else if (flog2 m : Int) + 1 < -sh then 0 else m >>> (-sh).toNat

/-- R80: the window rule leaves a product at least 31 bits below the top of the body. -/
def Quire.inWindow (c : QCls) (sigma : Int) (m : Nat) (e : Int) : Prop :=
  (flog2 m : Int) + (e + c.w0 - sigma) < (c.width : Int) - 31

theorem Quire.place_inWindow {q : Quire} (neg : Bool) {m : Nat} {e : Int} (hm : m ≠ 0)
    (hw : Quire.inWindow q.cls q.sigma m e) :
    let p := Quire.placed q.cls q.sigma m e
    (q.place neg m e).1 = if q.state = .finite then { q with raw := q.raw + if neg then -(p : Int) else p } else q := by
  simp only [Quire.place, hm, if_false, if_neg (Int.not_le.2 hw)]; rfl

theorem Quire.place_outside {q : Quire} (neg : Bool) {m : Nat} {e : Int} (hm : m ≠ 0)
    (hw : ¬ Quire.inWindow q.cls q.sigma m e) :
    (q.place neg m e).1 = (q.withState .invalid).1 := by
  simp only [Quire.place, hm, if_false, if_pos (Int.not_lt.1 hw)]

theorem Quire.place_eq_join {q : Quire} (hq : q.Settled) (neg : Bool) (m : Nat) (e : Int) :
    (q.place neg m e).1 = q.join ((Quire.zero q.cls q.sigma).place neg m e).1 := by
  by_cases hm : m = 0
  · simp only [Quire.place, hm, if_true, Quire.join_zero hq]
  by_cases hw : Quire.inWindow q.cls q.sigma m e
  · rw [Quire.place_inWindow neg hm hw, Quire.place_inWindow neg hm (q := Quire.zero q.cls q.sigma) hw]
    by_cases h : q.state = .finite
    · simp [Quire.join, Quire.zero, h]
    · rw [if_neg h]
      obtain ⟨cls, sigma, st, raw⟩ := q
      simp only [Quire.Settled] at h hq
      simp [Quire.join, Quire.zero, h, hq h]
  · rw [Quire.place_outside neg hm hw, Quire.place_outside neg hm (q := Quire.zero q.cls q.sigma) hw, q.withState_eq_join]

theorem Quire.placed_lt {c : QCls} {sigma : Int} {m : Nat} {e : Int} (hw : Quire.inWindow c sigma m e) :
    Quire.placed c sigma m e < 2 ^ (c.width + 31) := by
  have hm : m < 2 ^ (flog2 m + 1) := Nat.lt_log2_self
  unfold Quire.inWindow at hw
  unfold Quire.placed
  dsimp only
  split
  next h =>
    calc m <<< (e + c.w0 - sigma).toNat = m * 2 ^ (e + c.w0 - sigma).toNat := Nat.shiftLeft_eq _ _
      _ < 2 ^ (flog2 m + 1) * 2 ^ (e + c.w0 - sigma).toNat := Nat.mul_lt_mul_of_pos_right hm (Nat.two_pow_pos _)
      _ = 2 ^ (flog2 m + 1 + (e + c.w0 - sigma).toNat) := (Nat.pow_add _ _ _).symm
      _ ≤ 2 ^ (c.width + 31) := Nat.pow_le_pow_right (by decide) (by omega)
  next h =>
    split
    · exact Nat.two_pow_pos _
    · rw [Nat.shiftRight_eq_div_pow, Nat.div_lt_iff_lt_mul (Nat.two_pow_pos _), ← Nat.pow_add]
      exact hm.trans_le (Nat.pow_le_pow_right (by decide) (by omega))

/-- R78: what one product brings to a quire of a class and scale. -/
def Quire.product (c : QCls) (sigma : Int) (x : Val × Val) : Quire := ((Quire.clearAt sigma).gather c x.1 x.2).1

theorem Quire.gather_eq_join {q : Quire} (hq : q.Settled) (x : Val × Val) :
    (q.gather q.cls x.1 x.2).1 = q.join (Quire.product q.cls q.sigma x) := by
  unfold Quire.product
  rcases Quire.gather_contributes q.cls x.1 x.2 with ⟨inc, h⟩ | ⟨neg, m, e, h⟩
  · rw [h, h, q.promote_self, Quire.promote_clearAt, q.withState_eq_join]
  · rw [h, h, q.promote_self, Quire.promote_clearAt, Quire.place_eq_join hq]

/-- R80: a product brings less than R81 holds. -/
theorem Quire.product_raw_lt (c : QCls) (sigma : Int) (x : Val × Val) :
    (Quire.product c sigma x).raw.natAbs < 2 ^ (c.width + 31) := by
  have hpos : 0 < 2 ^ (c.width + 31) := Nat.two_pow_pos _
  unfold Quire.product
  rcases Quire.gather_contributes c x.1 x.2 with ⟨inc, h⟩ | ⟨neg, m, e, h⟩
  · rw [h, Quire.promote_clearAt, Quire.withState_zero]; exact hpos
  · rw [h, Quire.promote_clearAt]
    by_cases hm : m = 0
    · simp [Quire.place, hm, Quire.zero]
    by_cases hw : Quire.inWindow c sigma m e
    · rw [Quire.place_inWindow neg hm (q := Quire.zero c sigma) hw]
      cases neg <;> simpa [Quire.zero] using Quire.placed_lt hw
    · rw [Quire.place_outside neg hm (q := Quire.zero c sigma) hw, Quire.withState_zero]; exact hpos

/-! ### Chains (R78, R84, R87) -/

/-- R78, R81: a product accumulated in a quire of its class joins it, as long as R81 holds the sum. -/
theorem Quire.accumulate_eq_join {q : Quire} (hq : q.Settled) (x : Val × Val)
    (h : q.raw.natAbs + (Quire.product q.cls q.sigma x).raw.natAbs < 2 ^ (q.cls.width + 31)) :
    (q.accumulate q.cls x.1 x.2).1 = q.join (Quire.product q.cls q.sigma x) := by
  show ((q.gather q.cls x.1 x.2).1).close.1 = _
  rw [Quire.gather_eq_join hq]
  exact Quire.close_of_natAbs_lt ((q.join_raw_le _).trans_lt h)

theorem Quire.gather_congr {q p : Quire} {c : QCls} (h : q.promote c = p.promote c) (a b : Val) :
    q.gather c a b = p.gather c a b := by
  simp only [Quire.gather, h]

theorem Quire.gather_clearAt (c : QCls) (sigma : Int) (a b : Val) :
    (Quire.clearAt sigma).gather c a b = (Quire.zero c sigma).gather c a b :=
  Quire.gather_congr ((Quire.promote_clearAt c sigma).trans (Quire.zero c sigma).promote_self.symm) a b

theorem Quire.zero_join_product (c : QCls) (sigma : Int) (x : Val × Val) :
    Quire.product c sigma x = (Quire.zero c sigma).join (Quire.product c sigma x) :=
  (congrArg Prod.fst (Quire.gather_clearAt c sigma x.1 x.2)).trans (Quire.gather_eq_join (Quire.zero_settled c sigma) x)

theorem rawOf_eq (c : QCls) (sigma : Int) (x : Val × Val) : rawOf c sigma x = (Quire.product c sigma x).raw.natAbs := by
  have hcls : (Quire.product c sigma x).cls = c := by rw [Quire.zero_join_product]; rfl
  have hfit := Quire.product_raw_lt c sigma x
  show (Quire.product c sigma x).close.1.raw.natAbs = _
  rw [Quire.close_of_natAbs_lt (by rwa [hcls])]

/-- R78, R81: a chain into a quire of its class is the joining of its products, as long as R81 holds their magnitudes. -/
theorem chain_eq_joins {c : QCls} {sigma : Int} {q : Quire} (hc : q.cls = c) (hs : q.sigma = sigma) (hq : q.Settled)
    (l : List (Val × Val)) (h : q.raw.natAbs + (l.map (rawOf c sigma)).sum < 2 ^ (c.width + 31)) :
    chain c q l = (l.map (Quire.product c sigma)).foldl Quire.join q := by
  subst hc hs
  induction l generalizing q with
  | nil => rfl
  | cons x l ih =>
    rw [List.map_cons, List.sum_cons, rawOf_eq] at h
    have hx := Quire.accumulate_eq_join hq x (by omega)
    have hle := q.join_raw_le (Quire.product q.cls q.sigma x)
    show chain q.cls (q.accumulate q.cls x.1 x.2).1 l = _
    rw [hx]
    refine ih (q := q.join _) (q.join_settled _) ?_
    change _ + (l.map (rawOf q.cls q.sigma)).sum < 2 ^ (q.cls.width + 31)
    omega

/-- The products of a chain, joined. -/
def Quire.joined (c : QCls) (sigma : Int) (l : List (Val × Val)) : Quire :=
  (l.map (Quire.product c sigma)).foldl Quire.join (Quire.zero c sigma)

/-- R78, R81: a chain of one product or more into a clear quire is its products joined. -/
theorem chain_clearAt {c : QCls} {sigma : Int} {l : List (Val × Val)} (hl : l ≠ [])
    (h : (l.map (rawOf c sigma)).sum < 2 ^ (c.width + 31)) : chain c (Quire.clearAt sigma) l = Quire.joined c sigma l := by
  cases l with
  | nil => exact absurd rfl hl
  | cons x l =>
    have hx : chain c (Quire.clearAt sigma) (x :: l) = chain c (Quire.zero c sigma) (x :: l) := by
      simp only [chain, List.foldl_cons, Quire.accumulate, Quire.gather_clearAt]
    rw [hx]
    exact chain_eq_joins rfl rfl (Quire.zero_settled c sigma) _ (by simpa [Quire.zero] using h)

theorem Quire.joined_settled (c : QCls) (sigma : Int) (l : List (Val × Val)) : (Quire.joined c sigma l).Settled :=
  Quire.foldl_join_settled (Quire.zero_settled c sigma) _

theorem Quire.joined_cls (c : QCls) (sigma : Int) (l : List (Val × Val)) : (Quire.joined c sigma l).cls = c :=
  (Quire.foldl_join_form _ _).1

theorem Quire.joined_sigma (c : QCls) (sigma : Int) (l : List (Val × Val)) : (Quire.joined c sigma l).sigma = sigma :=
  (Quire.foldl_join_form _ _).2

theorem Quire.joined_raw_le (c : QCls) (sigma : Int) (l : List (Val × Val)) :
    (Quire.joined c sigma l).raw.natAbs ≤ (l.map (rawOf c sigma)).sum := by
  have hr : l.map (rawOf c sigma) = (l.map (Quire.product c sigma)).map fun p => p.raw.natAbs := by
    rw [List.map_map]
    exact List.map_congr_left fun x _ => rawOf_eq c sigma x
  rw [hr]
  exact (Quire.foldl_join_raw_le _ _).trans_eq (Nat.zero_add _)

theorem Quire.joined_perm {c : QCls} {sigma : Int} {l m : List (Val × Val)} (h : l.Perm m) :
    Quire.joined c sigma l = Quire.joined c sigma m :=
  Quire.foldl_join_perm (h.map _) _

theorem Quire.joined_append (c : QCls) (sigma : Int) (a b : List (Val × Val)) :
    Quire.joined c sigma (a ++ b) = (Quire.joined c sigma a).join (Quire.joined c sigma b) := by
  have hb : Quire.joined c sigma b = (b.map (Quire.product c sigma)).foldl Quire.join (Quire.zero c sigma) := rfl
  rw [hb, Quire.join_foldl, Quire.join_zero (Quire.joined_settled c sigma a), Quire.joined, List.map_append, List.foldl_append]
  rfl

/-- R84: two quires of one class and scale merge into what they hold together, as long as R81 holds it. -/
theorem Quire.merge_eq_join {q p : Quire} (hc : q.cls ≠ .clear) (hcls : p.cls = q.cls) (hs : p.sigma = q.sigma)
    (h : q.raw.natAbs + p.raw.natAbs < 2 ^ (q.cls.width + 31)) : (q.merge p).1 = q.join p := by
  have hle := Int.natAbs_add_le q.raw p.raw
  have hexp (x : Quire) (hx : x.cls = q.cls) (hsx : x.sigma = q.sigma) : x.reexpress q.cls q.sigma = x.raw := by
    simp [Quire.reexpress, hx, hsx, hc]
  rw [Quire.merge, hcls, hs, if_neg hc, if_neg hc, QCls.max_self, min_self]
  simp only [hexp q rfl rfl, hexp p hcls hs]
  rw [Quire.settle_of_natAbs_lt _ (by change _ < 2 ^ (q.cls.width + 31); omega)]
  by_cases hf : q.state.join p.state = .finite
  · have hf' : (q.state.combine p.state).1 = .finite := hf
    simp [Quire.join, hf, hf']
  · have hf' : ¬ (q.state.combine p.state).1 = .finite := hf
    simp only [Quire.join, hf, hf', if_false]; rfl

theorem Quire.merge_clearAt (q : Quire) (sigma : Int) : (q.merge (Quire.clearAt sigma)).1 = q := rfl

theorem Quire.clearAt_merge {q : Quire} (hq : q.cls ≠ .clear) (sigma : Int) : ((Quire.clearAt sigma).merge q).1 = q := by
  rw [Quire.merge, if_neg hq]; rfl

/-- Settles O38: a chain is its products joined, in which neither their order nor a cut matters, and a merge joins the two
parts; a part of no products is the clear quire, which leaves the other as it is. -/
theorem cutChainsMerge : Obligations.CutChainsMerge := by
  unfold Obligations.CutChainsMerge
  intro c sigma l a b hc hperm hsum
  have hsums : (l.map (rawOf c sigma)).sum = (a.map (rawOf c sigma)).sum + (b.map (rawOf c sigma)).sum := by
    rw [(hperm.map _).sum_eq, List.map_append, List.sum_append]
  by_cases hl : l = []
  · obtain ⟨rfl, rfl⟩ := List.append_eq_nil_iff.1 (List.nil_perm.1 (hl ▸ hperm))
    rw [hl]; rfl
  have hchain : chain c (Quire.clearAt sigma) l = (Quire.joined c sigma a).join (Quire.joined c sigma b) := by
    rw [chain_clearAt hl hsum, Quire.joined_perm hperm, Quire.joined_append]
  rw [hchain]
  by_cases ha : a = []
  · subst ha
    have hb : b ≠ [] := fun e => hl (List.perm_nil.1 (by simpa [e] using hperm))
    have hz : Quire.joined c sigma [] = Quire.zero (Quire.joined c sigma b).cls (Quire.joined c sigma b).sigma := by
      rw [Quire.joined_cls, Quire.joined_sigma]; rfl
    rw [chain_clearAt hb (by omega), hz, Quire.zero_join (Quire.joined_settled c sigma b)]
    exact Quire.clearAt_merge (by rwa [Quire.joined_cls]) sigma
  by_cases hb : b = []
  · subst hb
    rw [chain_clearAt ha (by omega)]
    exact (Quire.join_zero (Quire.joined_settled c sigma a) c sigma).symm
  have hra := Quire.joined_raw_le c sigma a
  have hrb := Quire.joined_raw_le c sigma b
  rw [chain_clearAt ha (by omega), chain_clearAt hb (by omega)]
  refine Quire.merge_eq_join ?_ ?_ ?_ ?_
  · rwa [Quire.joined_cls]
  · rw [Quire.joined_cls, Quire.joined_cls]
  · rw [Quire.joined_sigma, Quire.joined_sigma]
  · rw [Quire.joined_cls]; omega

end Sys2Proof.Machine
end

section
/-! PROOFS. The quire-unit instructions of the M slot (R83, R101, R158, R260 to R262: O37). -/

namespace Sys2Proof.Machine

open Sys2Proof.Claims

/-! ### Landings of the quire unit (R158, R168) -/

/-- Whether a landing is on the register of a destination field does not depend on the value. -/
theorem sameReg_destS (x : LandVal) (c : Ctx) (d : BitVec 6) (v w : Word) :
    sameReg x (destS c d v) = sameReg x (destS c d w) := by
  cases x <;> rfl

/-- R168: a register name and the next are different registers under any WINB. -/
theorem sPhys_nextS_ne (winb : Word) (n : BitVec 6) : sPhys winb n ≠ sPhys winb (nextS n) := by
  intro h
  have hn : (nextS n).toNat = (n.toNat + 1) % 64 := BitVec.toNat_add n 1
  have hlt := n.isLt
  have hp := congrArg BitVec.toNat h
  unfold sPhys at hp
  split at hp <;> split at hp <;> simp only [BitVec.toNat_ofNat, hn] at * <;> omega

theorem noClash_destS {s : State} {lat : Nat} {d : BitVec 6} {v : Word} (h : NoClash s lat (destS s.me.ctx d v)) (w : Word) :
    NoClash s lat (destS s.me.ctx d w) :=
  h.imp id fun h l hl hd => (sameReg_destS l.val s.me.ctx d w v).trans (h l hl hd)

/-- R157, R168: a result with flags lands, or only its flags do, where no landing of its register is pending. -/
theorem Ctx.landAt_landsOf {s : State} {c : Ctx} (slot lat : Nat) {v : LandVal} (r : Raised) (hic : c.ic = s.me.ctx.ic)
    (hc : discarded v = true ∨ ∀ l ∈ c.landings, l.due = c.ic + lat → sameReg l.val v = false) :
    c.landAt slot lat v r = .ok { c with landings := c.landings ++ landsOf s slot lat v r } := by
  by_cases hd : discarded v = true
  · by_cases hr : r = Raised.none
    · simp [Ctx.landAt, landsOf, hd, hr]
    · simp [Ctx.landAt, landsOf, hd, hr, pend, hic]
  · rw [Ctx.landAt_ok r (by simpa using hd) (hc.resolve_left hd)]
    simp [landsOf, hd, pend, hic]

/-- What lands for a result with flags is the result, or its flags alone. -/
theorem val_of_mem_landsOf {s : State} {slot lat : Nat} {v : LandVal} {r : Raised} {l : Landing}
    (h : l ∈ landsOf s slot lat v r) : l.val = v ∨ l.val = .flagsOnly := by
  unfold landsOf at h
  split at h
  · split at h
    · exact absurd h List.not_mem_nil
    · exact .inr (List.mem_singleton.1 h ▸ rfl)
  · exact .inl (List.mem_singleton.1 h ▸ rfl)

/-- R83: landings of q-registers never meet. -/
theorem Ctx.landAt_q (c : Ctx) (slot lat : Nat) (n : BitVec 3) (v : Quire) (r : Raised) :
    c.landAt slot lat (.q n v) r = .ok { c with landings := c.landings ++
      [{ due := c.ic + lat, val := .q n v, slot := slot, raised := r, escape := none }] } :=
  Ctx.landAt_ok r rfl fun l _ _ => by cases l.val <;> rfl

/-! ### The frame of a quire-unit instruction (R83, R158) -/

/-- A quire-unit instruction with one result completes when the engine and its q-register are free and the result lands. -/
theorem quireOp_one {i : Instr} {dest : Option (BitVec 3)} {lat : Nat} {body : Ctx → List (LandVal × Raised)} {s : State}
    {x : LandVal × Raised} {l : List Landing} (hw : i.wellFormed = true) (hm : MFree s)
    (hd : ∀ n ∈ dest, s.me.qBusy n = false) (hb : body s.me.ctx = [x])
    (hx : Ctx.landAt { s.me.ctx with mFree := s.me.ctx.ic + 1 } 3 lat x.1 x.2 =
      .ok { s.me.ctx with mFree := s.me.ctx.ic + 1, landings := s.me.ctx.landings ++ l }) :
    quireOp i dest lat body s = .next (withQuire s l) := by
  have hfree : ¬ s.me.ctx.ic < s.me.ctx.mFree := Nat.not_lt.2 hm
  refine roomOp_ok hw ?_
  cases dest with
  | none => simp [hfree, hb, hx]
  | some n => simp [hfree, hb, hx, hd n rfl]

/-- The same with two results, the second of which lands beside the first. -/
theorem quireOp_two {i : Instr} {dest : Option (BitVec 3)} {lat : Nat} {body : Ctx → List (LandVal × Raised)} {s : State}
    {x y : LandVal × Raised} {l l' : List Landing} (hw : i.wellFormed = true) (hm : MFree s)
    (hd : ∀ n ∈ dest, s.me.qBusy n = false) (hb : body s.me.ctx = [x, y])
    (hx : Ctx.landAt { s.me.ctx with mFree := s.me.ctx.ic + 1 } 3 lat x.1 x.2 =
      .ok { s.me.ctx with mFree := s.me.ctx.ic + 1, landings := s.me.ctx.landings ++ l })
    (hy : Ctx.landAt { s.me.ctx with mFree := s.me.ctx.ic + 1, landings := s.me.ctx.landings ++ l } 3 lat y.1 y.2 =
      .ok { s.me.ctx with mFree := s.me.ctx.ic + 1, landings := s.me.ctx.landings ++ l ++ l' }) :
    quireOp i dest lat body s = .next (withQuire s (l ++ l')) := by
  have hfree : ¬ s.me.ctx.ic < s.me.ctx.mFree := Nat.not_lt.2 hm
  refine roomOp_ok hw ?_
  cases dest with
  | none => simp [hfree, hb, hx, hy]
  | some n => simp [hfree, hb, hx, hy, hd n rfl]

/-- R83: a quire-unit instruction into a free q-register lands its value there. -/
theorem quireOp_q {i : Instr} {n : BitVec 3} {lat : Nat} {body : Ctx → List (LandVal × Raised)} {s : State} {v : Quire}
    {r : Raised} (hw : i.wellFormed = true) (hq : QFree s n) (hb : body s.me.ctx = [(.q n v, r)]) :
    quireOp i (some n) lat body s = .next (withQuire s [pend s 3 lat (.q n v) r]) :=
  quireOp_one hw hq.1 (fun m hm => by cases hm; exact hq.2) hb (Ctx.landAt_q _ _ _ _ _ _)

/-! ### Sums of lanes (R260) -/

/-- A sum of products with the flags of each at its lane. -/
theorem foldl_gather (k : QCls) (p : Nat → Val × Val) (l : List Nat) (q : Quire) (r : Raised) :
    l.foldl (fun (st : Quire × Raised) j =>
        let z := st.1.gather k (p j).1 (p j).2
        (z.1, st.2.add j z.2)) (q, r) =
      (sums k q (l.map p), (l.zip (gatherFlags k q (l.map p))).foldl (fun r x => r.add x.1 x.2) r) := by
  induction l generalizing q r with
  | nil => rfl
  | cons j l ih => exact ih _ _

/-- The products of the lanes of two words in the format of an MQ instruction (R260). -/
def laneProduct (f : MQForm) (x y : Word) (j : Nat) : Val × Val :=
  (decodeVal (mqFmt f) (mqEs f) (laneOf (mqFmt f).bits x.toNat j),
    decodeVal (mqFmt f) (mqEs f) (laneOf (mqFmt f).bits y.toNat j))

/-- R260, R83: what `qfma` and `qdot` sum over lanes. -/
theorem laneSum_eq {f : MQForm} {k : QCls} (hk : classOf (mqFmt f) (mqEs f) = some k) (lanes : Nat) (q : Quire) (x y : Word) :
    let xs := (List.range lanes).map (laneProduct f x y)
    laneSum f lanes q x y = ((sums k q xs).close.1,
      (flagsAt ((List.range lanes).zip (gatherFlags k q xs))).merge (Raised.of1 0 (sums k q xs).close.2)) := by
  have h := foldl_gather k (laneProduct f x y) (List.range lanes) q Raised.none
  unfold laneSum
  simp only [hk, Option.getD_some]
  exact congrArg (fun z : Quire × Raised => (z.1.close.1, z.2.merge (Raised.of1 0 z.1.close.2))) h

/-! ### Rounding into registers (R261) -/

/-- R261: a format of one word rounds into s[SA]. -/
theorem execQround_word {f : MQForm} {s : State} (hw : (Instr.qround f).wellFormed = true) (hm : MFree s)
    (hc : NoClash s 4 (destS s.me.ctx f.sa 0)) (hf : f.fmt ≠ 0x13#6) :
    let z := roundQ (mqFmt f) (mqEs f) (s.me.ctx.mode f.rm.toNat) (s.me.ctx.readQ f.qs)
    execQround f s = .next (withQuire s (landsOf s 3 4 (destS s.me.ctx f.sa (BitVec.ofNat 32 z.1)) (Raised.of1 0 z.2))) :=
  quireOp_one hw hm nofun (if_neg hf) (Ctx.landAt_landsOf (s := s) 3 4 _ rfl (noClash_destS hc _))

/-- R261: fp64 rounds into s[SA] and s[SA + 1], whose landings do not meet. -/
theorem execQround_double {f : MQForm} {s : State} (hw : (Instr.qround f).wellFormed = true) (hm : MFree s)
    (hc : NoClash s 4 (destS s.me.ctx f.sa 0)) (hf : f.fmt = 0x13#6) (hn : NoClash s 4 (destS s.me.ctx (nextS f.sa) 0)) :
    let z := roundQ (mqFmt f) (mqEs f) (s.me.ctx.mode f.rm.toNat) (s.me.ctx.readQ f.qs)
    execQround f s = .next (withQuire s
      (landsOf s 3 4 (destS s.me.ctx f.sa (BitVec.ofNat 32 z.1)) (Raised.of1 0 z.2) ++
        landsOf s 3 4 (destS s.me.ctx (nextS f.sa) (BitVec.ofNat 32 (z.1 / 2 ^ 32))) Raised.none)) := by
  intro z
  refine quireOp_two hw hm nofun (if_pos hf) (Ctx.landAt_landsOf (s := s) 3 4 _ rfl (noClash_destS hc _))
    (Ctx.landAt_landsOf (s := s) 3 4 _ rfl ((noClash_destS hn _).imp id fun h l hl hd => ?_))
  rcases List.mem_append.1 hl with hl | hl
  · exact h l hl hd
  · rcases val_of_mem_landsOf hl with hv | hv <;> rw [hv]
    · exact beq_false_of_ne (sPhys_nextS_ne _ _)
    · rfl

/-! ### The places of an image (R75, R101) -/

theorem span_succ (a n : Nat) : span a (n + 1) = a :: span (a + 1) n := by
  simp only [span, List.range_succ_eq_map, List.map_cons, List.map_map, Nat.add_zero, List.cons.injEq, true_and]
  exact List.map_congr_left fun i _ => Nat.add_right_comm a i 1 ▸ rfl

theorem span_getLast? (a n : Nat) : (span a (n + 1)).getLast? = some (a + n) := by
  simp [span, List.range_succ]

/-- Where the bytes of an image lie: n of them in the partition from a on, the rest in the overflow area from o on. -/
def imagePlaces (a n o : Nat) : List AtticPlace := (span a n).map .inside ++ (span o (144 - n)).map .over

/-- What picks the partition addresses of places finds the first n bytes. -/
theorem imagePlaces_filterMap {g : AtticPlace → Option Nat} (hi : ∀ a, g (.inside a) = some a)
    (ho : ∀ o, g (.over o) = none) (a n o : Nat) : (imagePlaces a n o).filterMap g = span a n := by
  simp [imagePlaces, List.filterMap_append, List.filterMap_map, hi, ho]

theorem cellsAt_isEmpty (a : Nat) (bs : List Byte) : (cellsAt a bs).isEmpty = bs.isEmpty := by
  cases bs <;> rfl

theorem map_fst_cellsAt (a : Nat) (bs : List Byte) : (cellsAt a bs).map Prod.fst = span a bs.length := by
  induction bs generalizing a with
  | nil => rfl
  | cons b bs ih => rw [List.length_cons, span_succ, cellsAt, List.map_cons, ih]

theorem placedCells_append {ps qs : List AtticPlace} {bs cs : List Byte} (h : ps.length = bs.length) :
    placedCells (ps ++ qs) (bs ++ cs) =
      ((placedCells ps bs).1 ++ (placedCells qs cs).1, (placedCells ps bs).2 ++ (placedCells qs cs).2) := by
  simp only [placedCells, List.zip_append h, List.filterMap_append]

theorem placedCells_inside (a : Nat) (bs : List Byte) :
    placedCells ((span a bs.length).map .inside) bs = (cellsAt a bs, []) := by
  induction bs generalizing a with
  | nil => rfl
  | cons b bs ih =>
    obtain ⟨h1, h2⟩ := Prod.mk.inj (ih (a + 1))
    rw [List.length_cons, span_succ]
    exact Prod.ext (congrArg ((a, b) :: ·) h1) h2

theorem placedCells_over (o : Nat) (bs : List Byte) :
    placedCells ((span o bs.length).map .over) bs = ([], cellsAt o bs) := by
  induction bs generalizing o with
  | nil => rfl
  | cons b bs ih =>
    obtain ⟨h1, h2⟩ := Prod.mk.inj (ih (o + 1))
    rw [List.length_cons, span_succ]
    exact Prod.ext h1 (congrArg ((o, b) :: ·) h2)

/-- The cells of an image at its places: its first n bytes in the partition and the rest in the overflow area. -/
theorem placedCells_image {bs : List Byte} (hb : bs.length = 144) {n : Nat} (hn : n ≤ 144) (a o : Nat) :
    placedCells (imagePlaces a n o) bs = (cellsAt a (bs.take n), cellsAt o (bs.drop n)) := by
  have ht : (bs.take n).length = n := by simp [hb, hn]
  have hd : (bs.drop n).length = 144 - n := by simp [hb]
  have h1 := placedCells_inside a (bs.take n)
  have h2 := placedCells_over o (bs.drop n)
  rw [ht] at h1
  rw [hd] at h2
  have h := placedCells_append (ps := (span a n).map .inside) (qs := (span o (144 - n)).map .over) (bs := bs.take n)
    (cs := bs.drop n) (by simp [span, ht])
  rw [h1, h2, List.take_append_drop] at h
  simpa [imagePlaces] using h

/-- R101: the lines of the overflow area that an image needs are there. -/
def LinesThere (r : Room) (o n : Nat) : Prop := ∀ i, i < n → ∃ l ∈ r.overflow, l.num = (o + i) / 256

theorem overMiss_imagePlaces {r : Room} {a n o : Nat} (h : LinesThere r o (144 - n)) :
    r.overMiss (imagePlaces a n o) = none := by
  refine List.findSome?_eq_none_iff.2 fun p hp => ?_
  rcases List.mem_append.1 hp with hp | hp
  · obtain ⟨x, -, rfl⟩ := List.mem_map.1 hp
    rfl
  · obtain ⟨x, hx, rfl⟩ := List.mem_map.1 hp
    obtain ⟨i, hi, rfl⟩ := List.mem_map.1 hx
    obtain ⟨l, hl, hnum⟩ := h i (List.mem_range.1 hi)
    exact if_pos (List.any_eq_true.2 ⟨l, hl, by simp [hnum]⟩)

theorem toBytes_length (n v : Nat) : (toBytes n v).length = n := by
  induction n generalizing v with
  | zero => rfl
  | succ n ih => rw [toBytes, List.length_cons, ih]

theorem Quire.image_length (q : Quire) : q.image.length = 144 := by
  rw [Quire.image, List.length_append, toBytes_length, toBytes_length]

/-! ### Where an image lies (R101, R262) -/

/-- R262: an image at an address of the partition. -/
theorem qPlaces_region {r : Room} {write : Bool} {a : Nat} (ha : a % 16 = 0) (hs : a + 144 ≤ r.spSize)
    (hf : r.ctx.footprint.allows 1 write { lo := a, hi := (a + 144 : Nat) - 1 } = true) :
    r.qPlaces write false a = .ok (imagePlaces a 144 0) := by
  have hin : ¬ r.spSize ≤ a + 143 := by omega
  have hhi : ((a + 144 : Nat) : Int) - 1 = (a + 143 : Nat) := by omega
  rw [hhi] at hf
  simp only [Room.qPlaces, ha, hin, hf, if_false, if_true, bne_self_eq_false, Bool.false_eq_true]
  simp [imagePlaces, span, Function.comp_def]

/-- R101: the places of an image at an offset in the attic, none of which lies beyond the overflow area. -/
theorem attic_imagePlaces {r : Room} {a size n : Nat} (hsize : r.atticSize.toNat % 2 ^ 25 = size) (hn : n = min 144 (size - a))
    (ho : a + 144 ≤ size + 65536 * (r.atticOvf.toNat / 2 ^ 52 % 256)) :
    ((List.range 144).map fun i => r.attic (a + i)) = imagePlaces (r.atticBase.toNat % 2 ^ 25 + a) n (a + n - size) := by
  have hovsz : bitsOf r.atticOvf.toNat 59 52 = r.atticOvf.toNat / 2 ^ 52 % 256 := by
    rw [bitsOf, Nat.shiftRight_eq_div_pow]; rfl
  have hrange : List.range 144 = List.range n ++ (List.range (144 - n)).map (n + ·) := by
    rw [← List.range_add]; congr 1; omega
  simp only [hrange, imagePlaces, span, List.map_append, List.map_map]
  congr 1
  · refine List.map_congr_left fun i hi => ?_
    have hlt : i < n := List.mem_range.1 hi
    simp only [Room.attic, hsize, Function.comp_apply]
    rw [if_pos (by omega), Nat.add_assoc]
  · refine List.map_congr_left fun i hi => ?_
    have hlt : i < 144 - n := List.mem_range.1 hi
    simp only [Room.attic, hsize, hovsz, Function.comp_apply]
    rw [if_neg (by omega), if_pos (by omega)]
    congr 1; omega

/-- R101, R262: an image at an offset in the attic, in the partition and footprint as far as it lies in the attic. -/
theorem qPlaces_attic {r : Room} {write : Bool} {a size base n : Nat} (ha : a % 16 = 0)
    (hsize : r.atticSize.toNat % 2 ^ 25 = size) (hbase : r.atticBase.toNat % 2 ^ 25 + a = base) (hn : n = min 144 (size - a))
    (ho : a + 144 ≤ size + 65536 * (r.atticOvf.toNat / 2 ^ 52 % 256)) (hs : n ≠ 0 → base + n ≤ r.spSize)
    (hf : n ≠ 0 → r.ctx.footprint.allows 1 write { lo := base, hi := (base + n : Nat) - 1 } = true) :
    r.qPlaces write true a = .ok (imagePlaces base n (a + n - size)) := by
  have hbeyond : (imagePlaces base n (a + n - size)).contains .beyond = false := by
    simp [imagePlaces]
  unfold Room.qPlaces
  simp only [attic_imagePlaces hsize hn ho, hbase, ha, bne_self_eq_false, Bool.false_eq_true, if_false, if_true, hbeyond]
  rw [imagePlaces_filterMap (fun _ => rfl) fun _ => rfl]
  cases n with
  | zero => rfl
  | succ m =>
    have hin : ¬ r.spSize ≤ base + m := by have := hs (Nat.succ_ne_zero m); omega
    have hfp := hf (Nat.succ_ne_zero m)
    have hhi : ((base + (m + 1) : Nat) : Int) - 1 = (base + m : Nat) := by omega
    have hlast : (base :: span (base + 1) m).getLast?.getD base = base + m := by
      rw [← span_succ, span_getLast?]; rfl
    rw [hhi] at hfp
    simp only [span_succ, hlast, hin, hfp, if_false, if_true]
    rfl

/-! ### What an access of the canal port leaves alone (R97, R396) -/

theorem watchHits_due (r : Room) (slot : Nat) (write : Bool) (addrs : List Nat) :
    ∃ d, r.watchHits slot write addrs = { r with ctx := { r.ctx with due := d } } := by
  unfold Room.watchHits
  split <;> exact ⟨_, rfl⟩

theorem clean_of_noErrors {s : State} (h : NoErrors s) : (s.coreOf s.me.core).clean = true := by
  obtain ⟨he, hf⟩ := h
  simp [Core.clean, he, hf]

theorem seen_of_noErrors {s : State} (h : NoErrors s) : s.me.seen (s.coreOf s.me.core) = s.me := by
  obtain ⟨he, -⟩ := h
  simp [Room.seen, he]

theorem readChecked_clean (r : Room) {k : Core} (h : k.clean = true) (addrs : List Nat) :
    r.readChecked k addrs = (r, addrs.map (Memory.get (r.seen k).scratch), false) := by
  simp [Room.readChecked, h]

/-! ### Storing and loading an image (R75, R262) -/

/-- The stores of an image, n bytes of it in the partition and the rest in the overflow area. -/
def imageStores (s : State) (a n o : Nat) (img : List Byte) : List Landing :=
  (if n = 0 then [] else [pend s 3 1 (.store (cellsAt a (img.take n))) Raised.none]) ++
  if n = 144 then [] else [pend s 3 1 (.overflow (cellsAt o (img.drop n))) Raised.none]

/-- The room after a `qst` with the stores given: besides them and the engine only the causes due may have changed. -/
def afterQst (s : State) (l : List Landing) (due : List Cause) : Room := { (withQuire s l).me with ctx.due := due }

/-- R262: `qst` at legal places whose lines are there has its stores pending at the end of the cycle. -/
theorem execQst_placed {f : MQForm} {s : State} {a n o : Nat} (hw : (Instr.qst f).wellFormed = true) (hm : MFree s)
    (hn : n ≤ 144) (hp : s.me.qPlaces true (f.db.getLsbD 0) (qAddr s.me.ctx f) = .ok (imagePlaces a n o))
    (hmiss : s.me.missOf (span a n) = none) (hl : LinesThere s.me o (144 - n)) :
    ∃ d, execQst f s = .next { s with me := afterQst s (imageStores s a n o (s.me.ctx.readQ f.qs).image) d } := by
  have hfree : ¬ s.me.ctx.ic < s.me.ctx.mFree := Nat.not_lt.2 hm
  have himg := (s.me.ctx.readQ f.qs).image_length
  have htake : ((s.me.ctx.readQ f.qs).image.take n).length = n := by simp [himg, hn]
  have hnone : (s.me.ctx.readQ f.qs).image.take n = [] ↔ n = 0 := by rw [← List.length_eq_zero_iff, htake]
  have hall : (s.me.ctx.readQ f.qs).image.drop n = [] ↔ n = 144 := by rw [List.drop_eq_nil_iff, himg]; omega
  obtain ⟨d, hd⟩ := watchHits_due s.me 3 true (span a n)
  refine ⟨d, roomOp_ok hw ?_⟩
  simp only [hfree, hp, placedCells_image himg hn, overMiss_imagePlaces hl, map_fst_cellsAt, htake, hmiss, hd, if_false,
    cellsAt_isEmpty, List.isEmpty_iff, hnone, hall, List.append_assoc]
  rfl

/-- The room after a `qld` that lands v: besides the landing and the engine only the causes due and the interval it keeps for
R35 may have changed. -/
def afterQld (s : State) (n : BitVec 3) (v : Quire × Fl) (due : List Cause) (flights : List Flight) : Room :=
  { s.me with lastM := some s.me.ctx.pc, ctx := { s.me.ctx with
    due := due, mFree := s.me.ctx.ic + 1, landings := s.me.ctx.landings ++ [qPend s n 4 v], flights := flights } }

/-- R75, R262: `qld` from legal places whose lines are there and whose bytes have no error: what the image loads as lands
after four cycles. -/
theorem execQld_placed {f : MQForm} {s : State} {a n o : Nat} {bs : List Byte} (hw : (Instr.qld f).wellFormed = true)
    (hq : QFree s f.qd) (he : NoErrors s)
    (hp : s.me.qPlaces false (f.db.getLsbD 0) (qAddr s.me.ctx f) = .ok (imagePlaces a n o))
    (hmiss : s.me.missOf (span a n) = none) (hl : LinesThere s.me o (144 - n))
    (hb : (imagePlaces a n o).map s.me.placeByte = bs) :
    ∃ d fl, execQld f s = .next { s with me := afterQld s f.qd (Quire.load bs) d fl } := by
  obtain ⟨hm, hbusy⟩ := hq
  have hfree : ¬ s.me.ctx.ic < s.me.ctx.mFree := Nat.not_lt.2 hm
  obtain ⟨d, hd⟩ := watchHits_due s.me 3 false (span a n)
  refine ⟨d, s.me.ctx.flights ++ [{ quireFlight (.qld f) s.me.ctx ((span a n).headD 0) 4 with db := (span a n).length }],
    roomOp_ok hw ?_⟩
  simp only [hfree, hbusy, hp, overMiss_imagePlaces hl]
  rw [imagePlaces_filterMap (fun _ => rfl) fun _ => rfl]
  simp only [hmiss, hd, seen_of_noErrors he, hb, readChecked_clean _ (clean_of_noErrors he), Ctx.landAt_q, decide_false,
    Bool.or_self, Bool.false_eq_true, if_false]
  rfl

/-- R101: the bytes of places, in the partition and in the overflow area, are those of a list. -/
theorem map_placeByte {r : Room} {a n o : Nat} {bs : List Byte} (hn : n ≤ 144) (hlen : bs.length = 144)
    (hi : ∀ i, i < n → bs[i]? = some (Memory.get r.scratch (a + i)))
    (ho : ∀ i, i < 144 - n → r.overBytes (o + i) 1 = (bs[n + i]?).map fun b => [b]) :
    (imagePlaces a n o).map r.placeByte = bs := by
  have htake : (span a n).map (fun x => r.placeByte (.inside x)) = bs.take n := by
    refine List.ext_getElem? fun i => ?_
    by_cases h : i < n
    · simp [span, h, hi i h, Room.placeByte]
    · simp [span, h]
  have hdrop : (span o (144 - n)).map (fun x => r.placeByte (.over x)) = bs.drop n := by
    refine List.ext_getElem? fun i => ?_
    by_cases h : i < 144 - n
    · have hlt : n + i < bs.length := by omega
      simp [span, h, ho i h, Room.placeByte, hlt]
    · have hle : bs.length ≤ n + i := by omega
      simp [span, h, hle]
  rw [imagePlaces, List.map_append, List.map_map, List.map_map]
  exact (congrArg₂ (· ++ ·) htake hdrop).trans (List.take_append_drop n bs)

/-- Settles O37: the quire unit's operations by the landing of each, `qst` and `qld` by the places of the image, which are 144
bytes of the partition, or those of the attic with the rest in the overflow area. -/
theorem quireOperations : Obligations.QuireOperations := by
  unfold Obligations.QuireOperations
  refine ⟨?_, ?_, ?_⟩
  · intro f s c prod
    refine ⟨?_, ?_, ?_, ?_⟩
    · intro op lat v hrow hw hq
      simp only [List.mem_cons, List.not_mem_nil, or_false, Prod.mk.injEq] at hrow
      rcases hrow with ⟨rfl, rfl, rfl⟩ | ⟨rfl, rfl, rfl⟩ | ⟨rfl, rfl, rfl⟩
      · show execQclr f s = _
        exact quireOp_q hw hq rfl
      · show execQadd f s = _
        exact quireOp_q hw hq rfl
      · show execQneg f s = _
        exact quireOp_q hw hq rfl
    · intro hw hq n m
      show execQsub f s = _
      exact quireOp_q hw hq rfl
    · intro op lanes hrow hw hq k hk xs q
      have hsum := laneSum_eq hk lanes (c.readQ f.qd) (c.readS f.sa) (c.readS f.sb)
      simp only [List.mem_cons, List.not_mem_nil, or_false, Prod.mk.injEq] at hrow
      have hbody := congrArg (fun z : Quire × Raised => [(LandVal.q f.qd z.1, z.2)]) hsum
      rcases hrow with ⟨rfl, rfl⟩ | ⟨rfl, rfl⟩
      · show execQfma f s = _
        exact quireOp_q hw hq hbody
      · show execQdot f s = _
        exact quireOp_q hw hq hbody
    · intro hw hm hc z low
      exact ⟨execQround_word hw hm hc, execQround_double hw hm hc⟩
  · intro f s a hdb ha hs hmiss
    have hnil : LinesThere s.me 0 (144 - 144) := fun i hi => absurd hi (Nat.not_lt_zero i)
    refine ⟨?_, ?_⟩
    · intro hw hm hf
      have hp : s.me.qPlaces true (f.db.getLsbD 0) (qAddr s.me.ctx f) = .ok (imagePlaces a 144 0) := by
        rw [hdb]; exact qPlaces_region ha hs hf
      obtain ⟨d, hd⟩ := execQst_placed hw hm (Nat.le_refl 144) hp hmiss hnil
      have himg : (s.me.ctx.readQ f.qs).image.take 144 = (s.me.ctx.readQ f.qs).image :=
        List.take_of_length_le (Quire.image_length _).le
      simp only [imageStores, himg] at hd
      exact ⟨_, hd, rfl, rfl⟩
    · intro hw hq he hf
      have hp : s.me.qPlaces false (f.db.getLsbD 0) (qAddr s.me.ctx f) = .ok (imagePlaces a 144 0) := by
        rw [hdb]; exact qPlaces_region ha hs hf
      obtain ⟨d, fl, hd⟩ := execQld_placed hw hq he hp hmiss hnil (bs := Memory.read s.me.scratch a 144) rfl
      exact ⟨_, hd, rfl, rfl⟩
  · intro f s a size base n hdb ha ho hs hmiss hlines
    have hn : n ≤ 144 := Nat.min_le_left _ _
    have hsub (i : Nat) (h : i < 144 - n) : a + n - size + i = a + (n + i) - size := by omega
    have hthere : LinesThere s.me (a + n - size) (144 - n) := by
      intro i h
      rw [hsub i h]
      exact hlines (n + i) (Nat.le_add_right n i) (by omega)
    refine ⟨?_, ?_⟩
    · intro hw hm hf img
      have hp : s.me.qPlaces true (f.db.getLsbD 0) (qAddr s.me.ctx f) = .ok (imagePlaces base n (a + n - size)) := by
        rw [hdb]; exact qPlaces_attic ha rfl rfl rfl ho hs hf
      obtain ⟨d, hd⟩ := execQst_placed hw hm hn hp hmiss hthere
      exact ⟨_, hd, rfl, rfl⟩
    · intro hw hq he hf bs hlen hin hover
      have hp : s.me.qPlaces false (f.db.getLsbD 0) (qAddr s.me.ctx f) = .ok (imagePlaces base n (a + n - size)) := by
        rw [hdb]; exact qPlaces_attic ha rfl rfl rfl ho hs hf
      have hbytes : (imagePlaces base n (a + n - size)).map s.me.placeByte = bs := by
        refine map_placeByte hn hlen hin fun i h => ?_
        rw [hsub i h]
        exact hover (n + i) (Nat.le_add_right n i) (by omega)
      obtain ⟨d, fl, hd⟩ := execQld_placed hw hq he hp hmiss hthere hbytes
      exact ⟨_, hd, rfl, rfl⟩

end Sys2Proof.Machine
end

section
/-! PROOFS. The slot instructions of a bundle keep every byte store canonical (R106, R23: O10). -/

namespace Sys2Proof.Safety

open Sys2Proof.Machine Sys2Proof.Laws

/-! ### What an outcome or an answer keeps -/

/-- The state after a step, if there is one, holds canonical stores. -/
def Keeps : Host.Outcome State Fault Refusal → Prop
  | .next t => StoresWf t
  | _ => True

/-- What a body answers, if it raises no cause, has a property. -/
def OkHas {α : Type} (p : α → Prop) : Except Cause α → Prop
  | .ok a => p a
  | .error _ => True

theorem Keeps.next {o : Host.Outcome State Fault Refusal} {t : State} (h : Keeps o) (ho : o = .next t) : StoresWf t := by
  subst ho; exact h

theorem OkHas.ok {α : Type} {p : α → Prop} {x : Except Cause α} {a : α} (h : OkHas p x) (hx : x = .ok a) : p a := by
  subst hx; exact h

/-- What each step of a fold keeps, the fold keeps. -/
theorem foldl_keeps {α β : Type} {p : β → Prop} {f : β → α → β} (hf : ∀ b a, p b → p (f b a)) (l : List α) {b : β} (hb : p b) :
    p (l.foldl f b) := List.foldlRecOn l f hb fun b hb a _ => hf b a hb

/-! ### The stores by their parts -/

theorem StoresWf.me {s : State} (h : StoresWf s) : RoomWf s.me := h.2.1

theorem StoresWf.others {s : State} (h : StoresWf s) {r : Room} (hr : r ∈ s.others) : RoomWf r := h.2.2.1 r hr

theorem StoresWf.saved {s : State} (h : StoresWf s) {t : Team} (ht : t ∈ s.teams) {r : Room} (hr : r ∈ t.saved) : RoomWf r :=
  h.2.2.2 t ht r hr

theorem StoresWf.rooms {s : State} (h : StoresWf s) {r : Room} (hr : r ∈ s.rooms) : RoomWf r := by
  rcases List.mem_cons.1 (List.mem_filter.1 hr).1 with rfl | hr
  · exact h.me
  · exact h.others hr

theorem StoresWf.room {s : State} (h : StoresWf s) {id : RoomId} {r : Room} (hr : s.room? id = some r) : RoomWf r :=
  h.rooms (List.mem_of_find?_eq_some hr)

/-- The room with the issue turn may be changed to any whose stores are canonical. -/
theorem StoresWf.withMe {s : State} (h : StoresWf s) {r : Room} (hr : RoomWf r) : StoresWf { s with me := r } :=
  ⟨h.1, hr, h.2.2.1, h.2.2.2⟩

/-- States with the same memory, rooms and teams have the same stores. -/
theorem StoresWf.of_frame {s t : State} (h : StoresWf s) (hm : t.mem.cells = s.mem.cells) (hme : t.me = s.me)
    (ho : t.others = s.others) (ht : t.teams = s.teams) : StoresWf t := by
  unfold StoresWf
  rw [hm, hme, ho, ht]
  exact h

/-- What changes nothing but translations, counts and the lines found in error leaves the stores. -/
theorem StoresWf.of_readAside {s t : State} (h : StoresWf s) (ht : t.readAside = s.readAside) : StoresWf t :=
  h.of_frame (congrArg (fun u => u.mem.cells) ht :) (congrArg State.me ht :) (congrArg State.others ht :) (congrArg State.teams ht :)

/-- A write of global memory changes no store but memory. -/
theorem StoresWf.of_writeAside {s t : State} (h : StoresWf s) (hc : Memory.wf t.mem.cells = true)
    (ht : t.writeAside = s.writeAside) : StoresWf t := by
  have hme : t.me = s.me := (congrArg State.me ht :)
  have ho : t.others = s.others := (congrArg State.others ht :)
  have hs : t.teams = s.teams := (congrArg State.teams ht :)
  unfold StoresWf
  rw [hme, ho, hs]
  exact ⟨hc, h.2⟩

/-- A change of rooms that keeps the stores of each keeps them all. -/
theorem onRooms_stores {s : State} {p : Room → Bool} {f : Room → Room} (h : StoresWf s) (hf : ∀ r, RoomWf r → RoomWf (f r)) :
    StoresWf (s.onRooms p f) := by
  refine ⟨h.1, ?_, fun r hr => ?_, h.2.2.2⟩
  · show RoomWf (if _ then _ else _)
    split
    · exact hf _ h.me
    · exact h.me
  · obtain ⟨y, hy, rfl⟩ := List.mem_map.1 hr
    split
    · exact hf _ (h.others hy)
    · exact h.others hy

/-! ### Counters, events and traces -/

theorem count_stores {s : State} (n k : Nat) (h : StoresWf s) : StoresWf (s.count n k) := by
  unfold State.count
  split <;> exact h

theorem post_stores {s : State} (e : Event) (h : StoresWf s) : StoresWf (s.post e) := by
  rw [State.post_frame]; exact h

theorem startDump_stores {s : State} (id : RoomId) (reason trapc trappc tb : Nat) (h : StoresWf s) :
    StoresWf (s.startDump id reason trapc trappc tb) := by
  unfold State.startDump
  dsimp only
  split <;> exact h

theorem traceRec_stores {s : State} (core kind bit : Nat) (r : Room) (bundle : DWord) (data : Nat) (h : StoresWf s) :
    StoresWf (s.traceRec core kind bit r bundle data) := by
  unfold State.traceRec
  dsimp only
  split
  · split <;> exact h
  · exact h

theorem flushMacct_stores {s : State} (r : Room) (h : StoresWf s) : StoresWf (s.flushMacct r) :=
  foldl_keeps (p := StoresWf) (fun _ _ => traceRec_stores _ _ _ _ _ _) _ h

/-! ### The room switch and traps -/

theorem switch_stores {s : State} (core from_ : Nat) (h : StoresWf s) : StoresWf (s.switch core from_) := by
  have pass (r : Room) : StoresWf ((match (s.coreOf core).resident with
      | some i => if i = r.id then s else s.onRoom i Room.latchAll
      | none => s).onCore core fun k => { k with resident := some r.id }) := by
    show StoresWf (match (s.coreOf core).resident with
      | some i => if i = r.id then s else s.onRoom i Room.latchAll
      | none => s)
    split
    · split
      · exact h
      · exact onRoom_wf h fun _ hr => hr
    · exact h
  unfold State.switch
  dsimp only
  split
  · exact pass _
  · split
    · exact pass _
    · exact h

theorem leave_stores {s : State} (r : Room) (h : StoresWf s) : StoresWf (s.leave r) := by
  unfold State.leave
  split
  · exact switch_stores _ _ h
  · exact h

theorem takeTrap_stores {s : State} (c : Cause) (pc : DWord) (h : StoresWf s) : StoresWf (s.takeTrap c pc) := by
  unfold State.takeTrap
  extract_lets r0 isFatal r1 y c2 r2 s1 s2 s3 s4 s5
  have h1 : RoomWf r1 := by
    show RoomWf (if _ then _ else _)
    split <;> exact h.me
  have h2 : StoresWf s2 := post_stores _ (h.withMe (r := r2) h1)
  have h3 : StoresWf s3 := by
    show StoresWf (if _ then _ else _)
    split
    · exact startDump_stores _ _ _ _ _ h2
    · exact h2
  have h4 : StoresWf s4 := flushMacct_stores _ (traceRec_stores _ _ _ _ _ _ h3)
  apply leave_stores
  show StoresWf (if _ then _ else _)
  split
  · exact post_stores _ h4
  · exact h4

/-! ### Slot instructions (R159) -/

theorem slotOp_keeps {i : Instr} {slot : Nat} {s : State} {body : State → Except Cause State} (h : StoresWf s)
    (hb : OkHas StoresWf (body s)) : Keeps (slotOp i slot s body) := by
  unfold slotOp
  split
  · split
    · exact hb.ok ‹_›
    · exact takeTrap_stores _ _ h
  · exact takeTrap_stores _ _ h

theorem roomOp_keeps {i : Instr} {slot : Nat} {s : State} {body : Room → Except Cause Room} (h : StoresWf s)
    (hb : OkHas RoomWf (body s.me)) : Keeps (roomOp i slot s body) := by
  refine slotOp_keeps h ?_
  split
  · exact h.withMe (hb.ok ‹_›)
  · trivial

/-! ### Accesses of the engines (R96, R97, R396) -/

theorem claim_room {r : Room} (lost : Bool) (u : PortUse) (h : RoomWf r) : RoomWf (r.claim lost u).1 := by
  unfold Room.claim
  split
  · dsimp only
    split <;> exact h
  · dsimp only
    split <;> exact h

theorem watchHits_room {r : Room} (slot : Nat) (write : Bool) (addrs : List Nat) (h : RoomWf r) :
    RoomWf (r.watchHits slot write addrs) := by
  unfold Room.watchHits
  split <;> exact h

theorem engAccess_room {r : Room} (slot c0 : Nat) (lost write : Bool) (addrs : List Nat) (h : RoomWf r) :
    RoomWf (r.engAccess slot c0 lost write addrs).1 := by
  refine watchHits_room _ _ _ (foldl_keeps (p := fun acc : Room × List Nat => RoomWf acc.1) (fun _ _ => claim_room _ _) _ ?_)
  dsimp only
  split <;> exact h

theorem holdGroups_room {r : Room} (slot c0 : Nat) (groups : List Nat) (h : RoomWf r) :
    RoomWf (r.holdGroups slot c0 groups).1 := by
  refine foldl_keeps (p := fun acc : Room × Bool => RoomWf acc.1) (fun acc b hacc => ?_) _ h
  dsimp only
  split <;> exact hacc

theorem readChecked_room {r : Room} (k : Core) (addrs : List Nat) (h : RoomWf r) : RoomWf (r.readChecked k addrs).1 := by
  unfold Room.readChecked
  dsimp only
  split <;> exact h

theorem noteMiss_room {r : Room} (m : Miss) (h : RoomWf r) : RoomWf (r.noteMiss m) := by
  unfold Room.noteMiss
  split <;> exact h

/-! ### Scalar instructions (R167 to R204) -/

theorem scalarOp_keeps {i : Instr} {sl : SSlot} {lat : Nat} {val : Ctx → LandVal} {s : State} (h : StoresWf s) :
    Keeps (scalarOp i sl lat val s) := by
  refine roomOp_keeps h ?_
  split
  · exact h.me
  · trivial

theorem fpOp_keeps {i : Instr} {sl : SSlot} {lat : Nat} {val : Ctx → LandVal × Fl} {s : State} (h : StoresWf s) :
    Keeps (fpOp i sl lat val s) := by
  refine roomOp_keeps h ?_
  dsimp only
  split
  · exact h.me
  · trivial

theorem execSel_keeps {s : State} (sl : SSlot) (f : RForm) (h : StoresWf s) : Keeps (execSel sl f s) := by
  refine roomOp_keeps h ?_
  split
  · split
    · exact h.me
    · trivial
  · exact h.me

theorem loadOp_keeps {i : Instr} {sl : SSlot} {f : IForm} {size : Nat} {mk : Ctx → Nat → List LandVal} {s : State}
    (h : StoresWf s) : Keeps (loadOp i sl f size mk s) := by
  refine roomOp_keeps h ?_
  have ha (addrs : List Nat) := engAccess_room (sNum sl) s.me.ctx.ic false false addrs h.me
  dsimp only
  split
  · trivial
  · split
    · trivial
    · split
      · split
        · exact readChecked_room _ _ (ha _)
        · trivial
      · exact ha _
    · split
      · split
        · exact h.me
        · trivial
      · exact noteMiss_room _ h.me
    · trivial

theorem storeOp_keeps {i : Instr} {sl : SSlot} {f : IForm} {size : Nat} {val : Ctx → Nat} {s : State} (h : StoresWf s) :
    Keeps (storeOp i sl f size val s) := by
  refine roomOp_keeps h ?_
  have ha (addrs : List Nat) := engAccess_room (sNum sl) s.me.ctx.ic false true addrs h.me
  dsimp only
  split
  · exact h.me
  · split
    · trivial
    · split
      · split
        · exact ha _
        · trivial
      · exact ha _
    · split
      · split
        · exact h.me
        · trivial
      · exact noteMiss_room _ h.me
    · trivial

theorem branchOp_keeps {i : Instr} {f : BForm} {target : Ctx → DWord} {pops link : Bool} {s : State} (h : StoresWf s) :
    Keeps (branchOp i f target pops link s) := by
  refine roomOp_keeps h ?_
  dsimp only
  split
  · exact h.me
  · split
    · trivial
    · split
      · trivial
      · exact h.me

theorem execLoop_keeps {s : State} (f : LForm) (h : StoresWf s) : Keeps (execLoop f s) := by
  refine roomOp_keeps h ?_
  dsimp only
  split
  · trivial
  · split
    · exact h.me
    · split
      · trivial
      · exact h.me

theorem execRep_keeps {s : State} (f : PForm) (h : StoresWf s) : Keeps (execRep f s) := by
  refine slotOp_keeps h ?_
  dsimp only
  split
  · trivial
  · split
    · exact h.withMe (noteMiss_room _ h.me)
    · exact h
    · split
      · trivial
      · exact h

theorem execMfs_keeps {s : State} (sl : SSlot) (f : IForm) (h : StoresWf s) : Keeps (execMfs sl f s) := by
  refine slotOp_keeps h ?_
  dsimp only
  split
  · exact h
  · trivial

theorem execMts_keeps {s : State} (f : IForm) (h : StoresWf s) : Keeps (execMts f s) := by
  refine roomOp_keeps h ?_
  dsimp only
  split
  · trivial
  · exact h.me

/-! ### Vector operations (R211, R213, R235) -/

theorem readStream_room {r : Room} (k : Core) (slot c0 : Nat) (lost : Bool) (d : Nat) (vals : List (Nat × Nat))
    (h : RoomWf r) : RoomWf (r.readStream k slot c0 lost d vals).1 := by
  unfold Room.readStream
  dsimp only
  split
  · exact readChecked_room _ _ (engAccess_room _ _ _ _ _ h)
  · exact engAccess_room _ _ _ _ _ h

theorem vRead_room {r : Room} (k : Core) (fv : VForm) (g : VRegs) (p : VPlan) (f : Flight) (j : Nat) (h : RoomWf r) :
    RoomWf (vRead r k fv g p f j).1 := by
  unfold vRead
  extract_lets v isSplit isPerm second jj vals row k0 rowEnd rd b idx tblV inside _ m r1 bad o o' a b2 done whole acc rc
  have hrd {x : Room} (on : Bool) (d : Nat) (vs : List (Nat × Nat)) (hx : RoomWf x) : RoomWf (rd x on d vs).1 := by
    show RoomWf (if on then x.readStream k 2 f.c0 f.lost d vs else (x, [], true)).1
    split
    · exact readStream_room _ _ _ _ _ _ hx
    · exact hx
  split
  · show RoomWf (if _ then _ else _)
    split
    · refine readChecked_room _ _ (watchHits_room _ _ _ ?_)
      show RoomWf (match b.1.miss with | some _ => b.1 | none => _)
      split <;> exact hrd _ _ _ h
    · exact hrd _ _ _ h
  · exact hrd _ _ _ (hrd _ _ _ h)
  · split
    · show RoomWf (if _ then _ else _)
      split
      · exact readChecked_room _ _ (engAccess_room _ _ _ _ _ h)
      · exact engAccess_room _ _ _ _ _ h
    · exact hrd _ _ _ h
  · exact hrd _ _ _ (hrd _ _ _ (hrd _ _ _ h))

theorem flightWrites_room {r : Room} (f : Flight) (slot : Nat) (held : Bool) (h : RoomWf r) :
    RoomWf (flightWrites r f slot held).1 := by
  refine foldl_keeps (p := fun acc : Room × Flight => RoomWf acc.1) (fun acc w hacc => ?_) _ h
  extract_lets addrs _ a
  have ha : RoomWf a.1 := by
    show RoomWf (if _ then _ else _ : Room × Bool).1
    split
    · exact watchHits_room _ _ _ hacc
    · exact engAccess_room _ _ _ _ _ hacc
  split
  · exact ha
  · exact ha

theorem finishV_room {r : Room} (fv : VForm) (isQ : Bool) (f : Flight) (nb : Nat) (h : RoomWf r) :
    RoomWf (finishV r fv isQ f nb) := by
  unfold finishV
  extract_lets sum val raised
  split <;> exact h

theorem vRun_room {r : Room} (k : Core) (f : Flight) (h : RoomWf r) : RoomWf (vRun r k f).1 := by
  unfold vRun
  cases vFormOf f.op with
  | none => exact h
  | some fv =>
    extract_lets g v held isScatter hg f0 j isQ last
    cases vPlan f.op g with
    | none => exact h
    | some p =>
      dsimp -zeta only
      extract_lets y o w _ x _ z
      have hh : RoomWf hg.1 := by
        show RoomWf (if _ then _ else _ : Room × Bool).1
        split
        · exact holdGroups_room _ _ _ h
        · exact h
      have hx : RoomWf x.1 := by
        show RoomWf (if _ then _ else _ : Room × Flight).1
        split
        · split <;> exact vRead_room _ _ _ _ _ _ hh
        · exact hh
      have hz : RoomWf z.1 := flightWrites_room _ _ _ hx
      split
      · exact hh
      · exact iteInduction (motive := fun x : Room × Option Flight => RoomWf x.1)
          (fun _ => finishV_room _ _ _ _ hz) fun _ => hz

theorem vIssue_keeps {i : Instr} {f : VForm} {s : State} (h : StoresWf s) : Keeps (vIssue i f s) := by
  refine roomOp_keeps h ?_
  extract_lets c g
  split
  · trivial
  · exact vRun_room (r := { s.me with ctx.vFree := _ }) _ _ h.me

/-! ### Matrix operations (R243 to R258) -/

theorem setTile_room {r : Room} (t : Tile) (h : RoomWf r) : RoomWf (r.setTile t) := by
  unfold Room.setTile
  split <;> exact h

theorem bindTile_room {r : Room} (t : Tile) (h : RoomWf r) : RoomWf (r.bindTile t) := by
  unfold Room.bindTile
  split
  · exact h
  · exact setTile_room _ h

theorem noteReads_room {r : Room} (k : Core) (f : MAForm) (fl : Flight) (t : Nat) (h : RoomWf r) :
    RoomWf (r.noteReads k f fl t).1 := by
  unfold Room.noteReads
  split
  · exact h
  · refine readChecked_room _ _ (watchHits_room _ _ _ ?_)
    split <;> exact h

theorem mCycle_fst (r : Room) (k : Core) (f : MAForm) (fl : Flight) (t : Nat) :
    (mCycle r k f fl t).1 = (r.noteReads k f fl t).1 := by
  unfold mCycle
  dsimp only
  repeat' split
  all_goals rfl

theorem mRun_room {r : Room} (k : Core) (fl : Flight) (h : RoomWf r) : RoomWf (mRun r k fl).1 := by
  unfold mRun
  extract_lets t toEnd hg f0 at_
  split
  · exact h
  · split
    · exact h
    · extract_lets x y
      have hh : RoomWf hg.1 := by
        show RoomWf (if _ then _ else _ : Room × Bool).1
        split
        · exact holdGroups_room _ _ _ h
        · exact h
      have hx : RoomWf x.1 := by
        show RoomWf (if _ then _ else _ : Room × Flight).1
        split
        · rw [mCycle_fst]
          exact noteReads_room _ _ _ _ hh
        · exact hh
      have hy : RoomWf y.1 := flightWrites_room _ _ _ hx
      exact iteInduction (motive := fun x : Room × Option Flight => RoomWf x.1) (fun _ => hy) fun _ => hy

theorem mStart_room {i : Instr} {s : State} {r : Room} (da db occ lat : Nat) (rm : RM) (bad : Option Cause)
    (groups : List Nat) (holdTo : Nat) (buf : List Nat) (tile : Option Tile) (h : RoomWf r) :
    RoomWf (mStart i s r da db occ lat rm bad groups holdTo buf tile) := by
  unfold mStart
  extract_lets c r1 _ fl r2 x
  have h2 : RoomWf r2 := by
    show RoomWf (match tile with | some t => { r1.bindTile t with writers := r.writers + 1 } | none => r1)
    split
    · exact bindTile_room (r := r1) _ h
    · exact h
  split
  · exact h
  · exact mRun_room (s.coreOf r.core) fl h2

/-- The checks of an M instruction leave the room that they let through. -/
theorem guarded_room {x : Except Cause Unit} {r : Room} (h : RoomWf r) :
    OkHas RoomWf (match x with | .error k => .error k | .ok _ => .ok r) := by
  cases x with
  | error => trivial
  | ok => exact h

theorem arrayIssue_keeps {i : Instr} {f : MAForm} {zero slice : Bool} {s : State} (h : StoresWf s) :
    Keeps (arrayIssue i f zero slice s) := roomOp_keeps h (guarded_room (mStart_room _ _ _ _ _ _ _ _ _ _ h.me))

theorem execMsill_keeps {s : State} (f : MAForm) (h : StoresWf s) : Keeps (execMsill f s) :=
  roomOp_keeps h (guarded_room (mStart_room _ _ _ _ _ _ _ _ _ _ h.me))

theorem zeroIssue_keeps {i : Instr} {f : MAForm} {sigma : Option Int} {s : State} (h : StoresWf s) :
    Keeps (zeroIssue i f sigma s) := roomOp_keeps h (guarded_room (bindTile_room _ h.me))

theorem execMrel_keeps {s : State} (f : MAForm) (h : StoresWf s) : Keeps (execMrel f s) :=
  roomOp_keeps h (guarded_room h.me)

theorem execMround_keeps {s : State} (f : MAForm) (h : StoresWf s) : Keeps (execMround f s) :=
  roomOp_keeps h (guarded_room (mStart_room _ _ _ _ _ _ _ _ _ _ h.me))

theorem execMsave_keeps {s : State} (f : MAForm) (h : StoresWf s) : Keeps (execMsave f s) :=
  roomOp_keeps h (guarded_room (mStart_room _ _ _ _ _ _ _ _ _ _ h.me))

theorem execMload_keeps {s : State} (f : MAForm) (h : StoresWf s) : Keeps (execMload f s) :=
  roomOp_keeps h (guarded_room (mStart_room _ _ _ _ _ _ _ _ _ _ h.me))

theorem execMsplit_keeps {s : State} (f : MAForm) (h : StoresWf s) : Keeps (execMsplit f s) :=
  roomOp_keeps h (guarded_room (mStart_room _ _ _ _ _ _ _ _ _ _ h.me))

/-! ### The quire unit (R260 to R262) -/

theorem quireOp_keeps {i : Instr} {dest : Option (BitVec 3)} {lat : Nat} {body : Ctx → List (LandVal × Raised)} {s : State}
    (h : StoresWf s) : Keeps (quireOp i dest lat body s) := by
  refine roomOp_keeps h ?_
  extract_lets c qb go
  clear_value go
  split
  · trivial
  · split
    · exact h.me
    · trivial

theorem execQst_keeps {s : State} (f : MQForm) (h : StoresWf s) : Keeps (execQst f s) := by
  refine roomOp_keeps h ?_
  dsimp only
  split
  · trivial
  · split
    · trivial
    · split
      · exact noteMiss_room _ h.me
      · split
        · exact noteMiss_room _ h.me
        · exact watchHits_room _ _ _ h.me

theorem execQld_keeps {s : State} (f : MQForm) (h : StoresWf s) : Keeps (execQld f s) := by
  refine roomOp_keeps h ?_
  dsimp only
  split
  · trivial
  · split
    · trivial
    · split
      · exact noteMiss_room _ h.me
      · split
        · exact noteMiss_room _ h.me
        · split
          · trivial
          · exact readChecked_room _ _ (watchHits_room _ _ _ h.me)

/-! ### The X slot (R264 to R305) -/

theorem entryOp_keeps {i : Instr} {f : XForm} {ok aligned : Ctx → XEntry → Bool} {reads writes : Ctx → XEntry → List Iv}
    {fill : State → XEntry → XEntry} {s : State} (h : StoresWf s) : Keeps (entryOp i f ok aligned reads writes fill s) := by
  refine slotOp_keeps h ?_
  extract_lets r e
  split
  · trivial
  · split
    · trivial
    · split
      · trivial
      · split
        · trivial
        · exact h

theorem cardOp_keeps {i : Instr} {f : XForm} {isNext : Bool} {chain : Option Nat} {s : State} (h : StoresWf s) :
    Keeps (cardOp i f isNext chain s) := by
  refine slotOp_keeps h ?_
  extract_lets r c ch addr b orBusy addrs rd n
  have hrd : RoomWf rd.1 := readChecked_room _ _ (watchHits_room _ _ _ h.me)
  clear_value b
  split
  · trivial
  · split
    · trivial
    · split
      · trivial
      · split
        · exact h.withMe (noteMiss_room _ h.me)
        · split
          · exact h.withMe hrd
          · split
            · trivial
            · split
              · trivial
              · split
                · trivial
                · split
                  · trivial
                  · exact h.withMe hrd

theorem execPutT_keeps {s : State} (f : XForm) (h : StoresWf s) : Keeps (execPutT f s) := by
  refine slotOp_keeps h ?_
  extract_lets r e tb _ missed shares w
  clear_value w
  split
  · trivial
  · split
    · trivial
    · split
      · trivial
      · split
        · exact h
        · split
          · exact h
          · exact h

theorem execSinit_keeps {s : State} (f : XForm) (h : StoresWf s) : Keeps (execSinit f s) := by
  refine roomOp_keeps h ?_
  split
  · exact h.me
  · trivial

theorem execSinc_keeps {s : State} (f : XForm) (h : StoresWf s) : Keeps (execSinc f s) := by
  refine roomOp_keeps h ?_
  split
  · exact h.me
  · trivial

theorem execTwait_keeps {s : State} (f : XForm) (h : StoresWf s) : Keeps (execTwait f s) := by
  refine slotOp_keeps h ?_
  dsimp only
  split <;> exact h

theorem execTbsync_keeps {s : State} (f : XForm) (h : StoresWf s) : Keeps (execTbsync f s) := by
  refine slotOp_keeps h ?_
  dsimp only
  split
  · exact h
  · trivial

theorem amoOp_keeps {i : Instr} {f : XForm} {s : State} (h : StoresWf s) : Keeps (amoOp i f s) := by
  unfold amoOp
  split
  · exact h
  · exact entryOp_keeps h

theorem execPhase_keeps {s : State} (f : XForm) (h : StoresWf s) : Keeps (execPhase f s) := by
  refine slotOp_keeps h ?_
  extract_lets r c addr read head hd all _ poison rd fp _ p _ c1 _ r1
  have hread (n : Nat) : RoomWf (read n).1 := readChecked_room _ _ (watchHits_room _ _ _ h.me)
  split
  · trivial
  · split
    · trivial
    · split
      · exact h.withMe (noteMiss_room _ h.me)
      · split
        · exact h.withMe (hread _)
        · split
          · trivial
          · split
            · trivial
            · split
              · exact h.withMe (noteMiss_room _ h.me)
              · split
                · exact h.withMe (hread _)
                · split
                  · trivial
                  · split
                    · trivial
                    · exact flushMacct_stores _ (traceRec_stores _ _ _ _ _ _ (h.withMe (r := r1) ⟨(hread _).1, (hread _).2⟩))

theorem execDbar_keeps {s : State} (f : XForm) (h : StoresWf s) : Keeps (execDbar f s) := by
  refine roomOp_keeps h ?_
  split
  · exact h.me
  · trivial

theorem collOp_keeps {i : Instr} {f : XForm} {ok aligned : Ctx → XEntry → Bool} {reads writes : Room → XEntry → List Iv}
    {s : State} (h : StoresWf s) : Keeps (collOp i f ok aligned reads writes s) := by
  unfold collOp
  split
  · split
    · have ht := Keeps.next (entryOp_keeps h) ‹_›
      split
      · exact ht
      · exact ht
    · exact entryOp_keeps h
  · exact takeTrap_stores _ _ h

theorem execWmap_keeps {s : State} (f : XForm) (h : StoresWf s) : Keeps (execWmap f s) := by
  refine slotOp_keeps h ?_
  extract_lets r e n old new others aligned _ wb ws rd r1
  split
  · trivial
  · split
    · trivial
    · split
      · trivial
      · refine iteInduction (fun _ => trivial) fun _ => ?_
        exact iteInduction (fun _ => trivial) fun _ => h.withMe (r := r1) h.me

theorem flushOp_keeps {i : Instr} {f : XForm} {all : Bool} {which : Window → Bool} {s : State} (h : StoresWf s) :
    Keeps (flushOp i f all which s) := by
  refine slotOp_keeps h ?_
  extract_lets r ws e wb r1
  split
  · exact h
  · split
    · trivial
    · split
      · trivial
      · exact h

theorem leaveHandler_room {r : Room} (next : Nat) (h : RoomWf r) : RoomWf (r.leaveHandler next) := by
  unfold Room.leaveHandler
  split <;> exact h

theorem execTret_keeps {s : State} (f : XForm) (h : StoresWf s) : Keeps (execTret f s) := by
  refine roomOp_keeps h ?_
  extract_lets c q x
  split
  · trivial
  · split
    · trivial
    · exact leaveHandler_room (r := { s.me with ctx.winb := _ }) _ h.me

end Sys2Proof.Safety
end

section
/-! PROOFS. Accesses to global memory and the transfer engine keep every byte store canonical (R106, R23: O10). -/

namespace Sys2Proof.Safety

open Sys2Proof.Machine Sys2Proof.Laws

/-! ### Accesses to global memory (R402, R407, R446) -/

theorem gWrite_stores {s : State} (agent : Nat) (cover : Nat → Nat) (bytes : List (Nat × Nat × Byte)) (h : StoresWf s) :
    StoresWf (s.gWrite agent cover bytes) :=
  h.of_writeAside (gWrite_wf _ _ _ h.1) (gWrite_writeAside _ _ _ _)

theorem writeLine_stores {s : State} (cover : Nat) (l : LineWrite) (h : StoresWf s) : StoresWf (s.writeLine cover l) :=
  h.of_writeAside (writeLine_wf _ _ h.1) (writeLine_writeAside _ _ _)

theorem storeAt_stores {s : State} (l : LineWrite) (h : StoresWf s) : StoresWf (s.storeAt l) :=
  h.of_writeAside (storeAt_wf _ h.1) (storeAt_writeAside _ _)

theorem abortRestow_stores {s : State} (r : Restow) (reason i : Nat) (h : StoresWf s) : StoresWf (s.abortRestow r reason i) :=
  h.of_writeAside (abortRestow_wf _ _ _ h.1) (abortRestow_writeAside _ _ _ _)

theorem poisonPlace_stores {s : State} (line : Nat) (h : StoresWf s) : StoresWf (s.poisonPlace line) :=
  h.of_readAside (poisonPlace_readAside s line)

theorem poisonLine_stores {s : State} (w pa : Nat) (h : StoresWf s) : StoresWf (s.poisonLine w pa) := by
  unfold State.poisonLine
  split
  · exact poisonPlace_stores _ h
  · exact h

theorem reach_stores {s : State} (mmu asid va n : Nat) (k : AccessKind) (h : StoresWf s) :
    StoresWf (s.reach mmu asid va n k).1 := h.of_readAside (reach_readAside s mmu asid va n k)

theorem translate_stores {s : State} (mmu asid va : Nat) (k : AccessKind) (sl : Bool) (h : StoresWf s) :
    StoresWf (s.translate mmu asid va k sl).1 := h.of_readAside (translate_readAside s mmu asid va k sl)

theorem discover_stores {s : State} (l : List (Nat × Nat)) (h : StoresWf s) : StoresWf (s.discover l) :=
  h.of_readAside (discover_readAside s l)

theorem readLine_stores {s : State} (line : Nat) (h : StoresWf s) : StoresWf (s.readLine line) :=
  h.of_readAside (readLine_readAside s line)

theorem clockReplies_stores {s : State} (agent : Nat) (l : List (Nat × Nat)) (h : StoresWf s) :
    StoresWf (s.clockReplies agent l) := h.of_readAside (clockReplies_readAside s agent l)

theorem walkClock_stores {s : State} (floor asid va : Nat) (h : StoresWf s) : StoresWf (s.walkClock floor asid va) :=
  h.of_readAside (walkClock_readAside s floor asid va)

theorem request_stores {s : State} (h : StoresWf s) : StoresWf s.request := h.of_readAside (request_readAside s)

theorem hostWait_stores {s : State} (i : Instr) (h : StoresWf s) : StoresWf (s.hostWait i) := by
  unfold State.hostWait
  split
  · exact h
  · split <;> exact h

/-! ### Entries (R265, R268, R407) -/

theorem withEntry_stores {s : State} {rid : RoomId} {id : Nat} {ok : XEntry → Bool} {f : Room → XEntry → State}
    (h : StoresWf s) (hf : ∀ r e, RoomWf r → StoresWf (f r e)) : StoresWf (s.withEntry rid id ok f) := by
  unfold State.withEntry
  split
  · exact h
  · next r hr =>
    split
    · split
      · exact hf _ _ (h.room hr)
      · exact h
    · exact h

theorem setEntry_stores {s : State} (r : Room) (e : XEntry) (h : StoresWf s) : StoresWf (s.setEntry r e) :=
  onRoom_wf h fun _ hx => hx

theorem foundCause_stores {s : State} (r : RoomId) (k : Cause) (h : StoresWf s) : StoresWf (s.foundCause r k) := by
  unfold State.foundCause
  split
  · exact h
  · extract_lets due s1
    have hdue : StoresWf due := onRoom_wf h fun _ hx => hx
    have h1 : StoresWf s1 := by
      show StoresWf (if _ then _ else _)
      split
      · split
        · exact startDump_stores _ _ _ _ _ h
        · exact h
      · exact hdue
    split
    · exact hdue
    · split
      · exact post_stores _ h1
      · exact h1

theorem faultEntry_stores {s : State} (r : Room) (e : XEntry) (code sub index va : Nat) (acc : AccessKind) (h : StoresWf s) :
    StoresWf (s.faultEntry r e code sub index va acc) :=
  foundCause_stores _ _ (onRoom_wf h fun _ hx => hx)

theorem refuseEntry_stores {s : State} (r : Room) (e : XEntry) (die gen : Nat) (h : StoresWf s) :
    StoresWf (s.refuseEntry r e die gen) := onRoom_wf (count_stores _ _ h) fun _ hx => hx

theorem hold_stores {s : State} (k : Nat × Nat) (event : Instr) (h : StoresWf s) : StoresWf (s.hold k event) := by
  unfold State.hold
  split <;> exact h

theorem holdEntry_stores {s : State} (r : Room) (e : XEntry) (k : Nat × Nat) (h : StoresWf s) : StoresWf (s.holdEntry r e k) :=
  onRoom_wf (hold_stores _ _ h) fun _ hx => hx

theorem badData_stores {s : State} (r : Room) (h : StoresWf s) : StoresWf (s.badData r) :=
  onRoom_wf (count_stores _ _ h) fun _ hx => hx

/-! ### The canal port (R95, R97, R99) -/

theorem heal_stores {s : State} (r : Room) (addrs : List Nat) (h : StoresWf s) : StoresWf (s.heal r addrs) := by
  unfold State.heal
  split <;> exact h

theorem markWritten_room {r : Room} (l : List Nat) (h : RoomWf r) : RoomWf (r.markWritten l) := by
  unfold RoomWf
  rw [markWritten_scratch, markWritten_sills]
  exact h

/-- Bytes written into its scratchpad keep a room's stores canonical. -/
theorem putAll_room {r : Room} (cells : List Host.Cell) (h : RoomWf r) :
    RoomWf { r with scratch := Memory.putAll r.scratch cells } := ⟨wf_putAll _ h.1, h.2⟩

theorem canalWrite_stores {s : State} (r : Room) (own : Bool) (cells : List Host.Cell) (h : StoresWf s) :
    StoresWf (s.canalWrite r own cells) := by
  refine onRoom_wf (heal_stores _ _ h) fun x hx => ?_
  dsimp only
  split
  · exact putAll_room _ (watchHits_room _ _ _ (markWritten_room _ hx))
  · exact putAll_room _ hx

theorem canalRead_stores {s : State} {r : Room} (addrs : List Nat) (h : StoresWf s) (hr : RoomWf r) :
    StoresWf (s.canalRead r addrs).1 := by
  unfold State.canalRead
  extract_lets k x rd
  have hx : RoomWf x := by
    show RoomWf ((s.room? r.id).getD r)
    cases hs : s.room? r.id with
    | none => exact hr
    | some y => exact h.room hs
  exact onRoom_wf h fun _ _ => readChecked_room _ _ (watchHits_room _ _ _ hx)

/-! ### One unit of a card (R273, R274, R277) -/

theorem pieceReach_stores {s : State} (r : Room) (p : GPiece) (k : AccessKind) (h : StoresWf s) :
    StoresWf (s.pieceReach r p k).1 := by
  unfold State.pieceReach
  cases p with
  | va a len => exact reach_stores _ _ _ _ _ h
  | pa w a len => exact (request_stores h).of_readAside (found_readAside _ _ _)
  | pad bytes => exact h
  | denied => exact h

theorem piecesRead_stores {s : State} (r : Room) (ps : List GPiece) (h : StoresWf s) : StoresWf (s.piecesRead r ps).1 := by
  refine foldl_keeps (p := fun acc : State × Moved => StoresWf acc.1) (fun acc p hacc => ?_) ps h
  have hp := pieceReach_stores r p .read hacc
  dsimp only
  split
  · exact hacc
  · split
    · exact hp
    · exact clockReplies_stores _ _ hp
    · exact hp

theorem pieceWrite_stores {s : State} (r : Room) (n u : Nat) (p : GPiece) (bytes : List Byte) (h : StoresWf s) :
    StoresWf (s.pieceWrite r n u p bytes).1 := by
  have hp := pieceReach_stores r p .write h
  unfold State.pieceWrite
  dsimp only
  split
  · exact hp
  · exact gWrite_stores _ _ _ hp
  · exact hp

theorem localValue_stores {s : State} (r : Room) (d row k enc : Nat) (h : StoresWf s) :
    StoresWf (s.localValue r d row k enc) := canalWrite_stores _ _ _ h

theorem localEnc_stores {s : State} {r : Room} (d row k : Nat) (h : StoresWf s) (hr : RoomWf r) :
    StoresWf (s.localEnc r d row k).1 := canalRead_stores _ h hr

theorem localElem_stores {s : State} {r : Room} (d row k : Nat) (h : StoresWf s) (hr : RoomWf r) :
    StoresWf (s.localElem r d row k).1 := canalRead_stores _ h hr

/-- The state that a unit leaves holds canonical stores. -/
def UnitKeeps : UnitEnd → Prop
  | .done t _ _ => StoresWf t
  | .stop t _ => StoresWf t

/-- The state of a pair that a case of an answer takes apart. -/
theorem StoresWf.fst {α : Type} {x : State × α} {t : State} {a : α} (hx : StoresWf x.1) (he : x = (t, a)) : StoresWf t := by
  subst he; exact hx

theorem globalValue_keeps {s : State} (r : Room) (n u half enc : Nat) (ps : List GPiece) (h : StoresWf s) :
    UnitKeeps (s.globalValue r n u half enc ps) := by
  have hw (bytes : List Byte) := pieceWrite_stores r n u (ps.headD .denied) bytes h
  unfold State.globalValue
  extract_lets f p _ bytes
  split
  · exact (hw bytes).fst ‹_›
  · exact (hw bytes).fst ‹_›

theorem cardUnitWith_keeps {s : State} {r : Room} {e : XEntry} {n u : Nat} {rd : State → List GPiece → State × Moved}
    (h : StoresWf s) (hr : RoomWf r) (hrd : ∀ s ps, StoresWf s → StoresWf (rd s ps).1) :
    UnitKeeps (s.cardUnitWith r e n u rd) := by
  unfold State.cardUnitWith
  extract_lets l lf gf per row k ps s1 poisoned x0 x1 v cnt x2 x3
  have h1 : StoresWf s1 := by
    show StoresWf (if _ then _ else _)
    split
    · exact localEnc_stores _ _ _ h hr
    · exact h
  have hp (t : State) (bad : Bool) (ht : StoresWf t) : StoresWf (poisoned t bad) := by
    show StoresWf (if _ then _ else _)
    split
    · exact badData_stores _ ht
    · exact ht
  have hread := hrd s1 ps h1
  split
  · exact localValue_stores _ _ _ _ _ h1
  · exact globalValue_keeps _ _ _ _ _ _ h1
  · split
    · exact hread.fst ‹_›
    · exact canalWrite_stores _ _ _ (hp _ _ (hread.fst ‹_›))
  · have hw := pieceWrite_stores r n u (ps.headD .denied) x0.2 (localElem_stores l row k h1 hr)
    split
    · exact hw.fst ‹_›
    · exact hw.fst ‹_›
  · split
    · exact hread.fst ‹_›
    · exact localValue_stores _ _ _ _ _ (hp _ _ (hread.fst ‹_›))
  · have hw := globalValue_keeps r n u k v.1 ps (localEnc_stores l row k h1 hr)
    split
    · next t _ _ ht => exact (congrArg UnitKeeps ht).mp hw
    · exact hw
  · next out =>
    have hx2 : StoresWf x2.1 := foldl_keeps (p := fun acc : State × List Nat => StoresWf acc.1)
      (fun _ _ hacc => localEnc_stores _ _ _ hacc hr) _ h1
    extract_lets w src got
    have hgot : StoresWf got.1 := by
      show StoresWf (if _ then _ else _ : State × Moved × List Nat).1
      split
      · exact hx2
      · split
        · exact hp _ _ hread
        · exact hread
    split
    · exact hgot
    · extract_lets bytes raised
      clear_value bytes raised
      split
      · split
        · exact (pieceWrite_stores _ _ _ _ _ hgot).fst ‹_›
        · exact (pieceWrite_stores _ _ _ _ _ hgot).fst ‹_›
      · exact canalWrite_stores _ _ _ hgot
  · exact globalValue_keeps _ _ _ _ _ _ (localEnc_stores _ _ _ h1 hr)
  · split
    · exact hread.fst ‹_›
    · exact localValue_stores _ _ _ _ _ (hp _ _ (hread.fst ‹_›))

theorem raiseEntry_stores {s : State} (r : Room) (e : XEntry) (h : StoresWf s) : StoresWf (s.raiseEntry r e) := by
  unfold State.raiseEntry
  split
  · exact h
  · exact onRoom_wf h fun _ hx => hx

theorem askPeers_stores {s : State} (l : List (Nat × Nat)) (h : StoresWf s) : StoresWf (s.askPeers l) := h

theorem stopEntry_stores {s : State} (r : Room) (e : XEntry) (why : Reach) (index : Nat) (h : StoresWf s) :
    StoresWf (s.stopEntry r e why index) := by
  unfold State.stopEntry
  split
  · exact faultEntry_stores _ _ _ _ _ _ _ (raiseEntry_stores _ _ h)
  · exact refuseEntry_stores _ _ _ _ h
  · exact holdEntry_stores _ _ _ h
  · split <;> exact h
  · exact h

theorem endUnit_stores (r : Room) (e : XEntry) {u : UnitEnd} (h : UnitKeeps u) : StoresWf (endUnit r e u) := by
  cases u with
  | done t raised staged => exact onRoom_wf h fun _ hx => hx
  | stop t why => exact stopEntry_stores _ _ _ _ h

theorem cardRequestOnce_stores {s : State} (rid : RoomId) (id : Nat) (h : StoresWf s) : StoresWf (s.cardRequestOnce rid id) := by
  refine withEntry_stores h fun r e hr => ?_
  dsimp only
  split
  · exact h
  · split
    · exact h
    · exact stopEntry_stores _ _ _ _ h
    · exact endUnit_stores _ _ (cardUnitWith_keeps h hr fun _ _ => piecesRead_stores _ _)

theorem execBargeElementRequest_keeps {s : State} (r : RoomId) (id : Nat) (h : StoresWf s) :
    Keeps (execBargeElementRequest r id s) := by
  have h1 := cardRequestOnce_stores r id h
  show StoresWf (s.cardRequest r id)
  unfold State.cardRequest
  dsimp only
  split
  · split
    · exact cardRequestOnce_stores _ _ h1
    · exact h1
  · exact h1

/-! ### Channels and fences (R127, R276 to R281) -/

theorem execCardStart_keeps {s : State} (r : RoomId) (id : Nat) (h : StoresWf s) : Keeps (execCardStart r id s) := by
  refine withEntry_stores h fun x e _ => ?_
  split
  · exact setEntry_stores _ _ h
  · exact h

theorem execShadowCardSwap_keeps {s : State} (r : RoomId) (ch : BitVec 2) (h : StoresWf s) :
    Keeps (execShadowCardSwap r ch s) := by
  refine onRoom_wf h fun x hx => ?_
  split
  · exact hx
  · split
    · split <;> exact hx
    · exact hx

theorem bump_room {r : Room} (sem : BitVec 6) (h : RoomWf r) : RoomWf (r.bump sem) := h

theorem dropEntry_room {r : Room} (id : Nat) (h : RoomWf r) : RoomWf (r.dropEntry id) := h

theorem drainChannel_room {r : Room} (ch : Nat) (h : RoomWf r) : RoomWf (r.drainChannel ch) :=
  foldl_keeps (p := RoomWf) (fun _ (e : XEntry) hb => dropEntry_room e.id (bump_room e.form.ms hb)) _ h

theorem unstage_room {r : Room} (free : Nat) (e : XEntry) (n : Nat) (h : RoomWf r) : RoomWf (r.unstage free e n).1 :=
  putAll_room _ h

theorem execCardComplete_keeps {s : State} (r : RoomId) (id : Nat) (h : StoresWf s) : Keeps (execCardComplete r id s) := by
  refine withEntry_stores h fun x e hx => ?_
  extract_lets n y s0 s1
  have hy : RoomWf y.1 := by
    show RoomWf (if _ then _ else _ : Room × Nat).1
    split
    · exact unstage_room _ _ _ hx
    · exact hx
  have h1 : StoresWf s1 := onRoom_wf h fun z hz => ⟨hy.1, hz.2⟩
  exact onRoom_wf (raiseEntry_stores _ _ h1) fun z hz => drainChannel_room _ hz

theorem execFenceComplete_keeps {s : State} (r : RoomId) (id : Nat) (h : StoresWf s) : Keeps (execFenceComplete r id s) := by
  refine withEntry_stores h fun x e _ => ?_
  dsimp only
  split
  · exact h
  · exact onRoom_wf h fun _ hx => hx

end Sys2Proof.Safety
end

section
/-! PROOFS. Shared accesses at their homes, barriers, fills and the end of a room keep every byte store canonical (R106, R23:
O10). -/

namespace Sys2Proof.Safety

open Sys2Proof.Machine Sys2Proof.Laws

/-! ### The rooms of a state -/

theorem StoresWf.member {s : State} (h : StoresWf s) {r x : Room} {i : Nat} (hx : x ∈ s.members r i) : RoomWf x :=
  h.rooms (List.mem_filter.1 (List.mem_filter.1 hx).1).1

theorem focus_stores {s : State} (id : RoomId) (h : StoresWf s) : StoresWf (s.focus id) := by
  unfold State.focus
  split
  · exact h
  · split
    · next r hr =>
      have hrest : ∀ x ∈ s.others.filter fun r => r.id != id, RoomWf x := fun x hx => h.others (List.mem_filter.1 hx).1
      refine ⟨h.1, h.others (List.mem_of_find?_eq_some hr), fun x hx => ?_, h.2.2.2⟩
      dsimp only at hx
      split at hx
      · exact hrest x hx
      · rcases List.mem_cons.1 hx with rfl | hx
        · exact h.me
        · exact hrest x hx
    · exact h

theorem ensure_stores {s : State} (core : Nat) (h : StoresWf s) : StoresWf (s.ensure core) := by
  unfold State.ensure
  split
  · exact h
  · split
    · split
      · exact h
      · exact switch_stores _ _ h
    · exact h

theorem ensureAll_stores {s : State} (cores : List Nat) (h : StoresWf s) : StoresWf (s.ensureAll cores) :=
  foldl_keeps (p := StoresWf) (fun _ _ => ensure_stores _) _ h

/-! ### Write-backs and accesses with no entry (R105, R407, R408) -/

theorem writeBack_stores {s : State} (r : Room) (bytes : List (Nat × Byte)) (h : StoresWf s) :
    StoresWf (s.writeBack r bytes).1 := by
  refine foldl_keeps (p := fun acc : State × List (Nat × Byte) × Option Reach => StoresWf acc.1) (fun acc l hacc => ?_) _ h
  have hr := reach_stores r.core r.asid (64 * l.1) 1 .write hacc
  dsimp only
  split
  · exact hacc
  · split
    · exact gWrite_stores _ _ _ hr
    · exact hr

theorem holdRoom_stores {s : State} (r : Room) (k : Nat × Nat) (event : Instr) (h : StoresWf s) :
    StoresWf (s.holdRoom r k event) := onRoom_wf (hold_stores _ _ h) fun _ hx => hx

theorem dropTlb_stores {s : State} (floor asid va : Nat) (h : StoresWf s) : StoresWf (s.dropTlb floor asid va) := h

theorem countReplay_stores {s : State} (r : Room) (h : StoresWf s) : StoresWf (s.countReplay r) := count_stores _ _ h

theorem refuseRoom_stores {s : State} (r : Room) (die gen va : Nat) (k : AccessKind) (h : StoresWf s) :
    StoresWf (s.refuseRoom r die gen va k).1 := by
  unfold State.refuseRoom
  extract_lets s1
  have h1 : StoresWf s1 := onRoom_wf (dropTlb_stores _ _ _ (count_stores _ _ h)) fun _ hx => hx
  split
  · exact h1
  · exact countReplay_stores _ h1

theorem reachFresh_stores {s : State} (r : Room) (event : Instr) (va n : Nat) (k : AccessKind) (h : StoresWf s) :
    StoresWf (s.reachFresh r event va n k).1 := by
  unfold State.reachFresh
  extract_lets settle again x
  have hsettle (x : State × Reach) (hx : StoresWf x.1) : StoresWf (settle x).1 := by
    show StoresWf (match x.2 with
      | .held (some h) => (x.1.holdRoom r h event, x.2)
      | .refused _ _ => (x.1, Reach.held none)
      | o => (x.1.onRoom r.id fun y => { y with heldBy := none }, o)).1
    split
    · exact holdRoom_stores _ _ _ hx
    · exact hx
    · exact onRoom_wf hx fun _ hy => hy
  have hagain (t : State) (die gen : Nat) (ht : StoresWf t) : StoresWf (again t die gen).1 := by
    have hy := refuseRoom_stores r die gen va k ht
    show StoresWf (if _ then _ else _ : State × Reach).1
    split
    · exact hsettle _ (reach_stores _ _ _ _ _ hy)
    · exact hy
  have hx := reach_stores r.core r.asid va n k h
  split
  · exact h
  · exact hagain _ _ _ h
  · split
    · exact hagain _ _ _ hx
    · exact hsettle _ hx

/-! ### Dispatch (R265, R266) -/

theorem regionBytes_stores {s : State} {r : Room} (d : Nat) (h : StoresWf s) (hr : RoomWf r) :
    StoresWf (s.regionBytes r d).1 := by
  refine foldl_keeps (p := fun acc : State × List Byte => StoresWf acc.1) (fun _ _ hacc => ?_) _ h
  exact localElem_stores _ _ _ hacc hr

theorem regionEncs_stores {s : State} {r : Room} (d : Nat) (h : StoresWf s) (hr : RoomWf r) :
    StoresWf (s.regionEncs r d).1 := by
  refine foldl_keeps (p := fun acc : State × List Nat => StoresWf acc.1) (fun _ _ hacc => ?_) _ h
  exact localEnc_stores _ _ _ hacc hr

theorem freeBad_stores {s : State} (bytes : List (Byte × Bool)) (h : StoresWf s) : StoresWf (s.freeBad bytes).1 := by
  unfold State.freeBad
  split <;> exact h

theorem payloadOf_stores {s : State} {r : Room} (addrs : List Nat) (h : StoresWf s) (hr : RoomWf r) :
    StoresWf (s.payloadOf r addrs).1 := freeBad_stores _ (canalRead_stores _ h hr)

theorem numberAtomic_stores {s : State} (r : Room) (e : XEntry) (h : StoresWf s) : StoresWf (s.numberAtomic r e).1 := by
  unfold State.numberAtomic
  split <;> exact h

theorem sourceBytes_stores {s : State} {r : Room} (l : List (Nat × Nat)) (h : StoresWf s) (hr : RoomWf r) :
    StoresWf (s.sourceBytes r l).1 := payloadOf_stores _ h hr

theorem dispatch_stores {s : State} {r : Room} (e : XEntry) (h : StoresWf s) (hr : RoomWf r) : StoresWf (s.dispatch r e) := by
  unfold State.dispatch
  extract_lets numbered s1 _ e1 to_ x1 x2 x3 b x4 left x5
  have h1 : StoresWf s1 := numberAtomic_stores _ _ h
  have hto (t : State) (e : XEntry) (ht : StoresWf t) : StoresWf (to_ t e) := setEntry_stores _ _ ht
  have h4 : StoresWf x4.1 := writeBack_stores _ _ (sourceBytes_stores _ h1 hr)
  have hflush : StoresWf (match x4.2.2 with
      | none => x4.1.onRoom r.id fun y => (y.bump e1.form.ms).dropEntry e1.id
      | some why => (x4.1.setEntry r left).stopEntry r left why 0) := by
    split
    · exact onRoom_wf h4 fun _ hx => hx
    · exact stopEntry_stores _ _ _ _ (setEntry_stores _ _ h4)
  split
  · exact hto _ _ h1
  · exact hto _ _ (regionEncs_stores _ h1 hr)
  · exact hto _ _ (payloadOf_stores _ h1 hr)
  · split
    · exact hto _ _ (regionBytes_stores _ h1 hr)
    · exact hto _ _ h1
  · exact hflush
  · exact hflush
  · exact hflush
  · split
    · exact hto _ _ h1
    · exact hto _ _ (payloadOf_stores _ h1 hr)

theorem sendPut_stores {s : State} (r : RoomId) (id : Nat) (h : StoresWf s) : StoresWf (s.sendPut r id) := by
  refine withEntry_stores h fun x e _ => ?_
  split <;> exact h

theorem execEntryDispatch_keeps {s : State} (r : RoomId) (id : Nat) (h : StoresWf s) : Keeps (execEntryDispatch r id s) := by
  refine withEntry_stores h fun x e hx => ?_
  split
  · exact h
  · exact stopEntry_stores _ _ _ _ h
  · split
    · exact sendPut_stores _ _ (dispatch_stores _ h hx)
    · exact h

theorem execPutLanding_keeps {s : State} (r : RoomId) (id : Nat) (h : StoresWf s) : Keeps (execPutLanding r id s) := by
  refine withEntry_stores h fun x e _ => ?_
  extract_lets s1 violation a
  have h1 : StoresWf s1 := onRoom_wf h fun _ hx => hx
  have hv : StoresWf violation := foundCause_stores _ _ h1
  split
  · exact h
  · split
    · exact hv
    · next y _ =>
      extract_lets s2 deadline late s3
      have h3 : StoresWf s3 := onRoom_wf (heal_stores _ _ h1) fun y hy => putAll_room _ hy
      split
      · exact hv
      · split
        · exact foundCause_stores _ _ h3
        · exact h3

/-! ### Sluice commands and atomics (R118 to R122, R290 to R292) -/

theorem sluiceDone_stores {s : State} (r : Room) (e : XEntry) (reply : Nat) (h : StoresWf s) :
    StoresWf (s.sluiceDone r e reply) := by
  unfold State.sluiceDone
  split
  · exact setEntry_stores _ _ h
  · exact onRoom_wf h fun _ hx => hx

theorem clockRequests_stores {s : State} (agent : Nat) (l : List (Nat × Nat)) (h : StoresWf s) :
    StoresWf (s.clockRequests agent l) :=
  foldl_keeps (p := StoresWf) (f := fun s d => s.clockMsg agent d) (fun _ _ hb => hb) _ h

theorem execSluiceApply_keeps {s : State} (r : RoomId) (id : Nat) (h : StoresWf s) : Keeps (execSluiceApply r id s) := by
  refine withEntry_stores h fun x e _ => ?_
  extract_lets va t
  have ht : StoresWf t.1 := translate_stores _ _ _ _ _ h
  split
  · exact h
  · exact stopEntry_stores _ _ _ _ h
  · exact stopEntry_stores _ _ _ _ h
  · split
    · exact stopEntry_stores _ _ _ _ ht
    · split
      · exact h
      · split
        · exact stopEntry_stores _ _ _ _ ht
        · next secs _ =>
          extract_lets reach places e1 t1 olds writes t2
          have h1 : StoresWf t1 := discover_stores _ (request_stores ht)
          clear_value reach
          split
          · split
            · exact h
            · split
              · exact sluiceDone_stores _ _ _ (badData_stores _ (clockRequests_stores _ _ h1))
              · refine sluiceDone_stores _ _ _ ?_
                show StoresWf (if _ then _ else _)
                split
                · exact clockRequests_stores _ _ h1
                · exact gWrite_stores _ _ _ h1
          · exact stopEntry_stores _ _ _ _ ht

theorem replyClock_stores {s : State} (r : Room) (e : XEntry) (h : StoresWf s) : StoresWf (s.replyClock r e) := by
  unfold State.replyClock
  split <;> exact h

theorem execSluiceReply_keeps {s : State} (r : RoomId) (id : Nat) (h : StoresWf s) : Keeps (execSluiceReply r id s) :=
  withEntry_stores h fun _ _ _ => onRoom_wf (canalWrite_stores _ _ _ (replyClock_stores _ _ h)) fun _ hx => hx

theorem recordAtomic_stores {s : State} (home source seq reply : Nat) (h : StoresWf s) :
    StoresWf (s.recordAtomic home source seq reply) := h

theorem retrain_stores {s : State} (link : Nat) (h : StoresWf s) : StoresWf (s.retrain link) := by
  unfold State.retrain
  split
  · split
    · exact h
    · exact count_stores _ _ h
  · exact h

theorem retrainPath_stores {s : State} (r : Room) (h : StoresWf s) : StoresWf (s.retrainPath r) := by
  unfold State.retrainPath
  split
  · exact h
  · split
    · exact retrain_stores _ h
    · exact h

theorem execAtomicApply_keeps {s : State} (r : RoomId) (id : Nat) (h : StoresWf s) : Keeps (execAtomicApply r id s) := by
  refine withEntry_stores h fun x e _ => ?_
  split
  · exact h
  · exact stopEntry_stores _ _ _ _ h
  · exact stopEntry_stores _ _ _ _ h
  · extract_lets f size ty va t home reply
    have ht : StoresWf t.1 := reach_stores _ _ _ _ _ h
    have hreply (u : State) (v : Nat) (hu : StoresWf u) : StoresWf (reply u v) := setEntry_stores _ _ hu
    split
    · split
      · exact h
      · dsimp only
        split
        · exact hreply _ _ (clockRequests_stores _ _ ht)
        · split
          · exact hreply _ _ (badData_stores _ (retrainPath_stores _ (count_stores _ _ ht)))
          · split
            · exact ht
            · split
              · exact h
              · split
                · exact hreply _ _ (recordAtomic_stores _ _ _ _ (badData_stores _ ht))
                · exact hreply _ _ (recordAtomic_stores _ _ _ _ (gWrite_stores _ _ _ ht))
    · exact h
    · exact stopEntry_stores _ _ _ _ ht

theorem execAtomicReply_keeps {s : State} (r : RoomId) (id : Nat) (h : StoresWf s) : Keeps (execAtomicReply r id s) := by
  refine withEntry_stores h fun x e _ => onRoom_wf ?_ fun _ hx => hx
  have h1 := replyClock_stores x e h
  split
  · exact canalWrite_stores _ _ _ h1
  · exact h1

/-! ### Collectives (R298 to R302) -/

theorem collWrite_stores {s : State} (r : Room) (e : XEntry) (bytes : List Byte) (h : StoresWf s) :
    StoresWf (s.collWrite r e bytes) := by
  unfold State.collWrite
  dsimp only
  split
  · exact canalWrite_stores _ _ _ h
  · refine foldl_keeps (p := StoresWf) (fun b _ hb => ?_) _ h
    split
    · exact localValue_stores _ _ _ _ _ hb
    · exact hb
  · split
    · exact h
    · exact canalWrite_stores _ _ _ h

theorem execCollectiveComplete_keeps {s : State} (r : RoomId) (id : Nat) (h : StoresWf s) :
    Keeps (execCollectiveComplete r id s) := by
  refine withEntry_stores h fun x e _ => ?_
  extract_lets f ms finish es rootOk out s1
  have hfinish (t : State) (bytes : List Byte) (raised : Raised) (ht : StoresWf t) : StoresWf (finish t bytes raised) := by
    show StoresWf (match t.room? r with
      | some y => (((t.clockMsg hallAgent y.agent).collWrite y e bytes).raiseEntry y { e with raised := raised }).onRoom r
          fun z => (z.bump f.ms).dropEntry id
      | none => t)
    split
    · exact onRoom_wf (raiseEntry_stores _ _ (collWrite_stores _ _ _ ht)) fun _ hx => hx
    · exact ht
  split
  · exact hfinish _ _ _ h
  · have h1 : StoresWf s1 := by
      refine foldl_keeps (p := StoresWf) (fun b y hb => ?_) _ h
      refine onRoom_wf (s := b.clockMsg _ _) hb fun z hz => ?_
      split <;> exact hz
    split
    · exact h
    · split
      · exact hfinish _ _ _ h1
      · refine foldl_keeps (p := StoresWf) (fun b y hb => ?_) _ h
        split
        · exact foundCause_stores _ _ (onRoom_wf hb fun _ hx => hx)
        · exact hb

/-! ### Barriers and the ends of waits (R30, R31, R45, R47, R287) -/

theorem setWait_room {r : Room} (w : Wait) (h : RoomWf r) : RoomWf (r.setWait w) := by
  unfold Room.setWait
  split <;> exact h

theorem takeSnap_room {r : Room} (h : RoomWf r) : RoomWf r.takeSnap := h

theorem passBarrier_room {r : Room} (comm : Bool) (i : Nat) (h : RoomWf r) : RoomWf (r.passBarrier comm i) :=
  takeSnap_room (r := { r.setWait .none with ctx := _ }) ⟨(setWait_room .none h).1, (setWait_room .none h).2⟩

theorem execDbarArrival_keeps {s : State} (r : RoomId) (h : StoresWf s) : Keeps (execDbarArrival r s) := by
  refine onRoom_wf h fun x hx => ?_
  split
  · split
    · exact setWait_room _ hx
    · exact hx
  · exact hx

theorem execDbarComplete_keeps {s : State} (r : RoomId) (h : StoresWf s) : Keeps (execDbarComplete r s) := by
  unfold execDbarComplete
  show StoresWf (match s.room? r with | none => s | some x => _)
  split
  · exact h
  · split
    · dsimp only
      split
      · exact ensureAll_stores _ (onRooms_stores (s := { s with kinds := _ }) h fun _ hx => passBarrier_room _ _ hx)
      · exact h
    · exact h

theorem execSwaitRelease_keeps {s : State} (r : RoomId) (h : StoresWf s) : Keeps (execSwaitRelease r s) := by
  unfold execSwaitRelease
  show StoresWf (match s.room? r with | some x => _ | none => s)
  split
  · split
    · exact ensure_stores _ (onRoom_wf h fun _ hx => hx)
    · exact h
  · exact h

theorem execTwaitRelease_keeps {s : State} (r : RoomId) (h : StoresWf s) : Keeps (execTwaitRelease r s) := by
  unfold execTwaitRelease
  show StoresWf (match s.room? r with | some x => _ | none => s)
  split
  · split
    · exact onRoom_wf h fun _ hx => hx
    · exact h
  · exact h

theorem execTbRealignDone_keeps {s : State} (pkg : Nat) (h : StoresWf s) : Keeps (execTbRealignDone pkg s) := by
  unfold execTbRealignDone
  show StoresWf (match (0 :: s.hall.realignAway).find? fun d => s.pkgNo d == pkg && s.hall.aligning d with | none => s | some d => _)
  split
  · exact h
  · dsimp only
    split <;> exact h

/-! ### Lines a held room waits for (R101, R105, R388) -/

theorem fillFault_stores {s : State} (r : RoomId) (code sub va : Nat) (acc : AccessKind) (h : StoresWf s) :
    StoresWf (s.fillFault r code sub va acc) := by
  unfold State.fillFault
  dsimp only
  split
  · exact takeTrap_stores _ _ (focus_stores _ h)
  · exact h

theorem placesRead_stores {s : State} (l : List (Nat × Nat)) (h : StoresWf s) : StoresWf (s.placesRead l).1 :=
  freeBad_stores _ h

theorem fillBytes_stores {s : State} (r : Room) (l : List (Nat × Nat)) (h : StoresWf s) : StoresWf (s.fillBytes r l).1 := by
  have hx := placesRead_stores l (clockReplies_stores r.agent l h)
  show StoresWf (if _ then _ else _)
  split
  · exact badData_stores _ hx
  · exact hx

theorem fillWindow_stores {s : State} (x : Room) (w : Window) (line : Nat) (bytes : List Byte) (h : StoresWf s) :
    StoresWf (s.fillWindow x w line bytes) := onRoom_wf (heal_stores _ _ h) fun _ hy => putAll_room _ hy

theorem execWindowFill_keeps {s : State} (r : RoomId) (h : StoresWf s) : Keeps (execWindowFill r s) := by
  unfold execWindowFill
  show StoresWf (match s.room? r with | none => s | some x => _)
  split
  · exact h
  · next x hx =>
    split
    · split
      · exact onRoom_wf h fun _ hy => hy
      · dsimp only
        have ht (va : Nat) := reachFresh_stores x (.windowFill r) va 256 .read h
        split
        · exact h
        · split
          · exact fillWindow_stores _ _ _ _ (fillBytes_stores _ _ (ht _))
          · exact fillFault_stores _ _ _ _ _ (ht _)
          · exact ht _
          · exact ht _
    · exact h

theorem execAtticOverflowFill_keeps {s : State} (r : RoomId) (h : StoresWf s) : Keeps (execAtticOverflowFill r s) := by
  unfold execAtticOverflowFill
  show StoresWf (match s.room? r with | none => s | some x => _)
  split
  · exact h
  · next x hx =>
    split
    · dsimp only
      have ht (va : Nat) := reachFresh_stores x (.atticOverflowFill r) va 256 .read h
      split
      · exact h
      · split
        · exact onRoom_wf (fillBytes_stores _ _ (ht _)) fun _ hy => hy
        · exact fillFault_stores _ _ _ _ _ (ht _)
        · exact ht _
        · exact ht _
    · exact h

/-! ### Landings and the end of a room (R157, R204) -/

theorem runFlights_room {r : Room} (k : Core) (h : RoomWf r) : RoomWf (r.runFlights k) := by
  refine foldl_keeps (p := fun acc : Room × List Flight => RoomWf acc.1) (fun acc f hacc => ?_) _ h
  dsimp only
  split
  · exact vRun_room _ _ hacc
  · exact mRun_room _ _ hacc

theorem beginCycle_room {r : Room} (k : Core) (h : RoomWf r) : RoomWf (r.beginCycle k) :=
  runFlights_room _ (landDue_wf (r := { r with ports := [], eccHits := [] }) h)

theorem emptyCycle_room {r : Room} (k : Core) (h : RoomWf r) : RoomWf (r.emptyCycle k) := by
  have hk : RoomWf ((if r.life = .running then r.keepLatched else r).beginCycle k) := by
    refine beginCycle_room k ?_
    split <;> exact h
  exact landStores_wf (r := { Room.beginCycle _ k with ctx.ic := _, ctx.redirects := _ }) hk

theorem drainCycle_room {r : Room} (k : Core) (h : RoomWf r) : RoomWf (r.drainCycle k) := by
  unfold Room.drainCycle
  dsimp only
  split
  · exact h
  · exact emptyCycle_room k h

theorem flushDirty_stores {s : State} {x : Room} (dirty : List (Nat × Nat)) (event : Instr) (h : StoresWf s) (hx : RoomWf x) :
    StoresWf (s.flushDirty x dirty event).1 := by
  unfold State.flushDirty
  extract_lets refuse b w left t
  have hrefuse (u : State) (die gen va : Nat) (hu : StoresWf u) : StoresWf (refuse u die gen va).1 :=
    refuseRoom_stores _ _ _ _ _ hu
  have ht : StoresWf t := onRoom_wf (writeBack_stores _ _ (sourceBytes_stores _ h hx)) fun _ hy => hy
  split
  · exact h
  · exact hrefuse _ _ _ _ h
  · split
    · exact ht
    · exact ht
    · exact hrefuse _ _ _ _ ht
    · exact holdRoom_stores _ _ _ ht
    · exact ht

theorem execRoomHalted_keeps {s : State} (r : RoomId) (h : StoresWf s) : Keeps (execRoomHalted r s) := by
  unfold execRoomHalted
  show StoresWf (match s.room? r with | none => s | some x => _)
  split
  · exact h
  · next x hx =>
    split
    · exact h
    · have hf := flushDirty_stores x.dirtyBytes (.roomHalted r) h (h.room hx)
      split
      · exact ensure_stores _ (onRoom_wf (hf.fst ‹_›) fun _ hy => hy)
      · exact fillFault_stores _ _ _ _ _ (hf.fst ‹_›)
      · exact hf.fst ‹_›

end Sys2Proof.Safety
end

section
/-! PROOFS. Banks, counters and commands keep every byte store canonical (R106, R23: O10). -/

namespace Sys2Proof.Safety

open Sys2Proof.Machine Sys2Proof.Laws

/-! ### Failed banks (R98) -/

theorem failBank_stores {s : State} (core bank : Nat) (h : StoresWf s) : StoresWf (s.failBank core bank) := by
  unfold State.failBank
  extract_lets s1 n s2
  have h2 : StoresWf s2 := by
    refine post_stores _ ?_
    split
    · exact count_stores _ _ h
    · exact h
  split
  · exact h
  · split
    · exact post_stores _ h2
    · exact h2

theorem correctedError_stores {s : State} (core bank : Nat) (h : StoresWf s) : StoresWf (s.correctedError core bank) := by
  unfold State.correctedError
  extract_lets k recent s1
  have h1 : StoresWf s1 := h
  split
  · exact failBank_stores _ _ h1
  · exact h1

theorem flushEcc_stores {s : State} (h : StoresWf s) : StoresWf s.flushEcc := by
  unfold State.flushEcc
  extract_lets r hits bad good k banks s1 s2
  have h1 : StoresWf s1 := count_stores _ _ (count_stores _ _ (count_stores _ _ h))
  have h2 : StoresWf s2 := foldl_keeps (p := StoresWf) (fun _ _ => correctedError_stores _ _) _ h1
  split
  · exact h
  · exact h2.withMe ⟨h2.me.1, h2.me.2⟩

theorem drainTurn_stores {s : State} (h : StoresWf s) : StoresWf s.drainTurn := by
  have h1 : StoresWf (s.flushEcc.heal s.me s.me.ctx.landingBytes) := heal_stores _ _ (flushEcc_stores h)
  exact flushEcc_stores (h1.withMe (drainCycle_room _ h1.me))

theorem execLanding_keeps {s : State} (r : RoomId) (h : StoresWf s) : Keeps (execLanding r s) := by
  have ht := focus_stores r h
  unfold execLanding
  extract_lets t x
  show StoresWf (if _ then _ else _)
  split
  · exact h
  · split
    · exact drainTurn_stores ht
    · split
      · exact onRoom_wf (heal_stores _ _ ht) fun _ hx => landDue_wf hx
      · exact h

/-! ### The counts of a cycle (R428, R430, R432, R434, R435) -/

theorem chargeCycle_stores {s : State} (core : Nat) (x : DWord × Nat) (h : StoresWf s) : StoresWf (s.chargeCycle core x) := by
  have h1 := count_stores (coreCounter core x.2) 1 h
  unfold State.chargeCycle
  dsimp only
  split <;> exact h1

theorem sample_stores {s : State} (r : Room) (h : StoresWf s) : StoresWf (s.sample r) := by
  unfold State.sample
  dsimp only
  split
  · split
    · split
      · exact traceRec_stores _ _ _ _ _ _ h
      · exact h
    · exact h
  · exact h

theorem countIssue_stores {s : State} (r : Room) (m : Option Instr) (h : StoresWf s) : StoresWf (s.countIssue r m) :=
  chargeCycle_stores _ _ (sample_stores _ (count_stores _ _ h))

theorem chargeTurn_stores {s : State} (r : Room) (h : StoresWf s) : StoresWf (s.chargeTurn r) := by
  unfold State.chargeTurn
  split
  · exact chargeCycle_stores _ _ h
  · exact h

theorem countHeld_stores {s : State} (core : Nat) (r : Option Room) (power : Bool) (h : StoresWf s) :
    StoresWf (s.countHeld core r power) := by
  unfold State.countHeld
  split
  · exact chargeCycle_stores _ _ h
  · extract_lets frozen s1
    clear_value frozen
    refine chargeCycle_stores _ _ ?_
    show StoresWf (if _ then _ else _)
    split
    · exact h
    · exact count_stores _ _ h

theorem preemptHere_room {r : Room} (tb : Nat) (h : RoomWf r) : RoomWf (r.preemptHere tb) := h

theorem fireDie_stores {s : State} (t die : Nat) (h : StoresWf s) : StoresWf (s.fireDie t die) := by
  unfold State.fireDie
  split
  · exact h
  · dsimp only
    split <;> exact h

theorem triggerDies_stores {s : State} (h : StoresWf s) : StoresWf s.triggerDies := by
  unfold State.triggerDies
  split
  · exact h
  · exact foldl_keeps (p := StoresWf) (fun _ _ => fireDie_stores _ _) _ h

theorem errEvent_stores {s : State} (die : Nat) (h : StoresWf s) : StoresWf (s.errEvent die) := by
  unfold State.errEvent
  extract_lets now due changed s1
  clear_value due
  split
  · exact h
  · exact post_stores _ h

theorem errEvents_stores {s : State} (h : StoresWf s) : StoresWf s.errEvents :=
  foldl_keeps (p := StoresWf) (fun _ _ => errEvent_stores _) _ h

/-! ### Commands (R407, R412 to R414) -/

theorem recordReply_stores {s : State} (k : CmdHdr) (i : Instr) (a : Answer) (h : StoresWf s) :
    StoresWf (s.recordReply k i a) := h

theorem command_stores {s : State} {k : CmdHdr} {i : Instr} {need : Nat} {body : State → Session → State × Answer}
    (h : StoresWf s) (hb : ∀ x, StoresWf (body s x).1) : StoresWf (s.command k i need body) := by
  unfold State.command
  split
  · exact count_stores _ _ h
  · next x _ =>
    split
    · dsimp only
      refine recordReply_stores _ _ _ ?_
      split
      · exact hb x
      · exact h
    · split
      · split <;> exact h
      · split
        · exact h
        · split
          · split <;> exact h
          · exact count_stores _ _ h

theorem cmdOp_keeps {k : CmdHdr} {i : Instr} {need : Nat} {body : State → Session → State × Answer} {s : State}
    (h : StoresWf s) (hb : ∀ x, StoresWf (body s x).1) : Keeps (cmdOp k i need body s) := command_stores h hb

theorem cmdHeld_keeps {k : CmdHdr} {i : Instr} {need : Nat} {held : State → Bool}
    {body : State → Session → State × Answer} {s : State} (h : StoresWf s) (hb : ∀ x, StoresWf (body s x).1) :
    Keeps (cmdHeld k i need held body s) := by
  unfold cmdHeld
  extract_lets next
  clear_value next
  split
  · exact hostWait_stores _ h
  · exact cmdOp_keeps h hb

theorem hallWalks_stores {s : State} (asid va n : Nat) (h : StoresWf s) : StoresWf (s.hallWalks asid va n) :=
  h.of_readAside (hallWalks_readAside s asid va n)

theorem hallMeets_stores {s : State} (asid va n : Nat) (h : StoresWf s) : StoresWf (s.hallMeets asid va n) :=
  h.of_readAside (hallMeets_readAside s asid va n)

theorem hallWrite_stores {s : State} (asid va : Nat) (bytes : List Byte) (h : StoresWf s) :
    StoresWf (s.hallWrite asid va bytes).1 := by
  unfold State.hallWrite
  split
  · exact gWrite_stores _ _ _ (hallWalks_stores _ _ _ h)
  · exact h

end Sys2Proof.Safety
end

section
/-! PROOFS. Containers, code pages, admission, pre-emption and contexts keep every byte store canonical (R106, R23: O10). -/

namespace Sys2Proof.Safety

open Sys2Proof.Machine Sys2Proof.Laws

/-! ### Restored rooms (R395) -/

theorem cellsOf_wf (b : List Byte) : Memory.wf (cellsOf b) = true := wf_putAll _ rfl

/-- What every record keeps, the walk of a body keeps. -/
theorem walkRecords_keeps {α : Type} {p : α → Prop} {known : Nat → Bool} {f : Nat → List Byte → α → Option α}
    (hf : ∀ t b x y, p x → f t b x = some y → p y) :
    ∀ (n : Nat) (b : List Byte) (x y : α), p x → walkRecords known f n b x = some y → p y
  | 0, _, x, y, hx, he => by cases he; exact hx
  | n + 1, b, x, y, hx, he => by
    unfold walkRecords at he
    dsimp only at he
    split at he
    · cases he
    · split at he
      · split at he
        · cases he
        · exact walkRecords_keeps hf n _ x y hx he
      · split at he
        · cases he
        · split at he
          · exact walkRecords_keeps hf n _ x y hx he
          · split at he
            · exact walkRecords_keeps hf n _ _ y (hf _ _ _ _ hx ‹_›) he
            · cases he

/-- What the debug record changes of a room. -/
theorem rdDebug_room {r x : Room} {b : List Byte} (h : RoomWf r) (hx : readTokens (rdDebug r) b = some x) : RoomWf x := by
  obtain ⟨⟨y, l⟩, hy, rfl⟩ := Option.map_eq_some_iff.1 hx
  obtain ⟨⟨bs, l1⟩, _, hy⟩ := Option.bind_eq_some_iff.1 hy
  obtain ⟨⟨ws, l2⟩, _, hy⟩ := Option.bind_eq_some_iff.1 hy
  cases hy
  exact h

theorem applyRecord_room {t : Nat} {b : List Byte} {x y : RestoredRoom} (h : RoomWf x.room)
    (he : applyRecord t b x = some y) : RoomWf y.room := by
  unfold applyRecord at he
  extract_lets r keep at he
  have hkeep {o : Option Room} {y : RestoredRoom} (ho : ∀ z, o = some z → RoomWf z) (hy : keep o = some y) : RoomWf y.room := by
    obtain ⟨z, hz, rfl⟩ := Option.map_eq_some_iff.1 hy
    exact ho z hz
  split at he
  · split at he
    · cases he
    · refine hkeep (fun z hz => ?_) he
      cases hz
      refine ⟨h.1, fun m hm => ?_⟩
      obtain ⟨i, _, rfl⟩ := List.mem_map.1 hm
      exact cellsOf_wf _
  · split at he
    · cases he
    · refine hkeep (fun z hz => ?_) he
      obtain ⟨l, _, rfl⟩ := Option.map_eq_some_iff.1 hz
      exact h
  · split at he
    · cases he
    · refine hkeep (fun z hz => ?_) he
      cases hz
      exact ⟨cellsOf_wf _, h.2⟩
  · split at he
    · cases he
    · refine hkeep (fun z hz => ?_) he
      obtain ⟨l, _, rfl⟩ := Option.map_eq_some_iff.1 hz
      exact h
  · refine hkeep (fun z hz => ?_) he
    obtain ⟨l, _, rfl⟩ := Option.map_eq_some_iff.1 hz
    exact h
  · exact hkeep (fun z hz => rdDebug_room h hz) he
  · obtain ⟨l, _, rfl⟩ := Option.map_eq_some_iff.1 he
    exact h
  · obtain ⟨l, _, rfl⟩ := Option.map_eq_some_iff.1 he
    exact h

theorem restore_room {r x : Room} {b : List Byte} (h : RoomWf r) (hx : r.restore b = some x) : RoomWf x := by
  unfold Room.restore at hx
  split at hx
  · cases hx
  · obtain ⟨y, hy, rfl⟩ := Option.map_eq_some_iff.1 hx
    have := walkRecords_keeps (p := fun y : RestoredRoom => RoomWf y.room) (fun _ _ _ _ hx he => applyRecord_room hx he)
      _ _ _ _ h hy
    exact this

/-! ### Teams (R365, R370) -/

/-- The rooms that a team has saved hold canonical stores. -/
def SavedWf (t : Team) : Prop := ∀ r ∈ t.saved, RoomWf r

theorem StoresWf.team {s : State} (h : StoresWf s) {sub : Nat} {t : Team} (ht : s.team? sub = some t) : SavedWf t :=
  fun _ hr => h.saved (List.mem_of_find?_eq_some ht) hr

theorem StoresWf.withTeams {s : State} (h : StoresWf s) {l : List Team} (hl : ∀ t ∈ l, SavedWf t) :
    StoresWf { s with teams := l } := ⟨h.1, h.2.1, h.2.2.1, hl⟩

theorem mapIf_saved {s : State} (h : StoresWf s) {p : Team → Bool} {f : Team → Team} (hf : ∀ t, SavedWf t → SavedWf (f t)) :
    ∀ t ∈ mapIf p f s.teams, SavedWf t := by
  intro t ht
  obtain ⟨y, hy, rfl⟩ := List.mem_map.1 ht
  have hs : SavedWf y := fun _ hr => h.saved hy hr
  split
  · exact hf y hs
  · exact hs

theorem onTeam_stores {s : State} {sub : Nat} {f : Team → Team} (h : StoresWf s) (hf : ∀ t, SavedWf t → SavedWf (f t)) :
    StoresWf (s.onTeam sub f) := h.withTeams (mapIf_saved h hf)

theorem refreshEligible_stores {s : State} (h : StoresWf s) : StoresWf s.refreshEligible :=
  h.withTeams (mapIf_saved h fun _ ht => ht)

/-! ### Code objects and code pages (R350, R357 to R359) -/

theorem execLoad_keeps {s : State} (k : CmdHdr) (asid objVa size : Nat) (lb : DWord) (h : StoresWf s) :
    Keeps (execLoad k asid objVa size lb s) := by
  refine cmdHeld_keeps h fun x => ?_
  have hm : StoresWf (s.hallMeets asid objVa size) := hallMeets_stores _ _ _ h
  dsimp only
  split
  · exact hm
  · split
    · exact hm
    · split
      · exact hm
      · exact hallWrite_stores _ _ _ hm

theorem execUnload_keeps {s : State} (k : CmdHdr) (handle : Nat) (h : StoresWf s) : Keeps (execUnload k handle s) := by
  refine cmdOp_keeps h fun x => ?_
  split <;> exact h

theorem failLoad_stores {s : State} (handle : Nat) (fetcher : RoomId) (offset : Nat) (h : StoresWf s) :
    StoresWf (s.failLoad handle fetcher offset) := by
  unfold State.failLoad
  extract_lets k queued s1 s2 s3 s4
  have h1 : StoresWf s1 := h.withTeams (mapIf_saved h fun _ ht => ht)
  have h2 : StoresWf s2 := foldl_keeps (p := StoresWf) (fun _ (t : Team) => post_stores (.reject 0x02 t.sub)) _ h1
  have h3 : StoresWf s3 := foldl_keeps (p := StoresWf) (fun _ (r : Room) => foundCause_stores r.id k) _ h2
  have h4 : StoresWf s4 := focus_stores _ h3
  split
  · exact takeTrap_stores _ _ h4
  · exact h4

theorem placePage_stores {s : State} (core load page : Nat) (bundles : List (BitVec 256)) (h : StoresWf s) :
    StoresWf (s.placePage core load page bundles) := h

theorem takeCodePage_stores {s : State} (x : Room) (l : LoadedObj) (p : Nat) (bytes : List Byte) (bad : Bool) (h : StoresWf s) :
    StoresWf (s.takeCodePage x l p bytes bad) := by
  have hf : StoresWf (s.focus x.id) := focus_stores _ h
  unfold State.takeCodePage
  dsimp only
  split
  · exact takeTrap_stores _ _ (count_stores _ _ hf)
  · split
    · exact takeTrap_stores _ _ hf
    · split
      · exact failLoad_stores _ _ _ h
      · exact onRoom_wf (placePage_stores _ _ _ _ h) fun _ hy => hy

theorem execCodePageFill_keeps {s : State} (r : RoomId) (h : StoresWf s) : Keeps (execCodePageFill r s) := by
  unfold execCodePageFill
  show StoresWf (match s.room? r with | none => s | some x => _)
  split
  · exact h
  · next x hx =>
    split
    · dsimp only
      have ht (va : Nat) := reachFresh_stores x (.codePageFill r) va 4096 .fetch h
      split
      · exact takeCodePage_stores _ _ _ _ _ (ht _)
      · exact takeTrap_stores _ _ (focus_stores _ (ht _))
      · exact ht _
      · exact ht _
    · exact h

/-! ### Launch and admission (R365 to R373, R395) -/

theorem execBasincfg_keeps {s : State} (k : CmdHdr) (basin cls weight : Nat) (h : StoresWf s) :
    Keeps (execBasincfg k basin cls weight s) := by
  refine cmdOp_keeps h fun x => ?_
  split <;> exact h

theorem runsMeet_stores {s : State} (asid : Nat) (l : List (Nat × Nat)) (h : StoresWf s) : StoresWf (s.runsMeet asid l) :=
  h.of_readAside (runsMeet_readAside s asid l)

theorem execLaunch_keeps {s : State} (k : CmdHdr) (asid recVa : Nat) (h : StoresWf s) : Keeps (execLaunch k asid recVa s) := by
  refine cmdHeld_keeps h fun x => ?_
  extract_lets s1 reject
  have h1 : StoresWf s1 := runsMeet_stores _ _ h
  have hreject (code : Nat) : StoresWf (reject code).1 := post_stores _ h1
  split
  · exact hreject _
  · split
    · exact hreject _
    · dsimp only
      split
      · exact hreject _
      · refine refreshEligible_stores (h1.withTeams fun t ht => ?_)
        rcases List.mem_append.1 ht with ht | ht
        · exact fun _ hr => h1.saved ht hr
        · rw [List.mem_singleton.1 ht]
          exact fun _ hr => absurd hr List.not_mem_nil

theorem preloadRoom_room {s : State} {r : Room} (i : Nat) (p : Preload) (h : RoomWf r) : RoomWf (s.preloadRoom r i p) := by
  unfold State.preloadRoom
  dsimp only
  split
  · split
    · exact ⟨wf_putAll _ h.1, h.2⟩
    · exact ⟨h.1, h.2⟩
  · exact h

theorem idle_room : RoomWf Room.idle := by
  unfold RoomWf
  decide

theorem newRoom_room (s : State) (t : Team) (o : LoadedObj) (q : Seat) : RoomWf (s.newRoom t o q) := by
  unfold State.newRoom
  extract_lets v l c entry fp _ ctx _ r r1
  have hr : RoomWf r := ⟨wf_putAll _ rfl, idle_room.2⟩
  have h1 : RoomWf r1 := foldl_keeps (p := RoomWf) (fun _ (p : Preload × Nat) => preloadRoom_room p.2 p.1) _ hr
  split
  · exact takeSnap_room h1
  · exact h1

theorem restoredRoom_room {s : State} {t : Team} {x : Room} (q : Seat) (h : RoomWf x) : RoomWf (s.restoredRoom t x q).1 := by
  unfold State.restoredRoom
  extract_lets y base
  have hy : RoomWf y := h
  split
  · exact hy
  · split
    · next z hz =>
      obtain ⟨b, _, hb⟩ := Option.bind_eq_some_iff.1 hz
      have := restore_room hy hb
      dsimp only
      split <;> exact this
    · exact hy

theorem admittedRooms_room {s : State} {t : Team} (map : List Placing) (ht : SavedWf t) :
    ∀ x ∈ s.admittedRooms t map, RoomWf x.1 := by
  intro x hx
  unfold State.admittedRooms at hx
  split at hx
  · exact absurd hx List.not_mem_nil
  · obtain ⟨p, _, hp⟩ := List.mem_filterMap.1 hx
    dsimp only at hp
    split at hp
    · obtain ⟨y, hy, rfl⟩ := Option.map_eq_some_iff.1 hp
      exact restoredRoom_room _ (ht y (List.mem_of_find?_eq_some hy))
    · cases hp
      exact newRoom_room _ _ _ _

theorem twaitAgain_room {r : Room} (rooms : List Room) (team : Nat) (h : RoomWf r) : RoomWf (twaitAgain rooms team r) := by
  unfold twaitAgain
  extract_lets held x
  split
  · show RoomWf { (if held r.ctx.wait then _ else r : Room) with aside := _ }
    split <;> exact h
  · exact h

theorem failedAgain_room {s : State} {r : Room} (h : RoomWf r) : RoomWf (s.failedAgain r) := by
  unfold State.failedAgain
  split
  · split <;> exact h
  · exact h

theorem preloadMeets_stores {s : State} (t : Team) (h : StoresWf s) : StoresWf (s.preloadMeets t) := runsMeet_stores _ _ h

theorem slotMeets_stores {s : State} (t : Team) (base : Nat) (h : StoresWf s) : StoresWf (s.slotMeets t base) :=
  hallMeets_stores _ _ _ h

theorem admissionMeets_stores {s : State} (t : Team) (h : StoresWf s) : StoresWf (s.admissionMeets t) := by
  unfold State.admissionMeets
  split
  · exact foldl_keeps (p := StoresWf) (fun _ _ => slotMeets_stores _ _) _ h
  · exact preloadMeets_stores _ h

theorem noteFreeze_stores {s : State} (x : Room) (pc : DWord) (h : StoresWf s) : StoresWf (s.noteFreeze x pc) :=
  flushMacct_stores _ (traceRec_stores _ _ _ _ _ _ (post_stores _ h))

theorem seatResident_stores {s : State} (rooms : List Room) (core : Nat) (h : StoresWf s) :
    StoresWf ((s.seatResident rooms core).clockMsg hallAgent (floorOf core)) := h

theorem admitRooms_stores {s : State} {t : Team} (map : List Placing) (h : StoresWf s) (ht : SavedWf t) :
    StoresWf (s.admitRooms t map) := by
  unfold State.admitRooms
  extract_lets s' made rooms s1 s2 s3
  have h' : StoresWf s' := admissionMeets_stores _ h
  have h1 : StoresWf s1 := by
    refine ⟨h'.1, h'.2.1, fun x hx => ?_, h'.2.2.2⟩
    obtain ⟨y, hy, rfl⟩ := List.mem_map.1 hx
    refine twaitAgain_room _ _ ?_
    rcases List.mem_append.1 hy with hy | hy
    · exact h'.others hy
    · obtain ⟨z, hz, rfl⟩ := List.mem_map.1 hy
      exact failedAgain_room (admittedRooms_room _ ht z hz)
  have h2 : StoresWf s2 := foldl_keeps (p := StoresWf) (fun _ _ => seatResident_stores _ _) _ h1
  have h3 : StoresWf s3 := by
    refine foldl_keeps (p := StoresWf) (fun _ _ => noteFreeze_stores _ _) _ (onTeam_stores h2 fun t _ => ?_)
    exact fun _ hr => absurd hr List.not_mem_nil
  refine foldl_keeps (p := StoresWf) (fun _ _ hb => ?_) _ h3
  exact focus_stores _ (takeTrap_stores _ _ (focus_stores _ (count_stores _ _ hb)))

theorem candidate_mem {s : State} {basin : Nat} {t : Team} (h : s.candidate basin = some t) : t ∈ s.teams := by
  have hm : ∀ t, s.candidate basin = some t → t ∈ s.teams := by
    unfold State.candidate
    refine List.foldlRecOn _ _ (motive := fun b => ∀ t, b = some t → t ∈ s.teams) (fun t ht => by cases ht) fun b hb a ha t ht => ?_
    have ha : a ∈ s.teams := (List.mem_filter.1 ha).1
    cases b with
    | none => cases ht; exact ha
    | some x =>
      dsimp only at ht
      split at ht
      · cases ht; exact ha
      · cases ht; exact hb _ rfl
  exact hm t h

theorem current_mem {s : State} {t : Team} {cls : Nat} {p : Nat × Nat} (h : s.current = some (t, cls, p)) : t ∈ s.teams := by
  obtain ⟨c, _, hc⟩ := List.exists_of_findSome?_eq_some h
  split at hc
  · obtain ⟨x, hx, hxt⟩ := Option.map_eq_some_iff.1 hc
    cases hxt
    exact candidate_mem hx
  · cases hc

theorem execAdmissionRound_keeps {s : State} (offered : List Placing) (h : StoresWf s) : Keeps (execAdmissionRound offered s) := by
  unfold execAdmissionRound
  show StoresWf (if _ then _ else _)
  split
  · exact h
  · split
    · exact h
    · next t cls p hc =>
      split
      · exact post_stores (s := { s with roundDue := false }) _ h
      · exact h
      · split
        · exact refreshEligible_stores (post_stores _ (onTeam_stores h fun _ ht => ht))
        · exact admitRooms_stores (s := { s with pointers := _ }) _ h fun _ hr => h.saved (current_mem hc) hr

/-! ### The end of a team (R370) -/

theorem clearRooms_stores {s : State} (team : Nat) (h : StoresWf s) : StoresWf (s.clearRooms team) := by
  unfold State.clearRooms
  extract_lets dumped gone mark
  have hmark {r : Room} (hr : RoomWf r) : RoomWf (mark r) := by
    show RoomWf (if _ then _ else _)
    split <;> exact hr
  refine ⟨h.1, ?_, fun r hr => ?_, h.2.2.2⟩
  · show RoomWf (if _ then _ else _)
    split
    · exact idle_room
    · exact hmark h.me
  · obtain ⟨y, hy, rfl⟩ := List.mem_map.1 hr
    exact hmark (h.others (List.mem_filter.1 hy).1)

theorem execTeamRetire_keeps {s : State} (team : Nat) (h : StoresWf s) : Keeps (execTeamRetire team s) := by
  unfold execTeamRetire
  show StoresWf (match s.team? team with | none => s | some t => _)
  split
  · exact h
  · next t _ =>
    extract_lets on floors s1 s2 s3
    clear_value on
    have h1 : StoresWf s1 := foldl_keeps (p := StoresWf) (f := fun s f => s.clockMsg f hallAgent) (fun _ _ hb => hb) _ h
    have h2 : StoresWf s2 := onTeam_stores (clearRooms_stores _ h1) fun _ ht => ht
    split
    · refine refreshEligible_stores ?_
      show StoresWf (match t.state with | .stopping _ => s2.post (.retired team) | _ => s2)
      split
      · exact post_stores _ h2
      · exact h2
    · exact h

theorem cancelDependents_stores {s : State} (sub : Nat) (h : StoresWf s) : StoresWf (s.cancelDependents sub) := by
  refine foldl_keeps (p := StoresWf) (fun _ _ hb => ?_) _ h
  exact post_stores _ (onTeam_stores hb fun _ ht => ht)

theorem execKill_keeps {s : State} (k : CmdHdr) (team : Nat) (h : StoresWf s) : Keeps (execKill k team s) := by
  refine cmdOp_keeps h fun x => ?_
  dsimp only
  split
  · exact h
  · split
    · exact h
    · refine refreshEligible_stores (cancelDependents_stores _ (onTeam_stores (clearRooms_stores _ h) fun _ _ => ?_))
      exact fun _ hr => absurd hr List.not_mem_nil

/-! ### Pre-emption and saving (R374 to R376, R391) -/

theorem askStop_room {s : State} (m : PreemptMode) {r : Room} (h : RoomWf r) : RoomWf (s.askStop m r) := by
  unfold State.askStop
  refine iteInduction (motive := RoomWf) (fun _ => h) fun _ => ?_
  split
  · exact preemptHere_room _ h
  · exact h

theorem execPreempt_keeps {s : State} (k : CmdHdr) (team deadline : Nat) (forced : Option PreemptMode) (h : StoresWf s) :
    Keeps (execPreempt k team deadline forced s) := by
  refine cmdOp_keeps h fun x => ?_
  split
  · exact h
  · next t _ =>
    extract_lets late e slack c s1 s2 s3
    split
    · exact h
    · exact h
    · exact post_stores _ h
    · exact post_stores _ h
    · exact onTeam_stores h fun _ ht => ht
    · split
      · exact post_stores _ h
      · split
        · exact h
        · have h1 : StoresWf s1 := onTeam_stores h fun _ ht => ht
          have h3 : StoresWf s3 := ensureAll_stores _ (onRooms_stores h1 fun _ hr => askStop_room _ hr)
          show StoresWf (if _ then _ else _)
          split
          · exact post_stores _ h3
          · exact h3

theorem execPreemptStop_keeps {s : State} (r : RoomId) (h : StoresWf s) : Keeps (execPreemptStop r s) := by
  unfold execPreemptStop
  show StoresWf (match s.room? r with | none => s | some x => _)
  split
  · exact h
  · extract_lets free
    clear_value free
    split
    · exact leave_stores _ (onRoom_wf h fun _ hr => preemptHere_room _ hr)
    · exact h

theorem saveOverflow_stores {s : State} {r : Room} (all : Bool) (event : Instr) (h : StoresWf s) (hr : RoomWf r) :
    StoresWf (s.saveOverflow r all event).1 := by
  unfold State.saveOverflow
  extract_lets named dirty stuck live
  refine iteInduction (motive := fun x : State × Flush => StoresWf x.1) (fun _ => h) fun _ => ?_
  exact iteInduction (motive := fun x : State × Flush => StoresWf x.1) (fun _ => h) fun _ => flushDirty_stores _ _ h hr

theorem saveContainer_stores {s : State} (t : Team) (r : Room) (reason : Nat) (inPlace : Bool) (h : StoresWf s) :
    StoresWf (s.saveContainer t r reason inPlace).1 := by
  unfold State.saveContainer
  dsimp only
  split
  · exact h
  · split
    · exact h
    · exact hallWrite_stores _ _ _ h

theorem discarded_room {r : Room} (h : RoomWf r) : RoomWf r.discarded := by
  unfold Room.discarded
  split <;> exact h

theorem toSave_room {r : Room} (m : PreemptMode) (h : RoomWf r) : RoomWf (r.toSave m) := by
  have hx : RoomWf (if m = .discard then r.discarded else r) := by
    split
    · exact discarded_room h
    · exact h
  exact ⟨hx.1, hx.2⟩

theorem saveRoom_stores {s : State} (t : Team) (m : PreemptMode) {r : Room} (h : StoresWf s) (hr : RoomWf r) :
    StoresWf (s.saveRoom t m r).1 ∧ ∀ x ∈ (s.saveRoom t m r).2.2, RoomWf x := by
  have hu := saveOverflow_stores true (.contextSave t.sub) h hr
  unfold State.saveRoom
  split
  · next u hu' =>
    have hu : StoresWf u := hu.fst hu'
    split
    · exact ⟨hu, fun _ hx => by cases hx⟩
    · next y hy =>
      have hx := toSave_room m (hu.room hy)
      have hv := saveContainer_stores t (y.toSave m) (modeReason m) false hu
      dsimp only
      split
      · refine ⟨hv.fst ‹_›, fun z hz => ?_⟩
        cases hz
        exact hx
      · exact ⟨hv.fst ‹_›, fun _ hx => by cases hx⟩
  · exact ⟨hu.fst ‹_›, fun _ hx => by cases hx⟩

theorem saveRooms_stores (t : Team) (m : PreemptMode) : ∀ (l : List Room) {s : State}, StoresWf s → (∀ r ∈ l, RoomWf r) →
    StoresWf (s.saveRooms t m l).1 ∧ ∀ x ∈ (s.saveRooms t m l).2.2, RoomWf x
  | [], s, h, _ => ⟨h, fun _ hx => absurd hx List.not_mem_nil⟩
  | r :: rest, s, h, hl => by
    have hr := saveRoom_stores t m h (hl r List.mem_cons_self)
    unfold State.saveRooms
    split
    · next u x hu =>
      rw [hu] at hr
      obtain ⟨h1, h2⟩ := saveRooms_stores t m rest hr.1 fun y hy => hl y (List.mem_cons_of_mem _ hy)
      refine ⟨h1, fun y hy => ?_⟩
      rcases List.mem_append.1 hy with hy | hy
      · exact hr.2 y (Option.mem_toList.1 hy)
      · exact h2 y hy
    · next u o x _ hu =>
      rw [hu] at hr
      exact ⟨hr.1, fun _ hx => absurd hx List.not_mem_nil⟩

theorem StoresWf.teamRooms {s : State} (h : StoresWf s) {team : Nat} : ∀ r ∈ s.teamRooms team, RoomWf r :=
  fun _ hr => h.rooms (List.mem_filter.1 hr).1

theorem execContextSave_keeps {s : State} (team : Nat) (h : StoresWf s) : Keeps (execContextSave team s) := by
  unfold execContextSave
  show StoresWf (match s.team? team with | none => s | some t => _)
  split
  · exact h
  · next t _ =>
    split
    · next m _ =>
      dsimp only
      split
      · exact h
      · split
        · exact ensureAll_stores _ (onRooms_stores h fun _ hr => hr)
        · split
          · exact h
          · have hs := saveRooms_stores t m (s.teamRooms team) h h.teamRooms
            split
            · next he =>
              rw [he] at hs
              exact onTeam_stores (clearRooms_stores _ hs.1) fun _ _ => hs.2
            · next he => rw [he] at hs; exact hs.1
            · next he => rw [he] at hs; exact post_stores _ hs.1
    · exact h

end Sys2Proof.Safety
end

section
/-! PROOFS. Traps at a boundary, context moves, dumps and the debugger keep every byte store canonical (R106, R23: O10). -/

namespace Sys2Proof.Safety

open Sys2Proof.Machine Sys2Proof.Laws

theorem onRoomThenEnsure_stores {s : State} {r : RoomId} {f : Room → Room} (h : StoresWf s) (hf : ∀ x, RoomWf x → RoomWf (f x)) :
    StoresWf (s.onRoomThenEnsure r f) := by
  unfold State.onRoomThenEnsure
  split
  · exact ensure_stores _ (onRoom_wf h hf)
  · exact h

theorem takeDue_stores {s : State} (h : StoresWf s) : StoresWf s.takeDue := by
  unfold State.takeDue
  split
  · exact takeTrap_stores _ _ (h.withMe ⟨h.me.1, h.me.2⟩)
  · exact h

theorem execBoundaryTrap_keeps {s : State} (r : RoomId) (h : StoresWf s) : Keeps (execBoundaryTrap r s) := by
  unfold execBoundaryTrap
  show StoresWf (match s.room? r with | some x => _ | none => s)
  split
  · split
    · exact takeDue_stores (focus_stores _ h)
    · exact h
  · exact h

/-! ### Context moves (R388, R389, R395) -/

theorem unfreeze_room {r : Room} (h : RoomWf r) : RoomWf r.unfreeze := h

theorem returnFrom_room (x : Room) {z : Room} (h : RoomWf z) : RoomWf (x.returnFrom z) := ⟨h.1, h.2⟩

theorem execPageFaultMove_keeps {s : State} (r : RoomId) (h : StoresWf s) : Keeps (execPageFaultMove r s) := by
  unfold execPageFaultMove
  show StoresWf (match s.room? r with | none => s | some x => _)
  split
  · exact h
  · next x hx =>
    split
    · split
      · have hu := saveOverflow_stores false (.pageFaultMove r) h (h.room hx)
        split
        · next u hu' =>
          have hv := saveContainer_stores ‹Team› ((u.room? r).getD x) 4 true (hu.fst hu')
          split
          · exact post_stores _ (onRoomThenEnsure_stores (hv.fst ‹_›) fun _ hz => hz)
          · exact hv.fst ‹_›
          · exact post_stores _ (hv.fst ‹_›)
        · exact hu.fst ‹_›
        · exact post_stores _ (hu.fst ‹_›)
      · exact h
    · exact h

theorem execPagein_keeps {s : State} (k : CmdHdr) (r : RoomId) (h : StoresWf s) : Keeps (execPagein k r s) := by
  refine cmdHeld_keeps h fun _ => ?_
  dsimp only
  split
  · exact h
  · next x hx =>
    split
    · have hm (t : Team) (base : Nat) : StoresWf (s.slotMeets t base) := slotMeets_stores t base h
      split
      · exact takeTrap_stores _ _ (focus_stores _ (count_stores _ _ (hm _ _)))
      · split
        · next z hz =>
          obtain ⟨b, _, hb⟩ := Option.bind_eq_some_iff.1 hz
          have hz := returnFrom_room x (restore_room (h.room hx) hb)
          exact onRoomThenEnsure_stores (hm _ _) fun _ _ => unfreeze_room (r := { x.returnFrom z with stop := _ }) ⟨hz.1, hz.2⟩
        · exact noteFreeze_stores _ _ (onRoom_wf (hm _ _) fun _ hz => hz)
    · exact h

theorem execFaultFatal_keeps {s : State} (k : CmdHdr) (r : RoomId) (h : StoresWf s) : Keeps (execFaultFatal k r s) := by
  refine cmdOp_keeps h fun _ => ?_
  dsimp only
  split
  · exact h
  · split
    · exact startDump_stores _ _ _ _ _ (onRoom_wf h fun _ hz => hz)
    · exact startDump_stores _ _ _ _ _ (onRoom_wf h fun _ hz => hz)
    · exact startDump_stores _ _ _ _ _ (onRoom_wf h fun _ hz => hz)
    · split
      · exact startDump_stores _ _ _ _ _ (onRoom_wf h fun _ hz => hz)
      · exact h
    · exact h

/-! ### Resuming (R379, R383, R384) -/

theorem goOn_room {r : Room} (h : RoomWf r) : RoomWf r.goOn := by
  unfold Room.goOn
  split
  · exact h
  · exact unfreeze_room h

theorem enterHandler_room {r : Room} (a : DWord) (h : RoomWf r) : RoomWf (r.enterHandler a) := by
  unfold Room.enterHandler
  dsimp only
  split <;> exact h

theorem resumeRoom_stores {s : State} (r : RoomId) (h : StoresWf s) : StoresWf (s.resumeRoom r).1 := by
  unfold State.resumeRoom
  split
  · exact h
  · split
    · exact onRoomThenEnsure_stores h fun _ => goOn_room
    · exact h

theorem execResume_keeps {s : State} (k : CmdHdr) (r : RoomId) (h : StoresWf s) : Keeps (execResume k r s) :=
  cmdOp_keeps h fun _ => resumeRoom_stores r h

theorem execResumeH_keeps {s : State} (k : CmdHdr) (r : RoomId) (addr : DWord) (h : StoresWf s) :
    Keeps (execResumeH k r addr s) := by
  refine cmdOp_keeps h fun _ => ?_
  split
  · exact h
  · extract_lets inLoad
    clear_value inLoad
    split
    · exact onRoomThenEnsure_stores h fun _ => enterHandler_room addr
    · exact h

/-! ### Contexts read and written (R383, R394, R395) -/

theorem execCtxread_keeps {s : State} (k : CmdHdr) (r : RoomId) (h : StoresWf s) : Keeps (execCtxread k r s) := by
  refine cmdOp_keeps h fun _ => ?_
  split
  · exact h
  · split <;> exact h

theorem execCtxwrite_keeps {s : State} (k : CmdHdr) (r : RoomId) (image : List Byte) (h : StoresWf s) :
    Keeps (execCtxwrite k r image s) := by
  refine cmdHeld_keeps h fun _ => ?_
  dsimp only
  split
  · exact h
  · next x hx =>
    have hr {z : Room} (hz : x.restore image = some z) : RoomWf z := restore_room (h.room hx) hz
    split
    · exact h
    · split
      · exact h
      · have hz := hr ‹x.restore image = some _›
        exact onRoom_wf (saveContainer_stores _ _ _ _ h) fun _ _ => ⟨hz.1, hz.2⟩
      · have hz := hr ‹x.restore image = some _›
        exact onRoom_wf h fun _ _ => ⟨hz.1, hz.2⟩
      · have hz := hr ‹x.restore image = some _›
        exact onRoom_wf h fun _ _ => hz

/-! ### Dumps (R397, R398) -/

theorem execDump_keeps {s : State} (k : CmdHdr) (r : RoomId) (h : StoresWf s) : Keeps (execDump k r s) := by
  refine cmdOp_keeps h fun _ => ?_
  split
  · exact h
  · split
    · exact h
    · exact startDump_stores _ _ _ _ _ h

theorem execDumparea_keeps {s : State} (k : CmdHdr) (asid va size : Nat) (h : StoresWf s) : Keeps (execDumparea k asid va size s) :=
  cmdOp_keeps h fun _ => h

theorem writeDump_stores {s : State} (d : Dump) (x : Room) (h : StoresWf s) : StoresWf (s.writeDump d x).1 := by
  unfold State.writeDump
  split
  · exact h
  · extract_lets head bad body want va n s1 complete s2
    have h1 : StoresWf s1 := hallWrite_stores _ _ _ h
    show StoresWf s2
    show StoresWf (if _ then _ else _)
    split
    · exact hallWrite_stores _ _ _ h1
    · exact h1

theorem execDumpComplete_keeps {s : State} (h : StoresWf s) : Keeps (execDumpComplete s) := by
  unfold execDumpComplete
  show StoresWf (match s.dumps with | [] => s | d :: rest => _)
  split
  · exact h
  · next d rest _ =>
    split
    · exact h
    · next x _ =>
      dsimp only
      split
      · exact h
      · have h1 : StoresWf (({ (s.writeDump d x).1 with dumps := rest }).post
            (.dumpDone d.room (s.writeDump d x).2.1 (s.writeDump d x).2.2)) :=
          post_stores _ (writeDump_stores d x h)
        split
        · refine ⟨h1.1, ?_, fun r hr => h1.others (List.mem_filter.1 hr).1, h1.2.2.2⟩
          show RoomWf (if _ then _ else _)
          split
          · exact idle_room
          · exact h1.me
        · exact h1

/-! ### The debugger (R396) -/

theorem debugStop_stores {s : State} (h : StoresWf s) : StoresWf s.debugStop :=
  leave_stores _ (noteFreeze_stores _ _ (h.withMe ⟨h.me.1, h.me.2⟩))

theorem execDebugStop_keeps {s : State} (k : CmdHdr) (r : RoomId) (h : StoresWf s) : Keeps (execDebugStop k r s) := by
  refine cmdOp_keeps h fun _ => ?_
  split
  · exact h
  · split
    · exact debugStop_stores (focus_stores _ h)
    · exact h

theorem execDebugStep_keeps {s : State} (k : CmdHdr) (r : RoomId) (h : StoresWf s) : Keeps (execDebugStep k r s) := by
  refine cmdOp_keeps h fun _ => ?_
  split
  · exact h
  · split
    · exact onRoomThenEnsure_stores h fun y hy => ⟨(goOn_room hy).1, (goOn_room hy).2⟩
    · exact h

theorem execDebugBkpt_keeps {s : State} (k : CmdHdr) (r : RoomId) (n : BitVec 2) (addr : Option DWord) (h : StoresWf s) :
    Keeps (execDebugBkpt k r n addr s) := by
  refine cmdOp_keeps h fun _ => ?_
  split
  · exact h
  · exact onRoom_wf h fun _ hy => hy

theorem execDebugWatch_keeps {s : State} (k : CmdHdr) (r : RoomId) (n : BitVec 2) (lo len : Nat) (kind : WatchKind)
    (h : StoresWf s) : Keeps (execDebugWatch k r n lo len kind s) := by
  refine cmdOp_keeps h fun _ => ?_
  split
  · exact h
  · exact onRoom_wf h fun _ hy => hy

theorem execDebugResume_keeps {s : State} (k : CmdHdr) (r : RoomId) (h : StoresWf s) : Keeps (execDebugResume k r s) :=
  cmdOp_keeps h fun _ => resumeRoom_stores r h

end Sys2Proof.Safety
end

section
/-! PROOFS. The management of a fleet and the host port keep every byte store canonical (R106, R23: O10). -/

namespace Sys2Proof.Safety

open Sys2Proof.Machine Sys2Proof.Laws

/-! ### Counters and trace (R427 to R433) -/

theorem execArm_keeps {s : State} (k : CmdHdr) (t : DWord) (h : StoresWf s) : Keeps (execArm k t s) := cmdOp_keeps h fun _ => h

theorem execCounterTrigger_keeps {s : State} (die : Nat) (h : StoresWf s) : Keeps (execCounterTrigger die s) := by
  unfold execCounterTrigger
  show StoresWf (match s.armed with | some a => _ | none => s)
  split
  · split
    · exact fireDie_stores _ _ h
    · exact h
  · exact h

theorem execRead_keeps {s : State} (k : CmdHdr) (first count : Nat) (h : StoresWf s) : Keeps (execRead k first count s) := by
  refine cmdOp_keeps h fun _ => ?_
  split <;> exact h

theorem loseRecords_stores {s : State} (n : Nat) (h : StoresWf s) : StoresWf (s.loseRecords n) := count_stores _ _ h

theorem execTracecfg_keeps {s : State} (k : CmdHdr) (args : TraceArgs) (h : StoresWf s) : Keeps (execTracecfg k args s) := by
  refine cmdOp_keeps h fun _ => ?_
  split
  · exact loseRecords_stores _ h
  · exact h

theorem execTracestop_keeps {s : State} (k : CmdHdr) (h : StoresWf s) : Keeps (execTracestop k s) := cmdOp_keeps h fun _ => h

theorem execTraceRecordWrite_keeps {s : State} (core : Nat) (inTime : Bool) (h : StoresWf s) :
    Keeps (execTraceRecordWrite core inTime s) := by
  unfold execTraceRecordWrite
  show StoresWf (match s.trace with | none => s | some t => _)
  split
  · exact h
  · split
    · exact h
    · extract_lets w wrap pa room s1 bytes s2
      have h1 : StoresWf s1 := h
      have h2 : StoresWf s2 := foldl_keeps (p := StoresWf) (fun _ _ => writeLine_stores _ _) _ h1
      split
      · exact h2
      · exact loseRecords_stores _ h1

/-! ### Banks, scrub and refresh (R98, R123, R436, R437) -/

theorem execBankHardFault_keeps {s : State} (core bank : Nat) (h : StoresWf s) : Keeps (execBankHardFault core bank s) := by
  show StoresWf (if _ then _ else _)
  split
  · exact failBank_stores _ _ h
  · exact h

theorem execBankSelfTestPass_keeps {s : State} (core bank : Nat) (h : StoresWf s) : Keeps (execBankSelfTestPass core bank s) := h

theorem countLine_stores {s : State} (line index : Nat) (h : StoresWf s) : StoresWf (s.countLine line index) := count_stores _ _ h

theorem scrubOn_stores {s : State} (stack : Nat) (h : StoresWf s) : StoresWf (s.scrubOn stack) := by
  unfold State.scrubOn
  dsimp only
  split
  · exact h
  · exact count_stores (s := { s with scrubPos := _ }) _ _ h

theorem scrubLine_stores {s : State} (line : Nat) (found : LineCheck) (h : StoresWf s) : StoresWf (s.scrubLine line found) := by
  cases found with
  | clean => exact h
  | corrected => exact countLine_stores (s := { s with mem := { s.mem with weak := _ } }) _ _ h
  | uncorrectable =>
    show StoresWf (if _ then _ else _)
    split
    · exact countLine_stores _ _ h
    · exact poisonPlace_stores _ h

theorem execPatrolScrub_keeps {s : State} (stack : Option Nat) (line : Nat) (found : LineCheck) (h : StoresWf s) :
    Keeps (execPatrolScrub stack line found s) := by
  cases stack with
  | none => exact scrubLine_stores _ _ h
  | some k =>
    show StoresWf (if _ then _ else _)
    split
    · exact scrubOn_stores _ (scrubLine_stores _ _ h)
    · exact h

theorem setRefresh_stores {s : State} (b : BankRefresh) (h : StoresWf s) : StoresWf (s.setRefresh b) := h

theorem execAlertBackOff_keeps {s : State} (bank : Nat) (h : StoresWf s) : Keeps (execAlertBackOff bank s) := by
  unfold execAlertBackOff
  extract_lets b now post s1
  clear_value post
  have h1 : StoresWf s1 := setRefresh_stores _ (count_stores _ _ h)
  show StoresWf (if _ then _ else _)
  split
  · exact h
  · split
    · exact post_stores _ h1
    · exact h1

theorem execRefreshDue_keeps {s : State} (bank : Nat) (canIssue : Bool) (h : StoresWf s) : Keeps (execRefreshDue bank canIssue s) := by
  show StoresWf (if _ then _ else _)
  split
  · exact h
  · exact setRefresh_stores _ h

theorem execRefreshManagementDone_keeps {s : State} (bank : Nat) (h : StoresWf s) : Keeps (execRefreshManagementDone bank s) := by
  show StoresWf (if _ then _ else _)
  split
  · exact setRefresh_stores _ h
  · exact h

/-! ### Firmware, keys, power and cooling (R427, R438 to R445) -/

theorem reset_stores : StoresWf State.reset := by
  unfold StoresWf RoomWf
  decide +kernel

theorem restart_stores {s : State} (m : Mgmt) {mem : GlobalMem} (on : Bool) (h : Memory.wf mem.cells = true) :
    StoresWf (s.restart m mem on) :=
  ⟨h, reset_stores.2.1, reset_stores.2.2.1, reset_stores.2.2.2⟩

theorem execPowerUp_keeps {s : State} (slotA slotB : SignedImage) (record : ConfigRecord) (h : StoresWf s) :
    Keeps (execPowerUp slotA slotB record s) := by
  show StoresWf (if _ then _ else _)
  split
  · exact h
  · exact restart_stores _ _ rfl

theorem execPackageReset_keeps {s : State} (h : StoresWf s) : Keeps (execPackageReset s) := restart_stores _ _ h.1

theorem execFirmwareUpdate_keeps {s : State} (image : SignedImage) (record : Option ConfigRecord) (h : StoresWf s) :
    Keeps (execFirmwareUpdate image record s) := h

theorem execGetMeasurements_keeps {s : State} (nonce : Nat) (h : StoresWf s) : Keeps (execGetMeasurements nonce s) := h

theorem execCmdsession_keeps {s : State} (spdm cert : Nat) (h : StoresWf s) : Keeps (execCmdsession spdm cert s) := by
  show StoresWf (if _ then _ else _)
  split <;> exact h

theorem execSpdmSessionEnd_keeps {s : State} (spdm : Nat) (h : StoresWf s) : Keeps (execSpdmSessionEnd spdm s) := h

theorem execKeyload_keeps {s : State} (session slot : Nat) (key : BitVec 512) (unwraps : Bool) (h : StoresWf s) :
    Keeps (execKeyload session slot key unwraps s) := by
  show StoresWf (if _ then _ else _)
  split <;> exact h

theorem execKeyloadComplete_keeps {s : State} (slot : Nat) (h : StoresWf s) : Keeps (execKeyloadComplete slot s) := by
  unfold execKeyloadComplete
  show StoresWf (match s.mgmt.keyPending.find? fun x => x.1 == slot with | some x => _ | none => s)
  split <;> exact h

theorem execPowerSample_keeps {s : State} (watts : Nat) (energy : List Nat) (w : Nat) (h : StoresWf s) :
    Keeps (execPowerSample watts energy w s) := by
  unfold execPowerSample
  extract_lets p s1 hold post q s2
  clear_value post
  have h1 : StoresWf s1 := foldl_keeps (p := StoresWf) (fun _ _ => count_stores _ _) _ h
  have h2 : StoresWf s2 := h1
  show StoresWf (if _ then _ else _)
  split
  · exact h
  · split
    · exact post_stores _ h2
    · exact h2

theorem execThermalWarn_keeps {s : State} (h : StoresWf s) : Keeps (execThermalWarn s) := by
  show StoresWf (if _ then _ else _)
  split
  · exact post_stores (s := { s with power := _ }) _ h
  · exact h

theorem execThermalWarnClear_keeps {s : State} (h : StoresWf s) : Keeps (execThermalWarnClear s) := h

theorem execThermalTrip_keeps {s : State} : Keeps (execThermalTrip s) :=
  restart_stores (s := s.post .thermalTrip) s.mgmt
    (mem := { cells := [], tags := [], poisoned := [], failing := [], weak := [], keys := [], keyBase := s.mem.keyBase + 513 })
    false rfl

/-! ### The host port (R416 to R424) -/

theorem execWinopen_keeps {s : State} (k : CmdHdr) (asid va len : Nat) (rights : BitVec 3) (h : StoresWf s) :
    Keeps (execWinopen k asid va len rights s) := by
  refine cmdOp_keeps h fun _ => ?_
  split
  · exact h
  · split <;> exact h

theorem execWinclose_keeps {s : State} (k : CmdHdr) (key : Nat) (h : StoresWf s) : Keeps (execWinclose k key s) := by
  refine cmdHeld_keeps h fun _ => ?_
  split <;> exact h

theorem reply_stores {s : State} (qp psn : Nat) (bytes : List Byte) (h : StoresWf s) : StoresWf (s.reply qp psn bytes) := h

theorem nak_stores {s : State} (qp psn : Nat) (h : StoresWf s) : StoresWf (s.nak qp psn) :=
  count_stores (s := { s with rdma := _ }) _ _ h

theorem hostReach_stores {s : State} (event : Instr) (key va len right : Nat) (k : AccessKind) (h : StoresWf s) :
    StoresWf (s.hostReach event key va len right k).1 := by
  unfold State.hostReach
  split
  · exact h
  · next w _ =>
    have hx := reach_stores hallMmu w.asid va len k h
    dsimp only
    split
    · exact hx
    · exact hx
    · split
      · exact hold_stores _ _ h
      · exact h
    · exact count_stores _ _ hx
    · exact hx

theorem hostOp_stores {s : State} {i : Instr} {qp : Nat} {body : State → State × Bool} (h : StoresWf s)
    (hb : ∀ t, StoresWf t → StoresWf (body t).1) : StoresWf (s.hostOp i qp body) := by
  unfold State.hostOp
  extract_lets s1 x
  have h1 : StoresWf s1 := by
    show StoresWf (if _ then _ else _)
    split <;> exact h
  have hx : StoresWf x.1 := hb _ h1
  split
  · exact h
  · split
    · exact hostWait_stores _ h1
    · split
      · exact hx
      · exact hostWait_stores _ hx

theorem execRdmaRead_keeps {s : State} (qp psn key va len : Nat) (h : StoresWf s) : Keeps (execRdmaRead qp psn key va len s) := by
  refine hostOp_stores h fun t ht => ?_
  have hr := hostReach_stores (.rdmaRead qp psn key va len) key va len 0 .read ht
  dsimp only
  split
  · exact reply_stores _ _ _ (clockReplies_stores _ _ (placesRead_stores _ hr))
  · exact hr
  · exact nak_stores _ _ hr
  · exact hr

theorem execRdmaWrite_keeps {s : State} (qp psn key va : Nat) (data : List Byte) (h : StoresWf s) :
    Keeps (execRdmaWrite qp psn key va data s) := by
  refine hostOp_stores h fun t ht => ?_
  have hr := hostReach_stores (.rdmaWrite qp psn key va data) key va data.length 1 .write ht
  dsimp only
  split
  · exact reply_stores _ _ _ (gWrite_stores _ _ _ hr)
  · exact nak_stores _ _ hr
  · exact nak_stores _ _ hr
  · exact hr

theorem hostAtomic_stores {s : State} (i : Instr) (qp psn key va : Nat) (f : Nat → Nat) (h : StoresWf s) :
    StoresWf (s.hostAtomic i qp psn key va f) := by
  refine hostOp_stores h fun t ht => ?_
  have hr := hostReach_stores i key va 8 2 .readWrite ht
  split
  · exact ht
  · split
    · exact nak_stores _ _ ht
    · dsimp only
      split
      · split
        · exact hr
        · exact clockReplies_stores _ _ (gWrite_stores _ _ _ hr)
      · exact ht
      · exact nak_stores _ _ hr
      · exact nak_stores _ _ hr
      · exact hr

theorem execEvqset_keeps {s : State} (k : CmdHdr) (qp addr rkey log2 : Nat) (consumer : Option Nat) (h : StoresWf s) :
    Keeps (execEvqset k qp addr rkey log2 consumer s) := by
  refine cmdOp_keeps h fun _ => ?_
  split
  · split <;> exact h
  · exact h
  · split <;> exact h

theorem postLost_stores {s : State} (h : StoresWf s) : StoresWf s.postLost := by
  unfold State.postLost
  split
  · split <;> exact h
  · exact h

theorem execAclset_keeps {s : State} (k : CmdHdr) (lockhouse idx : Nat) (words : List DWord) (h : StoresWf s) :
    Keeps (execAclset k lockhouse idx words s) := by
  refine cmdOp_keeps h fun _ => ?_
  dsimp only
  split
  · exact h
  · split <;> exact h

theorem execLockhousePortLinkUp_keeps {s : State} (port : Nat) (authenticated : Bool) (pid : Nat) (h : StoresWf s) :
    Keeps (execLockhousePortLinkUp port authenticated pid s) := by
  show StoresWf (if _ then _ else _)
  split <;> exact h

theorem countStale_stores {s : State} (w pa : Nat) (h : StoresWf s) : StoresWf (s.countStale w pa) := by
  unfold State.countStale
  split
  · split
    · exact count_stores _ _ h
    · exact h
  · exact h

theorem execPeerReadRequest_keeps {s : State} (port pid : Nat) (tile : Option (Nat × List Nat)) (addr : Nat) (h : StoresWf s) :
    Keeps (execPeerReadRequest port pid tile addr s) := by
  unfold execPeerReadRequest
  extract_lets what answer
  have ha (t : State) (a : PeerReply) (ht : StoresWf t) : StoresWf (answer t a) := ht
  show StoresWf (if _ then _ else _)
  split
  · exact h
  · split
    · exact ha _ _ (count_stores _ _ h)
    · next w pa _ =>
      have ht : StoresWf (s.request.discover [(w, pa)]) := discover_stores _ (request_stores h)
      split
      · exact ha _ _ (countStale_stores _ _ h)
      · dsimp only
        split
        · exact ha _ _ ht
        · exact ha _ _ (clockReplies_stores _ _ ht)

theorem peerUnit_stores {s : State} {r : Room} (e : XEntry) (reply : Option (List Byte)) (h : StoresWf s) (hr : RoomWf r) :
    StoresWf (s.peerUnit r e reply) := by
  refine endUnit_stores _ _ (cardUnitWith_keeps h hr fun t ps ht => ?_)
  refine foldl_keeps (p := fun acc : State × Moved => StoresWf acc.1) (fun acc p hacc => ?_) ps ht
  have hp := pieceReach_stores r p .read hacc
  dsimp only
  split
  · exact hacc
  · split
    · exact hp
    · exact clockReplies_stores _ _ hp
    · exact clockReplies_stores _ _ hp
    · exact hp

theorem peerFill_stores {s : State} (x : Room) (l : List (Nat × Nat)) (reply : Option (List Byte)) (h : StoresWf s) :
    StoresWf (s.peerFill x l reply) := by
  unfold State.peerFill
  extract_lets bytes bad b s1
  have hb : StoresWf b.1 := freeBad_stores _ h
  have h1 : StoresWf s1 := by
    show StoresWf (if _ then _ else _)
    split
    · exact badData_stores _ hb
    · exact hb
  split
  · split
    · exact fillWindow_stores _ _ _ _ h1
    · exact h
  · exact onRoom_wf h1 fun _ hy => hy
  · split
    · exact takeCodePage_stores _ _ _ _ _ h
    · exact h
  · exact h

theorem askAgain_stores {s : State} (x : Room) (id : Nat) (h : StoresWf s) : StoresWf (s.askAgain x id) := by
  unfold State.askAgain
  split
  · split <;> exact h
  · split
    · split <;> exact h
    · exact h

theorem peerHostRead_stores {s : State} (qp psn : Nat) (denied : Bool) (reply : Option (List Byte)) (h : StoresWf s) :
    StoresWf (s.peerHostRead qp psn denied reply) := by
  unfold State.peerHostRead
  split
  · next q p key va len _ =>
    have hr := hostReach_stores (.rdmaRead q p key va len) key va len 0 .read h
    extract_lets x t
    have ht : StoresWf t := hr
    split
    · extract_lets b
      split
      · exact nak_stores _ _ ht
      · exact reply_stores _ _ _ (clockReplies_stores _ _ (freeBad_stores _ ht))
    · exact h
  · exact h

theorem execPeerReadReply_keeps {s : State} (r : RoomId) (id : Nat) (denied stale : Bool) (line : Option (List Byte))
    (h : StoresWf s) : Keeps (execPeerReadReply r id denied stale line s) := by
  unfold execPeerReadReply
  show StoresWf (match s.room? r with | none => _ | some x => _)
  split
  · split
    · exact peerHostRead_stores _ _ _ _ h
    · exact h
  · next x hx =>
    split
    · exact askAgain_stores _ _ h
    · split
      · split
        · exact h
        · split
          · exact foundCause_stores _ _ h
          · exact peerFill_stores _ _ _ h
      · split
        · exact h
        · split
          · exact h
          · split
            · exact foundCause_stores _ _ (onRoom_wf h fun _ hy => hy)
            · exact peerUnit_stores _ _ h (h.room hx)

theorem execFrameDropped_keeps {s : State} (frame : HostFrame) (h : StoresWf s) : Keeps (execFrameDropped frame s) := by
  show StoresWf (if _ then _ else _)
  split
  · exact h
  · exact count_stores _ _ h

theorem execCmdDropped_keeps {s : State} (k : CmdHdr) (tagOk : Bool) (h : StoresWf s) : Keeps (execCmdDropped k tagOk s) := by
  unfold execCmdDropped
  show StoresWf (match s.session? k.session, tagOk with | some x, true => _ | _, _ => _)
  split
  · split
    · exact count_stores _ _ h
    · exact h
  · exact count_stores _ _ h

theorem execMalformedCommand_keeps {s : State} (k : CmdHdr) (opcode : BitVec 16) (h : StoresWf s) :
    Keeps (execMalformedCommand k opcode s) := by
  unfold execMalformedCommand
  split
  · exact h
  · exact cmdOp_keeps h fun _ => h

end Sys2Proof.Safety
end

section
/-! PROOFS. Links, the timebase and routes keep every byte store canonical (R106, R23: O10). -/

namespace Sys2Proof.Safety

open Sys2Proof.Machine Sys2Proof.Laws

theorem onLink_stores {s : State} (n : Nat) (f : Link → Link) (h : StoresWf s) : StoresWf (s.onLink n f) := h

theorem execBeatFrameReceive_keeps {s : State} (link : Nat) (frame : BeatFrame) (h : StoresWf s) :
    Keeps (execBeatFrameReceive link frame s) := h

theorem execBeatResendTimeout_keeps {s : State} (link : Nat) (h : StoresWf s) : Keeps (execBeatResendTimeout link s) := by
  unfold execBeatResendTimeout
  show StoresWf (match s.link? link with | none => s | some l => _)
  split
  · exact h
  · split
    · exact h
    · split
      · exact retrain_stores _ h
      · exact onLink_stores _ _ (count_stores _ _ h)

theorem execLinkRetrainDone_keeps {s : State} (link : Nat) (h : StoresWf s) : Keeps (execLinkRetrainDone link s) := h

/-! ### The discipline of the hall (R425, R426) -/

theorem refreshSource_stores {s : State} (h : StoresWf s) : StoresWf s.refreshSource := h

theorem loseLock_stores {s : State} (h : StoresWf s) : StoresWf s.loseLock := h

theorem sourceChanged_stores {s t : State} (h : StoresWf t) : StoresWf (s.sourceChanged t) := by
  unfold State.sourceChanged
  split <;> exact h

theorem removeOffset_stores {s : State} (estimate : Int) (h : StoresWf s) : StoresWf (s.removeOffset estimate) := by
  unfold State.removeOffset
  dsimp only
  split <;> exact h

theorem servo_stores {s : State} (lim lose missed : Nat) (estimate : Int) (h : StoresWf s) :
    StoresWf (s.servo lim lose missed estimate) := by
  unfold State.servo
  extract_lets run good rate drift s0 _ s1 locks s3 _ s2
  have h0 : StoresWf s0 := by
    show StoresWf (if _ then _ else _)
    split <;> exact h
  have h1 : StoresWf s1 := h0
  have h3 : StoresWf s3 := by
    show StoresWf (if _ then _ else _)
    split
    · exact removeOffset_stores _ h1
    · exact h1
  refine refreshSource_stores ?_
  show StoresWf (if _ then _ else _)
  split
  · split
    · exact loseLock_stores h1
    · exact h1
  · exact h3

theorem execPtpSync_keeps {s : State} (sync : PtpSync) (h : StoresWf s) : Keeps (execPtpSync sync s) := by
  show StoresWf (if _ then _ else _)
  split
  · exact h
  · exact servo_stores _ _ _ _ h

theorem execPtpSyncTimeout_keeps {s : State} (h : StoresWf s) : Keeps (execPtpSyncTimeout s) := by
  show StoresWf (if _ then _ else _)
  split <;> exact h

theorem execTimingFrameSend_keeps {s : State} (link : Nat) (h : StoresWf s) : Keeps (execTimingFrameSend link s) := by
  unfold execTimingFrameSend
  show StoresWf (match s.link? link, s.carrier link with | some l, some c => _ | _, _ => s)
  split
  · dsimp only
    exact iteInduction (motive := StoresWf) (fun _ => h) fun _ => h
  · exact h

theorem execTimingFrameReceive_keeps {s : State} (link : Nat) (frame : BeatFrame) (h : StoresWf s) :
    Keeps (execTimingFrameReceive link frame s) := by
  unfold execTimingFrameReceive
  show StoresWf (match s.link? link, s.hall.root, frame.stamp with | some l, some root, some stamp => _ | _, _, _ => _)
  split
  · dsimp only
    split
    · exact h
    · exact servo_stores _ _ _ _ (sourceChanged_stores (t := { s.onLink _ _ with hall := _ }) h)
  · exact h

theorem execRootPathLoss_keeps {s : State} (h : StoresWf s) : Keeps (execRootPathLoss s) := by
  show StoresWf (if _ then _ else _)
  split <;> exact h

theorem execLinkroute_keeps {s : State} (k : CmdHdr) (self : Nat) (routes : List (Nat × Nat × List Nat)) (spares : List (Nat × Nat))
    (h : StoresWf s) : Keeps (execLinkroute k self routes spares s) := by
  refine cmdOp_keeps h fun _ => ?_
  split
  · exact refreshSource_stores (sourceChanged_stores (t := { s with routing := _, hall := _ }) h)
  · exact h

theorem execTbref_keeps {s : State} (k : CmdHdr) (root : Nat) (h : StoresWf s) : Keeps (execTbref k root s) := by
  refine cmdOp_keeps h fun _ => ?_
  split
  · exact refreshSource_stores (sourceChanged_stores (t := { s with hall := _ }) h)
  · exact h

end Sys2Proof.Safety
end

section
/-! PROOFS. Translation and restowing keep every byte store canonical (R106, R23: O10). -/

namespace Sys2Proof.Safety

open Sys2Proof.Machine Sys2Proof.Laws

theorem cacheWalk_stores {s : State} (floor asid va : Nat) (t : Machine.Trans) (h : StoresWf s) :
    StoresWf (s.cacheWalk floor asid va t) := h.of_readAside (cacheWalk_readAside _ _ _ _ _)

theorem execTableWalk_keeps {s : State} (floor asid va : Nat) (kind : AccessKind) (h : StoresWf s) :
    Keeps (execTableWalk floor asid va kind s) := by
  show StoresWf (if _ then _ else _)
  split
  · exact cacheWalk_stores _ _ _ _ (walkClock_stores _ _ _ (count_stores _ _ h))
  · exact h

theorem execRequestReplay_keeps {s : State} (r : RoomId) (id : Nat) (h : StoresWf s) : Keeps (execRequestReplay r id s) := by
  refine withEntry_stores h fun x e _ => ?_
  extract_lets vas s1 s2 fresh s3
  have h1 : StoresWf s1 := foldl_keeps (p := StoresWf) (fun _ _ => dropTlb_stores _ _ _) _ h
  have h2 : StoresWf s2 := foldl_keeps (p := StoresWf) (fun _ _ => translate_stores _ _ _ _ _) _ h1
  have h3 : StoresWf s3 := onRoom_wf h2 fun _ hy => hy
  split
  · exact faultEntry_stores _ _ _ _ _ _ _ h3
  · exact countReplay_stores _ h3

/-! ### Address spaces, mappings and handles (R399, R405, R410, R114) -/

theorem execAsidset_keeps {s : State} (k : CmdHdr) (asid : Nat) (valid : Bool) (root : Nat) (tberth : DWord) (h : StoresWf s) :
    Keeps (execAsidset k asid valid root tberth s) := by
  refine cmdOp_keeps h fun _ => ?_
  split
  · exact h
  · split <;> exact h

theorem reuse_stores {s : State} (w pa size : Nat) (h : StoresWf s) : StoresWf (s.reuse w pa size) := h

theorem startShootdown_stores {s : State} (id asid : Nat) (range : Option (Nat × Nat)) (h : StoresWf s) :
    StoresWf (s.startShootdown id asid range) := h

theorem execPtewrite_keeps {s : State} (k : CmdHdr) (asid pa : Nat) (word0 word1 : DWord) (h : StoresWf s) :
    Keeps (execPtewrite k asid pa word0 word1 s) := by
  refine cmdOp_keeps h fun _ => ?_
  split
  · exact h
  · split
    · exact h
    · split
      · exact h
      · extract_lets t
        have ht : StoresWf t := gWrite_stores _ _ _ h
        show StoresWf (if _ then _ else _)
        split
        · exact reuse_stores _ _ _ ht
        · exact ht

theorem execShootdown_keeps {s : State} (k : CmdHdr) (asid : Nat) (range : Option (Nat × Nat)) (h : StoresWf s) :
    Keeps (execShootdown k asid range s) := cmdOp_keeps h fun _ => h

theorem execShootdownDone_keeps {s : State} (id : Nat) (h : StoresWf s) : Keeps (execShootdownDone id s) := by
  unfold execShootdownDone
  show StoresWf (match s.shootdowns.find? fun x => x.id == id with | none => s | some x => _)
  split
  · exact h
  · split
    · exact h
    · exact post_stores (s := { s.dropCached _ with shootdowns := _ }) _ h

theorem setHandle_stores {s : State} (n : Nat) (words : List Nat) (h : StoresWf s) : StoresWf (s.setHandle n words) := h

theorem keepRecord_stores {s : State} (num : Nat) (h : StoresWf s) : StoresWf (s.keepRecord num) := by
  unfold State.keepRecord
  dsimp only
  split
  · split <;> exact h
  · exact h

theorem execHandlereg_keeps {s : State} (k : CmdHdr) (num : Nat) (words : List DWord) (h : StoresWf s) :
    Keeps (execHandlereg k num words s) := by
  refine cmdOp_keeps h fun _ => ?_
  dsimp only
  split
  · exact h
  · split
    · exact h
    · split
      · exact reuse_stores _ _ _ (setHandle_stores _ _ (keepRecord_stores _ h))
      · exact h

/-! ### The steps of a restow (R406 to R409) -/

theorem execRestow_keeps {s : State} (k : CmdHdr) (src : RestowSource) (frame : Nat) (berth : DWord) (h : StoresWf s) :
    Keeps (execRestow k src frame berth s) := by
  refine cmdOp_keeps h fun _ => ?_
  split
  · exact h
  · extract_lets covered
    clear_value covered
    split
    · exact h
    · split <;> exact h

theorem onRestow_stores {s : State} (id : Nat) (f : Restow → Restow) (h : StoresWf s) : StoresWf (s.onRestow id f) := h

theorem copyLine_stores {s : State} (r : Restow) (h : StoresWf s) : StoresWf (s.copyLine r) := by
  unfold State.copyLine
  extract_lets src dst bytes old s1 s2
  have h1 : StoresWf s1 := storeAt_stores _ h
  refine onRestow_stores _ _ ?_
  show StoresWf (match placeOf r.dstBerth dst with | some q => s1.freshLine (q / 64) | none => s1)
  split <;> exact h1

theorem execRestowCopyLine_keeps {s : State} (id : Nat) (found : LineCheck) (destOk : Bool) (h : StoresWf s) :
    Keeps (execRestowCopyLine id found destOk s) := by
  unfold execRestowCopyLine
  show StoresWf (match s.restow? id with | none => s | some r => _)
  split
  · exact h
  · split
    · exact h
    · dsimp only
      split
      · exact abortRestow_stores _ _ _ h
      · split
        · exact abortRestow_stores _ _ _ h
        · refine copyLine_stores _ ?_
          split
          · exact count_stores _ _ h
          · exact h

theorem wakeHeld_stores {s : State} (restow : Nat) (h : StoresWf s) : StoresWf (s.wakeHeld restow) := h

theorem refuseHeld_stores {s : State} (id : Nat) (h : StoresWf s) : StoresWf (s.refuseHeld id) :=
  wakeHeld_stores _ (foldl_keeps (p := StoresWf) (fun _ _ => count_stores _ _) _ h)

theorem flipRestow_stores {s : State} (r : Restow) (h : StoresWf s) : StoresWf (s.flipRestow r) := by
  unfold State.flipRestow
  split
  · exact startShootdown_stores _ _ _ (reuse_stores _ _ _ (gWrite_stores _ _ _ h))
  · split <;> exact h

theorem execRestowFlip_keeps {s : State} (id : Nat) (h : StoresWf s) : Keeps (execRestowFlip id s) := by
  unfold execRestowFlip
  show StoresWf (match s.restow? id with | none => s | some r => _)
  split
  · exact h
  · split
    · exact refuseHeld_stores _ (onRestow_stores _ _ (flipRestow_stores _ h))
    · exact h

theorem execRestowDone_keeps {s : State} (id : Nat) (h : StoresWf s) : Keeps (execRestowDone id s) := by
  unfold execRestowDone
  show StoresWf (match s.restow? id with | none => s | some r => _)
  split
  · exact h
  · dsimp only
    split
    · exact post_stores (s := { s with restows := _ }) _ h
    · exact h

theorem execRestowAbort_keeps {s : State} (id : Nat) (fail : RestowFail) (h : StoresWf s) : Keeps (execRestowAbort id fail s) := by
  unfold execRestowAbort
  show StoresWf (match s.restow? id with | none => s | some r => _)
  split
  · exact h
  · split
    · exact h
    · split
      · split
        · exact abortRestow_stores _ _ _ h
        · exact h
      · split
        · exact abortRestow_stores _ _ _ h
        · exact h

theorem execRestowcancel_keeps {s : State} (k : CmdHdr) (id : Nat) (h : StoresWf s) : Keeps (execRestowcancel k id s) := by
  refine cmdOp_keeps h fun _ => ?_
  split
  · exact h
  · split
    · exact h
    · exact abortRestow_stores _ _ _ h

end Sys2Proof.Safety
end

section
/-! PROOFS. Every step keeps every byte store canonical (R106, R23: O10). -/

namespace Sys2Proof.Safety

open Sys2Proof.Machine Sys2Proof.Laws

/-! ### Every instruction, command and event -/

theorem execNop_keeps {s : State} (sl : SSlot) (h : StoresWf s) : Keeps (execNop sl s) :=
  slotOp_keeps (body := fun s => .ok s) h h

theorem laneOp_keeps {s : State} {i : Instr} {sl : SSlot} {f : RForm} {lat : Nat} {fn : Nat → Nat → Nat → Nat} (h : StoresWf s) :
    Keeps (laneOp i sl f lat fn s) := scalarOp_keeps h

theorem compareOp_keeps {s : State} {i : Instr} {sl : SSlot} {f : RForm} {rel : Word → Word → Bool} (h : StoresWf s) :
    Keeps (compareOp i sl f rel s) := scalarOp_keeps h

theorem immOp_keeps {s : State} {i : Instr} {sl : SSlot} {f : IForm} {fn : Word → Word → Word} {imm : Word} (h : StoresWf s) :
    Keeps (immOp i sl f fn imm s) := scalarOp_keeps h

theorem shiftImmOp_keeps {s : State} {i : Instr} {sl : SSlot} {f : IForm} {fn : Nat → Nat → Nat → Nat} (h : StoresWf s) :
    Keeps (shiftImmOp i sl f fn s) := scalarOp_keeps h

theorem immCompareOp_keeps {s : State} {i : Instr} {sl : SSlot} {f : IForm} {rel : Word → Word → Bool} {imm : Word}
    (h : StoresWf s) : Keeps (immCompareOp i sl f rel imm s) := scalarOp_keeps h

theorem f32Arith_keeps {s : State} {i : Instr} {sl : SSlot} {f : RForm} {lat : Nat} {op : RM → Val → Val → Val → Val × Fl}
    (h : StoresWf s) : Keeps (f32Arith i sl f lat op s) := fpOp_keeps h

theorem sluiceOp_keeps {s : State} {i : Instr} {f : XForm} {counted : Bool} (h : StoresWf s) :
    Keeps (sluiceOp i f counted s) := entryOp_keeps h

theorem fenceOp_keeps {s : State} {i : Instr} {f : XForm} (h : StoresWf s) : Keeps (fenceOp i f s) := entryOp_keeps h

theorem execCollBcast_keeps {s : State} (f : XForm) (h : StoresWf s) : Keeps (execCollBcast f s) := by
  unfold execCollBcast
  exact collOp_keeps h

theorem exec_keeps {s : State} (i : Instr) (h : StoresWf s) : Keeps (exec i s) := by
  cases i <;> unfold exec
  case nop => exact execNop_keeps _ h
  case add | sub | mul | mulh | mulhu | min | max | minu | maxu | adds | addus | subs | subus | abs | neg | shl
    | shr | sar | clz | popc => exact laneOp_keeps h
  case ceq | cne | clt | cle | cltu | cleu => exact compareOp_keeps h
  case addi | andi | ori | xori => exact immOp_keeps h
  case shli | shri | sari => exact shiftImmOp_keeps h
  case ceqi | clti | cltui => exact immCompareOp_keeps h
  case and | or | xor | andn | bext | bins | bperm | gand | gor | seth | aadd | aaddi => exact scalarOp_keeps h
  case fadd | fsub | fmul | ffma => exact f32Arith_keeps h
  case fcmp | fcvt => exact fpOp_keeps h
  case ldb | ldbu | ldh | ldhu | ldw | ldq | lda | ldd => exact loadOp_keeps h
  case stb | sth | stw | stq | sta | std => exact storeOp_keeps h
  case br | jr | call | callr | ret => exact branchOp_keeps h
  case rot | trap | halt | repcWrite | swait => exact roomOp_keeps h h.me
  case vnop | mnop | xnop => exact h
  case vadd | vsub | vmul | vfma | vmin | vmax | vabs | vneg | vadds | vsubs | vand | vor | vxor | vshl | vshr
    | vcvt | vrint | vmov | vfexp | vscale | vgetexp | vgetman | vclass | vrcp | vrsqrt | vdiv | vsqrt | vflog
    | vcmp | vsel | vperm | vgather | vscatter | vbmax | vsplit | vrand | vsum | vdot | vrmax | vrmin =>
    exact vIssue_keeps h
  case mmul | mmac | mslice => exact arrayIssue_keeps h
  case mscale | mzero => exact zeroIssue_keeps h
  case qclr | qfma | qdot | qadd | qsub | qneg | qround => exact quireOp_keeps h
  case bcopy | bconv | bquant | bgather | bscatter | bfill | bnext | bchain => exact cardOp_keeps h
  case put | putQ => exact entryOp_keeps h
  case slAdd | slMin | slMax | slAnd | slOr | slXor | slFadd | slCas | slFill | slSum => exact sluiceOp_keeps h
  case fenceAcq | fenceRel | fenceAr | fenceBank | fenceBankAll | fenceGeo => exact fenceOp_keeps h
  case amoAdd | amoMin | amoMax | amoAnd | amoOr | amoXor | amoSwap | amoCas | amoFadd => exact amoOp_keeps h
  case collSum | collSumQ => exact collOp_keeps h
  case collBcast => exact execCollBcast_keeps _ h
  case wflush | wflushAll => exact flushOp_keeps h
  case linkRetrain => exact retrain_stores _ h
  case evqOverflowEvent => exact postLost_stores h
  case restowClose | restowDrainEnd => exact onRestow_stores _ _ h
  case atomicFetchAndAdd | atomicCompareAndSwap => exact hostAtomic_stores _ _ _ _ _ _ h
  case thermalTrip => exact execThermalTrip_keeps
  case sel => exact execSel_keeps _ _ h
  case loop => exact execLoop_keeps _ h
  case rep => exact execRep_keeps _ h
  case mfs => exact execMfs_keeps _ _ h
  case mts => exact execMts_keeps _ h
  case msill => exact execMsill_keeps _ h
  case mround => exact execMround_keeps _ h
  case mrel => exact execMrel_keeps _ h
  case msave => exact execMsave_keeps _ h
  case mload => exact execMload_keeps _ h
  case msplit => exact execMsplit_keeps _ h
  case qst => exact execQst_keeps _ h
  case qld => exact execQld_keeps _ h
  case putT => exact execPutT_keeps _ h
  case sinit => exact execSinit_keeps _ h
  case sinc => exact execSinc_keeps _ h
  case twait => exact execTwait_keeps _ h
  case tbsync => exact execTbsync_keeps _ h
  case phase => exact execPhase_keeps _ h
  case dbar => exact execDbar_keeps _ h
  case wmap => exact execWmap_keeps _ h
  case tret => exact execTret_keeps _ h
  case load => exact execLoad_keeps _ _ _ _ _ h
  case unload => exact execUnload_keeps _ _ h
  case launch => exact execLaunch_keeps _ _ _ h
  case basincfg => exact execBasincfg_keeps _ _ _ _ h
  case preempt => exact execPreempt_keeps _ _ _ _ h
  case kill => exact execKill_keeps _ _ h
  case resume => exact execResume_keeps _ _ h
  case resumeH => exact execResumeH_keeps _ _ _ h
  case ctxread => exact execCtxread_keeps _ _ h
  case ctxwrite => exact execCtxwrite_keeps _ _ _ h
  case dump => exact execDump_keeps _ _ h
  case dumparea => exact execDumparea_keeps _ _ _ _ h
  case debugStop => exact execDebugStop_keeps _ _ h
  case debugStep => exact execDebugStep_keeps _ _ h
  case debugBkpt => exact execDebugBkpt_keeps _ _ _ _ h
  case debugWatch => exact execDebugWatch_keeps _ _ _ _ _ _ h
  case debugResume => exact execDebugResume_keeps _ _ h
  case pagein => exact execPagein_keeps _ _ h
  case faultFatal => exact execFaultFatal_keeps _ _ h
  case asidset => exact execAsidset_keeps _ _ _ _ _ h
  case ptewrite => exact execPtewrite_keeps _ _ _ _ _ h
  case shootdown => exact execShootdown_keeps _ _ _ h
  case restow => exact execRestow_keeps _ _ _ _ h
  case restowcancel => exact execRestowcancel_keeps _ _ h
  case handlereg => exact execHandlereg_keeps _ _ _ h
  case winopen => exact execWinopen_keeps _ _ _ _ _ h
  case winclose => exact execWinclose_keeps _ _ h
  case aclset => exact execAclset_keeps _ _ _ _ h
  case evqset => exact execEvqset_keeps _ _ _ _ _ _ h
  case linkroute => exact execLinkroute_keeps _ _ _ _ h
  case tbref => exact execTbref_keeps _ _ h
  case arm => exact execArm_keeps _ _ h
  case read => exact execRead_keeps _ _ _ h
  case tracecfg => exact execTracecfg_keeps _ _ h
  case tracestop => exact execTracestop_keeps _ h
  case powerUp => exact execPowerUp_keeps _ _ _ h
  case cmdDropped => exact execCmdDropped_keeps _ _ h
  case malformedCommand => exact execMalformedCommand_keeps _ _ h
  case roomHalted => exact execRoomHalted_keeps _ h
  case landing => exact execLanding_keeps _ h
  case swaitRelease => exact execSwaitRelease_keeps _ h
  case twaitRelease => exact execTwaitRelease_keeps _ h
  case tbRealignDone => exact execTbRealignDone_keeps _ h
  case sluiceApply => exact execSluiceApply_keeps _ _ h
  case sluiceReply => exact execSluiceReply_keeps _ _ h
  case atomicApply => exact execAtomicApply_keeps _ _ h
  case atomicReply => exact execAtomicReply_keeps _ _ h
  case fenceComplete => exact execFenceComplete_keeps _ _ h
  case dbarArrival => exact execDbarArrival_keeps _ h
  case dbarComplete => exact execDbarComplete_keeps _ h
  case collectiveComplete => exact execCollectiveComplete_keeps _ _ h
  case entryDispatch => exact execEntryDispatch_keeps _ _ h
  case cardStart => exact execCardStart_keeps _ _ h
  case shadowCardSwap => exact execShadowCardSwap_keeps _ _ h
  case bargeElementRequest => exact execBargeElementRequest_keeps _ _ h
  case cardComplete => exact execCardComplete_keeps _ _ h
  case putLanding => exact execPutLanding_keeps _ _ h
  case windowFill => exact execWindowFill_keeps _ h
  case atticOverflowFill => exact execAtticOverflowFill_keeps _ h
  case codePageFill => exact execCodePageFill_keeps _ h
  case boundaryTrap => exact execBoundaryTrap_keeps _ h
  case pageFaultMove => exact execPageFaultMove_keeps _ h
  case tableWalk => exact execTableWalk_keeps _ _ _ _ h
  case requestReplay => exact execRequestReplay_keeps _ _ h
  case alertBackOff => exact execAlertBackOff_keeps _ h
  case patrolScrub => exact execPatrolScrub_keeps _ _ _ h
  case bankSelfTestPass => exact execBankSelfTestPass_keeps _ _ h
  case admissionRound => exact execAdmissionRound_keeps _ h
  case teamRetire => exact execTeamRetire_keeps _ h
  case preemptStop => exact execPreemptStop_keeps _ h
  case contextSave => exact execContextSave_keeps _ h
  case dumpComplete => exact execDumpComplete_keeps h
  case shootdownDone => exact execShootdownDone_keeps _ h
  case restowCopyLine => exact execRestowCopyLine_keeps _ _ _ h
  case restowFlip => exact execRestowFlip_keeps _ h
  case restowDone => exact execRestowDone_keeps _ h
  case restowAbort => exact execRestowAbort_keeps _ _ h
  case rdmaRead => exact execRdmaRead_keeps _ _ _ _ _ h
  case rdmaWrite => exact execRdmaWrite_keeps _ _ _ _ _ h
  case counterTrigger => exact execCounterTrigger_keeps _ h
  case traceRecordWrite => exact execTraceRecordWrite_keeps _ _ h
  case cmdsession => exact execCmdsession_keeps _ _ h
  case getMeasurements => exact execGetMeasurements_keeps _ h
  case keyload => exact execKeyload_keeps _ _ _ _ h
  case keyloadComplete => exact execKeyloadComplete_keeps _ h
  case beatFrameReceive => exact execBeatFrameReceive_keeps _ _ h
  case beatResendTimeout => exact execBeatResendTimeout_keeps _ h
  case timingFrameSend => exact execTimingFrameSend_keeps _ h
  case timingFrameReceive => exact execTimingFrameReceive_keeps _ _ h
  case rootPathLoss => exact execRootPathLoss_keeps h
  case ptpSync => exact execPtpSync_keeps _ h
  case ptpSyncTimeout => exact execPtpSyncTimeout_keeps h
  case lockhousePortLinkUp => exact execLockhousePortLinkUp_keeps _ _ _ h
  case peerReadRequest => exact execPeerReadRequest_keeps _ _ _ _ h
  case peerReadReply => exact execPeerReadReply_keeps _ _ _ _ _ h
  case powerSample => exact execPowerSample_keeps _ _ _ h
  case thermalWarn => exact execThermalWarn_keeps h
  case packageReset => exact execPackageReset_keeps h
  case bankHardFault => exact execBankHardFault_keeps _ _ h
  case refreshDue => exact execRefreshDue_keeps _ _ h
  case refreshManagementDone => exact execRefreshManagementDone_keeps _ h
  case linkRetrainDone => exact execLinkRetrainDone_keeps _ h
  case frameDropped => exact execFrameDropped_keeps _ h
  case firmwareUpdate => exact execFirmwareUpdate_keeps _ _ h
  case spdmSessionEnd => exact execSpdmSessionEnd_keeps _ h
  case thermalWarnClear => exact execThermalWarnClear_keeps h

/-! ### An issue cycle (R156 to R160) -/

theorem slot_stores {x : SlotRun} (n : Nat) (i : Option Instr) (h : StoresWf x.state) : StoresWf (x.slot n i).state := by
  unfold SlotRun.slot
  split
  · exact h
  · next i =>
    split
    · next t ht =>
      split
      · exact h
      · exact (exec_keeps i h).next ht
    · exact h

theorem runSlots_stores {s : State} (b : Decode.Bundle) (h : StoresWf s) : StoresWf (s.runSlots b).state := by
  have h0 : StoresWf ({ state := s, causes := aloneOk b, owed := [] } : SlotRun).state := h
  unfold State.runSlots
  dsimp only
  split
  · exact slot_stores _ _ (slot_stores _ _ (slot_stores _ _ (slot_stores _ _ (slot_stores _ _ h0))))
  · exact slot_stores _ _ (slot_stores _ _ (slot_stores _ _ (slot_stores _ _ (slot_stores _ _ h0))))

theorem openCycle_stores {s : State} (h : StoresWf s) : StoresWf s.openCycle := by
  have h1 : StoresWf (s.heal s.me s.me.ctx.landingBytes) := heal_stores _ _ h
  exact h1.withMe (beginCycle_room _ ⟨h1.me.1, h1.me.2⟩)

theorem holdFor_stores {s : State} (m : Miss) (h : StoresWf s) : StoresWf (s.holdFor m) :=
  countHeld_stores _ _ _ (h.withMe (r := { s.me.latchAll with stop := .hold m }) h.me)

theorem stepEnds_stores {s : State} (h : StoresWf s) : StoresWf s.stepEnds := h

theorem boundary_stores {s : State} (phase : Bool) (h : StoresWf s) : StoresWf (s.boundary phase) := by
  unfold State.boundary
  dsimp only
  split
  · exact takeDue_stores (stepEnds_stores h)
  · split
    · exact leave_stores _ (h.withMe ⟨h.me.1, h.me.2⟩)
    · split
      · exact debugStop_stores h
      · split
        · exact leave_stores _ h
        · exact h

theorem advance_room {r : Room} (sp : Bool) (h : RoomWf r) : RoomWf (r.advance sp) := by
  unfold Room.advance
  extract_lets c q c1 winb _ c2 here x y
  have hx : RoomWf x := by
    show RoomWf (match r.ctl with | .halts => _ | .returned again ended => _ | _ => _)
    split <;> exact ⟨h.1, h.2⟩
  have hy : RoomWf y := landStores_wf hx
  split
  · exact takeSnap_room hy
  · exact hy

theorem closeCycle_stores {s : State} (b : Decode.Bundle) (live : Bool) (h : StoresWf s) : StoresWf (s.closeCycle b live) := by
  unfold State.closeCycle
  extract_lets s1 halts s2
  have h1 : StoresWf s1 := heal_stores _ _ (flushEcc_stores (countIssue_stores _ _ h))
  have h2 : StoresWf s2 := by
    show StoresWf (if _ then _ else _)
    split
    · exact flushMacct_stores _ h1
    · exact h1
  exact boundary_stores _ (h2.withMe (advance_room _ h2.me))

theorem noteLoop_stores {s : State} (pushed : Bool) (pc : DWord) (w : BitVec 256) (h : StoresWf s) :
    StoresWf (s.noteLoop pushed pc w) := by
  unfold State.noteLoop
  dsimp only
  split
  · split
    · split <;> exact h
    · exact h
  · exact h

theorem stopBundle_stores {s : State} (c : Cause) (h : StoresWf s) : StoresWf (s.stopBundle c) :=
  takeTrap_stores _ _ (stepEnds_stores (chargeTurn_stores _ h))

theorem issueBundle_stores {s : State} (w : BitVec 256) (h : StoresWf s) : StoresWf (s.issueBundle w) := by
  unfold State.issueBundle
  extract_lets bp t c fresh
  split
  · exact stopBundle_stores _ h
  · next b _ =>
    extract_lets run
    have ht : StoresWf t := openCycle_stores h
    have hrun : StoresWf run.state := by
      show StoresWf (if _ then _ else _ : SlotRun).state
      split
      · exact ht
      · exact runSlots_stores _ ht
    split
    · exact stopBundle_stores _ h
    · split
      · exact holdFor_stores _ h
      · exact closeCycle_stores _ _ (noteLoop_stores _ _ _ hrun)

theorem fetchAndIssue_stores {s : State} (h : StoresWf s) : StoresWf s.fetchAndIssue := by
  unfold State.fetchAndIssue
  split
  · exact takeTrap_stores _ _ (stepEnds_stores (chargeTurn_stores _ h))
  · exact holdFor_stores _ h
  · exact issueBundle_stores _ h

theorem release_room {r : Room} (h : RoomWf r) : RoomWf { r with ctx := r.ctx.release } := h

theorem roomCycle_stores {s : State} (h : StoresWf s) : StoresWf s.roomCycle := by
  have hs : StoresWf s.flushEcc := flushEcc_stores h
  unfold State.roomCycle
  extract_lets t r s1
  have ht : StoresWf t := hs
  have h1 : StoresWf s1 := drainTurn_stores ht
  split
  · exact ht
  · split
    · exact takeDue_stores (stepEnds_stores (chargeTurn_stores _ ht))
    · split
      · split
        · exact h1
        · exact takeDue_stores (stepEnds_stores h1)
      · split
        · exact ht
        · split
          · exact fetchAndIssue_stores ht
          · exact ht
          · split
            · exact fetchAndIssue_stores (ht.withMe (r := { r with ctx := _ }) ht.me)
            · exact ht
          · split
            · exact fetchAndIssue_stores (ht.withMe (r := { r with ctx.wait := .none }) ht.me)
            · exact countHeld_stores _ _ _ ht

/-! ### The tick and the step -/

theorem coreTurns_stores {s : State} (core : Nat) (h : StoresWf s) : StoresWf (s.coreTurns core) := by
  unfold State.coreTurns
  split
  · exact h
  · extract_lets res power drained turn ids s1
    have h1 : StoresWf s1 := h
    clear_value turn s1
    split
    · exact h1
    · exact countHeld_stores _ _ _ h1

theorem tick_stores {s : State} (h : StoresWf s) : StoresWf s.tick := by
  have h1 : StoresWf s.advanceTime.triggerDies.errEvents := errEvents_stores (triggerDies_stores (s := s.advanceTime) h)
  exact foldl_keeps (p := StoresWf) (fun _ _ => coreTurns_stores _) _ (ensureAll_stores _ h1)

theorem advanceAll_keeps {s : State} (h : StoresWf s) : Keeps s.advanceAll := by
  unfold State.advanceAll
  split
  · exact exec_keeps (s := { s with agenda := _ }) _ h
  · split
    · next r rest _ =>
      have ht : StoresWf (State.focus { s with queue := rest } r) := focus_stores _ h
      show StoresWf (if _ then _ else _)
      split
      · exact roomCycle_stores ht
      · exact ht
    · exact tick_stores h

theorem step_keeps {s : State} (h : StoresWf s) : Keeps (step s) := by
  unfold step
  split
  · exact advanceAll_keeps h
  · split
    · exact exec_keeps (s := { s with agenda := _ }) _ h
    · trivial

/-- Settles O9. -/
theorem resetStoresCanonical : Obligations.ResetStoresCanonical := reset_stores

/-- Settles O10: what each instruction, command, event, issue cycle and tick writes into a byte store goes through
`Memory.put`, which keeps the canonical form. -/
theorem stepKeepsStoresCanonical : Obligations.StepKeepsStoresCanonical := fun _ _ h ht => (step_keeps h).next ht

end Sys2Proof.Safety
end

section
/-! PROOFS. Sessions, measurements, keys, power, reset, firmware, banks, scrub and refresh (R98, R123, R427, R436 to R445:
O59). -/

namespace Sys2Proof.Machine

/-! ### Sessions, measurements and memory keys (R440 to R443) -/

theorem cmdsession_effect {s : State} (spdm cert : Nat) (hr : s.mgmt.recovery = false) (hn : s.sessions.length < 64) :
    ∃ t x, exec (.cmdsession spdm cert) s = .next t ∧ t.sessions = s.sessions ++ [x] ∧ x.num = s.mgmt.sessions + 1 ∧ x.e = 0 ∧
      x.replies = [] ∧ x.held = [] ∧ t.mem = s.mem := by
  refine ⟨_, _, congrArg Host.Outcome.next (if_neg ?_), rfl, rfl, rfl, rfl, rfl, rfl⟩
  simp [hr, hn]

/-- At most four blocks, the image and the record each there or not, and two signatures. -/
theorem getMeasurements_effect (s : State) (nonce : Nat) :
    ∃ t l, exec (.getMeasurements nonce) s = .next t ∧ t.mgmt.measured = some (nonce, l) ∧
      t = { s with mgmt := { s.mgmt with measured := t.mgmt.measured } } ∧ l.length ≤ 6 := by
  refine ⟨_, _, rfl, rfl, rfl, ?_⟩
  have hone (o : Option Nat) : o.toList.length ≤ 1 := by cases o <;> simp
  have himage := hone (s.mgmt.running.map fun i => 2 * 2 ^ 384 + i.digest % 2 ^ 384)
  have hrecord := hone (s.mgmt.record.map fun r => 3 * 2 ^ 384 + r.image.digest % 2 ^ 384)
  simp only [List.length_append, List.length_cons, List.length_nil]
  omega

theorem keyload_effect {s : State} {n slot : Nat} (key : BitVec 512) (hs : slot < 512)
    (hx : ∃ x ∈ s.sessions, x.spdm = n ∧ x.may 1 = true) :
    exec (.keyload n slot key true) s =
      .next { s with mgmt := { s.mgmt with keyPending := assocSet s.mgmt.keyPending slot (2 ^ 512 + key.toNat) } } := by
  obtain ⟨x, hx, hn, hm⟩ := hx
  have ha : (s.sessions.any fun x => x.spdm == n && x.may privAdmin) = true :=
    List.any_eq_true.2 ⟨x, hx, by simp [hn, hm, privAdmin]⟩
  exact congrArg Host.Outcome.next (if_pos (by simp [hs, ha]))

theorem keyloadComplete_effect {s : State} {slot : Nat} {x : Nat × Nat}
    (hx : s.mgmt.keyPending.find? (fun x => x.1 == slot) = some x) :
    ∃ t, exec (.keyloadComplete slot) s = .next t ∧ t.mem.keys = assocSet s.mem.keys slot x.2 ∧ t.mem.cells = s.mem.cells ∧
      ∀ y ∈ t.mgmt.keyPending, y.1 ≠ slot := by
  simp only [exec, execKeyloadComplete, hx]
  exact ⟨_, rfl, rfl, rfl, fun y hy => by simpa using (List.mem_filter.1 hy).2⟩

theorem spdmSessionEnd_effect (s : State) (n : Nat) :
    ∃ t, exec (.spdmSessionEnd n) s = .next t ∧ (∀ x ∈ t.sessions, x.spdm ≠ n) ∧
      (∀ x ∈ s.sessions, x.spdm ≠ n → x ∈ t.sessions) ∧ t.mem = s.mem :=
  ⟨_, rfl, fun x hx => by simpa using (List.mem_filter.1 hx).2,
    fun x hx hn => List.mem_filter.2 ⟨hx, by simpa using hn⟩, rfl⟩

/-! ### Power on, reset and trip (R427, R438, R442, R445) -/

/-- What the machine holds after a restart: no room, no count, its timebase at zero. -/
theorem State.restart_effect (s : State) (m : Mgmt) (mem : GlobalMem) (on : Bool) :
    (s.restart m mem on).power.on = on ∧ (s.restart m mem on).mem = mem ∧ (s.restart m mem on).rooms = [] ∧
      (s.restart m mem on).hall.tb = 0 ∧ (s.restart m mem on).counters = [] ∧ (s.restart m mem on).events = s.events ∧
      (s.restart m mem on).mgmt.floor = m.floor := ⟨rfl, rfl, rfl, rfl, rfl, rfl, rfl⟩

theorem powerUp_effect {s : State} (a b : SignedImage) (c : ConfigRecord) (h : s.power.on = false) :
    ∃ t, exec (.powerUp a b c) s = .next t ∧ t.power.on = true ∧ t.mem.cells = [] ∧ t.rooms = [] ∧ t.hall.tb = 0 ∧
      t.counters = [] ∧ t.events = s.events :=
  ⟨_, congrArg Host.Outcome.next (if_neg (by simp [h])), rfl, rfl, rfl, rfl, rfl, rfl⟩

theorem packageReset_effect (s : State) :
    ∃ t, exec .packageReset s = .next t ∧ t.hall.tb = 0 ∧ t.counters = [] ∧ t.rooms = [] ∧ t.tlb = [] ∧ t.sessions = [] ∧
      t.mem.cells = s.mem.cells ∧ t.mem.keys = [] ∧ t.mgmt.floor = s.mgmt.floor ∧ t.events = s.events :=
  ⟨_, rfl, rfl, rfl, rfl, rfl, rfl, rfl, rfl, rfl, rfl⟩

theorem thermalTrip_effect (s : State) :
    ∃ t, exec .thermalTrip s = .next t ∧ t.power.on = false ∧ t.mem.cells = [] ∧ t.rooms = [] ∧
      ∀ r, s.ring = some r → r.free = true → r.lost = 0 → t.events = s.events ++ [.thermalTrip] :=
  ⟨_, rfl, rfl, rfl, rfl, fun _ hr hf hl => State.post_events_free .thermalTrip hr hf hl⟩

/-! ### Power (R444, R445) -/

theorem Power.nextHold_excursion {p : Power} (sample h : Nat) (hx : 1500 < p.samples.headD 0) : p.nextHold sample h = 48 :=
  if_pos (by simpa using hx)

/-- While the mean is above the cap the hold rises, up to 48. -/
theorem Power.nextHold_above {p : Power} {sample : Nat} (h : Nat) (hx : p.samples.headD 0 ≤ 1500)
    (hm : meanAbove p.cap (sample :: p.samples) = true) :
    p.nextHold sample h = min 48 (max (p.holdH + 1) (max 1 (min 48 h))) := by
  rw [Power.nextHold, if_neg (by simpa using hx), if_pos hm]

theorem Power.nextHold_below {p : Power} {sample : Nat} (h : Nat) (hx : p.samples.headD 0 ≤ 1500)
    (hm : meanAbove p.cap (sample :: p.samples) = false) : p.nextHold sample h = min p.holdH h := by
  rw [Power.nextHold, if_neg (by simpa using hx), if_neg (by simp [hm])]

theorem Power.nextHold_le {p : Power} (sample h : Nat) (hp : p.holdH ≤ 48) : p.nextHold sample h ≤ 48 := by
  unfold Power.nextHold
  split
  · exact Nat.le_refl 48
  · split
    · exact Nat.min_le_left _ _
    · exact (Nat.min_le_left _ _).trans hp

/-- The counting of a sample's energy changes counters only. -/
theorem countEnergy_frame (f : Nat → Nat) (l : List Nat) (s : State) :
    (l.foldl (fun t d => t.count (counterNo d 0xFF 0x20) (f d)) s).mem = s.mem ∧
      (l.foldl (fun t d => t.count (counterNo d 0xFF 0x20) (f d)) s).rooms = s.rooms :=
  ⟨foldl_aside State.mem _ (fun _ _ => State.count_mem _ _ _) l s,
    foldl_aside State.rooms _ (fun _ _ => by simp [State.rooms]) l s⟩

/-- A sample that the regulation allows leaves memory and rooms, and the controller as the sample and its hold make it. -/
theorem powerSample_allowed {s : State} {w : Nat} (us : List Nat) (h : Nat) (ha : s.power.allows w = true) :
    ∃ t, exec (.powerSample w us h) s = .next t ∧ t.mem = s.mem ∧ t.rooms = s.rooms ∧
      t.power = { s.power.sampled w (s.power.nextHold w h) with lastEvent := t.power.lastEvent } := by
  obtain ⟨hm, hr⟩ := countEnergy_frame (fun d => us.getD d 0) (List.range 13) s
  refine ⟨_, congrArg Host.Outcome.next (if_neg (by simp [ha])), ?_⟩
  dsimp only
  split
  · rw [State.post_mem, State.post_rooms, State.post_power]
    exact ⟨hm, hr, rfl⟩
  · exact ⟨hm, hr, rfl⟩

theorem powerSample_effect {s : State} {w : Nat} (us : List Nat) (h : Nat) (ha : s.power.allows w = true)
    (hh : s.power.holdH ≤ 48) :
    let l := w :: s.power.samples
    ∃ t, exec (.powerSample w us h) s = .next t ∧ t.mem = s.mem ∧ t.rooms = s.rooms ∧ t.power.holdH ≤ 48 ∧
    t.power.samples = l.take 100 ∧ (1500 < w → t.power.excursion = true) ∧
    (1500 < s.power.samples.headD 0 → t.power.holdH = 48) ∧
    (s.power.samples.headD 0 ≤ 1500 → 100 ≤ l.length → 100 * s.power.cap < (l.take 100).sum →
      1 ≤ t.power.holdH ∧ s.power.holdH ≤ t.power.holdH) ∧
    (s.power.samples.headD 0 ≤ 1500 → l.length < 100 ∨ (l.take 100).sum ≤ 100 * s.power.cap →
      t.power.holdH ≤ s.power.holdH) := by
  obtain ⟨t, ht, hm, hr, hp⟩ := powerSample_allowed us h ha
  have hhold : t.power.holdH = s.power.nextHold w h := by rw [hp]; rfl
  refine ⟨t, ht, hm, hr, ?_, by rw [hp]; rfl, fun hw => ?_, fun hx => ?_, fun hx hl hsum => ?_, fun hx hl => ?_⟩
  · exact hhold.le.trans (Power.nextHold_le w h hh)
  · rw [hp]
    simp [Power.sampled, hw]
  · exact hhold.trans (Power.nextHold_excursion w h hx)
  · rw [hhold, Power.nextHold_above h hx (by simp only [meanAbove, hl, hsum, decide_true, Bool.and_self])]
    omega
  · have hlow : meanAbove s.power.cap (w :: s.power.samples) = false := by
      rw [meanAbove, Bool.and_eq_false_iff, decide_eq_false_iff_not, decide_eq_false_iff_not]
      omega
    rw [hhold, Power.nextHold_below h hx hlow]
    exact Nat.min_le_left _ _

/-- No third sample in a row above 1,500 W (R7). -/
theorem powerSample_refused {s : State} {w a b : Nat} {l : List Nat} (us : List Nat) (h : Nat) (hw : 1500 < w) (ha : 1500 < a)
    (hb : 1500 < b) (hl : s.power.samples = a :: b :: l) : exec (.powerSample w us h) s = .next s :=
  congrArg Host.Outcome.next (if_pos (by simp [Power.allows, hl, hw, ha, hb]))

theorem thermalWarn_effect (s : State) :
    ∃ t, exec .thermalWarn s = .next t ∧ t.power.thermalWarn = true ∧ t.mem = s.mem ∧ t.rooms = s.rooms := by
  refine ⟨_, rfl, ?_⟩
  dsimp only
  split
  · rw [State.post_power, State.post_mem, State.post_rooms]
    exact ⟨rfl, rfl, rfl⟩
  · exact ⟨rfl, rfl, rfl⟩

theorem thermalWarnClear_effect (s : State) :
    ∃ t, exec .thermalWarnClear s = .next t ∧ t.power.thermalWarn = false ∧ t = { s with power := t.power } :=
  ⟨_, rfl, rfl, rfl⟩

/-! ### Firmware (R438, R439) -/

theorem firmwareUpdate_image {s : State} {i : SignedImage} (he : i.ecdsaOk = true) (hl : i.lmsOk = true)
    (hv : s.mgmt.floor ≤ i.version) :
    ∃ t, exec (.firmwareUpdate i none) s = .next t ∧ (t.mgmt.slotA = some i ∨ t.mgmt.slotB = some i) ∧
      t.mgmt.running = s.mgmt.running ∧ t = { s with mgmt := t.mgmt } := by
  refine ⟨_, rfl, ?_⟩
  have hg : (imageGenuine i && decide (s.mgmt.floor ≤ i.version)) = true := by simp [imageGenuine, he, hl, hv]
  simp only [hg, if_true]
  split
  · exact ⟨.inr rfl, rfl, rfl⟩
  · exact ⟨.inl rfl, rfl, rfl⟩

theorem Mgmt.takeRecord_genuine {m : Mgmt} {c : ConfigRecord} (hg : imageGenuine c.image = true) :
    m.takeRecord c = { m with record := some c, floor := max m.floor c.floorVersion } := if_pos hg

theorem firmwareUpdate_record {s : State} (i : SignedImage) {c : ConfigRecord} (he : c.image.ecdsaOk = true)
    (hl : c.image.lmsOk = true) :
    ∃ t, exec (.firmwareUpdate i (some c)) s = .next t ∧ t.mgmt.record = some c ∧
      t.mgmt.floor = max s.mgmt.floor c.floorVersion ∧ t.power.capWatts = max 600 (min 1500 c.powerCapWatts) ∧
      t = { s with mgmt := t.mgmt, power := t.power } := by
  have htake (m : Mgmt) := Mgmt.takeRecord_genuine (m := m) (show imageGenuine c.image = true by simp [imageGenuine, he, hl])
  refine ⟨_, rfl, congrArg Mgmt.record (htake _), (congrArg Mgmt.floor (htake _)).trans ?_, congrArg Mgmt.cap (htake _), rfl⟩
  refine congrArg (max · c.floorVersion) ?_
  split
  · exact apply_ite_eq Mgmt.floor rfl rfl
  · rfl

/-! ### Banks (R98, R435) -/

theorem State.core?_onCore {s : State} {n : Nat} {k : Core} {f : Core → Core} (h : s.core? n = some k)
    (hf : ∀ y, (f y).num = y.num) : (s.onCore n f).core? n = some (f k) := by
  have hn : k.num = n := by simpa using List.find?_some h
  have hl : (s.onCore n f).core? n = (s.core? n).map fun y => if y.num == n then f y else y :=
    find?_mapIf_keeps (fun y => by rw [hf y]) _
  rw [hl, h]
  simp [hn]

theorem State.coreOf_some {s : State} {n : Nat} {k : Core} (h : s.core? n = some k) : s.coreOf n = k := by
  simp [State.coreOf, h]

/-- What a bank's failing leaves of cores and memory is what marking it leaves. -/
theorem State.failBank_frame {s : State} {core bank : Nat} {k : Core} (hk : s.core? core = some k) (hb : bank ∉ k.failed) :
    (s.failBank core bank).cores = (s.onCore core fun k => { k with failed := bank :: k.failed }).cores ∧
      (s.failBank core bank).mem = s.mem := by
  have hc : ((s.coreOf core).failed.contains bank || (s.core? core).isNone) = false := by
    simp [State.coreOf_some hk, hk, hb]
  unfold State.failBank
  simp only [hc, Bool.false_eq_true, if_false]
  constructor <;> split <;> split <;> simp

theorem bankHardFault_effect {s : State} {core bank : Nat} {k : Core} (hk : s.core? core = some k) (hb : bank < 36)
    (hf : bank ∉ k.failed) :
    ∃ t k', exec (.bankHardFault core bank) s = .next t ∧ t.core? core = some k' ∧ k'.failed = bank :: k.failed ∧
      t.mem = s.mem := by
  obtain ⟨hcores, hmem⟩ := State.failBank_frame hk hf
  refine ⟨_, { k with failed := bank :: k.failed }, congrArg Host.Outcome.next (if_pos hb), ?_, rfl, hmem⟩
  rw [State.core?, hcores]
  exact State.core?_onCore hk fun _ => rfl

theorem bankSelfTestPass_effect {s : State} {core bank : Nat} {k : Core} (hk : s.core? core = some k) (hf : bank ∈ k.failed) :
    ∃ t k', exec (.bankSelfTestPass core bank) s = .next t ∧ t.core? core = some k' ∧ bank ∉ k'.failed ∧
      (∀ e ∈ k'.errors, e.2.2.1 ≠ bank) ∧ t = { s with cores := t.cores } := by
  refine ⟨_, _, rfl, State.core?_onCore hk fun y => by split <;> rfl, ?_, ?_, rfl⟩ <;> simp [hf]

/-! ### Scrub (R436, R446) -/

theorem State.poisonPlace_fresh {s : State} {line : Nat} (h : line ∉ s.mem.poisoned) :
    (s.scrubLine line .uncorrectable).mem.poisoned = line :: s.mem.poisoned ∧
      (s.scrubLine line .uncorrectable).mem.cells = s.mem.cells := by
  simp [State.scrubLine, State.poisonPlace, State.countLine, h]

theorem State.scrubOn_mem (s : State) (stack : Nat) : (s.scrubOn stack).mem = s.mem := by
  unfold State.scrubOn
  dsimp only
  split
  · rfl
  · exact State.count_mem _ _ _

theorem patrolScrub_stack {s : State} {stack line : Nat} (hs : stack < 8) (hl : line = s.scrubPos.getD stack 0)
    (hp : stack * stackLines + line ∉ s.mem.poisoned) :
    ∃ t, exec (.patrolScrub (some stack) line .uncorrectable) s = .next t ∧
      t.mem.poisoned = (stack * stackLines + line) :: s.mem.poisoned ∧ t.mem.cells = s.mem.cells := by
  refine ⟨_, congrArg Host.Outcome.next (if_pos (by simp [hl, hs])), ?_⟩
  rw [State.scrubOn_mem]
  exact State.poisonPlace_fresh hp

theorem patrolScrub_hall {s : State} {line : Nat} (hp : lpddrPlace / 64 + line ∉ s.mem.poisoned) :
    ∃ t, exec (.patrolScrub none line .uncorrectable) s = .next t ∧
      t.mem.poisoned = (lpddrPlace / 64 + line) :: s.mem.poisoned ∧ t.mem.cells = s.mem.cells :=
  ⟨_, rfl, State.poisonPlace_fresh hp⟩

theorem patrolScrub_notNext {s : State} {stack line : Nat} (found : LineCheck) (hl : line ≠ s.scrubPos.getD stack 0) :
    exec (.patrolScrub (some stack) line found) s = .next s :=
  congrArg Host.Outcome.next (if_neg (by simp only [hl, decide_false, Bool.false_and, Bool.false_eq_true, not_false_eq_true]))

/-! ### Refresh (R123, R437) -/

theorem State.refreshOf_bank (s : State) (bank : Nat) : (s.refreshOf bank).bank = bank := by
  unfold State.refreshOf
  cases h : s.refresh.find? fun b => b.bank == bank with
  | none => rfl
  | some b => simpa using List.find?_some h

theorem State.refreshOf_setRefresh (s : State) (b : BankRefresh) : (s.setRefresh b).refreshOf b.bank = b := by
  simp [State.refreshOf, State.setRefresh]

theorem State.bankHeld_setRefresh {s : State} {b : BankRefresh} (h : b.backOff = true) :
    (s.setRefresh b).bankHeld b.bank = true := by
  simp [State.bankHeld, State.setRefresh, h]

theorem State.setRefresh_mem (s : State) (b : BankRefresh) : (s.setRefresh b).mem = s.mem := rfl

/-- An alert sets the bank's back-off; whether it is also reported changes neither refresh nor memory. -/
theorem alertBackOff_sets {s : State} {bank : Nat} (hb : bank < 2 ^ 15) (ho : (s.refreshOf bank).backOff = false) :
    ∃ (u : State) (b : BankRefresh) (post : Bool), u.mem = s.mem ∧ b.bank = bank ∧ b.backOff = true ∧
      exec (.alertBackOff bank) s = .next (if post then (u.setRefresh b).post (.abo bank) else u.setRefresh b) := by
  have hgo : ¬ ((s.refreshOf bank).backOff || decide (2 ^ 15 ≤ bank)) = true := by simpa [ho] using hb
  simp only [exec, execAlertBackOff, hgo]
  refine ⟨_, _, _, ?_, ?_, ?_, rfl⟩
  · exact State.count_mem _ _ _
  · exact s.refreshOf_bank bank
  · rfl

theorem alertBackOff_effect {s : State} {bank : Nat} (hb : bank < 2 ^ 15) (ho : (s.refreshOf bank).backOff = false) :
    ∃ t, exec (.alertBackOff bank) s = .next t ∧ (t.refreshOf bank).backOff = true ∧ t.bankHeld bank = true ∧
      t.mem = s.mem := by
  obtain ⟨u, b, post, hu, rfl, hset, he⟩ := alertBackOff_sets hb ho
  have h : ((u.setRefresh b).refreshOf b.bank).backOff = true ∧ (u.setRefresh b).bankHeld b.bank = true ∧
      (u.setRefresh b).mem = s.mem := ⟨by rw [State.refreshOf_setRefresh, hset], State.bankHeld_setRefresh hset, hu⟩
  refine ⟨_, he, ?_⟩
  cases post with
  | false => exact h
  | true =>
    rw [if_pos rfl, State.refreshOf, State.bankHeld, State.post_refresh, State.post_mem]
    exact h

theorem refreshDue_postponed {s : State} {bank : Nat} (ho : (s.refreshOf bank).owed < 8) :
    ∃ t, exec (.refreshDue bank false) s = .next t ∧ (t.refreshOf bank).owed = (s.refreshOf bank).owed + 1 ∧ t.mem = s.mem := by
  refine ⟨_, congrArg Host.Outcome.next (if_neg (by simpa using ho)), ?_, rfl⟩
  have h := s.refreshOf_setRefresh { s.refreshOf bank with owed := (s.refreshOf bank).owed + 1 }
  rw [s.refreshOf_bank bank] at h
  exact congrArg BankRefresh.owed h

theorem refreshManagementDone_effect {s : State} {bank : Nat} (ho : (s.refreshOf bank).backOff = true) :
    ∃ t, exec (.refreshManagementDone bank) s = .next t ∧ (t.refreshOf bank).backOff = false ∧ t.mem = s.mem ∧
      ((s.refreshOf bank).owed ≤ 8 → (t.refreshOf bank).owed < 8) := by
  have h := s.refreshOf_setRefresh { s.refreshOf bank with
    backOff := false, owed := if (s.refreshOf bank).owed = 8 then 0 else (s.refreshOf bank).owed }
  rw [s.refreshOf_bank bank] at h
  refine ⟨_, congrArg Host.Outcome.next (if_pos ho), congrArg BankRefresh.backOff h, rfl, fun hle => ?_⟩
  rw [h]
  dsimp only
  split <;> omega

/-- Settles O59: clause by clause, from what each event of the fleet does. -/
theorem fleetEvents : Obligations.FleetEvents := by
  unfold Obligations.FleetEvents
  refine ⟨fun s spdm cert => cmdsession_effect spdm cert, getMeasurements_effect, fun s n slot key => keyload_effect key,
    fun s slot x => keyloadComplete_effect, spdmSessionEnd_effect, fun s a b c => powerUp_effect a b c, packageReset_effect,
    thermalTrip_effect, fun s w us h => powerSample_effect us h, fun s w us h a b l => powerSample_refused us h,
    thermalWarn_effect, thermalWarnClear_effect, fun s i => firmwareUpdate_image, fun s i c => firmwareUpdate_record i,
    fun s core bank k => bankHardFault_effect, fun s core bank k => bankSelfTestPass_effect,
    fun s stack line => patrolScrub_stack, fun s line => patrolScrub_hall, fun s stack line found => patrolScrub_notNext found,
    fun s bank => alertBackOff_effect, fun s bank => refreshDue_postponed, fun s bank => refreshManagementDone_effect⟩

end Sys2Proof.Machine
end

section
/-! PROOFS. Sluice commands and atomics at their home, and their replies (R118 to R122, R290 to R292: O53). -/

namespace Sys2Proof.Machine

open Sys2Proof.Claims (EntryIs RoomIs CompletedIn Reached RmwRow rmwRows)

/-! ### Events of an entry, and changes of its room -/

theorem State.withEntry_of {s : State} {r : RoomId} {id : Nat} {x : Room} {e : XEntry} (h : EntryIs s r id x e)
    {ok : XEntry → Bool} (hok : ok e = true) (f : Room → XEntry → State) : s.withEntry r id ok f = f x e := by
  simp [State.withEntry, h.1, h.2, hok]

/-- A change of a room that keeps its number and its life leaves it the room named. -/
theorem RoomIs.onRoom {s : State} {r : RoomId} {x : Room} {f : Room → Room} {p : Room → Prop} (hx : s.room? r = some x)
    (hf : ∀ y, (f y).id = y.id ∧ (f y).life = y.life) (hp : p (f x)) : RoomIs (s.onRoom r f) r p := by
  refine ⟨f x, room?_onRoom hx fun y hid hlife => ?_, hp⟩
  rw [(hf y).1, (hf y).2]
  exact ⟨hid, hlife⟩

theorem State.replyClock_room? (s : State) (x : Room) (e : XEntry) (r : RoomId) : (s.replyClock x e).room? r = s.room? r := by
  unfold State.replyClock
  split <;> rfl

theorem State.replyClock_mem (s : State) (x : Room) (e : XEntry) : (s.replyClock x e).mem = s.mem := by
  unfold State.replyClock
  split <;> rfl

theorem State.heal_room? (s : State) (x : Room) (l : List Nat) (r : RoomId) : (s.heal x l).room? r = s.room? r := by
  unfold State.heal
  split <;> rfl

theorem State.heal_mem (s : State) (x : Room) (l : List Nat) : (s.heal x l).mem = s.mem := by
  unfold State.heal
  split <;> rfl

/-! ### A write of the canal port (R105, R396) -/

/-- What a noted write changes of a room: the bits of its windows. -/
theorem Room.markWritten_frame (x : Room) (l : List Nat) : x.markWritten l = { x with windows := (x.markWritten l).windows } := by
  unfold Room.markWritten
  split <;> rfl

/-- What a watched access changes of a room: the causes that are due. -/
theorem Room.watchHits_frame (x : Room) (slot : Nat) (write : Bool) (l : List Nat) :
    x.watchHits slot write l = { x with ctx.due := (x.watchHits slot write l).ctx.due } := by
  unfold Room.watchHits
  split <;> rfl

/-- A room after the canal port wrote some bytes to it for an operation of its own. -/
def Room.canalWritten (x : Room) (cells : List Host.Cell) : Room :=
  let y := (x.markWritten (cells.map Prod.fst)).watchHits slotX true (cells.map Prod.fst)
  { y with scratch := Memory.putAll y.scratch cells }

theorem Room.canalWritten_frame (x : Room) (cells : List Host.Cell) :
    x.canalWritten cells = { x with windows := (x.canalWritten cells).windows, ctx.due := (x.canalWritten cells).ctx.due
                                    scratch := Memory.putAll x.scratch cells } := by
  unfold Room.canalWritten
  rw [Room.watchHits_frame, Room.markWritten_frame]

theorem State.canalWrite_own (s : State) (x : Room) (cells : List Host.Cell) :
    s.canalWrite x true cells = (s.heal x (cells.map Prod.fst)).onRoom x.id fun y => y.canalWritten cells := rfl

theorem State.canalWrite_mem (s : State) (x : Room) (cells : List Host.Cell) : (s.canalWrite x true cells).mem = s.mem := by
  rw [State.canalWrite_own, State.onRoom_mem, State.heal_mem]

theorem State.canalWrite_room? {s : State} {r : RoomId} {x : Room} (h : s.room? r = some x) (cells : List Host.Cell) :
    (s.canalWrite x true cells).room? r = some (x.canalWritten cells) := by
  have hid : x.id = r := (room?_some h).1
  rw [State.canalWrite_own, hid]
  refine room?_onRoom ((s.heal_room? x _ r).trans h) fun y hid hlife => ?_
  rw [Room.canalWritten_frame]
  exact ⟨hid, hlife⟩

/-! ### The reply of a command or an atomic (R267, R290, R291) -/

/-- The end of an entry with its semaphore's increment. -/
theorem CompletedIn.ended {t : State} {r : RoomId} {id : Nat} {ms : BitVec 6} {x y : Room} (hy : t.room? r = some y)
    (hm : y.ctx.m = x.ctx.m) (hq : y.ctx.xq = x.ctx.xq) :
    let u := t.onRoom r fun z => (z.bump ms).dropEntry id
    CompletedIn r id ms x u ∧ u.mem = t.mem ∧ RoomIs u r fun z => z.scratch = y.scratch := by
  refine ⟨RoomIs.onRoom hy (fun _ => ⟨rfl, rfl⟩) ⟨?_, ?_⟩, State.onRoom_mem _ _ _, RoomIs.onRoom hy (fun _ => ⟨rfl, rfl⟩) rfl⟩
  · simp [Room.bump, hm]
  · simp [Room.bump, Room.dropEntry, hq]

/-- A reply is written into the scratchpad before its entry ends. -/
theorem replied_written {s : State} {r : RoomId} {id : Nat} {x : Room} (hx : s.room? r = some x) (e : XEntry)
    (cells : List Host.Cell) :
    let t := ((s.replyClock x e).canalWrite x true cells).onRoom r fun y => (y.bump e.form.ms).dropEntry id
    t.mem = s.mem ∧ CompletedIn r id e.form.ms x t ∧ RoomIs t r fun y => y.scratch = Memory.putAll x.scratch cells := by
  have hy := State.canalWrite_room? ((s.replyClock_room? x e r).trans hx) cells
  have hframe := x.canalWritten_frame cells
  obtain ⟨hdone, hmem, hscratch⟩ := CompletedIn.ended (id := id) (ms := e.form.ms) (x := x) hy (by rw [hframe]) (by rw [hframe])
  refine ⟨hmem.trans ((State.canalWrite_mem _ _ _).trans (s.replyClock_mem x e)), hdone, ?_⟩
  rw [hframe] at hscratch
  exact hscratch

theorem sluiceReply_effect {r : RoomId} {id : Nat} {s : State} {x : Room} {e : XEntry} (h : EntryIs s r id x e)
    (hs : e.isSluice = true) (ha : e.status = .applied) :
    ∃ t, exec (.sluiceReply r id) s = .next t ∧ t.mem = s.mem ∧ CompletedIn r id e.form.ms x t ∧ RoomIs t r fun y =>
      y.scratch = Memory.putAll x.scratch (cellsAt (slAddr e + 32) e.payload) :=
  ⟨_, congrArg Host.Outcome.next (State.withEntry_of h (by simp [hs, ha]) _), replied_written h.1 e _⟩

theorem atomicReply_effect {r : RoomId} {id : Nat} {s : State} {x : Room} {e : XEntry} (h : EntryIs s r id x e)
    (hs : e.isAmo = true) (ha : e.status = .applied) :
    ∃ t, exec (.atomicReply r id) s = .next t ∧ t.mem = s.mem ∧ CompletedIn r id e.form.ms x t ∧ RoomIs t r fun y =>
      y.scratch = if e.form.fn.getLsbD 3 then Memory.putAll x.scratch (cellsAt e.sv e.payload) else x.scratch := by
  refine ⟨_, congrArg Host.Outcome.next (State.withEntry_of h (by simp [hs, ha]) _), ?_⟩
  cases hr : e.form.fn.getLsbD 3 with
  | true => exact replied_written h.1 e _
  | false =>
    obtain ⟨hdone, hmem, hscratch⟩ :=
      CompletedIn.ended (id := id) (ms := e.form.ms) (x := x) ((s.replyClock_room? x e r).trans h.1) rfl rfl
    exact ⟨hmem.trans (s.replyClock_mem x e), hdone, hscratch⟩

/-! ### A command at its bank (R118 to R120, R290) -/

theorem sluiceApply_effect {r : RoomId} {id : Nat} {s : State} {x : Room} {e : XEntry} (h : EntryIs s r id x e)
    (hs : e.isSluice = true) (hd : e.status = .dispatched) (hf : e.fault = none) (hr : e.replay = none)
    (hheld : s.heldNow e.heldBy = .free) (hstale : s.staleRequest x e = none) (hturn : s.bankTurn x e = true)
    {u : State} {pa w pageVa size w0 : Nat} {secs : List (Nat × Nat × Nat)} {l : List (Nat × Nat)}
    (ht : s.translate x.core x.asid (e.aa % 2 ^ 52) .readWrite true = (u, .ok pa w pageVa size w0))
    (hsecs : sectorsOf (e.aa % 2 ^ 52) (slCount e) (.ok pa w pageVa size w0) = some secs)
    (hreach : secs.foldl (fun (o : Reach) y => match o with | .ok _ => u.reachPa y.2.2 y.2.1 1 .readWrite | z => z) (.ok []) =
      .ok l)
    (hbank : ∀ y ∈ secs, ∀ p, placeOf y.2.2 y.2.1 = some p → u.bankHeld (bankOfPlace p) = false) :
    let places := secs.map fun y => (y.2.2, y.2.1)
    let v := u.request.discover places
    let e1 := { e with heldBy := none, again := false, home := places.head?.bind fun y => homeOf y.1 y.2 }
    (∀ y ∈ secs, v.gPoisoned y.2.2 y.2.1 = false) →
    let olds := secs.map fun y => v.gBytes y.2.2 y.2.1 32
    let out := (secs.zip olds).flatMap fun y => (slWrites e y.2).map fun b => (y.1.2.2, y.1.2.1 + b.1, b.2)
    exec (.sluiceApply r id) s = .next ((if out = [] then v.clockRequests x.agent places
      else v.gWrite x.agent (fun _ => 0) out).sluiceDone x e1 (slReply e olds)) := by
  intro places v e1 hpois olds out
  have hnobank : (secs.any fun y => match placeOf y.2.2 y.2.1 with
      | some p => u.bankHeld (bankOfPlace p) | none => false) = false := by
    refine List.any_eq_false.2 fun y hy => ?_
    cases hp : placeOf y.2.2 y.2.1 with
    | none => simp
    | some p => simp [hbank y hy p hp]
  have hclean : (secs.any fun y => v.gPoisoned y.2.2 y.2.1) = false :=
    List.any_eq_false.2 fun y hy => by simp [hpois y hy]
  refine congrArg Host.Outcome.next ((State.withEntry_of h (by simp [hs, hd, hf, hr]) _).trans ?_)
  dsimp only
  rw [hheld, hstale, ht]
  dsimp only
  rw [hturn, hsecs]
  dsimp only
  rw [if_neg (by simp)]
  generalize hg : List.foldl _ _ secs = reached
  obtain rfl : reached = .ok l := hg.symm.trans hreach
  dsimp only
  refine (if_neg (ne_true_of_eq_false hnobank)).trans ((if_neg (ne_true_of_eq_false hclean)).trans ?_)
  exact congrArg (State.sluiceDone · x e1 (slReply e olds)) (if_congr List.isEmpty_iff rfl rfl)

/-! ### An atomic at its home (R121, R122, R292) -/

section
variable {r : RoomId} {id : Nat} {s : State} {x : Room} {e : XEntry} {u : State} {w pa p : Nat} {l : List (Nat × Nat)}

/-- An atomic that reaches its operand, by what its home has recorded of it. -/
theorem atomicApply_reached (h : EntryIs s r id x e) (hs : e.isAmo = true)
    (hgo : e.status = .dispatched ∧ s.heldNow e.heldBy = .free ∧ s.staleRequest x e = none ∨ e.status = .applied)
    (hf : e.fault = none) (hr : e.replay = none)
    (hreach : Reached s x (e.aa % 2 ^ 52) (amoSize e.form) .readWrite u ((w, pa) :: l)) (hp : placeOf w pa = some p) :
    let n := amoSize e.form
    let done := u.atomicWindow (dieOfPlace p) e.source
    let reply (t : State) (v : Nat) := t.setEntry x
      { e with status := .applied, payload := toBytes n v, heldBy := none, home := homeOf w pa }
    let poison := amoPoison (e.form.fn.toNat % 8)
    let m := u.gNat w pa n
    let v := amoValue e.op (e.form.fn.toNat % 8) m (e.ab % 2 ^ (8 * n)) (e.ac % 2 ^ (8 * n))
    exec (.atomicApply r id) s = .next (match done.find? fun d => d.1 == e.seq with
      | some d => reply (u.clockRequests x.agent [(w, pa)]) d.2
      | none =>
        if olderThanWindow done e.seq then reply (((u.count (counterNo 4 0 0x42) 1).retrainPath x).badData x) poison
        else if e.status = .applied then u
        else if u.bankHeld (bankOfPlace p) then s
        else if u.gPoisoned w pa then
          reply ((u.badData x).recordAtomic (dieOfPlace p) e.source e.seq poison) poison
        else reply ((u.gWrite x.agent (fun _ => 0) ((toBytes n v).zipIdx.map fun b => (w, pa + b.2, b.1))).recordAtomic
          (dieOfPlace p) e.source e.seq m) m) := by
  intro n done reply poison m v
  have hok : (e.isAmo && (e.status == .dispatched || e.status == .applied) && e.fault.isNone && e.replay.isNone) = true := by
    obtain ⟨hd, -⟩ | ha := hgo <;> simp [*]
  have hheld : (if e.status = .applied then HeldNow.free else s.heldNow e.heldBy) = .free := by
    obtain ⟨-, hh, -⟩ | ha := hgo
    · rw [hh, ite_self]
    · exact if_pos ha
  have hstale : (if e.status = .applied then none else s.staleRequest x e) = none := by
    obtain ⟨-, -, hh⟩ | ha := hgo
    · rw [hh, ite_self]
    · exact if_pos ha
  refine congrArg Host.Outcome.next ((State.withEntry_of h hok _).trans ?_)
  have hplaces : s.reach x.core x.asid (e.aa % 2 ^ 52) (amoSize e.form) .readWrite = (u, .ok ((w, pa) :: l)) := hreach
  dsimp only
  rw [hheld, hstale, hplaces]
  dsimp only
  generalize hq : placeOf w pa = q
  obtain rfl : q = some p := hq.symm.trans hp
  rfl

theorem atomicApply_replayed (h : EntryIs s r id x e) (hs : e.isAmo = true)
    (hgo : e.status = .dispatched ∧ s.heldNow e.heldBy = .free ∧ s.staleRequest x e = none ∨ e.status = .applied)
    (hf : e.fault = none) (hr : e.replay = none)
    (hreach : Reached s x (e.aa % 2 ^ 52) (amoSize e.form) .readWrite u ((w, pa) :: l)) (hp : placeOf w pa = some p)
    {d : Nat × Nat} (hd : (u.atomicWindow (dieOfPlace p) e.source).find? (fun d => d.1 == e.seq) = some d) :
    exec (.atomicApply r id) s = .next ((u.clockRequests x.agent [(w, pa)]).setEntry x
      { e with status := .applied, payload := toBytes (amoSize e.form) d.2, heldBy := none, home := homeOf w pa }) := by
  rw [atomicApply_reached h hs hgo hf hr hreach hp, hd]

theorem atomicApply_fresh (h : EntryIs s r id x e) (hs : e.isAmo = true) (hd : e.status = .dispatched)
    (hgo : e.status = .dispatched ∧ s.heldNow e.heldBy = .free ∧ s.staleRequest x e = none ∨ e.status = .applied)
    (hf : e.fault = none) (hr : e.replay = none)
    (hreach : Reached s x (e.aa % 2 ^ 52) (amoSize e.form) .readWrite u ((w, pa) :: l)) (hp : placeOf w pa = some p)
    (hnew : (u.atomicWindow (dieOfPlace p) e.source).find? (fun d => d.1 == e.seq) = none)
    (hold : olderThanWindow (u.atomicWindow (dieOfPlace p) e.source) e.seq = false)
    (hbank : u.bankHeld (bankOfPlace p) = false) (hpois : u.gPoisoned w pa = false) :
    let n := amoSize e.form
    let m := u.gNat w pa n
    let v := amoValue e.op (e.form.fn.toNat % 8) m (e.ab % 2 ^ (8 * n)) (e.ac % 2 ^ (8 * n))
    exec (.atomicApply r id) s = .next (((u.gWrite x.agent (fun _ => 0)
      ((toBytes n v).zipIdx.map fun b => (w, pa + b.2, b.1))).recordAtomic (dieOfPlace p) e.source e.seq m).setEntry x
        { e with status := .applied, payload := toBytes n m, heldBy := none, home := homeOf w pa }) := by
  have hna : e.status ≠ .applied := by rw [hd]; exact nofun
  rw [atomicApply_reached h hs hgo hf hr hreach hp, hnew]
  simp only [hold, hna, hbank, hpois, if_false, Bool.false_eq_true]

end

/-! ### The integer rules (R119, R291) -/

theorem rmw_tables {row : RmwRow} (hrow : row ∈ rmwRows) (f : XForm) {ty : Nat} (m v : Nat) (hty : ty ≤ 3) :
    slLaneValue (row.sluice f) ty m v = row.val (if ty = 2 then 64 else 32) m v ∧
      ∀ v2, amoValue (row.atomic f) ty m v v2 = row.val (if ty = 2 ∨ ty = 3 then 64 else 32) m v := by
  have h5 : ty ≠ 5 := by omega
  simp only [rmwRows, List.mem_cons, List.not_mem_nil, or_false] at hrow
  obtain rfl | rfl | rfl | rfl := hrow <;> simp [slLaneValue, amoValue, h5]

theorem extreme_tables (f : XForm) {ty : Nat} (m v v2 : Nat) (hty : ty ≤ 3) :
    let n := if ty = 2 ∨ ty = 3 then 64 else 32
    let val (x : Nat) : Int := if ty = 0 ∨ ty = 2 then sext x n else x
    val (amoValue (.amoMin f) ty m v v2) = Claims.minI (val m) (val v) ∧
      val (amoValue (.amoMax f) ty m v v2) = Claims.maxI (val m) (val v) ∧
      amoValue (.amoSwap f) ty m v v2 = v ∧ amoValue (.amoCas f) ty m v v2 = if m = v then v2 else m := by
  intro n val
  have h5 : ty ≠ 5 := by omega
  have hmin : amoValue (.amoMin f) ty m v v2 = if val v < val m then v else m := by
    by_cases hsigned : ty = 0 ∨ ty = 2 <;> simp [amoValue, val, n, hsigned, h5]
  have hmax : amoValue (.amoMax f) ty m v v2 = if val m < val v then v else m := by
    by_cases hsigned : ty = 0 ∨ ty = 2 <;> simp [amoValue, val, n, hsigned, h5]
  refine ⟨?_, ?_, rfl, rfl⟩
  · rw [hmin, Claims.minI, apply_ite val]
  · rw [hmax, Claims.maxI, apply_ite val]

/-- Settles O53: the outcome of each event by the branch of its rule that the hypotheses choose, and the tables row by row. -/
theorem appliedAtHome : Obligations.AppliedAtHome := by
  unfold Obligations.AppliedAtHome
  refine ⟨fun r id s x e h => ⟨?_, ?_, ?_, ?_⟩, fun row hrow f ty m v => rmw_tables hrow f m v,
    fun f ty m v v2 => extreme_tables f m v v2⟩
  · intro hs hd hf hr hheld hstale hturn u pa w pageVa size w0 secs l ht hsecs hreach hbank
    exact sluiceApply_effect h hs hd hf hr hheld hstale hturn ht hsecs hreach hbank
  · exact sluiceReply_effect h
  · intro hs hgo hf hr u w pa l p hreach hp
    refine ⟨fun d => atomicApply_replayed h hs hgo hf hr hreach hp, fun hd => ?_⟩
    exact atomicApply_fresh h hs hd hgo hf hr hreach hp
  · exact atomicReply_effect h

end Sys2Proof.Machine
end

section
/-! PROOFS. Lines, code pages, walks and peer reads that arrive (R101, R105, R357, R402, R403, R423, R424: O55). -/

namespace Sys2Proof.Machine

open Sys2Proof.Claims (RoomIs Filled span52)

/-! ### What an access made without an entry leaves of its room (R407, R408) -/

theorem State.room?_of_readAside {s t : State} (h : t.readAside = s.readAside) (r : RoomId) : t.room? r = s.room? r := by
  obtain ⟨hme, hothers, -⟩ := rooms_of_readAside h
  rw [room?_eq, room?_eq, hme, hothers]

theorem State.count_room? (s : State) (n k : Nat) (r : RoomId) : (s.count n k).room? r = s.room? r :=
  State.room?_of_readAside (count_readAside s n k) r

theorem State.dropTlb_room? (s : State) (floor asid va : Nat) (r : RoomId) : (s.dropTlb floor asid va).room? r = s.room? r := rfl

/-- A room that no restow holds any more. -/
theorem State.room?_unheld {s : State} {r : RoomId} {x : Room} (hx : s.room? r = some x) :
    (s.onRoom r fun y => { y with heldBy := none }).room? r = some { x with heldBy := none } :=
  room?_onRoom hx fun _ hid hlife => ⟨hid, hlife⟩

theorem State.refuseRoom_room? {s : State} {r : RoomId} {x : Room} (hx : s.room? r = some x) (die gen va : Nat)
    (k : AccessKind) : (s.refuseRoom x die gen va k).1.room? r = some { x with heldBy := none } := by
  obtain rfl : x.id = r := (room?_some hx).1
  have hdrop : (((s.count (counterNo die 0xFF 0x53) 1).dropTlb x.floor x.asid va).onRoom x.id
      fun y => { y with heldBy := none }).room? x.id = some { x with heldBy := none } :=
    State.room?_unheld ((State.dropTlb_room? _ _ _ _ _).trans ((s.count_room? _ _ _).trans hx))
  unfold State.refuseRoom
  dsimp only
  split
  · exact hdrop
  · exact (State.count_room? _ _ _ _).trans hdrop

/-- A fill that reached its bytes leaves its room as it was, held by no restow. -/
theorem State.reachFresh_room? {s u : State} {r : RoomId} {x : Room} {event : Instr} {va n : Nat} {k : AccessKind}
    {l : List (Nat × Nat)} (hx : s.room? r = some x) (h : s.reachFresh x event va n k = (u, .ok l)) :
    u.room? r = some { x with heldBy := none } := by
  obtain rfl : x.id = r := (room?_some hx).1
  unfold State.reachFresh at h
  extract_lets settle again z at h
  have hsettle (y : State × Reach) (hy : y.1.room? x.id = some x ∨ y.1.room? x.id = some { x with heldBy := none })
      (h : settle y = (u, .ok l)) : u.room? x.id = some { x with heldBy := none } := by
    obtain ⟨t, o⟩ := y
    cases o with
    | ok l' =>
      obtain rfl : (t.onRoom x.id fun y => { y with heldBy := none }) = u := congrArg Prod.fst h
      obtain hy | hy := hy
      · exact State.room?_unheld hy
      · exact State.room?_unheld (x := { x with heldBy := none }) hy
    | held by_ => cases by_ <;> exact nomatch congrArg Prod.snd h
    | _ => exact nomatch congrArg Prod.snd h
  have hreach (t : State) : (t.reach x.core x.asid va n k).1.room? x.id = t.room? x.id :=
    State.room?_of_readAside (reach_readAside _ _ _ _ _ _) _
  have hagain (t : State) (die gen : Nat) (ht : t.room? x.id = some x) (h : again t die gen = (u, .ok l)) :
      u.room? x.id = some { x with heldBy := none } := by
    have hy := State.refuseRoom_room? ht die gen va k
    replace h : (if (t.refuseRoom x die gen va k).2 then settle ((t.refuseRoom x die gen va k).1.reach x.core x.asid va n k)
      else ((t.refuseRoom x die gen va k).1, Reach.fault 0x21 0)) = (u, .ok l) := h
    split at h
    · exact hsettle _ (.inr ((hreach _).trans hy)) h
    · exact nomatch congrArg Prod.snd h
  have hz : z.1.room? x.id = some x := (hreach s).trans hx
  clear_value settle again z
  split at h
  · exact nomatch congrArg Prod.snd h
  · exact hagain _ _ _ hx h
  · split at h
    · exact hagain _ _ _ hz h
    · exact hsettle _ (.inl hz) h

/-! ### The bytes of a fill (R124, R446) -/

theorem State.clockReplies_frame (s : State) (agent : Nat) (l : List (Nat × Nat)) :
    ∃ c, s.clockReplies agent l = { s with clocks := c } := clockMsgs_frame _ _ _

theorem freeBad_clean (s : State) {bytes : List (Byte × Bool)} (h : ∀ b ∈ bytes, b.2 = false) :
    s.freeBad bytes = (s, bytes.map Prod.fst) := by
  have hany : bytes.any Prod.snd = false := List.any_eq_false.2 fun b hb => by simp [h b hb]
  simp [State.freeBad, hany]

theorem any_poisoned {s : State} {l : List (Nat × Nat)} (h : ∀ p ∈ l, s.gPoisoned p.1 p.2 = false) :
    (l.any fun p => s.gPoisoned p.1 p.2) = false := List.any_eq_false.2 fun p hp => by simp [h p hp]

theorem placesRead_clean {s : State} {l : List (Nat × Nat)} (h : ∀ p ∈ l, s.gPoisoned p.1 p.2 = false) :
    s.placesRead l = (s, l.map fun p => s.gByte p.1 p.2, false) := by
  have hclean : ∀ b ∈ l.map fun p => (s.gByte p.1 p.2, s.gPoisoned p.1 p.2), b.2 = false := fun b hb => by
    obtain ⟨p, hp, rfl⟩ := List.mem_map.1 hb
    exact h p hp
  rw [State.placesRead, freeBad_clean s hclean, any_poisoned h, List.map_map]
  rfl

/-- A fill with no poisoned line brings the bytes of memory, and changes nothing but the clocks. -/
theorem fillBytes_clean {s : State} (x : Room) {l : List (Nat × Nat)} (h : ∀ p ∈ l, s.gPoisoned p.1 p.2 = false) :
    ∃ c, s.fillBytes x l = ({ s with clocks := c }, l.map fun p => s.gByte p.1 p.2) := by
  obtain ⟨c, hc⟩ := s.clockReplies_frame x.agent l
  refine ⟨c, ?_⟩
  rw [State.fillBytes, hc, placesRead_clean (s := { s with clocks := c }) h]
  rfl

/-! ### Lines of a window and of the attic's overflow (R101, R105) -/

/-- A filled line of a window: its bytes in the scratchpad, the line resident, the hold ended (R105). -/
theorem fillWindow_effect {s : State} {r : RoomId} {x y : Room} {w : Window} {n : Nat} (line : Nat) (bytes : List Byte)
    (hid : x.id = r) (hy : s.room? r = some y) (hnum : w.num = n) :
    (s.fillWindow x w line bytes).mem = s.mem ∧ RoomIs (s.fillWindow x w line bytes) r fun z => z.stop = .none ∧
      z.scratch = Memory.putAll y.scratch (cellsAt (w.base + 256 * line) bytes) ∧
      ∀ v ∈ z.windows, v.num = n → line ∈ v.resident := by
  subst hid hnum
  refine ⟨(State.onRoom_mem _ _ _).trans (s.heal_mem x _), RoomIs.onRoom ((s.heal_room? x _ _).trans hy) (fun _ => ⟨rfl, rfl⟩)
    ⟨rfl, rfl, fun v hv hn => ?_⟩⟩
  obtain ⟨v', -, rfl⟩ := List.mem_map.1 hv
  by_cases hv : (v'.num == w.num) = true
  · rw [if_pos hv]
    exact List.mem_cons_self
  · rw [if_neg hv] at hn
    exact absurd (beq_iff_eq.2 hn) hv

theorem windowFill_effect {r : RoomId} {s u : State} {x : Room} {n line : Nat} {w : Window} {l : List (Nat × Nat)}
    (hx : s.room? r = some x) (hstop : x.stop = .hold (.window n line)) (hw : x.window? n = some w)
    (hheld : s.accessHeld x false (span52 (va52 (w.gva + 256 * line : Nat))) = false)
    (howes : x.owesFrom (w.base + 256 * line) 256 = false)
    (hfill : Filled s x (.windowFill r) (va52 (w.gva + 256 * line : Nat)) 256 .read u l) :
    ∃ t, exec (.windowFill r) s = .next t ∧ t.mem = u.mem ∧ RoomIs t r fun y => y.stop = .none ∧
      y.scratch = Memory.putAll x.scratch (cellsAt (w.base + 256 * line) (l.map fun p => u.gByte p.1 p.2)) ∧
      ∀ v ∈ y.windows, v.num = n → line ∈ v.resident := by
  obtain ⟨hreach, hclean⟩ := hfill
  obtain ⟨c, hc⟩ := fillBytes_clean x hclean
  have hroom := State.reachFresh_room? hx hreach
  have hid : x.id = r := (room?_some hx).1
  have hnum : w.num = n := by simpa using List.find?_some hw
  have hgo : (s.accessHeld x false ((List.range 256).map (va52 (w.gva + 256 * line : Nat) + ·)) ||
      x.owesFrom (w.base + 256 * line) 256) = false := Bool.or_eq_false_iff.2 ⟨hheld, howes⟩
  have hexec : exec (.windowFill r) s =
      .next (({ u with clocks := c } : State).fillWindow x w line (l.map fun p => u.gByte p.1 p.2)) := by
    show execWindowFill r s = _
    unfold execWindowFill
    simp only [hx, hstop, hw, hgo, hreach, hc]
    rfl
  exact ⟨_, hexec, fillWindow_effect (s := { u with clocks := c }) (y := { x with heldBy := none }) line _ (room?_some hx).1
    hroom (by simpa using List.find?_some hw)⟩

/-- A room with a line of its overflow area filled (R101). -/
def Room.overflowFilled (line : Nat) (bytes : List Byte) (y : Room) : Room :=
  { y with overflow := y.overflow ++ [{ num := line, bytes := bytes, dirty := false }], stop := .none }

theorem overflowFilled_effect {s : State} {r : RoomId} {y : Room} (hy : s.room? r = some y) (line : Nat) (bytes : List Byte) :
    (s.onRoom r (Room.overflowFilled line bytes)).mem = s.mem ∧
      RoomIs (s.onRoom r (Room.overflowFilled line bytes)) r fun z => z.stop = .none ∧
        z.overflow = y.overflow ++ [{ num := line, bytes := bytes, dirty := false }] ∧ z.scratch = y.scratch :=
  ⟨State.onRoom_mem _ _ _, RoomIs.onRoom hy (fun _ => ⟨rfl, rfl⟩) ⟨rfl, rfl, rfl⟩⟩

theorem atticOverflowFill_effect {r : RoomId} {s u : State} {x : Room} {line : Nat} {l : List (Nat × Nat)}
    (hx : s.room? r = some x) (hstop : x.stop = .hold (.overflow line))
    (hheld : s.accessHeld x false (span52 (x.overflowVa line)) = false)
    (hfill : Filled s x (.atticOverflowFill r) (x.overflowVa line) 256 .read u l) :
    ∃ t, exec (.atticOverflowFill r) s = .next t ∧ t.mem = u.mem ∧ RoomIs t r fun y => y.stop = .none ∧
      y.overflow = x.overflow ++ [{ num := line, bytes := l.map fun p => u.gByte p.1 p.2, dirty := false }] ∧
      y.scratch = x.scratch := by
  obtain ⟨hreach, hclean⟩ := hfill
  obtain ⟨c, hc⟩ := fillBytes_clean x hclean
  have hroom := State.reachFresh_room? hx hreach
  have hgo : s.accessHeld x false ((List.range 256).map (x.overflowVa line + ·)) = false := hheld
  have hexec : exec (.atticOverflowFill r) s = .next (({ u with clocks := c } : State).onRoom r
      (Room.overflowFilled line (l.map fun p => u.gByte p.1 p.2))) := by
    show execAtticOverflowFill r s = _
    unfold execAtticOverflowFill
    simp only [hx, hstop, hgo, hreach, hc]
    rfl
  exact ⟨_, hexec, overflowFilled_effect (s := { u with clocks := c }) hroom line _⟩

/-! ### Code pages (R357, R404) -/

/-- The frame chosen for a page is free: of one frame more than are taken, one is not. -/
theorem freeFrame_not_mem {used : List Nat} {n f : Nat} (hlen : used.length ≤ f + n) (hbelow : ∀ i < f, i ∈ used) :
    freeFrame used n f ∉ used := by
  induction n generalizing f with
  | zero =>
    intro hf
    have hsub : List.range (f + 1) ⊆ used := fun i hi => by
      obtain h | h := Nat.lt_succ_iff_lt_or_eq.1 (List.mem_range.1 hi)
      · exact hbelow i h
      · exact h ▸ hf
    have hle := (List.nodup_range.subperm hsub).length_le
    rw [List.length_range] at hle
    omega
  | succ n ih =>
    rw [freeFrame]
    split
    · next h =>
      refine ih (by omega) fun i hi => ?_
      obtain hi | rfl := Nat.lt_succ_iff_lt_or_eq.1 hi
      · exact hbelow i hi
      · exact List.contains_iff_mem.1 h
    · next h => exact fun hf => h (List.contains_iff_mem.2 hf)

theorem filterMap_unless {α β : Type} (c : α → Bool) (f : α → β) (l : List α) :
    (l.filterMap fun p => if c p then none else some (f p)) = (l.filter fun p => !c p).map f := by
  induction l with
  | nil => rfl
  | cons p l ih => cases h : c p <;> simp [h, ih]

/-- The pages that stay when a page of a core is placed: the choices of the fill fall on pages of that core only (log 23). -/
def State.pagesLeft (s : State) (core : Nat) : List CodePage :=
  s.pages.zipIdx.filterMap fun p => if p.1.core == core && Config.freeChoice (s.free + p.2) then none else some p.1

theorem State.pagesLeft_sublist (s : State) (core : Nat) : (s.pagesLeft core).Sublist s.pages := by
  have h := (List.filter_sublist (l := s.pages.zipIdx)
    (p := fun p => !(p.1.core == core && Config.freeChoice (s.free + p.2)))).map Prod.fst
  rw [List.zipIdx_map_fst] at h
  rwa [State.pagesLeft, filterMap_unless]

theorem State.mem_pagesLeft {s : State} {core : Nat} {y : CodePage} (hy : y ∈ s.pages) (hc : y.core ≠ core) :
    y ∈ s.pagesLeft core := by
  rw [← List.zipIdx_map_fst 0 s.pages] at hy
  obtain ⟨p, hp, rfl⟩ := List.mem_map.1 hy
  exact List.mem_filterMap.2 ⟨p, hp, by simp [hc]⟩

/-- Placing a page: a frame that no page left takes, and nothing else of pages, rooms or memory. -/
theorem State.placePage_effect (s : State) (core load page : Nat) (bundles : List (BitVec 256)) :
    ∃ frame, (∀ y ∈ s.pagesLeft core, y.core = core → y.frame ≠ frame) ∧
      (s.placePage core load page bundles).pages =
        { core := core, load := load, page := page, frame := frame, bundles := bundles } :: s.pagesLeft core := by
  refine ⟨_, fun y hy hc heq => ?_, rfl⟩
  have hfree := freeFrame_not_mem (used := ((s.pagesLeft core).filter fun p => p.core == core).map fun p => p.frame)
    (n := _) (f := 0) (Nat.zero_add _).ge fun i hi => absurd hi (Nat.not_lt_zero i)
  exact hfree (heq ▸ List.mem_map_of_mem (List.mem_filter.2 ⟨hy, by simpa using hc⟩))

theorem State.placePage_room? (s : State) (core load page : Nat) (bundles : List (BitVec 256)) (r : RoomId) :
    (s.placePage core load page bundles).room? r = s.room? r := rfl

theorem codePageFill_effect {r : RoomId} {s u : State} {x : Room} {p : Nat} {o : LoadedObj} {l : List (Nat × Nat)}
    (hx : s.room? r = some x) (hstop : x.stop = .hold (.codePage p)) (ho : s.load? x.loadH = some o) (hf : o.failed = false)
    (hfill : Filled s x (.codePageFill r) (o.lb + 4096 * p) 4096 .fetch u l)
    (hhash : o.pageHash[p]? = some (sha384 (l.map fun q => u.gByte q.1 q.2))) :
    ∃ t rest frame, exec (.codePageFill r) s = .next t ∧ t.mem = u.mem ∧ (RoomIs t r fun y => y.stop = .none) ∧
      (∀ y ∈ rest, y.core = x.core → y.frame ≠ frame) ∧
      t.pages = { core := x.core, load := o.handle, page := p, frame := frame
                  bundles := o.relocs.foldl (relocBundle o p) (bundlesOf (l.map fun q => u.gByte q.1 q.2)) } :: rest ∧
      rest.Sublist u.pages ∧ ∀ y ∈ u.pages, y.core ≠ x.core → y ∈ rest := by
  obtain ⟨hreach, hclean⟩ := hfill
  have hroom := State.reachFresh_room? hx hreach
  generalize hb : (l.map fun q => u.gByte q.1 q.2) = bytes at hhash ⊢
  have hread : u.readReach l = (bytes, false) := by rw [State.readReach, hb, any_poisoned hclean]
  have hgood : (some (sha384 bytes) != o.pageHash[p]?) = false := by rw [hhash]; exact bne_self_eq_false _
  obtain ⟨frame, hframe, hpages⟩ := u.placePage_effect x.core o.handle p (o.relocs.foldl (relocBundle o p) (bundlesOf bytes))
  have hexec : exec (.codePageFill r) s = .next ((u.placePage x.core o.handle p
      (o.relocs.foldl (relocBundle o p) (bundlesOf bytes))).onRoom x.id Room.endHold) := by
    show execCodePageFill r s = _
    unfold execCodePageFill
    simp only [hx, hstop, ho, hreach, hread, State.takeCodePage, hf, hgood, if_false, Bool.false_eq_true]
  refine ⟨_, u.pagesLeft x.core, frame, hexec, State.onRoom_mem _ _ _, ?_, hframe, (State.onRoom_pages _ _ _).trans hpages,
    u.pagesLeft_sublist x.core, fun y => State.mem_pagesLeft⟩
  rw [(room?_some hx).1]
  exact RoomIs.onRoom ((State.placePage_room? _ _ _ _ _ _).trans hroom) (fun _ => ⟨rfl, rfl⟩) rfl

/-! ### Replies of a peer (R424, R390) -/

section
variable {r : RoomId} {s : State} {x : Room} {id : Nat} {e : XEntry} (bs : Option (List Byte))

theorem peerReadReply_line (hx : s.room? r = some x) (he : x.entry? id = some e) (hid : id ≠ 0)
    (hw : s.waitsForPeer x e = true) : exec (.peerReadReply r id false false bs) s = .next (s.peerUnit x e bs) := by
  show execPeerReadReply r id false false bs s = _
  simp [execPeerReadReply, hx, he, hid, hw]

theorem peerReadReply_stale (hx : s.room? r = some x) (he : x.entry? id = some e) (hid : id ≠ 0)
    (hw : s.waitsForPeer x e = true) :
    exec (.peerReadReply r id false true bs) s = .next (s.askPeers (s.unitPlaces x e)) := by
  show execPeerReadReply r id false true bs s = _
  simp [execPeerReadReply, State.askAgain, hx, he, hid, hw]

theorem peerReadReply_denied (hx : s.room? r = some x) (he : x.entry? id = some e) (hid : id ≠ 0)
    (hw : s.waitsForPeer x e = true) :
    exec (.peerReadReply r id true false bs) s = .next ((s.onRoom r fun y => y.onEntry id fun w =>
      { w with fault := some (peerDenied e.aux e.next) }).foundCause r (peerDenied e.aux e.next)) := by
  show execPeerReadReply r id true false bs s = _
  simp [execPeerReadReply, hx, he, hid, hw]

end

theorem State.startDump_frame (s : State) (r : RoomId) (a b c d : Nat) :
    ∃ l, s.startDump r a b c d = { s with dumps := l } := by
  unfold State.startDump
  dsimp only
  split <;> exact ⟨_, rfl⟩

theorem State.foundCause_alive {s : State} {r : RoomId} {x : Room} (k : Cause) (hx : s.room? r = some x)
    (hd : x.deadStop = false) : s.foundCause r k = s.onRoom r fun y => { y with ctx.due := y.ctx.due ++ [k] } := by
  simp [State.foundCause, hx, hd]

/-- An access that is denied, found after a fatal cause, is at most noted in the dump. -/
theorem State.foundCause_dead {s : State} {r : RoomId} {x : Room} {k : Cause} (hx : s.room? r = some x)
    (hd : x.deadStop = true) (hk : k.code = 0x23) : ∃ l, s.foundCause r k = { s with dumps := l } := by
  have hfatal : fatal k x.ctx.hmode = true := by simp [fatal, hk]
  have hpage : ¬ k.code = 0x20 := by rw [hk]; decide
  simp only [State.foundCause, hx, hd, hfatal, hpage, if_true, if_false, Bool.not_true, Bool.false_eq_true]
  split
  · exact s.startDump_frame _ _ _ _ _
  · exact ⟨_, rfl⟩

/-- A denied access found in a room: due there while the room lives; a room frozen by a fatal cause keeps its causes. -/
theorem State.foundCause_effect {s : State} {r : RoomId} {x : Room} {k : Cause} (hx : s.room? r = some x) (hk : k.code = 0x23) :
    (s.foundCause r k).mem = s.mem ∧ ∃ due, (s.foundCause r k).room? r = some { x with ctx.due := due } ∧
      (x.deadStop = false → k ∈ due) := by
  cases hd : x.deadStop with
  | false =>
    rw [State.foundCause_alive k hx hd]
    exact ⟨State.onRoom_mem _ _ _, x.ctx.due ++ [k], room?_onRoom hx fun y hid hlife => ⟨hid, hlife⟩,
      fun _ => List.mem_append_right _ List.mem_cons_self⟩
  | true =>
    obtain ⟨l, hl⟩ := State.foundCause_dead hx hd hk
    rw [hl]
    exact ⟨rfl, x.ctx.due, hx, nofun⟩

theorem Room.entry?_onEntry {x : Room} {id : Nat} {e : XEntry} {f : XEntry → XEntry} (he : x.entry? id = some e)
    (hf : ∀ w, (f w).id = w.id) : (x.onEntry id f).entry? id = some (f e) := by
  have hid : e.id = id := by simpa using List.find?_some he
  have hl : (x.onEntry id f).entry? id = (x.entry? id).map fun w => if w.id == id then f w else w :=
    find?_mapIf_keeps (fun w => by rw [hf w]) _
  rw [hl, he]
  simp [hid]

theorem peerReadReply_denied_effect {r : RoomId} {s : State} {x : Room} {id : Nat} {e : XEntry} (bs : Option (List Byte))
    (hx : s.room? r = some x) (he : x.entry? id = some e) (hid : id ≠ 0) (hw : s.waitsForPeer x e = true) :
    ∃ t, exec (.peerReadReply r id true false bs) s = .next t ∧ t.mem = s.mem ∧
      RoomIs t r fun y => (x.deadStop = false → peerDenied e.aux e.next ∈ y.ctx.due) ∧
        ∃ w, y.entry? id = some w ∧ w.fault = some (peerDenied e.aux e.next) := by
  let deny (w : XEntry) : XEntry := { w with fault := some (peerDenied e.aux e.next) }
  have hy : (s.onRoom r fun y => y.onEntry id deny).room? r = some (x.onEntry id deny) :=
    room?_onRoom hx fun y hid hlife => ⟨hid, hlife⟩
  have hentry : (x.onEntry id deny).entry? id = some (deny e) := Room.entry?_onEntry he fun _ => rfl
  obtain ⟨hmem, due, ht, hdue⟩ := State.foundCause_effect (k := peerDenied e.aux e.next) hy rfl
  exact ⟨_, peerReadReply_denied bs hx he hid hw, hmem.trans (State.onRoom_mem _ _ _), _, ht, hdue, deny e, hentry, rfl⟩

/-! ### Walks of a floor (R402, R403) -/

theorem State.clockReplies_mem (s : State) (agent : Nat) (l : List (Nat × Nat)) : (s.clockReplies agent l).mem = s.mem := by
  obtain ⟨c, hc⟩ := s.clockReplies_frame agent l
  rw [hc]

theorem State.walkClock_mem (s : State) (floor asid va : Nat) : (s.walkClock floor asid va).mem = s.mem := by
  unfold State.walkClock
  split
  · exact State.clockReplies_mem _ _ _
  · rfl

theorem State.evictL2_mem (s : State) (floor : Nat) : (s.evictL2 floor).mem = s.mem := by
  unfold State.evictL2
  dsimp only
  split
  · rfl
  · split
    · rfl
    · split <;> split <;> rfl

theorem State.cacheWalk_ok (s : State) (floor asid va pa w pageVa size w0 : Nat) :
    (s.cacheWalk floor asid va (.ok pa w pageVa size w0)).tlb.head? =
        some { floor := floor, asid := asid, va := pageVa, size := size, w0 := w0, w1 := w } ∧
      (s.cacheWalk floor asid va (.ok pa w pageVa size w0)).mem = s.mem :=
  ⟨rfl, State.evictL2_mem _ _⟩

theorem tableWalk_effect {s : State} {floor asid va : Nat} {k : AccessKind} {pa w pageVa size w0 : Nat} (hf : floor < 4)
    (hw : s.walk asid (va % 2 ^ 52) k = .ok pa w pageVa size w0) :
    ∃ t, exec (.tableWalk floor asid va k) s = .next t ∧
      t.tlb.head? = some { floor := floor, asid := asid, va := pageVa, size := size, w0 := w0, w1 := w } ∧ t.mem = s.mem := by
  have hexec : exec (.tableWalk floor asid va k) s = .next (((s.count (counterNo floor 0xFF 0x21) 1).walkClock floor asid
      (va % 2 ^ 52)).cacheWalk floor asid (va % 2 ^ 52) (.ok pa w pageVa size w0)) := by
    rw [← hw]
    exact congrArg Host.Outcome.next (if_pos hf)
  obtain ⟨hhead, hmem⟩ := State.cacheWalk_ok ((s.count (counterNo floor 0xFF 0x21) 1).walkClock floor asid (va % 2 ^ 52))
    floor asid (va % 2 ^ 52) pa w pageVa size w0
  exact ⟨_, hexec, hhead, hmem.trans ((State.walkClock_mem _ _ _ _).trans (State.count_mem _ _ _))⟩

/-! ### Requests of a peer (R422 to R424) -/

section
variable {s : State} {port pid : Nat} {tile : Option (Nat × List Nat)} {addr w pa : Nat}

/-- A request that comes by a port that is up for its package is answered. -/
theorem peerReadRequest_up (hport : ∃ p ∈ s.ports, p.num = port ∧ p.up = true ∧ p.pid = pid) :
    let answer (s : State) (a : PeerReply) : State := { s with peerReplies := s.peerReplies ++ [(port, a)] }
    exec (.peerReadRequest port pid tile addr) s = .next (match s.aclGrant port pid (peerRead tile addr) with
      | none => answer (s.count (counterNo (5 + port) 0xFF 0x54) 1) .denied
      | some (w, pa) =>
        if s.peerStale (peerRead tile addr) w pa then answer (s.countStale w pa) .stale
        else if (s.request.discover [(w, pa)]).gPoisoned w pa then answer (s.request.discover [(w, pa)]) .poison
        else answer ((s.request.discover [(w, pa)]).clockReplies peerAgent [(w, pa)])
          (.line ((s.request.discover [(w, pa)]).gBytes w pa 64))) := by
  obtain ⟨p, hp, hnum, hup, hpid⟩ := hport
  have hany : (s.ports.any fun p => p.num == port && p.up && p.pid == pid) = true :=
    List.any_eq_true.2 ⟨p, hp, by simp [hnum, hup, hpid]⟩
  exact congrArg Host.Outcome.next (if_neg (by simp [hany]))

theorem peerReadRequest_denied (hport : ∃ p ∈ s.ports, p.num = port ∧ p.up = true ∧ p.pid = pid)
    (hacl : s.aclGrant port pid (peerRead tile addr) = none) :
    exec (.peerReadRequest port pid tile addr) s = .next
      { s.count (counterNo (5 + port) 0xFF 0x54) 1 with peerReplies := s.peerReplies ++ [(port, .denied)] } := by
  rw [peerReadRequest_up hport, hacl]
  simp only [State.count_peerReplies]

theorem State.countStale_frame (s : State) (w pa : Nat) :
    (s.countStale w pa).mem = s.mem ∧ (s.countStale w pa).peerReplies = s.peerReplies := by
  unfold State.countStale
  split
  · split
    · exact ⟨State.count_mem _ _ _, State.count_peerReplies _ _ _⟩
    · exact ⟨rfl, rfl⟩
  · exact ⟨rfl, rfl⟩

theorem peerReadRequest_stale (hport : ∃ p ∈ s.ports, p.num = port ∧ p.up = true ∧ p.pid = pid)
    (hacl : s.aclGrant port pid (peerRead tile addr) = some (w, pa)) (hstale : s.peerStale (peerRead tile addr) w pa = true) :
    ∃ t, exec (.peerReadRequest port pid tile addr) s = .next t ∧ t.mem = s.mem ∧
      t.peerReplies = s.peerReplies ++ [(port, .stale)] := by
  obtain ⟨hmem, hreplies⟩ := s.countStale_frame w pa
  rw [peerReadRequest_up hport, hacl]
  exact ⟨_, congrArg Host.Outcome.next (if_pos hstale), hmem, congrArg (· ++ [(port, PeerReply.stale)]) hreplies⟩

theorem peerReadRequest_line (hport : ∃ p ∈ s.ports, p.num = port ∧ p.up = true ∧ p.pid = pid)
    (hacl : s.aclGrant port pid (peerRead tile addr) = some (w, pa)) (hfresh : s.peerStale (peerRead tile addr) w pa = false)
    (hclean : (s.request.discover [(w, pa)]).gPoisoned w pa = false) :
    ∃ t, exec (.peerReadRequest port pid tile addr) s = .next t ∧ t.mem = (s.request.discover [(w, pa)]).mem ∧
      t.peerReplies = s.peerReplies ++ [(port, .line ((s.request.discover [(w, pa)]).gBytes w pa 64))] := by
  have haside : ((s.request.discover [(w, pa)]).clockReplies peerAgent [(w, pa)]).readAside = s.readAside :=
    (clockReplies_readAside _ _ _).trans ((discover_readAside _ _).trans (request_readAside s))
  have hreplies := congrArg State.peerReplies haside
  rw [peerReadRequest_up hport, hacl]
  exact ⟨_, congrArg Host.Outcome.next ((if_neg (ne_true_of_eq_false hfresh)).trans (if_neg (ne_true_of_eq_false hclean))),
    State.clockReplies_mem _ _ _, congrArg (· ++ [(port, PeerReply.line _)]) hreplies⟩

end

/-- Settles O55: each event by the branch of its rule that the hypotheses choose. -/
theorem fillEvents : Obligations.FillEvents := by
  unfold Obligations.FillEvents
  refine ⟨fun r s x hx => ⟨?_, ?_, ?_, ?_, ?_, ?_⟩, ?_, fun s port pid tile addr hport => ⟨?_, ?_, ?_⟩⟩
  · exact fun n line w u l => windowFill_effect hx
  · exact fun line u l => atticOverflowFill_effect hx
  · exact fun p o u l => codePageFill_effect hx
  · exact fun id e bs => peerReadReply_line bs hx
  · exact fun id e bs => peerReadReply_denied_effect bs hx
  · exact fun id e bs => peerReadReply_stale bs hx
  · exact fun s floor asid va k pa w pageVa size w0 => tableWalk_effect
  · exact peerReadRequest_denied hport
  · exact fun w pa => peerReadRequest_stale hport
  · exact fun w pa => peerReadRequest_line hport

end Sys2Proof.Machine
end

section
/-! PROOFS. Slot words and their fields, the bundle of one instruction (R142 to R148, R161: O1, O2, O3). -/

namespace Sys2Proof.Decode

/-! ### The fields of a packed word (R145 to R148)

The opcode and the fields of a format are read back from the word they are packed in, and a word whose unused bits are zero
is its opcode and fields packed again. -/

theorem rOf_rPack (op : BitVec 8) (f : RForm) :
    opOf (rPack op f) = op ∧ rOf (rPack op f) = f ∧ rRest (rPack op f) = true := by
  simp (disch := omega) only [opOf, rOf, rRest, rPack, BitVec.extractLsb'_append_eq_of_le,
    BitVec.extractLsb'_append_eq_of_add_le, BitVec.extractLsb'_eq_self, Nat.reduceSub, beq_self_eq_true, and_self]

theorem rPack_rOf {w : BitVec 48} (h : rRest w = true) : rPack (opOf w) (rOf w) = w := by
  have h0 : w.extractLsb' 0 3 = 0 := by simpa only [rRest, beq_iff_eq] using h
  simp (disch := omega) only [rPack, ← h0, opOf, rOf, BitVec.extractLsb'_append_extractLsb'_eq_extractLsb']
  exact BitVec.extractLsb'_eq_self

theorem uOf_uPack (op : BitVec 8) (f : UForm) :
    opOf (uPack op f) = op ∧ uOf (uPack op f) = f ∧ uRest (uPack op f) = true := by
  simp (disch := omega) only [opOf, uOf, uRest, uPack, BitVec.extractLsb'_append_eq_of_le,
    BitVec.extractLsb'_append_eq_of_add_le, BitVec.extractLsb'_eq_self, Nat.reduceSub, beq_self_eq_true, and_self]

theorem uPack_uOf {w : BitVec 48} (h : uRest w = true) : uPack (opOf w) (uOf w) = w := by
  have h0 : w.extractLsb' 0 13 = 0 := by simpa only [uRest, beq_iff_eq] using h
  simp (disch := omega) only [uPack, ← h0, opOf, uOf, BitVec.extractLsb'_append_extractLsb'_eq_extractLsb']
  exact BitVec.extractLsb'_eq_self

theorem bOf_bPack (op : BitVec 8) (f : BForm) :
    opOf (bPack op f) = op ∧ bOf (bPack op f) = f ∧ bRest (bPack op f) = true := by
  simp (disch := omega) only [opOf, bOf, bRest, bPack, BitVec.extractLsb'_append_eq_of_le,
    BitVec.extractLsb'_append_eq_of_add_le, BitVec.extractLsb'_eq_self, Nat.reduceSub, beq_self_eq_true, and_self]

theorem bPack_bOf {w : BitVec 48} (h : bRest w = true) : bPack (opOf w) (bOf w) = w := by
  have h0 : w.extractLsb' 0 8 = 0 := by simpa only [bRest, beq_iff_eq] using h
  simp (disch := omega) only [bPack, ← h0, opOf, bOf, BitVec.extractLsb'_append_extractLsb'_eq_extractLsb']
  exact BitVec.extractLsb'_eq_self

theorem lOf_lPack (op : BitVec 8) (f : LForm) :
    opOf (lPack op f) = op ∧ lOf (lPack op f) = f ∧ lRest (lPack op f) = true := by
  simp (disch := omega) only [opOf, lOf, lRest, lPack, BitVec.extractLsb'_append_eq_of_le,
    BitVec.extractLsb'_append_eq_of_add_le, BitVec.extractLsb'_eq_self, Nat.reduceSub, beq_self_eq_true, and_self]

theorem lPack_lOf {w : BitVec 48} (h : lRest w = true) : lPack (opOf w) (lOf w) = w := by
  have h0 : w.extractLsb' 0 10 = 0 := by simpa only [lRest, beq_iff_eq] using h
  simp (disch := omega) only [lPack, ← h0, opOf, lOf, BitVec.extractLsb'_append_extractLsb'_eq_extractLsb']
  exact BitVec.extractLsb'_eq_self

theorem pOf_pPack (op : BitVec 8) (f : PForm) :
    opOf (pPack op f) = op ∧ pOf (pPack op f) = f ∧ pRest (pPack op f) = true := by
  simp (disch := omega) only [opOf, pOf, pRest, pPack, BitVec.extractLsb'_append_eq_of_le,
    BitVec.extractLsb'_append_eq_of_add_le, BitVec.extractLsb'_eq_self, Nat.reduceSub, beq_self_eq_true, and_self]

theorem pPack_pOf {w : BitVec 48} (h : pRest w = true) : pPack (opOf w) (pOf w) = w := by
  have h0 : w.extractLsb' 0 18 = 0 := by simpa only [pRest, beq_iff_eq] using h
  simp (disch := omega) only [pPack, ← h0, opOf, pOf, BitVec.extractLsb'_append_extractLsb'_eq_extractLsb']
  exact BitVec.extractLsb'_eq_self

theorem vOf_vPack (op : BitVec 8) (f : VForm) :
    opOf (vPack op f) = op ∧ vOf (vPack op f) = f ∧ vRest (vPack op f) = true := by
  simp (disch := omega) only [opOf, vOf, vRest, vPack, BitVec.extractLsb'_append_eq_of_le,
    BitVec.extractLsb'_append_eq_of_add_le, BitVec.extractLsb'_eq_self, Nat.reduceSub, beq_self_eq_true, and_self]

theorem vPack_vOf {w : BitVec 48} (h : vRest w = true) : vPack (opOf w) (vOf w) = w := by
  have h0 : w.extractLsb' 0 4 = 0 := by simpa only [vRest, beq_iff_eq] using h
  simp (disch := omega) only [vPack, ← h0, opOf, vOf, BitVec.extractLsb'_append_extractLsb'_eq_extractLsb']
  exact BitVec.extractLsb'_eq_self

theorem maOf_maPack (op : BitVec 8) (f : MAForm) :
    opOf (maPack op f) = op ∧ maOf (maPack op f) = f ∧ maRest (maPack op f) = true := by
  simp (disch := omega) only [opOf, maOf, maRest, maPack, BitVec.extractLsb'_append_eq_of_le,
    BitVec.extractLsb'_append_eq_of_add_le, BitVec.extractLsb'_eq_self, Nat.reduceSub, beq_self_eq_true, and_self]

theorem maPack_maOf {w : BitVec 48} (h : maRest w = true) : maPack (opOf w) (maOf w) = w := by
  have h0 : w.extractLsb' 0 3 = 0 := by simpa only [maRest, beq_iff_eq] using h
  simp (disch := omega) only [maPack, ← h0, opOf, maOf, BitVec.extractLsb'_append_extractLsb'_eq_extractLsb']
  exact BitVec.extractLsb'_eq_self

theorem mqOf_mqPack (op : BitVec 8) (f : MQForm) :
    opOf (mqPack op f) = op ∧ mqOf (mqPack op f) = f ∧ mqRest (mqPack op f) = true := by
  simp (disch := omega) only [opOf, mqOf, mqRest, mqPack, BitVec.extractLsb'_append_eq_of_le,
    BitVec.extractLsb'_append_eq_of_add_le, BitVec.extractLsb'_eq_self, Nat.reduceSub, beq_self_eq_true, and_self]

theorem mqPack_mqOf {w : BitVec 48} (h : mqRest w = true) : mqPack (opOf w) (mqOf w) = w := by
  have h0 : w.extractLsb' 0 3 = 0 := by simpa only [mqRest, beq_iff_eq] using h
  simp (disch := omega) only [mqPack, ← h0, opOf, mqOf, BitVec.extractLsb'_append_extractLsb'_eq_extractLsb']
  exact BitVec.extractLsb'_eq_self

theorem xOf_xPack (op : BitVec 8) (f : XForm) :
    opOf (xPack op f) = op ∧ xOf (xPack op f) = f ∧ xRest (xPack op f) = true := by
  simp (disch := omega) only [opOf, xOf, xRest, xPack, BitVec.extractLsb'_append_eq_of_le,
    BitVec.extractLsb'_append_eq_of_add_le, BitVec.extractLsb'_eq_self, Nat.reduceSub, beq_self_eq_true, and_self]

theorem xPack_xOf {w : BitVec 48} (h : xRest w = true) : xPack (opOf w) (xOf w) = w := by
  have h0 : w.extractLsb' 0 2 = 0 := by simpa only [xRest, beq_iff_eq] using h
  simp (disch := omega) only [xPack, ← h0, opOf, xOf, BitVec.extractLsb'_append_extractLsb'_eq_extractLsb']
  exact BitVec.extractLsb'_eq_self

/-- The bits of an immediate that stands in S1 (R144). -/
def s1Bits (i : Imm) : Option (BitVec 48) := match i with | .long v => some v | .short _ => none

theorem iOf_iPack (op : BitVec 8) (f : IForm) :
    opOf (iPack op f) = op ∧ iOf (iPack op f) (s1Bits f.imm) = f ∧ iRest (iPack op f) (s1Bits f.imm) = true := by
  obtain ⟨sh, fn, d, a, ma, imm, gi, gn, td, ta⟩ := f
  cases imm <;>
    simp (disch := omega) only [opOf, iOf, iRest, iPack, imm12, s1Bits, BitVec.extractLsb'_append_eq_of_le,
      BitVec.extractLsb'_append_eq_of_add_le, BitVec.extractLsb'_eq_self, Nat.reduceSub, beq_self_eq_true, Bool.or_true,
      Bool.and_self, Option.isNone_none, Bool.true_or, and_self]

/-- An immediate of 12 bits is the whole of IMM12. -/
theorem iPack_iOf {w : BitVec 48} (h : iRest w none = true) : iPack (opOf w) (iOf w none) = w := by
  have h0 : w.extractLsb' 0 1 = 0 := by simpa only [iRest, Option.isNone_none, Bool.true_or, Bool.and_true, beq_iff_eq] using h
  simp (disch := omega) only [iPack, imm12, ← h0, opOf, iOf, BitVec.extractLsb'_append_extractLsb'_eq_extractLsb']
  exact BitVec.extractLsb'_eq_self

/-! ### The opcode maps (R161) -/

/-- A word with an opcode is not the empty slot. -/
theorem ne_zero_of_opOf {w : BitVec 48} (h : opOf w ≠ 0) : w ≠ 0 := by
  rintro rfl
  exact h rfl

theorem encodeSlot_of_sROp {op : Nat} {c : SSlot → RForm → Instr} (h : sROp op = some c) (sl : SSlot) (f : RForm) :
    encodeSlot (c sl f) = some (sPlace sl, rPack (BitVec.ofNat 8 op) f) := by
  unfold sROp at h
  split at h <;> cases h <;> rfl

theorem encodeSlot_of_sIOp {op : Nat} {c : SSlot → IForm → Instr} (h : sIOp op = some c) (sl : SSlot) (f : IForm) :
    encodeSlot (c sl f) = some (sPlace sl, iPack (BitVec.ofNat 8 op) f) := by
  unfold sIOp at h
  split at h <;> cases h <;> rfl

theorem encodeSlot_of_vOp {op : Nat} {c : VForm → Instr} (h : vOp op = some c) (f : VForm) :
    encodeSlot (c f) = some (.v, vPack (BitVec.ofNat 8 op) f) := by
  unfold vOp at h
  split at h <;> cases h <;> rfl

theorem encodeSlot_of_maOp {op : Nat} {c : MAForm → Instr} (h : maOp op = some c) (f : MAForm) :
    encodeSlot (c f) = some (.m, maPack (BitVec.ofNat 8 op) f) := by
  unfold maOp at h
  split at h <;> cases h <;> rfl

theorem encodeSlot_of_mqOp {op : Nat} {c : MQForm → Instr} (h : mqOp op = some c) (f : MQForm) :
    encodeSlot (c f) = some (.m, mqPack (BitVec.ofNat 8 op) f) := by
  unfold mqOp at h
  split at h <;> cases h <;> rfl

theorem encodeSlot_of_xOp {op : Nat} {c : XForm → Instr} (h : xOp op = some c) (f : XForm) :
    encodeSlot (c f) = some (.x, xPack (BitVec.ofNat 8 op) f) := by
  unfold xOp at h
  split at h <;> cases h <;> rfl

/-! ### A word that decodes is the encoding of what it decodes to -/

/-- An instruction encoded as the opcode and the fields of a word is encoded as the word. -/
theorem encodeSlot_word {F : Type} {i : Instr} {p : Place} {w : BitVec 48} {n : Nat} {f : F}
    {pack : BitVec 8 → F → BitVec 48} (hw : pack (opOf w) f = w) (hop : (opOf w).toNat = n)
    (hc : encodeSlot i = some (p, pack (BitVec.ofNat 8 n) f)) :
    encodeSlot i = some (p, w) := by
  subst hop
  rw [hc, BitVec.ofNat_toNat, BitVec.setWidth_eq, hw]

/-- A row whose unused bits are checked answers its instruction or nothing. -/
theorem encodeSlot_row {r : Bool} {i j : Instr} {x : Option (Place × BitVec 48)} (hrow : r = true → encodeSlot j = x)
    (h : (if r then some j else none) = some i) : encodeSlot i = x := by
  obtain ⟨hr, ⟨⟩⟩ := Option.ite_none_right_eq_some.1 h
  exact hrow hr

/-- Of two rows with one opcode FN selects one. -/
theorem encodeSlot_choice {b : Bool} {i j k : Instr} {x : Option (Place × BitVec 48)} (hi : encodeSlot i = x)
    (hj : encodeSlot j = x) (h : some (if b then i else j) = some k) : encodeSlot k = x := by
  cases h
  exact Machine.apply_ite_eq encodeSlot hi hj

theorem encodeSlot_of_slotV {w : BitVec 48} {i : Instr} (h : slotV w = some i) : encodeSlot i = some (.v, w) := by
  unfold slotV at h
  split at h
  · next hz => cases h; rw [hz]; rfl
  · split at h
    · cases h
    · next hr =>
      obtain ⟨c, hc, rfl⟩ := Option.map_eq_some_iff.1 h
      exact encodeSlot_word (vPack_vOf (by simpa using hr)) rfl (encodeSlot_of_vOp hc _)

theorem encodeSlot_of_slotM {w : BitVec 48} {i : Instr} (h : slotM w = some i) : encodeSlot i = some (.m, w) := by
  unfold slotM at h
  split at h
  · next hz => cases h; rw [hz]; rfl
  · split at h
    · next c hc => exact encodeSlot_row (fun hr => encodeSlot_word (maPack_maOf hr) rfl (encodeSlot_of_maOp hc _)) h
    · split at h
      · next c hc => exact encodeSlot_row (fun hr => encodeSlot_word (mqPack_mqOf hr) rfl (encodeSlot_of_mqOp hc _)) h
      · cases h

theorem encodeSlot_of_slotX {w : BitVec 48} {i : Instr} (h : slotX w = some i) : encodeSlot i = some (.x, w) := by
  unfold slotX at h
  split at h
  · next hz => cases h; rw [hz]; rfl
  · split at h
    · cases h
    · next hr =>
      have hw := xPack_xOf (w := w) (by simpa using hr)
      dsimp only at h
      split at h
      · next hop => exact encodeSlot_word hw hop (encodeSlot_choice rfl rfl h)
      · next hop => exact encodeSlot_word hw hop (encodeSlot_choice rfl rfl h)
      · next hop => exact encodeSlot_word hw hop (encodeSlot_choice rfl rfl h)
      · obtain ⟨c, hc, rfl⟩ := Option.map_eq_some_iff.1 h
        exact encodeSlot_word hw rfl (encodeSlot_of_xOp hc _)

/-- The S map is read in its order: the I rows, `nop`, the R rows, `seth` and `mfs`, and the rows that stand in S0 alone. -/
theorem encodeSlot_of_slotS {sl : SSlot} {w : BitVec 48} {i : Instr} (h : slotS sl w none = some i) :
    encodeSlot i = some (sPlace sl, w) := by
  unfold slotS at h
  dsimp only at h
  split at h
  · next c hc => exact encodeSlot_row (fun hr => encodeSlot_word (iPack_iOf hr) rfl (encodeSlot_of_sIOp hc sl _)) h
  · simp only [Option.isSome_none, Bool.false_eq_true, if_false] at h
    split at h
    · next hz => cases h; rw [hz]; rfl
    · split at h
      · next c hc => exact encodeSlot_row (fun hr => encodeSlot_word (rPack_rOf hr) rfl (encodeSlot_of_sROp hc sl _)) h
      · split at h
        · next hop => exact encodeSlot_row (fun hr => encodeSlot_word (uPack_uOf hr) hop rfl) h
        · next hop => exact encodeSlot_row (fun hr => encodeSlot_word (iPack_iOf hr) hop rfl) h
        · obtain ⟨hsl, hrow⟩ := Option.ite_none_left_eq_some.1 h
          obtain rfl : sl = .s0 := by cases sl <;> trivial
          split at hrow
          case h_1 hop | h_2 hop | h_3 hop | h_4 hop | h_5 hop | h_11 hop =>
            exact encodeSlot_row (fun hr => encodeSlot_word (bPack_bOf hr) hop rfl) hrow
          case h_6 hop => exact encodeSlot_row (fun hr => encodeSlot_word (lPack_lOf hr) hop rfl) hrow
          case h_7 hop => exact encodeSlot_row (fun hr => encodeSlot_word (pPack_pOf hr) hop rfl) hrow
          case h_8 hop | h_9 hop => exact encodeSlot_row (fun hr => encodeSlot_word (iPack_iOf hr) hop rfl) hrow
          case h_10 hop =>
            obtain ⟨hr, hmts⟩ := Option.ite_none_right_eq_some.1 hrow
            refine encodeSlot_word (iPack_iOf hr) hop ?_
            split at hmts <;> cases hmts <;> rfl
          case h_12 => cases hrow

/-- Settles O2: each slot's decoder by the row it takes. -/
theorem encodeOfDecode : Obligations.EncodeOfDecode := by
  unfold Obligations.EncodeOfDecode
  exact ⟨fun _ _ h _ => encodeSlot_of_slotS h, fun _ _ h _ => encodeSlot_of_slotS h, fun _ _ h _ => encodeSlot_of_slotV h,
    fun _ _ h _ => encodeSlot_of_slotM h, fun _ _ h _ => encodeSlot_of_slotX h⟩

/-- Settles O3: each word by evaluation of its slot's decoder. -/
theorem decodeKnownWords : Obligations.DecodeKnownWords := by
  unfold Obligations.DecodeKnownWords
  exact ⟨rfl, rfl, rfl, rfl, rfl⟩

/-! ### The word of an instruction decodes to it -/

/-- What the decoder of a slot reads; `ext` holds the S1 bits under CLS = 01. -/
def slotAt (p : Place) (w : BitVec 48) (ext : Option (BitVec 48)) : Option Instr :=
  match p with
  | .s0 => slotS .s0 w ext
  | .s1 => slotS .s1 w ext
  | .v => slotV w
  | .m => slotM w
  | .x => slotX w

theorem slotAt_sPlace (sl : SSlot) (w : BitVec 48) (ext : Option (BitVec 48)) : slotAt (sPlace sl) w ext = slotS sl w ext := by
  cases sl <;> rfl

/-- The word of an instruction, with the S1 bits of its long immediate, decodes to it in its slot. -/
def DecodesBack (i : Instr) : Prop := ∀ p w, encodeSlot i = some (p, w) → slotAt p w (longImm i) = some i

/-- An instruction decodes back when every word with its opcode and its fields decodes to it. -/
theorem decodesBack_row {F : Type} {i : Instr} {f : F} {p : Place} {op : BitVec 8} {w : BitVec 48} {of : BitVec 48 → F}
    {rest : BitVec 48 → Bool} (hw : opOf w = op ∧ of w = f ∧ rest w = true) (henc : encodeSlot i = some (p, w))
    (hop : op ≠ 0)
    (hdec : ∀ w, w ≠ 0#48 → opOf w = op → of w = f → rest w = true → slotAt p w (longImm i) = some i) :
    DecodesBack i := by
  intro p' w' h
  rw [henc] at h
  cases h
  obtain ⟨hwop, hof, hrest⟩ := hw
  exact hdec w (ne_zero_of_opOf (hwop ▸ hop)) hwop hof hrest

section
variable {op : BitVec 8}

theorem decodesBack_r {c : SSlot → RForm → Instr} {sl : SSlot} {f : RForm}
    (henc : encodeSlot (c sl f) = some (sPlace sl, rPack op f)) (himm : longImm (c sl f) = none) (hop : op ≠ 0)
    (hi : sIOp op.toNat = none) (hc : sROp op.toNat = some c) : DecodesBack (c sl f) :=
  decodesBack_row (rOf_rPack op f) henc hop fun w h0 hw hf hr => by
    simp [himm, slotAt_sPlace, slotS, hw, hi, hc, h0, hf, hr]

theorem decodesBack_i {c : SSlot → IForm → Instr} {sl : SSlot} {f : IForm}
    (henc : encodeSlot (c sl f) = some (sPlace sl, iPack op f)) (himm : longImm (c sl f) = s1Bits f.imm) (hop : op ≠ 0)
    (hc : sIOp op.toNat = some c) : DecodesBack (c sl f) :=
  decodesBack_row (of := fun w => iOf w (s1Bits f.imm)) (rest := fun w => iRest w (s1Bits f.imm)) (iOf_iPack op f) henc hop
    fun w _ hw hf hr => by simp [himm, slotAt_sPlace, slotS, hw, hc, hf, hr]

/-- The rows of the S map whose immediate stands in IMM12 alone. -/
theorem decodesBack_short {i : Instr} {f : IForm} {p : Place} (hs : Machine.immShortOk f.imm = true)
    (henc : encodeSlot i = some (p, iPack op f)) (hop : op ≠ 0)
    (hdec : ∀ w, w ≠ 0#48 → opOf w = op → iOf w none = f → iRest w none = true → slotAt p w (longImm i) = some i) :
    DecodesBack i := by
  have himm : s1Bits f.imm = none := by
    cases h : f.imm with
    | short v => rfl
    | long v => simp [h, Machine.immShortOk] at hs
  exact decodesBack_row (himm ▸ iOf_iPack op f) henc hop hdec

theorem decodesBack_v {c : VForm → Instr} {f : VForm} (henc : encodeSlot (c f) = some (.v, vPack op f)) (hop : op ≠ 0)
    (hc : vOp op.toNat = some c) : DecodesBack (c f) :=
  decodesBack_row (vOf_vPack op f) henc hop fun w h0 hw hf hr => by simp [slotAt, slotV, hw, hc, h0, hf, hr]

theorem decodesBack_ma {c : MAForm → Instr} {f : MAForm} (henc : encodeSlot (c f) = some (.m, maPack op f)) (hop : op ≠ 0)
    (hc : maOp op.toNat = some c) : DecodesBack (c f) :=
  decodesBack_row (maOf_maPack op f) henc hop fun w h0 hw hf hr => by simp [slotAt, slotM, hw, hc, h0, hf, hr]

theorem decodesBack_mq {c : MQForm → Instr} {f : MQForm} (henc : encodeSlot (c f) = some (.m, mqPack op f)) (hop : op ≠ 0)
    (ha : maOp op.toNat = none) (hc : mqOp op.toNat = some c) : DecodesBack (c f) :=
  decodesBack_row (mqOf_mqPack op f) henc hop fun w h0 hw hf hr => by simp [slotAt, slotM, hw, ha, hc, h0, hf, hr]

/-- FN splits no opcode of the X map. -/
theorem decodesBack_x {c : XForm → Instr} {f : XForm} (henc : encodeSlot (c f) = some (.x, xPack op f)) (hop : op ≠ 0)
    (hc : xOp op.toNat = some c) : DecodesBack (c f) :=
  decodesBack_row (xOf_xPack op f) henc hop fun w h0 hw hf hr => by
    simp only [slotAt, slotX, show ¬w = 0 from h0, if_false, hw, hf, hr, Bool.not_true, Bool.false_eq_true]
    split
    · next h => rw [h] at hc; cases hc
    · next h => rw [h] at hc; cases hc
    · next h => rw [h] at hc; cases hc
    · rw [hc]; rfl

end

/-! ### What R160 says of the rows of one opcode -/

open Sys2Proof.Machine

theorem immShortOk_of_legalBareImm {f : IForm} (h : legalBareImm f = true) : immShortOk f.imm = true :=
  (Bool.and_eq_true_iff.1 h).2

theorem immShortOk_of_legalMfs {f : IForm} (h : legalMfs f = true) : immShortOk f.imm = true :=
  (Bool.and_eq_true_iff.1 (Bool.and_eq_true_iff.1 h).1).2

theorem legalMts_number {f : IForm} (h : legalMts f = true) : immShortOk f.imm = true ∧ immNat f.imm ≠ 0x021 := by
  obtain ⟨hform, hn⟩ := Bool.and_eq_true_iff.1 h
  exact ⟨(Bool.and_eq_true_iff.1 hform).2, fun e => by simp [e, sysWritable] at hn⟩

theorem legalRepcWrite_number {f : IForm} (h : legalRepcWrite f = true) : immShortOk f.imm = true ∧ immNat f.imm = 0x021 := by
  obtain ⟨hform, hn⟩ := Bool.and_eq_true_iff.1 h
  exact ⟨(Bool.and_eq_true_iff.1 hform).2, beq_iff_eq.1 hn⟩

/-- The last condition of a row gives its FN. -/
theorem fn_of_and_beq {b : Bool} {fn v : BitVec 4} (h : (b && fn == v) = true) : fn = v :=
  beq_iff_eq.1 (Bool.and_eq_true_iff.1 h).2

theorem fn3_of_lt {fn : BitVec 4} (h : fn.toNat < 8) : fn[3] = false := by decide +revert

theorem legalCollSum_fn3 {f : XForm} (h : legalCollSum f = true) : f.fn[3] = false :=
  fn3_of_lt (of_decide_eq_true (Bool.and_eq_true_iff.1 (Bool.and_eq_true_iff.1 h).1).2)

theorem legalWflush_fn3 {f : XForm} (h : legalWflush f = true) : f.fn[3] = false :=
  fn3_of_lt (of_decide_eq_true (Bool.and_eq_true_iff.1 h).2)

/-- R160 tells the rows of one opcode apart: the number of `mts`, and the FN of `fence.bank`, `coll.sum` and `wflush`. -/
theorem decodesBack_of_wellFormed {i : Instr} (hw : i.wellFormed = true) : DecodesBack i := by
  cases i
  case add | sub | mul | mulh | mulhu | min | max | minu | maxu | adds | addus | subs | subus | abs | neg | and | or | xor
    | andn | shl | shr | sar | clz | popc | bext | bins | bperm | ceq | cne | clt | cle | cltu | cleu | gand | gor | sel
    | aadd | fadd | fsub | fmul | ffma | fcmp | fcvt => exact decodesBack_r rfl rfl (by decide) rfl rfl
  case addi | andi | ori | xori | shli | shri | sari | ceqi | clti | cltui | aaddi | ldb | ldbu | ldh | ldhu | ldw | ldq
    | stb | sth | stw | stq | lda | sta | ldd | std => exact decodesBack_i rfl rfl (by decide) rfl
  case nop sl => rintro p w ⟨⟩; cases sl <;> rfl
  case vnop | mnop | xnop => rintro p w ⟨⟩; rfl
  case seth sl f =>
    exact decodesBack_row (uOf_uPack _ f) rfl (by decide) fun w h0 hop hf hr => by
      simp [slotAt_sPlace, slotS, sIOp, sROp, longImm, h0, hop, hf, hr]
  case br f | jr f | call f | callr f | ret f | halt f =>
    exact decodesBack_row (bOf_bPack _ f) rfl (by decide) fun w h0 hop hf hr => by
      simp [slotAt, slotS, sIOp, sROp, longImm, h0, hop, hf, hr]
  case loop f =>
    exact decodesBack_row (lOf_lPack _ f) rfl (by decide) fun w h0 hop hf hr => by
      simp [slotAt, slotS, sIOp, sROp, longImm, h0, hop, hf, hr]
  case rep f =>
    exact decodesBack_row (pOf_pPack _ f) rfl (by decide) fun w h0 hop hf hr => by
      simp [slotAt, slotS, sIOp, sROp, longImm, h0, hop, hf, hr]
  case rot f | trap f =>
    exact decodesBack_short (immShortOk_of_legalBareImm hw) rfl (by decide) fun w h0 hop hf hr => by
      simp [slotAt, slotS, sIOp, sROp, longImm, h0, hop, hf, hr]
  case mfs sl f =>
    exact decodesBack_short (immShortOk_of_legalMfs hw) rfl (by decide) fun w h0 hop hf hr => by
      simp [slotAt_sPlace, slotS, sIOp, sROp, longImm, h0, hop, hf, hr]
  case mts f =>
    obtain ⟨hs, hn⟩ := legalMts_number hw
    exact decodesBack_short hs rfl (by decide) fun w h0 hop hf hr => by
      have hnum : (w.extractLsb' 7 12).toNat ≠ 0x021 := by rwa [← hf] at hn
      simpa [slotAt, slotS, sIOp, sROp, longImm, hop, h0, hf, hr] using hnum
  case repcWrite f =>
    obtain ⟨hs, hn⟩ := legalRepcWrite_number hw
    exact decodesBack_short hs rfl (by decide) fun w h0 hop hf hr => by
      have hnum : (w.extractLsb' 7 12).toNat = 0x021 := by rwa [← hf] at hn
      simpa [slotAt, slotS, sIOp, sROp, longImm, hop, h0, hf, hr] using hnum
  case vadd | vsub | vmul | vfma | vmin | vmax | vabs | vneg | vadds | vsubs | vand | vor | vxor | vshl | vshr | vcvt
    | vrint | vmov | vfexp | vscale | vgetexp | vgetman | vclass | vrcp | vrsqrt | vdiv | vsqrt | vflog | vcmp | vsel
    | vperm | vgather | vscatter | vbmax | vsplit | vrand | vsum | vdot | vrmax | vrmin =>
    exact decodesBack_v rfl (by decide) rfl
  case msill | mmul | mmac | mslice | mscale | mround | mrel | mzero | msave | mload | msplit =>
    exact decodesBack_ma rfl (by decide) rfl
  case qclr | qfma | qdot | qadd | qsub | qneg | qround | qst | qld => exact decodesBack_mq rfl (by decide) rfl rfl
  case bcopy | bconv | bquant | bgather | bscatter | bfill | bnext | bchain | put | putQ | putT | sinit | sinc | swait
    | twait | tbsync | slAdd | slMin | slMax | slAnd | slOr | slXor | slFadd | slCas | slFill | slSum | amoAdd | amoMin
    | amoMax | amoAnd | amoOr | amoXor | amoSwap | amoCas | amoFadd | fenceAcq | fenceRel | fenceAr | fenceGeo | phase
    | dbar | collBcast | wmap | tret => exact decodesBack_x rfl (by decide) rfl
  case fenceBank f =>
    have hfn : f.fn[0] = false := by rw [fn_of_and_beq hw]; rfl
    exact decodesBack_row (xOf_xPack _ f) rfl (by decide) fun w h0 hop hf hr => by
      simp [slotAt, slotX, h0, hop, hf, hr, hfn]
  case fenceBankAll f =>
    have hfn : f.fn[0] = true := by rw [fn_of_and_beq hw]; rfl
    exact decodesBack_row (xOf_xPack _ f) rfl (by decide) fun w h0 hop hf hr => by
      simp [slotAt, slotX, h0, hop, hf, hr, hfn]
  case collSum f =>
    have hfn : f.fn[3] = false := legalCollSum_fn3 hw
    exact decodesBack_row (xOf_xPack _ f) rfl (by decide) fun w h0 hop hf hr => by
      simp [slotAt, slotX, h0, hop, hf, hr, hfn]
  case wflush f =>
    have hfn : f.fn[3] = false := legalWflush_fn3 hw
    exact decodesBack_row (xOf_xPack _ f) rfl (by decide) fun w h0 hop hf hr => by
      simp [slotAt, slotX, h0, hop, hf, hr, hfn]
  case collSumQ f | wflushAll f =>
    have hfn : f.fn[3] = true := by rw [fn_of_and_beq hw]; rfl
    exact decodesBack_row (xOf_xPack _ f) rfl (by decide) fun w h0 hop hf hr => by
      simp [slotAt, slotX, h0, hop, hf, hr, hfn]
  all_goals exact fun _ _ h => nomatch h

/-! ### The bundle of one instruction (R142, R144) -/

/-- A bundle without a long immediate is read slot by slot. -/
theorem bundle_short (x m v s1 s0 : BitVec 48) :
    bundle (x ++ m ++ v ++ s1 ++ s0 ++ (0 : BitVec 16)) = some
      { sp := false, s0 := checked (slotS .s0 s0 none), s1 := checked (slotS .s1 s1 none), v := checked (slotV v),
        m := checked (slotM m), x := checked (slotX x) } := by
  simp (disch := omega) only [bundle, BitVec.extractLsb'_append_eq_of_le, BitVec.extractLsb'_append_eq_of_add_le,
    BitVec.extractLsb'_eq_self, Nat.reduceSub]
  rfl

/-- Under CLS = 01 the bits of S1 are the long immediate of S0. -/
theorem bundle_long (x m v imm s0 : BitVec 48) :
    bundle (x ++ m ++ v ++ imm ++ s0 ++ (0x4000 : BitVec 16)) = some
      { sp := false, s0 := checked (slotS .s0 s0 (some imm)), s1 := some (.nop .s1), v := checked (slotV v),
        m := checked (slotM m), x := checked (slotX x) } := by
  simp (disch := omega) only [bundle, BitVec.extractLsb'_append_eq_of_le, BitVec.extractLsb'_append_eq_of_add_le,
    BitVec.extractLsb'_eq_self, Nat.reduceSub]
  rfl

/-- The bundle that holds one instruction and is empty elsewhere. -/
def alone (p : Place) (i : Instr) : Bundle :=
  { sp := false
    s0 := if p = .s0 then some i else some (.nop .s0)
    s1 := if p = .s1 then some i else some (.nop .s1)
    v := if p = .v then some i else some .vnop
    m := if p = .m then some i else some .mnop
    x := if p = .x then some i else some .xnop }

theorem mainOf_alone {p : Place} {i : Instr} (h1 : i ≠ .nop .s1) (hv : i ≠ .vnop) (hm : i ≠ .mnop) (hx : i ≠ .xnop) :
    mainOf (alone p i) = some i := by
  cases p <;> simp [mainOf, alone, h1, hv, hm, hx]

/-- The bundle of an instruction holds it alone: what was packed in its slot decodes to it, and the empty slots to no-ops. -/
theorem bundle_encode {p : Place} {w : BitVec 48} {i : Instr} (hw : i.wellFormed = true) (henc : encodeSlot i = some (p, w))
    (hlong : ∀ x, longImm i = some x → p = .s0) : ∃ b, encode i = some b ∧ bundle b = some (alone p i) := by
  have hdec : checked (slotAt p w (longImm i)) = some i := by
    simp only [decodesBack_of_wellFormed hw p w henc, checked, hw, if_true]
  cases himm : longImm i with
  | some x =>
    obtain rfl := hlong x himm
    simp only [himm, slotAt] at hdec
    simp only [encode, henc, himm, if_true, Option.some.injEq, exists_eq_left', bundle_long, hdec]
    rfl
  | none =>
    simp only [encode, henc, himm, Option.some.injEq, exists_eq_left']
    cases p <;> simp only [himm, slotAt] at hdec <;> rw [bundle_short, hdec] <;> rfl

/-- Settles O1: the bundle of an instruction holds it alone, each slot decoding to what was packed there. -/
theorem decodeOfEncode : Obligations.DecodeOfEncode := by
  unfold Obligations.DecodeOfEncode
  rintro i hw ⟨⟨p, w⟩, henc⟩ h1 hv hm hx hlong
  have hs0 (x : BitVec 48) (h : longImm i = some x) : p = .s0 := by
    obtain ⟨w', h'⟩ := hlong x h
    rw [henc] at h'
    cases h'
    rfl
  obtain ⟨b, hb, hdec⟩ := bundle_encode hw henc hs0
  exact ⟨b, hb, by simp only [instrOf, hdec, mainOf_alone h1 hv hm hx]⟩

end Sys2Proof.Decode
end

section
/-! PROOFS. What a slot instruction does whose encoding R160 refuses (R149, R159, R160: O4). -/

namespace Sys2Proof.Machine

open Sys2Proof.Decode

/-! ### A trap takes no entry

A collective compares the count of entries before and after; the trap of a refused encoding leaves it alone. -/

theorem State.traceRec_me (s : State) (core kind bit : Nat) (r : Room) (bundle : DWord) (data : Nat) :
    (s.traceRec core kind bit r bundle data).me = s.me := by
  unfold State.traceRec
  split
  · exact apply_ite_eq State.me rfl rfl
  · rfl

theorem State.flushMacct_me (s : State) (r : Room) : (s.flushMacct r).me = s.me :=
  foldl_aside State.me _ (fun s _ => s.traceRec_me _ _ _ _ _ _) _ s

theorem State.onRoom_entries (s : State) (id : RoomId) {f : Room → Room} (hf : ∀ r, (f r).entries = r.entries) :
    (s.onRoom id f).me.entries = s.me.entries := apply_ite_eq (fun t : State => t.me.entries) (hf _) rfl

theorem State.switch_entries (s : State) (core from_ : Nat) : (s.switch core from_).me.entries = s.me.entries := by
  have latched (r : Room) : (match (s.coreOf core).resident with
      | some i => if i = r.id then s else s.onRoom i Room.latchAll
      | none => s).me.entries = s.me.entries := by
    split
    · exact apply_ite_eq (fun t : State => t.me.entries) rfl (s.onRoom_entries _ fun _ => rfl)
    · rfl
  unfold State.switch
  dsimp only
  split
  · exact latched _
  · split
    · exact latched _
    · rfl

theorem State.takeTrap_entries (s : State) (c : Cause) (pc : DWord) : (s.takeTrap c pc).me.entries = s.me.entries := by
  unfold State.takeTrap
  extract_lets r0 isFatal r1 y c2 r2 s1 s2 s3 s4 s5
  have h1 : r1.entries = s.me.entries := apply_ite_eq Room.entries rfl rfl
  have h2 : s2.me = r2 := s1.post_me _
  have h3 : s3.me = s2.me := apply_ite_eq State.me (s2.startDump_me _ _ _ _ _) rfl
  have h4 : s4.me = s3.me := (State.flushMacct_me _ _).trans (s3.traceRec_me _ _ _ _ _ _)
  have h5 : s5.me = s4.me := apply_ite_eq State.me (s4.post_me _) rfl
  calc (s5.leave r2).me.entries
    _ = s5.me.entries := apply_ite_eq (fun t : State => t.me.entries) (s5.switch_entries _ _) rfl
    _ = r2.entries := by rw [h5, h4, h3, h2]
    _ = s.me.entries := h1

/-! ### Every slot instruction -/

/-- A collective is refused for its domain register or by its entry, in both ways with one trap. -/
theorem collOp_illegal {i : Instr} {f : XForm} {ok aligned : Ctx → XEntry → Bool} {reads writes : Room → XEntry → List Iv}
    {s : State} (hw : i.wellFormed = false) :
    collOp i f ok aligned reads writes s = .next (s.takeTrap (illegal slotX) s.me.ctx.pc) := by
  unfold collOp entryOp
  rw [slotOp_illegal hw]
  simp only [State.takeTrap_entries, Nat.lt_irrefl, if_false, State.issueTrap, ite_self]

/-- The guard of an atomic counts for a well-formed one alone. -/
theorem amoOp_illegal {i : Instr} {f : XForm} {s : State} (hn : ¬i.wellFormed = true) :
    amoOp i f s = .next (s.takeTrap (illegal slotX) s.me.ctx.pc) :=
  (if_neg fun h => hn (Bool.and_eq_true_iff.1 h).1).trans (if_neg hn)

/-- The slot number of a place (R380). -/
def slotNo (p : Place) : Nat := match p with | .s0 => 0 | .s1 => 1 | .v => 2 | .m => 3 | .x => 4

theorem slotNo_sPlace (sl : SSlot) : slotNo (sPlace sl) = sNum sl := by cases sl <;> rfl

/-- A slot instruction checks its encoding before all else; a no-op has nothing to check. -/
theorem exec_illegal {i : Instr} {p : Place} {w : BitVec 48} (s : State) (henc : encodeSlot i = some (p, w))
    (hw : i.wellFormed = false) : exec i s = .next (s.takeTrap (illegal (slotNo p)) s.me.ctx.pc) := by
  have hn : ¬i.wellFormed = true := ne_true_of_eq_false hw
  cases i
  case nop | vnop | mnop | xnop => cases hw
  case add | sub | mul | mulh | mulhu | min | max | minu | maxu | adds | addus | subs | subus | abs | neg | and | or | xor
    | andn | shl | shr | sar | clz | popc | bext | bins | bperm | ceq | cne | clt | cle | cltu | cleu | gand | gor | sel
    | addi | andi | ori | xori | shli | shri | sari | ceqi | clti | cltui | seth | aadd | aaddi | ldb | ldbu | ldh | ldhu
    | ldw | ldq | stb | sth | stw | stq | lda | sta | ldd | std | fadd | fsub | fmul | ffma | fcmp | fcvt | mfs =>
    cases henc
    rw [slotNo_sPlace]
    exact if_neg hn
  case br | jr | call | callr | ret | loop | rep | rot | trap | mts | repcWrite | halt
    | vadd | vsub | vmul | vfma | vmin | vmax | vabs | vneg | vadds | vsubs | vand | vor | vxor | vshl | vshr | vcvt
    | vrint | vmov | vfexp | vscale | vgetexp | vgetman | vclass | vrcp | vrsqrt | vdiv | vsqrt | vflog | vcmp | vsel
    | vperm | vgather | vscatter | vbmax | vsplit | vrand | vsum | vdot | vrmax | vrmin
    | msill | mmul | mmac | mslice | mscale | mround | mrel | mzero | msave | mload | msplit
    | qclr | qfma | qdot | qadd | qsub | qneg | qround | qst | qld
    | bcopy | bconv | bquant | bgather | bscatter | bfill | bnext | bchain | put | putQ | putT | sinit | sinc | swait
    | twait | tbsync | slAdd | slMin | slMax | slAnd | slOr | slXor | slFadd | slCas | slFill | slSum | fenceAcq
    | fenceRel | fenceAr | fenceBank | fenceBankAll | fenceGeo | phase | dbar | wmap | wflush | wflushAll | tret =>
    cases henc
    exact if_neg hn
  case amoAdd | amoMin | amoMax | amoAnd | amoOr | amoXor | amoSwap | amoCas | amoFadd =>
    cases henc
    exact amoOp_illegal hn
  case collSum =>
    cases henc
    unfold exec execCollSum
    exact collOp_illegal hw
  case collSumQ =>
    cases henc
    unfold exec execCollSumQ
    exact collOp_illegal hw
  case collBcast =>
    cases henc
    unfold exec execCollBcast
    exact collOp_illegal hw
  all_goals exact nomatch henc

/-- Settles O4: the check of the encoding that every slot instruction begins with. -/
theorem illegalEncodingTraps : Obligations.IllegalEncodingTraps := by
  unfold Obligations.IllegalEncodingTraps
  exact fun i p w s henc hw => exec_illegal s henc hw

end Sys2Proof.Machine
end

section
/-! PROOFS. What a landing writes and leaves alone (R51, R157, R168, R183, R211, R243: O22). -/

namespace Sys2Proof.Machine

open Sys2Proof.Claims Sys2Proof.Laws

/-! ### Registers -/

theorem writes1_set {α : Type} {n : Nat} (x : Vector α n) (k : Nat) (hk : k < n) (v : α) : Writes1 x (x.set k v hk) k v := by
  intro i
  simp only [Fin.getElem_fin, Vector.getElem_set, eq_comm]

/-! ### Bytes of a store -/

theorem get_putAll_mem {cells m : List Host.Cell} (hm : Memory.wf m = true) (hd : Distinct cells) {c : Host.Cell}
    (hc : c ∈ cells) : Memory.get (Memory.putAll m cells) c.1 = c.2 := by
  induction cells generalizing m with
  | nil => cases hc
  | cons d cells ih =>
    obtain ⟨hfresh, hd⟩ := List.nodup_cons.1 hd
    show Memory.get (Memory.putAll (Memory.put m d.1 d.2) cells) c.1 = c.2
    rcases List.mem_cons.1 hc with rfl | hc
    · rw [get_putAll_other cells _ fun e he h => hfresh (List.mem_map.2 ⟨e, he, h⟩)]
      exact get_put_same c.1 c.2 hm
    · exact ih (wf_put d.1 d.2 hm) hd hc

/-- Bytes written read back, and every other address reads as before. -/
theorem writesCells_putAll {cells m : List Host.Cell} (hm : Memory.wf m = true) (hd : Distinct cells) :
    WritesCells m (Memory.putAll m cells) cells :=
  ⟨fun _ hc => get_putAll_mem hm hd hc, fun _ ha => get_putAll_other cells m ha⟩

/-- Bytes landed in the scratchpad mark the windows that hold them, and nothing else changes. -/
theorem scratch_landed (r : Room) {cells : List Host.Cell} (hm : Memory.wf r.scratch = true) (hd : Distinct cells) :
    let t : Room := { r.markWritten (cells.map Prod.fst) with scratch := Memory.putAll r.scratch cells }
    t = { r with scratch := t.scratch, windows := t.windows } ∧ WritesCells r.scratch t.scratch cells :=
  ⟨congrArg (fun x : Room => { x with scratch := Memory.putAll r.scratch cells }) (r.markWritten_frame _),
    writesCells_putAll hm hd⟩

/-! ### Sills (R211) -/

theorem modAt_eq_modify {α : Type} (f : α → α) (n : Nat) (l : List α) : modAt f n l = l.modify n f := by
  induction l generalizing n with
  | nil => simp [modAt]
  | cons x l ih => cases n <;> simp [modAt, ih]

theorem sill_landed {sills cs : List (List Host.Cell)} {n : Nat} {cells : List Host.Cell} (hd : Distinct cells)
    (hm : ∀ m ∈ sills, Memory.wf m = true) (hn : n < sills.length)
    (hcs : cs = modAt (fun m => Memory.putAll m cells) n sills) :
    cs.length = sills.length ∧ WritesCells (sills.getD n []) (cs.getD n []) cells ∧
      ∀ k, k ≠ n → cs.getD k [] = sills.getD k [] := by
  rw [modAt_eq_modify] at hcs
  subst hcs
  refine ⟨List.length_modify _ _ _, ?_, fun k hk => ?_⟩
  · have hs := writesCells_putAll (hm _ (List.getElem_mem hn)) hd
    simpa [List.getD_eq_getElem?_getD, List.getElem?_modify, hn] using hs
  · simp [List.getD_eq_getElem?_getD, hk.symm]

/-! ### Overflow lines (R101) -/

/-- A byte of an overflow line written in turn with others. -/
def setAt (bs : List Byte) (c : Host.Cell) : List Byte := bs.set (c.1 % 256) c.2

theorem foldl_setAt_length (cells : List Host.Cell) (bs : List Byte) : (cells.foldl setAt bs).length = bs.length := by
  induction cells generalizing bs with
  | nil => rfl
  | cons d cells ih => exact (ih _).trans List.length_set

theorem foldl_setAt_other {cells : List Host.Cell} {k : Nat} (h : ∀ c ∈ cells, c.1 % 256 ≠ k) (bs : List Byte) :
    (cells.foldl setAt bs)[k]? = bs[k]? := by
  induction cells generalizing bs with
  | nil => rfl
  | cons d cells ih =>
    rw [List.foldl_cons, ih fun c hc => h c (List.mem_cons_of_mem _ hc)]
    exact List.getElem?_set_ne (h d List.mem_cons_self)

theorem foldl_setAt_mem {cells : List Host.Cell} {n : Nat} (hn : ∀ c ∈ cells, c.1 / 256 = n) (hd : Distinct cells)
    {c : Host.Cell} (hc : c ∈ cells) {bs : List Byte} (hl : c.1 % 256 < bs.length) :
    (cells.foldl setAt bs)[c.1 % 256]? = some c.2 := by
  induction cells generalizing bs with
  | nil => cases hc
  | cons d cells ih =>
    obtain ⟨hfresh, hd⟩ := List.nodup_cons.1 hd
    have hn' : ∀ e ∈ cells, e.1 / 256 = n := fun e he => hn e (List.mem_cons_of_mem _ he)
    rw [List.foldl_cons]
    rcases List.mem_cons.1 hc with rfl | hc
    · rw [foldl_setAt_other fun e he hmod => hfresh ?_]
      · exact List.getElem?_set_self hl
      · have he1 : e.1 = c.1 := by
          have := hn' e he
          have := hn c List.mem_cons_self
          omega
        exact he1 ▸ List.mem_map_of_mem he
    · exact ih hn' hd hc (by rwa [setAt, List.length_set])

/-- The cells of a list that lie in an overflow line. -/
def lineCells (x : OvLine) (cells : List Host.Cell) : List Host.Cell := cells.filter fun c => c.1 / 256 == x.num

theorem mem_lineCells {x : OvLine} {cells : List Host.Cell} {c : Host.Cell} :
    c ∈ lineCells x cells ↔ c ∈ cells ∧ c.1 / 256 = x.num := by simp [lineCells]

/-- An overflow line takes the bytes that lie in it, and is dirty when there is one. -/
theorem OvLine.store_eq (x : OvLine) (cells : List Host.Cell) :
    x.store cells = { x with bytes := (lineCells x cells).foldl setAt x.bytes,
                             dirty := x.dirty || !(lineCells x cells).isEmpty } := by
  unfold OvLine.store
  dsimp only
  split
  · next h =>
    have hnil : lineCells x cells = [] := List.isEmpty_iff.1 h
    simp [hnil]
  · next h =>
    have hne : (lineCells x cells).isEmpty = false := eq_false_of_ne_true h
    simp only [hne, Bool.not_false, Bool.or_true]
    rfl

theorem OvLine.store_landed (x : OvLine) {cells : List Host.Cell} (hd : Distinct cells) :
    let y := x.store cells
    y.num = x.num ∧ y.bytes.length = x.bytes.length ∧
      (y.dirty = true ↔ x.dirty = true ∨ ∃ c ∈ cells, c.1 / 256 = x.num) ∧
      (∀ c ∈ cells, c.1 / 256 = x.num → c.1 % 256 < x.bytes.length → y.bytes[c.1 % 256]? = some c.2) ∧
      ∀ k, (∀ c ∈ cells, c.1 ≠ 256 * x.num + k) → k < 256 → y.bytes[k]? = x.bytes[k]? := by
  have hline : ∀ c ∈ lineCells x cells, c.1 / 256 = x.num := fun c hc => (mem_lineCells.1 hc).2
  have hdist : Distinct (lineCells x cells) := hd.sublist (List.filter_sublist.map _)
  rw [x.store_eq]
  refine ⟨rfl, foldl_setAt_length _ _, ?_, fun c hc hn hl => ?_, fun k hk hlt => ?_⟩
  · simp [lineCells]
  · exact foldl_setAt_mem hline hdist (mem_lineCells.2 ⟨hc, hn⟩) hl
  · refine foldl_setAt_other (fun c hc hmod => ?_) _
    obtain ⟨hmem, hn⟩ := mem_lineCells.1 hc
    exact hk c hmem (by omega)

/-! ### Tiles (R243) -/

theorem find?_mapIf_other {α : Type} {p q : α → Bool} {f : α → α} {l : List α}
    (h : ∀ y ∈ l, q y = true → p y = false ∧ p (f y) = false) : (mapIf q f l).find? p = l.find? p := by
  induction l with
  | nil => rfl
  | cons y l ih =>
    have hl := ih fun z hz => h z (List.mem_cons_of_mem _ hz)
    simp only [mapIf, List.map_cons, List.find?_cons] at hl ⊢
    rw [hl]
    cases hq : q y with
    | true =>
      obtain ⟨hy, hfy⟩ := h y List.mem_cons_self hq
      simp only [if_true, hy, hfy]
    | false => simp only [Bool.false_eq_true, if_false]

theorem Room.setTile_frame (r : Room) (x : Tile) : r.setTile x = { r with tiles := (r.setTile x).tiles } := by
  unfold Room.setTile
  split <;> rfl

theorem Room.tile?_setTile_same (r : Room) (x : Tile) : (r.setTile x).tile? x.head = some x := by
  unfold Room.setTile Room.tile?
  split
  · next h =>
    obtain ⟨y, hy⟩ := Option.isSome_iff_exists.1 (List.find?_isSome.2 (List.any_eq_true.1 h))
    exact find?_mapIf hy (fun z _ hz => ⟨hz, beq_self_eq_true _⟩) fun z _ hz => hz
  · next h =>
    rw [List.find?_append, List.find?_eq_none.2 fun z hz hh => h (List.any_eq_true.2 ⟨z, hz, hh⟩)]
    simp

theorem Room.tile?_setTile_other (r : Room) (x : Tile) : OtherTiles x.head r (r.setTile x) := by
  intro n hn
  unfold Room.setTile Room.tile?
  split
  · exact find?_mapIf_other fun y _ hy => by simp [beq_iff_eq.1 hy, hn.symm]
  · simp [List.find?_append, hn.symm]

theorem Room.landTile_older {r : Room} {x y : Tile} (hy : r.tile? x.head = some y) (h : x.issued < y.issued) :
    r.landTile x = r := by
  unfold Room.landTile
  rw [hy]
  exact if_neg (Nat.not_le.2 h)

theorem Room.landTile_newer {r : Room} {x : Tile} (h : ∀ y, r.tile? x.head = some y → y.issued ≤ x.issued) :
    r.landTile x = r.setTile x := by
  unfold Room.landTile
  split
  · next y hy => exact if_pos (h y hy)
  · rfl

/-- Settles O22: each kind of landing by the law of what it writes. -/
theorem landingsWrite : Obligations.LandingsWrite := by
  unfold Obligations.LandingsWrite
  rintro r ⟨due, val, slot, raised, escape⟩ rfl rfl
  refine ⟨?_, ?_, ?_, ?_, ?_, ?_, ?_, ?_, ?_, ?_, ?_, ?_⟩
  · rintro p v rfl; exact ⟨rfl, writes1_set _ _ p.isLt _⟩
  · rintro n v rfl; exact ⟨rfl, writes1_set _ _ n.isLt _⟩
  · rintro n v rfl; exact ⟨rfl, writes1_set _ _ n.isLt _⟩
  · rintro n v rfl; exact ⟨rfl, writes1_set _ _ n.isLt _⟩
  · rintro n v rfl; exact ⟨rfl, writes1_set _ _ n.isLt _⟩
  · rintro n v rfl; exact ⟨rfl, writes1_set _ _ n.isLt _⟩
  · rintro n v rfl; exact ⟨rfl, writes1_set _ _ n.isLt _⟩
  · rintro cells (rfl | rfl) hm hd <;> exact scratch_landed r hm hd
  · rintro w cells rfl hd hm hw
    exact ⟨rfl, sill_landed hd hm hw rfl⟩
  · rintro cells rfl hd
    refine ⟨rfl, List.length_map _, fun i x y hx hy => ?_⟩
    obtain rfl : x.store cells = y := by
      have hmap : (r.overflow.map fun l => l.store cells)[i]? = some y := hy
      simpa [hx] using hmap
    exact x.store_landed hd
  · rintro x rfl
    refine ⟨fun y hy h => Room.landTile_older hy h, fun h => ?_⟩
    have ht : r.landTile x = r.setTile x := Room.landTile_newer h
    show r.landTile x = { r with tiles := (r.landTile x).tiles } ∧ (r.landTile x).tile? x.head = some x ∧
      OtherTiles x.head r (r.landTile x)
    rw [ht]
    exact ⟨r.setTile_frame x, r.tile?_setTile_same x, r.tile?_setTile_other x⟩
  · rintro rfl; rfl

end Sys2Proof.Machine
end

section
/-! PROOFS. No-ops, trap, halt, and the system registers read and written (R142, R160, R162, R200 to R204: O28). -/

namespace Sys2Proof.Machine

open Sys2Proof.Claims

/-! ### The end of an issue cycle (R190, R201, R374)

The sequencer's choice and the system-register writes come first; then the stores of the cycle are made, and a snapshot that
is due is taken. -/

/-- What the stores of a cycle and a snapshot leave alone. -/
def Room.storeAside (r : Room) : Life × List Redirect × Word := (r.life, r.ctx.redirects, r.ctx.repc)

theorem Room.landTile_frame (r : Room) (x : Tile) : r.landTile x = { r with tiles := (r.landTile x).tiles } := by
  unfold Room.landTile
  split
  · split
    · exact r.setTile_frame x
    · rfl
  · exact r.setTile_frame x

theorem Room.land_storeAside (r : Room) (l : Landing) : (r.land l).storeAside = r.storeAside := by
  have raised (x : Room) : (if l.raised = Raised.none then x else { x with ctx := x.ctx.raise l.slot l.raised }).storeAside =
      x.storeAside := apply_ite_eq Room.storeAside rfl rfl
  obtain ⟨due, val, slot, flags, escape⟩ := l
  have h1 : (r.land ⟨due, val, slot, Raised.none, none⟩).storeAside = r.storeAside := by
    cases val with
    | bytes cells | store cells => exact (congrArg Room.storeAside (r.markWritten_frame _)).trans rfl
    | tile x => exact (congrArg Room.storeAside (r.landTile_frame x)).trans rfl
    | _ => rfl
  cases escape <;> exact (raised _).trans h1

/-- What ends an issue cycle after the sequencer. -/
def Room.finish (x : Room) : Room := if x.landStores.snapDue then x.landStores.takeSnap else x.landStores

theorem Room.finish_storeAside (x : Room) : x.finish.storeAside = x.storeAside := by
  have hfold (l : List Landing) (y : Room) : (l.foldl Room.land y).storeAside = y.storeAside := by
    induction l generalizing y with
    | nil => rfl
    | cons z l ih => exact (ih _).trans (y.land_storeAside z)
  have hstores : x.landStores.storeAside = x.storeAside := apply_ite_eq Room.storeAside rfl (hfold _ _)
  unfold Room.finish
  split <;> exact hstores

theorem Room.finish_aside (x : Room) :
    x.finish.life = x.life ∧ x.finish.ctx.redirects = x.ctx.redirects ∧ x.finish.ctx.repc = x.ctx.repc := by
  simpa only [Room.storeAside, Prod.mk.injEq] using x.finish_storeAside

theorem Room.finish_registers {x : Room} (h : x.ctx.landings = []) :
    x.finish.ctx.fx = x.ctx.fx ∧ x.finish.ctx.qx = x.ctx.qx ∧ x.finish.ctx.winb = x.ctx.winb := by
  have hstores : x.landStores = x := by
    unfold Room.landStores
    dsimp only
    rw [h]
    rfl
  unfold Room.finish
  rw [hstores]
  split <;> exact ⟨rfl, rfl, rfl⟩

/-- The context once the sequencer has chosen and the system-register writes of the cycle are made. -/
def Room.sysWritten (r : Room) : Ctx :=
  r.ctx.sysWrites.foldl Ctx.sysWrite
    { r.ctx with repc := (r.ctx.seqNext r.ctl).repc, repZero := false, repFresh := false }

theorem Room.advance_halts {r : Room} (sp : Bool) (h : r.ctl = .halts) :
    ∃ x : Room, r.advance sp = x.finish ∧ x.life = .halting ∧ x.ctx.redirects = [] := by
  unfold Room.advance
  dsimp only
  rw [h]
  exact ⟨_, rfl, rfl, rfl⟩

theorem Room.advance_none {r : Room} (sp : Bool) (h : r.ctl = .none) :
    ∃ x : Room, r.advance sp = x.finish ∧ x.ctx.repc = r.sysWritten.repc ∧ x.ctx.fx = r.sysWritten.fx ∧
      x.ctx.qx = r.sysWritten.qx ∧
      x.ctx.winb = winbAdd r.sysWritten.winb (r.ctx.rotBy - ((r.ctx.seqNext r.ctl).rots : Int)) ∧
      x.ctx.landings = r.sysWritten.landings := by
  unfold Room.advance Room.sysWritten
  dsimp only
  rw [h]
  exact ⟨_, rfl, rfl, rfl, rfl, rfl, rfl⟩

theorem Ctx.sysWrites_landings (l : List (Nat × Word)) (c : Ctx) : (l.foldl Ctx.sysWrite c).landings = c.landings := by
  induction l generalizing c with
  | nil => rfl
  | cons w l ih =>
    refine (ih _).trans ?_
    unfold Ctx.sysWrite
    split <;> rfl

/-- Outside of a loop no iteration ends with a rotation (R194). -/
theorem Ctx.seqNext_rots {c : Ctx} (ctl : Ctl) (h : c.loops = []) : (c.seqNext ctl).rots = 0 := by
  unfold Ctx.seqNext
  dsimp only
  rw [h]
  split
  · rfl
  · split <;> rfl

theorem winbAdd_zero (v : Word) : winbAdd (v &&& 0x1F#32) 0 = v &&& 0x1F#32 := by
  have hlt : (v &&& 0x1F#32).toNat < 32 := by
    rw [BitVec.toNat_and]
    exact Nat.lt_succ_of_le Nat.and_le_right
  apply BitVec.eq_of_toNat_eq
  simp only [winbAdd, wrapTo, BitVec.toNat_ofNat]
  omega

/-! ### One write of a system register (R200, R201) -/

section
variable {r : Room} {n : Nat} {v : Word} (sp : Bool) (hw : r.ctx.sysWrites = []) (hctl : r.ctl = .none)
include hw hctl

theorem Room.queueSys_repc : ((r.queueSys 0x021 v).advance sp).ctx.repc = v &&& 0xFFFF0FFF := by
  obtain ⟨x, hx, hrepc, -⟩ := Room.advance_none (r := r.queueSys 0x021 v) sp hctl
  obtain ⟨-, -, hfin⟩ := x.finish_aside
  rw [hx, hfin, hrepc]
  simp [Room.sysWritten, Room.queueSys, hw, Ctx.sysWrite]

theorem Room.queueSys_registers (hl : r.ctx.landings = []) : let c := ((r.queueSys n v).advance sp).ctx
    (n = 1 → c.fx = v &&& fxWritable) ∧ (n = 2 → c.qx = v &&& qxWritable) ∧
      (n = 0x20 → r.ctx.rotBy = 0 → r.ctx.loops = [] → c.winb = v &&& 0x1F) := by
  obtain ⟨x, hx, -, hfx, hqx, hwinb, hland⟩ := Room.advance_none (r := r.queueSys n v) sp hctl
  have hxl : x.ctx.landings = [] := hland.trans ((Ctx.sysWrites_landings _ _).trans hl)
  obtain ⟨ffx, fqx, fwinb⟩ := Room.finish_registers hxl
  dsimp only
  rw [hx, ffx, fqx, fwinb, hfx, hqx, hwinb]
  refine ⟨?_, ?_, fun hn hrot hloops => ?_⟩
  · rintro rfl; simp [Room.sysWritten, Room.queueSys, hw, Ctx.sysWrite]
  · rintro rfl; simp [Room.sysWritten, Room.queueSys, hw, Ctx.sysWrite]
  · rw [show ((r.queueSys n v).ctx.seqNext (r.queueSys n v).ctl).rots = 0 from Ctx.seqNext_rots _ hloops]
    subst hn
    simp [Room.sysWritten, Room.queueSys, hw, Ctx.sysWrite, hrot, winbAdd_zero]

end

/-! ### The instructions -/

/-- R144: the number that an immediate gives. -/
theorem imm32_toNat (i : Imm) : (imm32 false i).toNat = immNat i := by
  cases i with
  | short v =>
    have := v.isLt
    simp only [imm32, immNat, Bool.false_eq_true, if_false, BitVec.truncate_eq_setWidth, BitVec.toNat_setWidth]
    omega
  | long v => simp [imm32, immNat]

theorem sameReg_destA (x : LandVal) (d : BitVec 6) (v w : DWord) : sameReg x (destA d v) = sameReg x (destA d w) := by
  cases x <;> rfl

theorem noClash_destA {s : State} {lat : Nat} {d : BitVec 6} {v : DWord} (h : NoClash s lat (destA d v)) (w : DWord) :
    NoClash s lat (destA d w) :=
  h.imp id fun h l hl hd => (sameReg_destA l.val d w v).trans (h l hl hd)

/-- A result without flags lands where no landing of its register is pending. -/
theorem landAt_withLanding {s : State} {slot lat : Nat} {v : LandVal} (hc : NoClash s lat v) :
    ∃ c, s.me.ctx.landAt slot lat v Raised.none = .ok c ∧
      { s with me := { s.me with ctx := c } } = withLanding s slot lat v := by
  refine ⟨_, Ctx.landAt_landsOf slot lat Raised.none rfl hc, ?_⟩
  unfold withLanding landsOf
  split
  · simp only [if_true, List.append_nil]
  · rfl

/-- `mfs` lands the register it names in the file of its width. -/
theorem exec_mfs {sl : SSlot} {f : IForm} {s : State} {v : LandVal} (hw : (Instr.mfs sl f).wellFormed = true)
    (hv : (if sysWidth (immNat f.imm) = some 64 then destA f.d (BitVec.ofNat 64 (s.sysRead (immNat f.imm)))
      else destS s.me.ctx f.d (BitVec.ofNat 32 (s.sysRead (immNat f.imm)))) = v) (hc : NoClash s 1 v) :
    exec (.mfs sl f) s = .next (withLanding s (sNum sl) 1 v) := by
  obtain ⟨c, hland, hs⟩ := landAt_withLanding (slot := sNum sl) hc
  unfold exec execMfs
  refine slotOp_ok hw ?_
  dsimp only
  rw [hv, hland, ← hs]

/-- R59: the rounding mode stands in bits 18 to 16. -/
theorem fxRm_eq (v : Word) : fxRm v = v.toNat / 2 ^ 16 % 8 := by
  simp only [fxRm, bitsOf, Nat.shiftRight_eq_div_pow, Nat.reduceAdd, Nat.reduceSub, Nat.reducePow]

theorem exec_mts {f : IForm} {s : State} (hw : (Instr.mts f).wellFormed = true)
    (hrm : immNat f.imm = 1 → fxRm (s.me.ctx.readS f.a) < 5) :
    exec (.mts f) s = .next { s with me := s.me.queueSys (immNat f.imm) (s.me.ctx.readS f.a) } := by
  unfold exec execMts
  refine roomOp_ok hw (if_neg ?_)
  simpa using hrm

theorem exec_mts_badMode {f : IForm} {s : State} (hw : (Instr.mts f).wellFormed = true) (hn : immNat f.imm = 1)
    (hrm : 5 ≤ fxRm (s.me.ctx.readS f.a)) : exec (.mts f) s = .next (s.takeTrap (cause 0x01 0) s.me.ctx.pc) := by
  unfold exec execMts
  exact roomOp_trap hw (if_pos (by simp [hn, hrm]))

/-- Settles O28: each instruction by the law of what it does, and the end of its cycle by the law of the register written. -/
theorem systemInstructions : Obligations.SystemInstructions := by
  unfold Obligations.SystemInstructions
  refine ⟨fun s => ⟨fun sl => rfl, rfl, rfl, rfl⟩, fun f s hw => ?_, fun f s hw => ?_,
    fun sl f s hw => ?_, fun s => ?_, fun f s hw => ?_, fun f s hw => ?_⟩
  · rw [imm32_toNat]
    exact if_pos hw
  · refine ⟨{ s with me := { s.me with ctl := .halts } }, if_pos hw, rfl, fun sp => ?_⟩
    obtain ⟨x, hx, hlife, hred⟩ := Room.advance_halts (r := { s.me with ctl := .halts }) sp rfl
    obtain ⟨hflife, hfred, -⟩ := Room.finish_aside x
    rw [hx, hflife, hfred]
    exact ⟨hlife, hred⟩
  · rw [imm32_toNat]
    exact ⟨fun h32 hc => exec_mfs hw (if_neg (by simp [h32])) (noClash_destS hc _),
      fun h64 hc => exec_mfs hw (if_pos h64) (noClash_destA hc _)⟩
  · simp only [List.forall_mem_cons, List.not_mem_nil, false_implies, implies_true, and_true]
    refine ⟨?_, ?_, ?_, ?_⟩
    · exact ⟨⟨rfl, rfl⟩, ⟨rfl, rfl⟩, ⟨rfl, rfl⟩, ⟨rfl, rfl⟩, ⟨rfl, rfl⟩, ⟨rfl, rfl⟩, ⟨rfl, rfl⟩, ⟨rfl, rfl⟩, ⟨rfl, rfl⟩,
        ⟨rfl, rfl⟩, ⟨rfl, rfl⟩, ⟨rfl, rfl⟩, ⟨rfl, rfl⟩, ⟨rfl, rfl⟩⟩
    · exact ⟨⟨rfl, rfl⟩, ⟨rfl, rfl⟩, ⟨rfl, rfl⟩⟩
    · intro i; fin_cases i <;> exact ⟨rfl, rfl⟩
    · exact ⟨rfl, rfl, rfl, rfl, rfl, rfl, rfl, rfl, rfl, rfl⟩
  · rw [imm32_toNat]
    dsimp only
    rw [← fxRm_eq]
    exact ⟨exec_mts_badMode hw, fun hrm => ⟨_, exec_mts hw hrm, rfl, fun hs hl hctl sp =>
      Room.queueSys_registers sp hs hctl hl⟩⟩
  · exact ⟨{ s with me := s.me.queueSys 0x021 (s.me.ctx.readS f.a) }, if_pos hw, rfl, fun hs hctl sp =>
      Room.queueSys_repc sp hs hctl⟩

end Sys2Proof.Machine
end

section
/-! PROOFS. What an S-slot instruction that lands one value does, its opcode, and lanes packed in a word (R145, R157, R158, R167,
R171: O14). -/

namespace Sys2Proof.Machine

open Sys2Proof.Claims Sys2Proof.Decode

/-! ### One value landed from an S slot (R157, R158) -/

theorem sameReg_destG (x : LandVal) (d : BitVec 6) (v w : Bool) : sameReg x (destG d v) = sameReg x (destG d w) := by
  cases x <;> rfl

theorem noClash_destG {s : State} {lat : Nat} {d : BitVec 6} {v : Bool} (h : NoClash s lat (destG d v)) (w : Bool) :
    NoClash s lat (destG d w) :=
  h.imp id fun h l hl hd => (sameReg_destG l.val d w v).trans (h l hl hd)

/-- R158: a landing that meets a pending one on its register is SLOT_BUSY. -/
theorem landAt_busy_of_clash {s : State} {slot lat : Nat} {v : LandVal} (r : Raised) (hc : ¬ NoClash s lat v) :
    s.me.ctx.landAt slot lat v r = .error (busy slot) := by
  obtain ⟨hd, hmeet⟩ := not_or.1 hc
  push Not at hmeet
  obtain ⟨l, hl, hdue, hreg⟩ := hmeet
  exact Ctx.landAt_busy r (eq_false_of_ne_true hd) hl hdue (eq_true_of_ne_false hreg)

section
variable {i : Instr} {sl : SSlot} {lat : Nat} {val : Ctx → LandVal} {s : State} {v : LandVal}

/-- The value landed may be given in another form. -/
theorem scalarOp_lands (hw : i.wellFormed = true) (hc : NoClash s lat v) (hv : val s.me.ctx = v := by rfl) :
    scalarOp i sl lat val s = .next (withLanding s (sNum sl) lat v) := by
  obtain ⟨c, hland, hs⟩ := landAt_withLanding (slot := sNum sl) hc
  rw [← hs]
  exact scalarOp_ok hw (hv ▸ hland)

theorem scalarOp_busy (hw : i.wellFormed = true) (hv : val s.me.ctx = v) (hc : ¬ NoClash s lat v) :
    scalarOp i sl lat val s = .next (s.takeTrap (cause 0x03 (sNum sl)) s.me.ctx.pc) := by
  have hland : s.me.ctx.landAt (sNum sl) lat (val s.me.ctx) Raised.none = .error (busy (sNum sl)) :=
    landAt_busy_of_clash _ (hv ▸ hc)
  exact roomOp_trap hw (by rw [hland]; rfl)

end

/-! ### Opcodes (R145, R161) -/

theorem opOf_toNat (w : BitVec 48) : (opOf w).toNat = w.toNat / 2 ^ 40 := by
  have := w.isLt
  simp only [opOf, BitVec.extractLsb'_toNat, Nat.shiftRight_eq_div_pow]
  omega

theorem opcode_of_word {i : Instr} {p : Place} {w : BitVec 48} {n : Nat} (henc : encodeSlot i = some (p, w))
    (hop : opOf w = BitVec.ofNat 8 n) (hn : n < 256) : Opcode i n :=
  ⟨p, w, henc, by rw [← opOf_toNat, hop, BitVec.toNat_ofNat]; exact Nat.mod_eq_of_lt hn⟩

theorem opcode_of_sROp {n : Nat} {c : SSlot → RForm → Instr} (h : sROp n = some c) (hn : n < 256) (sl : SSlot) (f : RForm) :
    Opcode (c sl f) n :=
  opcode_of_word (encodeSlot_of_sROp h sl f) (rOf_rPack _ f).1 hn

theorem opcode_of_sIOp {n : Nat} {c : SSlot → IForm → Instr} (h : sIOp n = some c) (hn : n < 256) (sl : SSlot) (f : IForm) :
    Opcode (c sl f) n :=
  opcode_of_word (encodeSlot_of_sIOp h sl f) (iOf_iPack _ f).1 hn

/-! ### The fields that R160 asks to be zero -/

theorem legalArith_iff {f : RForm} : legalArith f = true ↔ f.fn = 0 ∧ f.gi = 0 ∧ f.gn = 0 := by
  simp only [legalArith, rNoGuard, Bool.and_eq_true, beq_iff_eq]

theorem legalUnary_iff {f : RForm} :
    legalUnary f = true ↔ f.fn = 0 ∧ f.gi = 0 ∧ f.gn = 0 ∧ f.b = 0 ∧ f.mb = 0 ∧ f.tb = 0 := by
  simp only [legalUnary, rNoB, Bool.and_eq_true, beq_iff_eq, legalArith_iff, and_assoc]

theorem legalW_iff {f : RForm} : legalW f = true ↔ f.sh = 0 ∧ f.fn = 0 ∧ f.gi = 0 ∧ f.gn = 0 := by
  simp only [legalW, Bool.and_eq_true, beq_iff_eq, legalArith_iff, and_comm]

/-! ### Lanes of a word (R52, R167) -/

theorem laneWidth_pos (sh : BitVec 2) : 0 < laneWidth sh := by decide +revert

theorem laneWidth_mul_laneCount (sh : BitVec 2) : laneWidth sh * laneCount sh = 32 := by decide +revert

theorem laneOf_lt (n x j : Nat) : laneOf n x j < 2 ^ n := Nat.mod_lt _ (Nat.two_pow_pos n)

theorem laneOf_packLanes (n : Nat) (l : List Nat) (j : Nat) : laneOf n (packLanes n l) j = l.getD j 0 % 2 ^ n := by
  induction l generalizing j with
  | nil => simp [packLanes, laneOf]
  | cons x l ih =>
    have hlow : x % 2 ^ n < 2 ^ n := Nat.mod_lt _ (Nat.two_pow_pos n)
    cases j with
    | zero => simp [packLanes, laneOf]
    | succ j =>
      have hrest : packLanes n (x :: l) / 2 ^ n = packLanes n l := by
        simp [packLanes, Nat.add_mul_div_left, Nat.div_eq_of_lt hlow]
      rw [List.getD_cons_succ, ← ih j]
      simp only [laneOf, Nat.shiftRight_eq_div_pow, Nat.mul_succ, Nat.add_comm (n * j) n, Nat.pow_add,
        ← Nat.div_div_eq_div_mul, hrest]

theorem packLanes_lt (n : Nat) (l : List Nat) : packLanes n l < 2 ^ (n * l.length) := by
  induction l with
  | nil => simp [packLanes]
  | cons x l ih =>
    have hlow : x % 2 ^ n < 2 ^ n := Nat.mod_lt _ (Nat.two_pow_pos n)
    calc packLanes n (x :: l)
      _ < 2 ^ n + 2 ^ n * packLanes n l := Nat.add_lt_add_right hlow _
      _ = 2 ^ n * (packLanes n l + 1) := by ring
      _ ≤ 2 ^ n * 2 ^ (n * l.length) := Nat.mul_le_mul_left _ ih
      _ = 2 ^ (n * (x :: l).length) := by rw [← Nat.pow_add, List.length_cons, Nat.mul_succ, Nat.add_comm]

theorem laneOf_packedWord {n : Nat} {l : List Nat} (hl : n * l.length = 32) (j : Nat) :
    laneOf n (BitVec.ofNat 32 (packLanes n l)).toNat j = l.getD j 0 % 2 ^ n := by
  rw [BitVec.toNat_ofNat, Nat.mod_eq_of_lt (hl ▸ packLanes_lt n l), laneOf_packLanes]

/-- A function of lanes computes values modulo 2^n: the lanes of its word are those values. -/
theorem lanes_laneMap2 {sh : BitVec 2} {fn : Nat → Nat → Nat → Nat} {val : Nat → Nat → Int} (x y : Word)
    (h : ∀ a b, a < 2 ^ laneWidth sh → b < 2 ^ laneWidth sh →
      fn (laneWidth sh) a b % 2 ^ laneWidth sh = wrapTo (laneWidth sh) (val a b)) :
    Lanes sh (laneMap2 sh fn x y) fun j => val (lane sh x j) (lane sh y j) := by
  intro j hj
  refine (laneOf_packedWord (by simp [laneWidth_mul_laneCount]) j).trans ?_
  simpa [hj, lane] using h (lane sh x j) (lane sh y j) (laneOf_lt _ _ _) (laneOf_lt _ _ _)

/-! ### Values modulo 2^n -/

/-- A natural and an integer congruent modulo 2^n give one lane. -/
theorem mod_eq_wrapTo {n x : Nat} {y : Int} (h : (x : Int) ≡ y [ZMOD ((2 ^ n : Nat) : Int)]) : x % 2 ^ n = wrapTo n y := by
  unfold wrapTo
  rw [← h.eq, ← Int.natCast_mod, Int.toNat_natCast]

theorem wrapTo_modEq (n : Nat) (y : Int) : (wrapTo n y : Int) ≡ y [ZMOD ((2 ^ n : Nat) : Int)] := by
  have hpos : ((2 ^ n : Nat) : Int) ≠ 0 := by positivity
  rw [wrapTo, Int.toNat_of_nonneg (Int.emod_nonneg _ hpos)]
  exact Int.mod_modEq _ _

theorem wrapTo_mod (n : Nat) (y : Int) : wrapTo n y % 2 ^ n = wrapTo n y := mod_eq_wrapTo (wrapTo_modEq n y)

/-- SignExt leaves a value modulo 2^n what it was. -/
theorem modEq_sext {n : Nat} (hn : 0 < n) (a : Nat) : (a : Int) ≡ sext a n [ZMOD ((2 ^ n : Nat) : Int)] := by
  have hmod : (a : Int) ≡ ((a % 2 ^ n : Nat) : Int) [ZMOD ((2 ^ n : Nat) : Int)] := by
    rw [Int.natCast_mod]
    exact (Int.mod_modEq _ _).symm
  refine hmod.trans ?_
  unfold sext
  rw [if_neg hn.ne']
  split
  · exact Int.ModEq.refl _
  · exact (Int.sub_modulus_modEq_iff.2 (Int.ModEq.refl _)).symm

end Sys2Proof.Machine
end

section
/-! PROOFS. Packed arithmetic, logic and shifts (R158, R167, R171, R172: O14, O15). -/

namespace Sys2Proof.Machine

open Sys2Proof.Claims Sys2Proof.Decode

/-! ### What each lane function computes modulo 2^n (R171, R172) -/

/-- A lane function gives the values of a row modulo 2^n. -/
def LaneValue (fn : Nat → Nat → Nat → Nat) (val : Nat → Nat → Nat → Int) : Prop :=
  ∀ n a b, 0 < n → a < 2 ^ n → b < 2 ^ n → fn n a b % 2 ^ n = wrapTo n (val n a b)

/-- A lane function that gives the value itself. -/
theorem laneValue_of_eq {fn : Nat → Nat → Nat → Nat} {val : Nat → Nat → Nat → Int}
    (h : ∀ n a b, a < 2 ^ n → b < 2 ^ n → (fn n a b : Int) = val n a b) : LaneValue fn val :=
  fun n a b _ ha hb => mod_eq_wrapTo (h n a b ha hb ▸ Int.ModEq.refl _)

/-- A lane function that reduces the value itself. -/
theorem laneValue_wrapTo (val : Nat → Nat → Nat → Int) : LaneValue (fun n a b => wrapTo n (val n a b)) val :=
  fun n _ _ _ _ _ => wrapTo_mod n _

theorem cast_two_pow_sub_one (n : Nat) : ((2 ^ n - 1 : Nat) : Int) = (2 ^ n : Nat) - 1 := by
  have := Nat.two_pow_pos n
  omega

theorem laneValue_lnSub : LaneValue lnSub fun _ a b => (a : Int) - b := by
  intro n a b _ _ hb
  refine mod_eq_wrapTo ?_
  rw [lnSub, Nat.cast_sub (by omega), Nat.cast_add, add_sub_right_comm]
  exact Int.add_modulus_modEq_iff.2 (Int.ModEq.refl _)

theorem laneValue_lnNeg : LaneValue lnNeg fun _ a _ => -(a : Int) := by
  intro n a b _ ha _
  refine mod_eq_wrapTo ?_
  rw [lnNeg, Nat.cast_sub ha.le, sub_eq_neg_add]
  exact Int.add_modulus_modEq_iff.2 (Int.ModEq.refl _)

theorem laneValue_lnMin : LaneValue lnMin fun n a b => minI (sext a n) (sext b n) := by
  intro n a b hn _ _
  refine mod_eq_wrapTo ?_
  dsimp only [lnMin, minI]
  split
  · rw [if_neg (not_lt.2 ‹_›)]; exact modEq_sext hn a
  · rw [if_pos (not_le.1 ‹_›)]; exact modEq_sext hn b

theorem laneValue_lnMax : LaneValue lnMax fun n a b => maxI (sext a n) (sext b n) := by
  intro n a b hn _ _
  refine mod_eq_wrapTo ?_
  dsimp only [lnMax, maxI]
  rcases lt_trichotomy (sext a n) (sext b n) with h | h | h
  · rw [if_pos h.le, if_pos h]; exact modEq_sext hn b
  · rw [if_pos h.le, if_neg h.not_lt, h]; exact modEq_sext hn b
  · rw [if_neg h.not_ge, if_neg h.not_gt]; exact modEq_sext hn a

theorem lnMinu_eq (n a b : Nat) : (lnMinu n a b : Int) = minI a b := by unfold lnMinu minI; split <;> omega

theorem lnMaxu_eq (n a b : Nat) : (lnMaxu n a b : Int) = maxI a b := by unfold lnMaxu maxI; split <;> omega

theorem lnAddus_eq (n a b : Nat) : (lnAddus n a b : Int) = clampI ((a : Int) + b) 0 ((2 ^ n : Nat) - 1) := by
  have := cast_two_pow_sub_one n
  unfold lnAddus clampI
  split <;> [omega; split <;> omega]

theorem lnSubus_eq {n a b : Nat} (ha : a < 2 ^ n) : (lnSubus n a b : Int) = clampI ((a : Int) - b) 0 ((2 ^ n : Nat) - 1) := by
  unfold lnSubus clampI
  split <;> [omega; split <;> omega]

theorem lnAbs_eq (n a b : Nat) : (lnAbs n a b : Int) = maxI (sext a n) (-(sext a n)) := by
  unfold lnAbs maxI
  split <;> omega

theorem lnMulhu_eq (n a b : Nat) : (lnMulhu n a b : Int) = highHalf n ((a : Int) * b) := by
  simp only [lnMulhu, highHalf, Int.natCast_ediv, Nat.cast_mul]

theorem lnShl_eq (n a b : Nat) : (lnShl n a b : Int) = (a : Int) * (2 ^ (b % n) : Nat) := by
  rw [lnShl, Nat.shiftLeft_eq, Nat.cast_mul]

theorem lnShr_eq (n a b : Nat) : (lnShr n a b : Int) = (a : Int) / (2 ^ (b % n) : Nat) := by
  rw [lnShr, Nat.shiftRight_eq_div_pow, Int.natCast_ediv]

/-- A row of R171 or R172 is executed lane by lane, by a function that gives its values. -/
theorem exec_laneRow : ∀ row ∈ laneArith ++ laneShift, ∃ fn, LaneValue fn row.val ∧
    ∀ sl f s, exec (row.op sl f) s = laneOp (row.op sl f) sl f row.lat fn s := by
  simp only [laneArith, laneShift, List.cons_append, List.nil_append, List.forall_mem_cons, List.not_mem_nil, false_implies,
    implies_true, and_true]
  refine ⟨⟨lnAdd, ?_, fun _ _ _ => rfl⟩, ⟨lnSub, laneValue_lnSub, fun _ _ _ => rfl⟩, ⟨lnMul, ?_, fun _ _ _ => rfl⟩,
    ⟨lnMulh, laneValue_wrapTo _, fun _ _ _ => rfl⟩, ⟨lnMulhu, ?_, fun _ _ _ => rfl⟩,
    ⟨lnMin, laneValue_lnMin, fun _ _ _ => rfl⟩, ⟨lnMax, laneValue_lnMax, fun _ _ _ => rfl⟩,
    ⟨lnMinu, ?_, fun _ _ _ => rfl⟩, ⟨lnMaxu, ?_, fun _ _ _ => rfl⟩,
    ⟨lnAdds, laneValue_wrapTo _, fun _ _ _ => rfl⟩, ⟨lnAddus, ?_, fun _ _ _ => rfl⟩,
    ⟨lnSubs, laneValue_wrapTo _, fun _ _ _ => rfl⟩, ⟨lnSubus, ?_, fun _ _ _ => rfl⟩,
    ⟨lnAbs, ?_, fun _ _ _ => rfl⟩, ⟨lnNeg, laneValue_lnNeg, fun _ _ _ => rfl⟩,
    ⟨lnShl, ?_, fun _ _ _ => rfl⟩, ⟨lnShr, ?_, fun _ _ _ => rfl⟩, ⟨lnSar, laneValue_wrapTo _, fun _ _ _ => rfl⟩⟩
  case refine_1 => exact laneValue_of_eq fun _ a b _ _ => Nat.cast_add a b
  case refine_2 => exact laneValue_of_eq fun _ a b _ _ => Nat.cast_mul a b
  case refine_3 => exact laneValue_of_eq fun n a b _ _ => lnMulhu_eq n a b
  case refine_4 => exact laneValue_of_eq fun n a b _ _ => lnMinu_eq n a b
  case refine_5 => exact laneValue_of_eq fun n a b _ _ => lnMaxu_eq n a b
  case refine_6 => exact laneValue_of_eq fun n a b _ _ => lnAddus_eq n a b
  case refine_7 => exact laneValue_of_eq fun _ _ _ ha _ => lnSubus_eq ha
  case refine_8 => exact laneValue_of_eq fun n a b _ _ => lnAbs_eq n a b
  case refine_9 => exact laneValue_of_eq fun n a b _ _ => lnShl_eq n a b
  case refine_10 => exact laneValue_of_eq fun n a b _ _ => lnShr_eq n a b

/-- The row's opcode stands in the R map. -/
theorem sROp_laneRow : ∀ row ∈ laneArith ++ laneShift, sROp row.code = some row.op ∧ row.code < 256 := by
  simp only [laneArith, laneShift, List.cons_append, List.nil_append, List.forall_mem_cons, List.not_mem_nil, false_implies,
    implies_true, and_true]
  exact ⟨⟨rfl, by decide⟩, ⟨rfl, by decide⟩, ⟨rfl, by decide⟩, ⟨rfl, by decide⟩, ⟨rfl, by decide⟩, ⟨rfl, by decide⟩,
    ⟨rfl, by decide⟩, ⟨rfl, by decide⟩, ⟨rfl, by decide⟩, ⟨rfl, by decide⟩, ⟨rfl, by decide⟩, ⟨rfl, by decide⟩,
    ⟨rfl, by decide⟩, ⟨rfl, by decide⟩, ⟨rfl, by decide⟩, ⟨rfl, by decide⟩, ⟨rfl, by decide⟩, ⟨rfl, by decide⟩⟩

theorem opcode_laneRow {row : LaneRow} (h : row ∈ laneArith ++ laneShift) (sl : SSlot) (f : RForm) :
    Opcode (row.op sl f) row.code :=
  opcode_of_sROp (sROp_laneRow row h).1 (sROp_laneRow row h).2 sl f

/-- Of the rows of R171 the last two have no second source. -/
theorem wellFormed_laneArith : ∀ row ∈ laneArith, ∀ (sl : SSlot) (f : RForm), (row.op sl f).wellFormed = true ↔
    f.fn = 0 ∧ f.gi = 0 ∧ f.gn = 0 ∧ (0x0E ≤ row.code → f.b = 0 ∧ f.mb = 0 ∧ f.tb = 0) := by
  have two {i : Instr} {f : RForm} {code : Nat} (h : i.wellFormed = legalArith f) (hc : code < 0x0E) :
      i.wellFormed = true ↔ f.fn = 0 ∧ f.gi = 0 ∧ f.gn = 0 ∧ (0x0E ≤ code → f.b = 0 ∧ f.mb = 0 ∧ f.tb = 0) := by
    rw [h, legalArith_iff]
    simp only [Nat.not_le.2 hc, false_implies, and_true]
  have one {i : Instr} {f : RForm} {code : Nat} (h : i.wellFormed = legalUnary f) (hc : 0x0E ≤ code) :
      i.wellFormed = true ↔ f.fn = 0 ∧ f.gi = 0 ∧ f.gn = 0 ∧ (0x0E ≤ code → f.b = 0 ∧ f.mb = 0 ∧ f.tb = 0) := by
    rw [h, legalUnary_iff]
    simp only [hc, true_implies]
  simp only [laneArith, List.forall_mem_cons, List.not_mem_nil, false_implies, implies_true, and_true]
  exact ⟨fun _ _ => two rfl (by decide), fun _ _ => two rfl (by decide), fun _ _ => two rfl (by decide),
    fun _ _ => two rfl (by decide), fun _ _ => two rfl (by decide), fun _ _ => two rfl (by decide),
    fun _ _ => two rfl (by decide), fun _ _ => two rfl (by decide), fun _ _ => two rfl (by decide),
    fun _ _ => two rfl (by decide), fun _ _ => two rfl (by decide), fun _ _ => two rfl (by decide),
    fun _ _ => two rfl (by decide), fun _ _ => one rfl (by decide), fun _ _ => one rfl (by decide)⟩

/-! ### What a lane instruction does -/

/-- A lane instruction lands the word whose lanes are its row's values. -/
theorem laneOp_lands {i : Instr} {sl : SSlot} {f : RForm} {lat : Nat} {fn : Nat → Nat → Nat → Nat}
    {val : Nat → Nat → Nat → Int} {s : State} (hfn : LaneValue fn val) (hw : i.wellFormed = true)
    (hc : NoClash s lat (destS s.me.ctx f.d 0)) :
    ∃ v : Word, Lanes f.sh v (fun j => val (laneWidth f.sh) (lane f.sh (s.me.ctx.opA f) j) (lane f.sh (s.me.ctx.opB f) j)) ∧
      laneOp i sl f lat fn s = .next (withLanding s (sNum sl) lat (destS s.me.ctx f.d v)) :=
  ⟨laneMap2 f.sh fn (s.me.ctx.opA f) (s.me.ctx.opB f),
    lanes_laneMap2 _ _ fun a b ha hb => hfn _ a b (laneWidth_pos _) ha hb, scalarOp_lands hw (noClash_destS hc _)⟩

theorem laneOp_busy {i : Instr} {sl : SSlot} {f : RForm} {lat : Nat} {fn : Nat → Nat → Nat → Nat} {s : State}
    (hw : i.wellFormed = true) (hc : ¬ NoClash s lat (destS s.me.ctx f.d 0)) :
    laneOp i sl f lat fn s = .next (s.takeTrap (cause 0x03 (sNum sl)) s.me.ctx.pc) :=
  scalarOp_busy hw rfl fun h => hc (noClash_destS h 0)

theorem exec_laneRow_lands {row : LaneRow} (h : row ∈ laneArith ++ laneShift) {sl : SSlot} {f : RForm} {s : State}
    (hw : (row.op sl f).wellFormed = true) (hc : NoClash s row.lat (destS s.me.ctx f.d 0)) :
    ∃ v : Word, Lanes f.sh v (fun j => row.val (laneWidth f.sh) (lane f.sh (s.me.ctx.opA f) j)
        (lane f.sh (s.me.ctx.opB f) j)) ∧
      exec (row.op sl f) s = .next (withLanding s (sNum sl) row.lat (destS s.me.ctx f.d v)) := by
  obtain ⟨fn, hfn, hexec⟩ := exec_laneRow row h
  rw [hexec]
  exact laneOp_lands hfn hw hc

/-- Settles O14: each row by its lane function, which gives its values modulo 2^n. -/
theorem laneArithmetic : Obligations.LaneArithmetic := by
  unfold Obligations.LaneArithmetic
  refine ⟨fun row hrow sl f => ?_, fun row hrow sl f s hw hc => ?_⟩
  · have hmem : row ∈ laneArith ++ laneShift := List.mem_append_left _ hrow
    exact ⟨opcode_laneRow hmem sl f, wellFormed_laneArith row hrow sl f, fun s hw hc => exec_laneRow_lands hmem hw hc⟩
  · obtain ⟨fn, -, hexec⟩ := exec_laneRow row hrow
    rw [hexec]
    exact laneOp_busy hw hc

/-! ### Bits of a lane (R172) -/

/-- The zero bits above the highest one bit, n of them for a zero lane. -/
theorem clzN_spec {n x : Nat} (h : x < 2 ^ n) :
    clzN n x ≤ n ∧ x < 2 ^ (n - clzN n x) ∧ (clzN n x < n → 2 ^ (n - clzN n x - 1) ≤ x) := by
  induction n with
  | zero => exact ⟨le_rfl, h, nofun⟩
  | succ n ih =>
    unfold clzN
    by_cases hx : x < 2 ^ n
    · obtain ⟨hle, hlt, hge⟩ := ih hx
      rw [Nat.testBit_lt_two_pow hx, if_neg Bool.false_ne_true, Nat.add_comm 1, Nat.add_sub_add_right]
      exact ⟨Nat.succ_le_succ hle, hlt, fun h => hge (Nat.lt_of_succ_lt_succ h)⟩
    · have hge : 2 ^ n ≤ x := Nat.not_lt.1 hx
      rw [Nat.testBit_of_two_pow_le_and_two_pow_add_one_gt hge h, if_pos rfl]
      exact ⟨Nat.zero_le _, h, fun _ => hge⟩

theorem popc_eq_countP (n x : Nat) : popc n x = (List.range n).countP fun b => x.testBit b := by
  induction n with
  | zero => rfl
  | succ n ih =>
    rw [popc, ih, List.range_succ, List.countP_append, List.countP_singleton, Nat.add_comm]
    rfl

theorem laneValue_lnClz : LaneValue lnClz fun n a _ => (clzN n a : Nat) := laneValue_of_eq fun _ _ _ _ _ => rfl

theorem laneValue_lnPopc : LaneValue lnPopc fun n a _ => ((List.range n).countP fun b => a.testBit b : Nat) :=
  laneValue_of_eq fun n a _ _ _ => congrArg Nat.cast (popc_eq_countP n a)

/-! ### Logic on words (R172) -/

/-- A row of logic lands the word that it forms bit by bit. -/
theorem exec_logicRow : ∀ row ∈ logicRows, ∃ fn : Word → Word → Word,
    (∀ x y j, j < 32 → (fn x y).getLsbD j = row.bit (x.getLsbD j) (y.getLsbD j)) ∧
    ∀ sl f s, exec (row.op sl f) s = scalarOp (row.op sl f) sl 1 (fun c => destS c f.d (fn (c.opA f) (c.opB f))) s := by
  simp only [logicRows, List.forall_mem_cons, List.not_mem_nil, false_implies, implies_true, and_true]
  refine ⟨⟨fun x y => x &&& y, ?_, fun _ _ _ => rfl⟩, ⟨fun x y => x ||| y, ?_, fun _ _ _ => rfl⟩,
    ⟨fun x y => x ^^^ y, ?_, fun _ _ _ => rfl⟩, ⟨fun x y => x &&& ~~~y, ?_, fun _ _ _ => rfl⟩⟩
  · exact fun x y j _ => BitVec.getLsbD_and
  · exact fun x y j _ => BitVec.getLsbD_or
  · exact fun x y j _ => BitVec.getLsbD_xor
  · intro x y j hj
    simp only [BitVec.getLsbD_and, BitVec.getLsbD_not, hj, decide_true, Bool.true_and]

theorem sROp_logicRow : ∀ row ∈ logicRows, sROp row.code = some row.op ∧ row.code < 256 := by
  simp only [logicRows, List.forall_mem_cons, List.not_mem_nil, false_implies, implies_true, and_true]
  exact ⟨⟨rfl, by decide⟩, ⟨rfl, by decide⟩, ⟨rfl, by decide⟩, ⟨rfl, by decide⟩⟩

theorem wellFormed_logicRow : ∀ row ∈ logicRows, ∀ (sl : SSlot) (f : RForm),
    (row.op sl f).wellFormed = true ↔ f.sh = 0 ∧ f.fn = 0 ∧ f.gi = 0 ∧ f.gn = 0 := by
  simp only [logicRows, List.forall_mem_cons, List.not_mem_nil, false_implies, implies_true, and_true]
  exact ⟨fun _ _ => legalW_iff, fun _ _ => legalW_iff, fun _ _ => legalW_iff, fun _ _ => legalW_iff⟩

theorem wellFormed_laneShift : ∀ row ∈ laneShift, ∀ (sl : SSlot) (f : RForm),
    (row.op sl f).wellFormed = true ↔ f.fn = 0 ∧ f.gi = 0 ∧ f.gn = 0 := by
  simp only [laneShift, List.forall_mem_cons, List.not_mem_nil, false_implies, implies_true, and_true]
  exact ⟨fun _ _ => legalArith_iff, fun _ _ => legalArith_iff, fun _ _ => legalArith_iff⟩

theorem lat_laneShift : ∀ row ∈ laneShift, row.lat = 1 := by
  simp only [laneShift, List.forall_mem_cons, List.not_mem_nil, false_implies, implies_true, and_true]

/-- Settles O15: logic bit by bit, shifts by their lane functions, `clz` and `popc` by the laws of their counts. -/
theorem logicAndShifts : Obligations.LogicAndShifts := by
  unfold Obligations.LogicAndShifts
  refine ⟨fun row hrow sl f => ?_, fun row hrow sl f => ?_, ?_, fun sl f s hw hc => ?_, fun sl f s hw hc => ?_⟩
  · obtain ⟨hop, hlt⟩ := sROp_logicRow row hrow
    obtain ⟨fn, hfn, hexec⟩ := exec_logicRow row hrow
    refine ⟨opcode_of_sROp hop hlt sl f, wellFormed_logicRow row hrow sl f, fun s hw hc =>
      ⟨fn (s.me.ctx.opA f) (s.me.ctx.opB f), hfn _ _, ?_⟩⟩
    rw [hexec]
    exact scalarOp_lands hw (noClash_destS hc _)
  · have hmem : row ∈ laneArith ++ laneShift := List.mem_append_right _ hrow
    refine ⟨opcode_laneRow hmem sl f, wellFormed_laneShift row hrow sl f, fun s hw hc => ?_⟩
    rw [← lat_laneShift row hrow] at hc ⊢
    exact exec_laneRow_lands hmem hw hc
  · rintro op code (⟨rfl, rfl⟩ | ⟨rfl, rfl⟩) sl f
    · exact ⟨opcode_of_sROp rfl (by decide) sl f, legalUnary_iff⟩
    · exact ⟨opcode_of_sROp rfl (by decide) sl f, legalUnary_iff⟩
  · obtain ⟨v, hv, hexec⟩ := laneOp_lands (sl := sl) laneValue_lnClz hw hc
    exact ⟨v, fun j => clzN (laneWidth f.sh) (lane f.sh (s.me.ctx.opA f) j), hv,
      fun j _ => clzN_spec (laneOf_lt _ _ _), hexec⟩
  · exact laneOp_lands laneValue_lnPopc hw hc

end Sys2Proof.Machine
end

section
/-! PROOFS. Bit fields, immediate forms, compares, guards, selects and addresses (R144, R152, R173 to R180: O16 to O20). -/

namespace Sys2Proof.Machine

open Sys2Proof.Claims Sys2Proof.Decode

/-! ### Bit fields (R173, R174) -/

/-- SignExt is the signed reading of the low n bits. -/
theorem sext_eq_toInt (x n : Nat) : sext x n = (BitVec.ofNat n x).toInt := by
  cases n with
  | zero => rw [sext, if_pos rfl, BitVec.of_length_zero (x := BitVec.ofNat 0 x)]; rfl
  | succ n =>
    have hpow : (2 : Nat) ^ (n + 1) = 2 * 2 ^ n := Nat.pow_succ'
    simp only [sext, BitVec.toInt, BitVec.toNat_ofNat, Nat.add_sub_cancel, Nat.succ_ne_zero, if_false]
    split <;> split <;> omega

theorem fieldOf_eq (y : Word) : fieldOf y = (fieldPos y, fieldLen y) := by
  have hlt := Nat.mod_lt y.toNat (by decide : 0 < 32)
  simp only [fieldOf, fieldPos, fieldLen, bitsOf, Nat.shiftRight_eq_div_pow, Prod.mk.injEq]
  constructor
  · omega
  · split <;> omega

theorem fieldLen_pos (y : Word) : 0 < fieldLen y := by
  have hlt := Nat.mod_lt y.toNat (by decide : 0 < 32)
  unfold fieldLen fieldPos
  omega

theorem testBit_bitsOf {x lo len : Nat} (hlen : 0 < len) (j : Nat) :
    (bitsOf x (lo + len - 1) lo).testBit j = (decide (j < len) && x.testBit (lo + j)) := by
  rw [bitsOf, Nat.testBit_mod_two_pow, Nat.testBit_shiftRight, show lo + len - 1 + 1 - lo = len by omega]

/-- R173: the bits of the extracted field, and above them zeros or copies of its highest bit. -/
theorem getLsbD_bextVal (signed : Bool) (x y : Word) {j : Nat} (hj : j < 32) :
    (bextVal signed x y).getLsbD j =
      if j < fieldLen y then x.getLsbD (fieldPos y + j) else signed && x.getLsbD (fieldPos y + fieldLen y - 1) := by
  have hlen := fieldLen_pos y
  simp only [bextVal, fieldOf_eq]
  cases signed with
  | false =>
    simp only [Bool.false_eq_true, if_false, BitVec.getLsbD_ofNat, testBit_bitsOf hlen, hj, decide_true, Bool.true_and,
      BitVec.testBit_toNat, Bool.false_and]
    split <;> simp [*]
  | true =>
    have hlast : fieldPos y + (fieldLen y - 1) = fieldPos y + fieldLen y - 1 := by omega
    have hsign : BitVec.ofInt 32 (sext (bitsOf x.toNat (fieldPos y + fieldLen y - 1) (fieldPos y)) (fieldLen y)) =
        (BitVec.ofNat (fieldLen y) (bitsOf x.toNat (fieldPos y + fieldLen y - 1) (fieldPos y))).signExtend 32 := by
      rw [sext_eq_toInt]
      rfl
    rw [if_pos rfl, hsign, BitVec.getLsbD_signExtend, BitVec.msb_eq_getLsbD_last]
    simp only [BitVec.getLsbD_ofNat, testBit_bitsOf hlen, hj, decide_true, Bool.true_and, BitVec.testBit_toNat,
      Nat.sub_lt hlen Nat.one_pos, hlast]
    split <;> simp [*]

/-- R173: the low bits of OpA inside the field, the old destination outside of it. -/
theorem getLsbD_binsVal (old x y : Word) {j : Nat} (hj : j < 32) :
    (binsVal old x y).getLsbD j =
      if fieldPos y ≤ j ∧ j < fieldPos y + fieldLen y then x.getLsbD (j - fieldPos y) else old.getLsbD j := by
  have hmask : (BitVec.ofNat 32 ((2 ^ fieldLen y - 1) <<< fieldPos y)).getLsbD j =
      decide (fieldPos y ≤ j ∧ j < fieldPos y + fieldLen y) := by
    simp only [BitVec.getLsbD_ofNat, Nat.testBit_shiftLeft, Nat.testBit_two_pow_sub_one, hj, decide_true, Bool.true_and,
      ← Bool.decide_and, decide_eq_decide]
    omega
  simp only [binsVal, fieldOf_eq, BitVec.getLsbD_or, BitVec.getLsbD_and, BitVec.getLsbD_not, hmask,
    BitVec.getLsbD_shiftLeft, hj, decide_true, Bool.true_and]
  split
  · next h => simp [h, Nat.not_lt.2 h.1]
  · next h => simp [h]

/-- R174: OpA holds source bytes 0 to 3 and the old destination bytes 4 to 7. -/
theorem toNat_append_word (old x : Word) : (old ++ x).toNat = x.toNat + old.toNat * 2 ^ 32 := by
  rw [BitVec.toNat_append, ← Nat.shiftLeft_add_eq_or_of_lt x.isLt, Nat.shiftLeft_eq, Nat.add_comm]

theorem extractLsb'_eq_laneOf {w : Nat} (v : BitVec w) (n k : Nat) :
    (v.extractLsb' (n * k) n).toNat = laneOf n v.toNat k := BitVec.extractLsb'_toNat ..

/-- A selector of four bits whose highest is set is 8 or more. -/
theorem getLsbD_three_iff (c : BitVec 4) : c.getLsbD 3 = true ↔ 8 ≤ c.toNat := by decide +revert

theorem extractLsb'_bpermVal (old x y : Word) {k : Nat} (hk : k < 4) : let c := y.extractLsb' (4 * k) 4
    (bpermVal old x y).extractLsb' (8 * k) 8 =
      if c.getLsbD 3 then 0 else (old ++ x).extractLsb' (8 * (c.toNat % 8)) 8 := by
  intro c
  have hc : bitsOf y.toNat (4 * k + 3) (4 * k) = c.toNat := by
    rw [bitsOf, show 4 * k + 3 + 1 - 4 * k = 4 by omega]
    exact (BitVec.extractLsb'_toNat ..).symm
  clear_value c
  apply BitVec.eq_of_toNat_eq
  rw [extractLsb'_eq_laneOf, bpermVal, laneOf_packedWord (by simp)]
  simp only [List.getD_eq_getElem?_getD, List.getElem?_map, List.getElem?_range hk, Option.map_some, Option.getD_some, hc,
    getLsbD_three_iff]
  split
  · rfl
  · rw [extractLsb'_eq_laneOf, toNat_append_word, Nat.mod_eq_of_lt (laneOf_lt _ _ _)]

theorem legalBext_iff {f : RForm} : legalBext f = true ↔ f.sh = 0 ∧ f.fn.toNat < 2 ∧ f.gi = 0 ∧ f.gn = 0 := by
  simp only [legalBext, rNoGuard, Bool.and_eq_true, beq_iff_eq, decide_eq_true_eq, and_assoc, and_left_comm]

/-- Settles O16: each instruction by the law of its value. -/
theorem bitFields : Obligations.BitFields := by
  unfold Obligations.BitFields
  refine ⟨fun sl f => ?_, fun sl f s hw hc => ?_, fun sl f s hw hc => ?_, fun sl f s hw hc => ?_⟩
  · exact ⟨opcode_of_sROp rfl (by decide) sl f, opcode_of_sROp rfl (by decide) sl f, opcode_of_sROp rfl (by decide) sl f,
      legalBext_iff, legalW_iff, legalW_iff⟩
  · unfold exec execBext
    exact ⟨_, fun _ hj => getLsbD_bextVal _ _ _ hj, scalarOp_lands hw (noClash_destS hc _)⟩
  · unfold exec execBins
    exact ⟨_, fun _ hj => getLsbD_binsVal _ _ _ hj, scalarOp_lands hw (noClash_destS hc _)⟩
  · unfold exec execBperm
    exact ⟨_, fun _ hk => extractLsb'_bpermVal _ _ _ hk, scalarOp_lands hw (noClash_destS hc _)⟩

/-! ### Immediate forms (R144, R175) -/

theorem immS_eq (i : Imm) : immS i = imm32 true i := by
  cases i with
  | short v => rfl
  | long v => exact v.signExtend_eq_setWidth_of_le (by decide)

theorem immN_eq (i : Imm) : immN i = imm32 false i := by
  rw [immN, ← imm32_toNat, BitVec.ofNat_toNat, BitVec.setWidth_eq]

theorem legalImm_iff {f : IForm} : legalImm f = true ↔ f.sh = 0 ∧ f.fn = 0 ∧ f.gi = 0 ∧ f.gn = 0 := by
  simp only [legalImm, iNoGuard, Bool.and_eq_true, beq_iff_eq, and_assoc]

theorem legalImmCompare_iff {f : IForm} :
    legalImmCompare f = true ↔ f.sh = 0 ∧ f.fn = 0 ∧ f.gi = 0 ∧ f.gn = 0 ∧ f.d.toNat < 8 := by
  simp only [legalImmCompare, Bool.and_eq_true, legalImm_iff, decide_eq_true_eq, and_assoc]

theorem legalShiftImm_iff {f : IForm} : legalShiftImm f = true ↔
    f.fn = 0 ∧ f.gi = 0 ∧ f.gn = 0 ∧ (imm32 false f.imm).toNat < laneWidth f.sh := by
  simp only [legalShiftImm, iNoGuard, Bool.and_eq_true, beq_iff_eq, decide_eq_true_eq, imm32_toNat, and_assoc]

/-- What R175 says of a row of arithmetic: its opcode, what R160 asks of it, and its result. -/
theorem exec_immRow : ∀ row ∈ immRows, sIOp row.code = some row.op ∧ row.code < 256 ∧
    (∀ sl f, (row.op sl f).wellFormed = legalImm f) ∧
    ∀ sl f s, exec (row.op sl f) s =
      scalarOp (row.op sl f) sl 1 (fun c => destS c f.d (row.val (c.opAI f) (imm32 row.signed f.imm))) s := by
  simp only [immRows, List.forall_mem_cons, List.not_mem_nil, false_implies, implies_true, and_true, ← immS_eq, ← immN_eq]
  exact ⟨⟨rfl, by decide, fun _ _ => rfl, fun _ _ _ => rfl⟩, ⟨rfl, by decide, fun _ _ => rfl, fun _ _ _ => rfl⟩,
    ⟨rfl, by decide, fun _ _ => rfl, fun _ _ _ => rfl⟩, ⟨rfl, by decide, fun _ _ => rfl, fun _ _ _ => rfl⟩⟩

theorem laneValue_lnShl : LaneValue lnShl fun n a b => (a : Int) * (2 ^ (b % n) : Nat) :=
  laneValue_of_eq fun n a b _ _ => lnShl_eq n a b

theorem laneValue_lnShr : LaneValue lnShr fun n a b => (a : Int) / (2 ^ (b % n) : Nat) :=
  laneValue_of_eq fun n a b _ _ => lnShr_eq n a b

/-- What R175 says of a shift by an immediate, which is less than the lane width. -/
theorem exec_immShiftRow : ∀ row ∈ immShiftRows, sIOp row.code = some row.op ∧ row.code < 256 ∧
    (∀ sl f, (row.op sl f).wellFormed = legalShiftImm f) ∧
    ∃ fn, LaneValue fn (fun n a b => row.val n a (b % n)) ∧
      ∀ sl f s, exec (row.op sl f) s = shiftImmOp (row.op sl f) sl f fn s := by
  simp only [immShiftRows, List.forall_mem_cons, List.not_mem_nil, false_implies, implies_true, and_true]
  exact ⟨⟨rfl, by decide, fun _ _ => rfl, lnShl, laneValue_lnShl, fun _ _ _ => rfl⟩,
    ⟨rfl, by decide, fun _ _ => rfl, lnShr, laneValue_lnShr, fun _ _ _ => rfl⟩,
    ⟨rfl, by decide, fun _ _ => rfl, lnSar, laneValue_wrapTo _, fun _ _ _ => rfl⟩⟩

theorem exec_immCompareRow : ∀ row ∈ immCompareRows, sIOp row.code = some row.op ∧ row.code < 256 ∧
    (∀ sl f, (row.op sl f).wellFormed = legalImmCompare f) ∧
    ∃ rel : Word → Word → Bool, (∀ x y, rel x y = true ↔ row.rel x y) ∧ ∀ sl f s, exec (row.op sl f) s =
      scalarOp (row.op sl f) sl 1 (fun c => destG f.d (rel (c.opAI f) (imm32 row.signed f.imm))) s := by
  simp only [immCompareRows, List.forall_mem_cons, List.not_mem_nil, false_implies, implies_true, and_true, ← immS_eq,
    ← immN_eq]
  exact ⟨⟨rfl, by decide, fun _ _ => rfl, fun x y => x == y, fun _ _ => beq_iff_eq, fun _ _ _ => rfl⟩,
    ⟨rfl, by decide, fun _ _ => rfl, fun x y => x.slt y, fun _ _ => BitVec.slt_iff_toInt_lt, fun _ _ _ => rfl⟩,
    ⟨rfl, by decide, fun _ _ => rfl, fun x y => x.ult y, fun _ _ => BitVec.ult_iff_lt, fun _ _ _ => rfl⟩⟩

/-- Settles O17: each row by what R175 says of it. -/
theorem immediateForms : Obligations.ImmediateForms := by
  unfold Obligations.ImmediateForms
  refine ⟨fun row hrow sl f => ?_, fun row hrow sl f => ?_, fun row hrow sl f => ?_⟩
  · obtain ⟨hop, hlt, hwf, hexec⟩ := exec_immRow row hrow
    refine ⟨opcode_of_sIOp hop hlt sl f, by rw [hwf, legalImm_iff], fun s hw hc => ?_⟩
    rw [hexec]
    exact scalarOp_lands hw (noClash_destS hc _)
  · obtain ⟨hop, hlt, hwf, fn, hfn, hexec⟩ := exec_immShiftRow row hrow
    refine ⟨opcode_of_sIOp hop hlt sl f, by rw [hwf, legalShiftImm_iff], fun s hw hc =>
      ⟨laneMap2 f.sh (fun n a _ => fn n a (immNat f.imm)) (s.me.ctx.opAI f) 0, ?_, ?_⟩⟩
    · have himm : immNat f.imm < laneWidth f.sh := by
        rw [hwf, legalShiftImm_iff, imm32_toNat] at hw
        exact hw.2.2.2
      have hpow : immNat f.imm < 2 ^ laneWidth f.sh := himm.trans Nat.lt_two_pow_self
      rw [imm32_toNat]
      refine lanes_laneMap2 (val := fun a _ => row.val (laneWidth f.sh) a (immNat f.imm)) _ _ fun a _ ha _ => ?_
      refine (hfn _ a _ (laneWidth_pos _) ha hpow).trans ?_
      dsimp only
      rw [Nat.mod_eq_of_lt himm]
    · rw [hexec]
      exact scalarOp_lands hw (noClash_destS hc _)
  · obtain ⟨hop, hlt, hwf, rel, hrel, hexec⟩ := exec_immCompareRow row hrow
    refine ⟨opcode_of_sIOp hop hlt sl f, by rw [hwf, legalImmCompare_iff], fun s hw hc => ⟨_, hrel _ _, ?_⟩⟩
    rw [hexec]
    exact scalarOp_lands hw (noClash_destG hc _)

/-! ### Compares and guards (R177, R178) -/

theorem legalCompare_iff {f : RForm} :
    legalCompare f = true ↔ f.sh = 0 ∧ f.fn = 0 ∧ f.gi = 0 ∧ f.gn = 0 ∧ f.d.toNat < 8 := by
  simp only [legalCompare, Bool.and_eq_true, legalW_iff, decide_eq_true_eq, and_assoc]

theorem legalGuardOp_iff {f : RForm} : legalGuardOp f = true ↔ f.sh = 0 ∧ f.fn.toNat < 8 ∧ f.d.toNat < 8 ∧ f.a.toNat < 8 ∧
    f.b.toNat < 8 ∧ f.ma = 0 ∧ f.mb = 0 ∧ f.gi = 0 ∧ f.gn = 0 := by
  simp only [legalGuardOp, rNoGuard, Bool.and_eq_true, beq_iff_eq, decide_eq_true_eq, and_assoc]

/-- What R177 says of a compare: its opcode, what R160 asks of it, and the relation it lands. -/
theorem exec_compareRow : ∀ row ∈ compareRows, sROp row.code = some row.op ∧ row.code < 256 ∧
    (∀ sl f, (row.op sl f).wellFormed = legalCompare f) ∧
    ∃ rel : Word → Word → Bool, (∀ x y, rel x y = true ↔ row.rel x y) ∧
      ∀ sl f s, exec (row.op sl f) s = compareOp (row.op sl f) sl f rel s := by
  simp only [compareRows, List.forall_mem_cons, List.not_mem_nil, false_implies, implies_true, and_true]
  exact ⟨⟨rfl, by decide, fun _ _ => rfl, fun x y => x == y, fun _ _ => beq_iff_eq, fun _ _ _ => rfl⟩,
    ⟨rfl, by decide, fun _ _ => rfl, fun x y => x != y, fun _ _ => bne_iff_ne, fun _ _ _ => rfl⟩,
    ⟨rfl, by decide, fun _ _ => rfl, fun x y => x.slt y, fun _ _ => BitVec.slt_iff_toInt_lt, fun _ _ _ => rfl⟩,
    ⟨rfl, by decide, fun _ _ => rfl, fun x y => x.sle y, fun _ _ => BitVec.sle_iff_toInt_le, fun _ _ _ => rfl⟩,
    ⟨rfl, by decide, fun _ _ => rfl, fun x y => x.ult y, fun _ _ => BitVec.ult_iff_lt, fun _ _ _ => rfl⟩,
    ⟨rfl, by decide, fun _ _ => rfl, fun x y => x.ule y, fun _ _ => BitVec.ule_iff_le, fun _ _ _ => rfl⟩⟩

theorem guardVal_eq (op : Bool → Bool → Bool) (c : Ctx) (f : RForm) : guardVal op c f =
    xor (op (xor (c.readG f.a.toNat) (f.fn.getLsbD 0)) (xor (c.readG f.b.toNat) (f.fn.getLsbD 1))) (f.fn.getLsbD 2) := by
  simp only [guardVal, Bool.bne_eq_xor]

/-- Settles O18: each compare by its relation, and the guard logic by the law of its value. -/
theorem comparesAndGuards : Obligations.ComparesAndGuards := by
  unfold Obligations.ComparesAndGuards
  refine ⟨fun row hrow sl f => ?_, ?_, fun sl f s hc => ⟨fun hw => ?_, fun hw => ?_⟩⟩
  · obtain ⟨hop, hlt, hwf, rel, hrel, hexec⟩ := exec_compareRow row hrow
    refine ⟨opcode_of_sROp hop hlt sl f, by rw [hwf, legalCompare_iff], fun s hw hc => ⟨_, hrel _ _, ?_⟩⟩
    rw [hexec]
    exact scalarOp_lands hw (noClash_destG hc _)
  · rintro op code (⟨rfl, rfl⟩ | ⟨rfl, rfl⟩) sl f
    · exact ⟨opcode_of_sROp rfl (by decide) sl f, legalGuardOp_iff⟩
    · exact ⟨opcode_of_sROp rfl (by decide) sl f, legalGuardOp_iff⟩
  · unfold exec execGand
    exact scalarOp_lands hw (noClash_destG hc _) (congrArg (destG f.d) (guardVal_eq _ _ f))
  · unfold exec execGor
    exact scalarOp_lands hw (noClash_destG hc _) (congrArg (destG f.d) (guardVal_eq _ _ f))

/-! ### The high immediate, selects and addresses (R176, R179, R180) -/

theorem append_zero12_eq (x : BitVec 20) : x ++ (0 : BitVec 12) = BitVec.ofNat 32 (x.toNat * 2 ^ 12) := by
  apply BitVec.eq_of_toNat_eq
  have := x.isLt
  rw [BitVec.toNat_append, BitVec.toNat_ofNat, Nat.shiftLeft_eq]
  simp
  omega

/-- Settles O19: the word of the manual's example decodes as O3 says. -/
theorem setHigh : Obligations.SetHigh := by
  unfold Obligations.SetHigh
  refine ⟨fun sl f => ⟨opcode_of_word rfl (uOf_uPack _ f).1 (by decide), rfl, fun s hc => ?_⟩, decodeKnownWords.1⟩
  unfold exec execSeth
  exact scalarOp_lands rfl (noClash_destS hc _) (congrArg (destS s.me.ctx f.d) (append_zero12_eq f.imm))

theorem legalSel_iff {f : RForm} : legalSel f = true ↔ f.sh = 0 ∧ f.fn = 0 ∧ f.b = 0 ∧ f.mb = 0 ∧ f.tb = 0 := by
  simp only [legalSel, rNoB, Bool.and_eq_true, beq_iff_eq, and_assoc]

theorem legalAadd_iff {f : RForm} : legalAadd f = true ↔ f.d.toNat < 16 ∧ f.a.toNat < 16 ∧ f.sh = 0 ∧ f.ma = 0 ∧
    f.gi = 0 ∧ f.gn = 0 ∧ f.fn.getLsbD 2 = false ∧ (f.fn.getLsbD 3 = true → f.a = 0 ∧ f.ta = 0) := by
  simp only [legalAadd, rNoGuard, Bool.and_eq_true, Bool.or_eq_true, Bool.not_eq_true', beq_iff_eq, decide_eq_true_eq,
    and_assoc, ← Bool.not_eq_true, imp_iff_not_or]

theorem legalAaddi_iff {f : IForm} : legalAaddi f = true ↔ f.d.toNat < 16 ∧ f.a.toNat < 16 ∧ f.sh = 0 ∧ f.ma = 0 ∧
    f.gi = 0 ∧ f.gn = 0 ∧ (f.fn = 0 ∨ f.fn = 8 ∧ f.a = 0 ∧ f.ta = 0) := by
  simp only [legalAaddi, iNoGuard, Bool.and_eq_true, Bool.or_eq_true, beq_iff_eq, decide_eq_true_eq, and_assoc]

/-- R152, R179: with its guard false `sel` makes no landing. -/
theorem execSel_eq {sl : SSlot} {f : RForm} {s : State} (hw : (Instr.sel sl f).wellFormed = true)
    (hc : NoClash s 1 (destS s.me.ctx f.d 0)) : execSel sl f s = .next (if s.me.ctx.guard f.gi f.gn then
      withLanding s (sNum sl) 1 (destS s.me.ctx f.d (s.me.ctx.opA f)) else s) := by
  split
  · next hg =>
    obtain ⟨c, hland, hs⟩ := landAt_withLanding (slot := sNum sl) (noClash_destS hc (s.me.ctx.opA f))
    rw [← hs]
    exact roomOp_ok hw ((if_pos hg).trans (by rw [hland]))
  · next hg => exact roomOp_ok hw (if_neg hg)

/-- R180: OpB, sign-extended and scaled, added to the base. -/
theorem aadd_value (base : DWord) (x : Word) (k : Nat) :
    base + (x.signExtend 64 <<< k) = BitVec.ofInt 64 ((base.toNat : Int) + x.toInt * (2 ^ k : Nat)) := by
  have hscale : BitVec.twoPow 64 k = BitVec.ofInt 64 (2 ^ k : Nat) := by
    rw [BitVec.ofInt_natCast]
    exact BitVec.eq_of_toNat_eq (by simp [BitVec.toNat_twoPow])
  rw [BitVec.ofInt_add, BitVec.ofInt_mul, BitVec.ofInt_natCast, BitVec.ofNat_toNat, BitVec.setWidth_eq, ← hscale,
    BitVec.shiftLeft_eq_mul_twoPow]
  rfl

theorem execAadd_value (c : Ctx) (f : RForm) :
    baseOf c (f.fn.getLsbD 3) f.a + ((c.opB f).signExtend 64 <<< (f.fn.toNat % 4)) = BitVec.ofInt 64
      ((if f.fn.getLsbD 3 then 0 else (c.readA f.a.toNat).toNat) + (c.opB f).toInt * (2 ^ (f.fn.toNat % 4) : Nat)) := by
  rw [aadd_value]
  unfold baseOf
  split <;> rfl

theorem addrPlus_immSigned (base : DWord) (i : Imm) : addrPlus base (immSigned i) = base + imm64 i := by cases i <;> rfl

/-- Settles O20: the guarded move by its guard, and the sums by the laws of their values. -/
theorem selectAndAddresses : Obligations.SelectAndAddresses := by
  unfold Obligations.SelectAndAddresses
  refine ⟨fun sl f => ?_, fun sl f => ?_, fun sl f s hw hc => execSel_eq hw hc, fun sl f s hw hc => ?_,
    fun sl f s hw hc => ?_⟩
  · exact ⟨opcode_of_sROp rfl (by decide) sl f, opcode_of_sROp rfl (by decide) sl f, legalSel_iff, legalAadd_iff⟩
  · exact ⟨opcode_of_sIOp rfl (by decide) sl f, legalAaddi_iff⟩
  · unfold exec execAadd
    exact scalarOp_lands hw (noClash_destA hc _) (congrArg (destA f.d) (execAadd_value _ f))
  · unfold exec execAaddi
    exact scalarOp_lands hw (noClash_destA hc _) (congrArg (destA f.d) (addrPlus_immSigned _ _))

end Sys2Proof.Machine
end

section
/-! PROOFS. The scalar floating-point instructions (R56, R57, R185 to R187: O21). -/

namespace Sys2Proof.Machine

open Sys2Proof.Claims

/-- A result with flags lands where no landing of its register is pending, and on s0 or g0 its flags alone (R157, R168). -/
theorem fpOp_lands {i : Instr} {sl : SSlot} {lat : Nat} {val : Ctx → LandVal × Fl} {s : State} (hw : i.wellFormed = true)
    (hc : NoClash s lat (val s.me.ctx).1) : fpOp i sl lat val s =
      .next (withLandings s (landsOf s (sNum sl) lat (val s.me.ctx).1 (Raised.of1 0 (val s.me.ctx).2))) := by
  have hland := Ctx.landAt_landsOf (s := s) (sNum sl) lat (Raised.of1 0 (val s.me.ctx).2) rfl hc
  exact roomOp_ok hw (by dsimp only; rw [hland])

/-- A row of R185 rounds the exact value of its operands once. -/
theorem exec_floatRow : ∀ row ∈ floatRows, ∀ sl f s, exec (row.op sl f) s = f32Arith (row.op sl f) sl f row.lat row.val s := by
  simp only [floatRows, List.forall_mem_cons, List.not_mem_nil, false_implies, implies_true, and_true]
  exact ⟨fun _ _ _ => rfl, fun _ _ _ => rfl, fun _ _ _ => rfl, fun _ _ _ => rfl⟩

/-- R187: the conversion that a code names. -/
theorem fcvtCode_of_mem {b bits : Nat} {src dst : Fmt}
    (h : (b, src, bits, dst) ∈
      [(0, fp32, 32, Fmt.int true 32), (1, fp32, 32, Fmt.int false 32), (2, Fmt.int true 32, 32, fp32),
       (3, Fmt.int false 32, 32, fp32), (4, fp32, 32, fp16), (5, fp16, 16, fp32), (6, fp32, 32, bf16), (7, bf16, 16, fp32)]) :
    fcvtCode b = (src, bits, dst) := by
  simp only [List.mem_cons, List.not_mem_nil, or_false, Prod.mk.injEq] at h
  obtain ⟨rfl, rfl, rfl, rfl⟩ | ⟨rfl, rfl, rfl, rfl⟩ | ⟨rfl, rfl, rfl, rfl⟩ | ⟨rfl, rfl, rfl, rfl⟩ | ⟨rfl, rfl, rfl, rfl⟩ |
    ⟨rfl, rfl, rfl, rfl⟩ | ⟨rfl, rfl, rfl, rfl⟩ | ⟨rfl, rfl, rfl, rfl⟩ := h <;> rfl

/-- Settles O21: each instruction by the law of a result with flags. -/
theorem scalarFloat : Obligations.ScalarFloat := by
  unfold Obligations.ScalarFloat
  refine ⟨fun row hrow sl f s hw hc => ?_, fun sl f s hw hc => ?_, fun sl f s hw hc src bits dst hcode => ?_⟩
  · rw [exec_floatRow row hrow]
    exact fpOp_lands hw (noClash_destS hc _)
  · unfold exec execFcmp
    exact fpOp_lands hw (noClash_destG hc _)
  · intro z v fl
    show execFcvt sl f s = _
    unfold execFcvt
    rw [fcvtCode_of_mem hcode]
    exact fpOp_lands hw (noClash_destS hc _)

end Sys2Proof.Machine
end

section
/-! PROOFS. Loads and stores of the S slots (R96, R100, R101, R105, R158, R159, R181 to R184: O23, O24, O25). -/

namespace Sys2Proof.Machine

open Sys2Proof.Claims

/-! ### The location of an access (R100, R101, R182) -/

theorem effective_eq (s : State) (f : IForm) : effective s.me.ctx f = ea s f :=
  congrArg BitVec.toNat (addrPlus_immSigned _ f.imm)

theorem atticOvf_blocks (w : DWord) : bitsOf w.toNat 59 52 = w.toNat / 2 ^ 52 % 256 := by
  rw [bitsOf, Nat.shiftRight_eq_div_pow]
  rfl

theorem Room.attic_inside {r : Room} {t : Nat} (h : t < r.atticSize.toNat % 2 ^ 25) :
    r.attic t = .inside (r.atticBase.toNat % 2 ^ 25 + t) := if_pos h

theorem Room.attic_over {r : Room} {t : Nat} (h : r.atticSize.toNat % 2 ^ 25 ≤ t)
    (ho : t < r.atticSize.toNat % 2 ^ 25 + 65536 * (r.atticOvf.toNat / 2 ^ 52 % 256)) :
    r.attic t = .over (t - r.atticSize.toNat % 2 ^ 25) := by
  rw [← atticOvf_blocks] at ho
  exact (if_neg (Nat.not_lt.2 h)).trans (if_pos ho)

theorem Room.attic_beyond {r : Room} {t : Nat}
    (h : r.atticSize.toNat % 2 ^ 25 + 65536 * (r.atticOvf.toNat / 2 ^ 52 % 256) ≤ t) : r.attic t = .beyond := by
  rw [← atticOvf_blocks] at h
  exact (if_neg (Nat.not_lt.2 (Nat.le_of_add_right_le h))).trans (if_neg (Nat.not_lt.2 h))

section
variable {s : State} {f : IForm} {size : Nat} (slot : Nat) (write : Bool)

/-- Where an aligned access of a partition address goes. -/
theorem resolve_partition (h : ea s f % size = 0) {a : Nat} (ha : PartitionAt s f a) :
    s.me.resolve slot 0 write (isAttic f) (ea s f) size =
      if s.me.spSize < a + size then .error (escapes slot)
      else if s.me.ctx.footprint.allows 0 write { lo := a, hi := (a + size : Nat) - 1 } then .ok (.inside a)
      else .error (escapes slot) := by
  unfold Room.resolve
  obtain ⟨hattic, rfl⟩ | ⟨hattic, hlt, rfl⟩ := ha
  · simp only [h, hattic, bne_self_eq_false, Bool.false_eq_true, if_false]
  · simp only [h, hattic, bne_self_eq_false, Bool.false_eq_true, if_false, if_true, Room.attic_inside hlt]

theorem resolve_inside (h : ea s f % size = 0) {a : Nat} (ha : PartitionAt s f a) (hm : MayTouch s write a size) :
    s.me.resolve slot 0 write (isAttic f) (ea s f) size = .ok (.inside a) := by
  rw [resolve_partition slot write h ha, if_neg (Nat.not_lt.2 hm.1), if_pos hm.2]

theorem resolve_escapes (h : ea s f % size = 0) {a : Nat} (ha : PartitionAt s f a) (hm : ¬ MayTouch s write a size) :
    s.me.resolve slot 0 write (isAttic f) (ea s f) size = .error (escapes slot) := by
  rw [resolve_partition slot write h ha]
  split
  · rfl
  · next hin => exact if_neg fun hfoot => hm ⟨Nat.not_lt.1 hin, hfoot⟩

theorem resolve_over (h : ea s f % size = 0) {o : Nat} (ho : OverflowAt s f o) :
    s.me.resolve slot 0 write (isAttic f) (ea s f) size = .ok (.over o) := by
  obtain ⟨hattic, hle, rfl, hlt⟩ := ho
  unfold Room.resolve
  simp only [h, hattic, bne_self_eq_false, Bool.false_eq_true, if_false, if_true, Room.attic_over hle (by omega)]

theorem resolve_beyond (h : ea s f % size = 0) (hattic : isAttic f = true)
    (hb : s.me.atticSize.toNat % 2 ^ 25 + 65536 * (s.me.atticOvf.toNat / 2 ^ 52 % 256) ≤ ea s f) :
    s.me.resolve slot 0 write (isAttic f) (ea s f) size = .error (atticOut slot) := by
  unfold Room.resolve
  simp only [h, hattic, bne_self_eq_false, Bool.false_eq_true, if_false, if_true, Room.attic_beyond hb]

theorem resolve_misaligned (h : ea s f % size ≠ 0) :
    s.me.resolve slot 0 write (isAttic f) (ea s f) size = .error (misaligned slot) := if_pos (bne_iff_ne.2 h)

end

/-! ### What an access of the engine port changes (R96, R396) -/

/-- A room that differs in its port accesses and the causes due alone. -/
def Accessed (r t : Room) : Prop := ∃ p d, t = { r with ports := p, ctx := { r.ctx with due := d } }

/-- The room after an access, with some landings more pending. -/
def Room.accessed (r : Room) (p : List PortUse) (e : List Cause) (l : List Landing) : Room :=
  { r with ports := p, ctx := { r.ctx with due := e, landings := r.ctx.landings ++ l } }

theorem Accessed.refl (r : Room) : Accessed r r := ⟨_, _, rfl⟩

theorem Accessed.trans {r t u : Room} (h : Accessed r t) (h' : Accessed t u) : Accessed r u := by
  obtain ⟨p, d, rfl⟩ := h
  obtain ⟨p', d', rfl⟩ := h'
  exact ⟨p', d', rfl⟩

theorem Room.claim_accessed (r : Room) (lost : Bool) (u : PortUse) : Accessed r (r.claim lost u).1 := by
  unfold Room.claim
  split
  · dsimp only
    split
    · exact .refl r
    · exact ⟨_, _, rfl⟩
  · dsimp only
    split
    · exact .refl r
    · exact ⟨_, _, rfl⟩

theorem Room.watchHits_accessed (r : Room) (slot : Nat) (write : Bool) (addrs : List Nat) :
    Accessed r (r.watchHits slot write addrs) := by
  obtain ⟨d, hd⟩ := watchHits_due r slot write addrs
  exact ⟨_, d, hd⟩

/-- With no line missing an access changes nothing else. -/
theorem Room.engAccess_accessed {r : Room} {addrs : List Nat} (h : r.missOf addrs = none) (slot c0 : Nat)
    (lost write : Bool) : Accessed r (r.engAccess slot c0 lost write addrs).1 := by
  have claims {f : Room × List Nat → Nat → Room × List Nat} (hf : ∀ x w, Accessed x.1 (f x w).1) (l : List Nat)
      (x : Room × List Nat) : Accessed x.1 (l.foldl f x).1 := by
    induction l generalizing x with
    | nil => exact .refl _
    | cons w l ih => exact (hf x w).trans (ih _)
  have hmiss : Accessed r (match r.miss with | some _ => r | none => { r with miss := r.missOf addrs }) := by
    split
    · exact .refl r
    · next hnone =>
      rw [h, ← hnone]
      exact .refl r
  exact (hmiss.trans (claims (fun x w => Room.claim_accessed _ _ _) _ _)).trans (Room.watchHits_accessed _ _ _ _)

/-! ### The landings of a load (R157, R158, R181) -/

/-- Landings that meet no other and do not meet among themselves are all made. -/
theorem Ctx.landAll_ok {s : State} {c : Ctx} (slot lat : Nat) {vs : List LandVal} (hic : c.ic = s.me.ctx.ic)
    (hc : ∀ v ∈ vs, discarded v = true ∨ ∀ l ∈ c.landings, l.due = c.ic + lat → sameReg l.val v = false)
    (hp : vs.Pairwise fun v w => sameReg v w = false) :
    c.landAll slot lat vs = .ok { c with landings := c.landings ++ pends s slot lat vs } := by
  induction vs generalizing c with
  | nil => simp [Ctx.landAll, pends]
  | cons v vs ih =>
    obtain ⟨hv, hp⟩ := List.pairwise_cons.1 hp
    have hone := Ctx.landAt_landsOf (s := s) slot lat Raised.none hic (hc v List.mem_cons_self)
    have hrest : ∀ w ∈ vs, discarded w = true ∨ ∀ l ∈ c.landings ++ landsOf s slot lat v Raised.none,
        l.due = c.ic + lat → sameReg l.val w = false := fun w hw =>
      (hc w (List.mem_cons_of_mem _ hw)).imp id fun h l hl hd => by
        rcases List.mem_append.1 hl with hl | hl
        · exact h l hl hd
        · rcases val_of_mem_landsOf hl with hval | hval <;> rw [hval]
          · exact hv w hw
          · rfl
    have hpends : landsOf s slot lat v Raised.none ++ pends s slot lat vs = pends s slot lat (v :: vs) := by
      cases hd : discarded v <;> simp [landsOf, pends, hd]
    rw [Ctx.landAll, hone]
    dsimp only
    rw [ih (c := { c with landings := c.landings ++ landsOf s slot lat v Raised.none }) hic hrest hp]
    simp only [List.append_assoc, hpends]

/-- What a load lands: values on registers that the value read does not change, that differ from one another, and on which no
landing is pending at its time. -/
structure Lands (mk : Ctx → Nat → List LandVal) (s : State) : Prop where
  noClash : ∀ n, ∀ v ∈ mk s.me.ctx n, NoClash s 3 v
  apart : ∀ n, (mk s.me.ctx n).Pairwise fun v w => sameReg v w = false

/-- They are all made, whatever causes the access made due. -/
theorem Lands.landAll {mk : Ctx → Nat → List LandVal} {s : State} (h : Lands mk s) (slot n : Nat) (e : List Cause) :
    Ctx.landAll { s.me.ctx with due := e } slot 3 (mk s.me.ctx n) =
      .ok { s.me.ctx with due := e, landings := s.me.ctx.landings ++ pends s slot 3 (mk s.me.ctx n) } :=
  Ctx.landAll_ok slot 3 rfl (h.noClash n) (h.apart n)

/-- What R181 says of a load: its instruction lands the values of the row. -/
def LoadLaw (row : LoadRow) (mk : IForm → Ctx → Nat → List LandVal) : Prop :=
  (∀ sl f s, exec (row.op sl f) s = loadOp (row.op sl f) sl f row.size (mk f) s) ∧
  (∀ f c n, n < 256 ^ row.size → mk f c n = row.lands c f n) ∧
  ∀ f (s : State), (∀ v ∈ row.lands s.me.ctx f 0, NoClash s 3 v) → Lands (mk f) s

theorem lands_word {s : State} {d : BitVec 6} {v : Word} {val : Nat → Word}
    (h : ∀ x ∈ [destS s.me.ctx d v], NoClash s 3 x) : Lands (fun c n => [destS c d (val n)]) s where
  noClash _ := List.forall_mem_singleton.2 (noClash_destS (List.forall_mem_singleton.1 h) _)
  apart _ := List.pairwise_singleton _ _

theorem lands_pair {s : State} {d : BitVec 6} {v w : Word} {lo hi : Nat → Word}
    (h : ∀ x ∈ [destS s.me.ctx d v, destS s.me.ctx (nextS d) w], NoClash s 3 x) :
    Lands (fun c n => [destS c d (lo n), destS c (nextS d) (hi n)]) s where
  noClash _ := by
    simp only [List.forall_mem_cons, List.not_mem_nil, false_implies, implies_true, and_true] at h ⊢
    exact ⟨noClash_destS h.1 _, noClash_destS h.2 _⟩
  apart _ := List.pairwise_pair.2 (beq_false_of_ne (sPhys_nextS_ne _ _))

theorem lands_address {s : State} {d : BitVec 6} {v : DWord} {val : Nat → DWord} (h : ∀ x ∈ [destA d v], NoClash s 3 x) :
    Lands (fun _ n => [destA d (val n)]) s where
  noClash _ := List.forall_mem_singleton.2 (noClash_destA (List.forall_mem_singleton.1 h) _)
  apart _ := List.pairwise_singleton _ _

theorem lands_descriptor {s : State} (d : BitVec 5) {val : Nat → DescWord} : Lands (fun _ n => [.d d (val n)]) s where
  noClash _ := List.forall_mem_singleton.2 (.inr fun l _ _ => by cases l.val <;> rfl)
  apart _ := List.pairwise_singleton _ _

theorem sext_signExtend (v n : Nat) : BitVec.ofInt 32 (sext v n) = (BitVec.ofNat n v).signExtend 32 := by
  rw [sext_eq_toInt]
  rfl

theorem ofNat_zeroExtend {v n : Nat} (h : v < 2 ^ n) : BitVec.ofNat 32 v = (BitVec.ofNat n v).zeroExtend 32 :=
  BitVec.eq_of_toNat_eq (by simp [Nat.mod_eq_of_lt h])

theorem exec_loadRow : ∀ row ∈ loadRows, ∃ mk, LoadLaw row mk := by
  simp only [loadRows, List.forall_mem_cons, List.not_mem_nil, false_implies, implies_true, and_true]
  exact ⟨⟨fun f c v => [destS c f.d (BitVec.ofInt 32 (sext v 8))], fun _ _ _ => rfl,
      fun f c v _ => congrArg (fun w => [destS c f.d w]) (sext_signExtend v 8), fun _ _ => lands_word⟩,
    ⟨fun f c v => [destS c f.d (BitVec.ofNat 32 v)], fun _ _ _ => rfl,
      fun f c _ hv => congrArg (fun w => [destS c f.d w]) (ofNat_zeroExtend hv), fun _ _ => lands_word⟩,
    ⟨fun f c v => [destS c f.d (BitVec.ofInt 32 (sext v 16))], fun _ _ _ => rfl,
      fun f c v _ => congrArg (fun w => [destS c f.d w]) (sext_signExtend v 16), fun _ _ => lands_word⟩,
    ⟨fun f c v => [destS c f.d (BitVec.ofNat 32 v)], fun _ _ _ => rfl,
      fun f c _ hv => congrArg (fun w => [destS c f.d w]) (ofNat_zeroExtend hv), fun _ _ => lands_word⟩,
    ⟨fun f c v => [destS c f.d (BitVec.ofNat 32 v)], fun _ _ _ => rfl, fun _ _ _ _ => rfl, fun _ _ => lands_word⟩,
    ⟨fun f c v => [destS c f.d (BitVec.ofNat 32 v), destS c (nextS f.d) (BitVec.ofNat 32 (v / 2 ^ 32))],
      fun _ _ _ => rfl, fun _ _ _ _ => rfl, fun _ _ => lands_pair⟩,
    ⟨fun f _ v => [destA f.d (BitVec.ofNat 64 v)], fun _ _ _ => rfl, fun _ _ _ _ => rfl, fun _ _ => lands_address⟩,
    ⟨fun f _ v => [.d (f.d.truncate 5) (BitVec.ofNat 128 v)], fun _ _ _ => rfl, fun _ _ _ _ => rfl,
      fun _ _ _ => lands_descriptor _⟩⟩

/-! ### What a load does -/

theorem fromBytes_lt (bs : List Byte) : fromBytes bs < 256 ^ bs.length := by
  induction bs with
  | nil => exact Nat.one_pos
  | cons b bs ih =>
    have hb := b.isLt
    simp only [fromBytes, List.length_cons, Nat.pow_succ]
    omega

theorem readNat_lt (m : List Host.Cell) (a n : Nat) : Memory.readNat m a n < 256 ^ n := by
  simpa [Memory.readNat, Memory.read] using fromBytes_lt (Memory.read m a n)

theorem Room.overBytes_length {r : Room} {o n : Nat} {bs : List Byte} (h : r.overBytes o n = some bs) : bs.length ≤ n := by
  unfold Room.overBytes at h
  split at h
  · cases h
    exact List.length_take_le _ _
  · cases h

section
variable {i : Instr} {sl : SSlot} {f : IForm} {size : Nat} {mk : Ctx → Nat → List LandVal} {s : State}
  (hw : i.wellFormed = true) (hmk : Lands mk s)
include hw hmk

/-- R158, R159: a load's landings are looked at before its location. -/
theorem loadOp_fault {k : Cause} (hres : s.me.resolve (sNum sl) 0 false (isAttic f) (ea s f) size = .error k) :
    loadOp i sl f size mk s = .next (s.takeTrap k s.me.ctx.pc) := by
  rw [← effective_eq] at hres
  refine roomOp_trap hw ?_
  have hland := hmk.landAll (sNum sl) 0 s.me.ctx.due
  dsimp only [isAttic] at hland hres ⊢
  rw [hland]
  dsimp only
  rw [hres]

/-- R101: a load beyond the attic lands what the resident overflow line holds. -/
theorem loadOp_over {o : Nat} {bs : List Byte}
    (hres : s.me.resolve (sNum sl) 0 false (isAttic f) (ea s f) size = .ok (.over o))
    (hbs : s.me.overBytes o size = some bs) :
    loadOp i sl f size mk s = .next (withLandings s (pends s (sNum sl) 3 (mk s.me.ctx (fromBytes bs)))) := by
  rw [← effective_eq] at hres
  refine roomOp_ok hw ?_
  have hland := hmk.landAll (sNum sl) 0 s.me.ctx.due
  dsimp only [isAttic] at hland hres ⊢
  rw [hland]
  dsimp only
  rw [hres]
  dsimp only
  rw [hbs]
  have hval := hmk.landAll (sNum sl) (fromBytes bs) s.me.ctx.due
  dsimp only at hval ⊢
  rw [hval]

/-- A load in the partition makes one access, and what it reads lands. -/
theorem loadOp_inside {a : Nat} (hres : s.me.resolve (sNum sl) 0 false (isAttic f) (ea s f) size = .ok (.inside a))
    (hplace : TakesPlace s (sNum sl) false (span a size)) (hecc : NoErrors s) :
    ∃ t, loadOp i sl f size mk s = .next t ∧ Touched s t ∧ t.me.ctx.landings =
      s.me.ctx.landings ++ pends s (sNum sl) 3 (mk s.me.ctx (Memory.readNat s.me.scratch a size)) := by
  obtain ⟨htaken, hmiss⟩ := hplace
  obtain ⟨p, e, hacc⟩ := Room.engAccess_accessed hmiss (sNum sl) s.me.ctx.ic false false
  have hseen (r : Room) : r.seen (s.coreOf s.me.core) = r := if_pos (by rw [hecc.1]; rfl)
  have hbytes : fromBytes ((span a size).map (Memory.get s.me.scratch)) = Memory.readNat s.me.scratch a size := by
    rw [span, List.map_map]
    rfl
  rw [← effective_eq] at hres
  refine ⟨_, roomOp_ok (r := s.me.accessed p e (pends s (sNum sl) 3 (mk s.me.ctx (Memory.readNat s.me.scratch a size))))
    hw ?_, rfl, rfl⟩
  have hland := hmk.landAll (sNum sl) 0 s.me.ctx.due
  dsimp only [isAttic] at hland hres ⊢
  rw [hland]
  dsimp only
  rw [hres]
  dsimp only
  rw [← span, if_pos htaken, hacc, readChecked_clean _ (clean_of_noErrors hecc), hseen]
  have hval := hmk.landAll (sNum sl) (Memory.readNat s.me.scratch a size) e
  dsimp only at hval ⊢
  rw [if_neg Bool.false_ne_true, hbytes, hval]
  rfl

end

/-- Settles O23: the load's law with where its location lies. -/
theorem loadsComplete : Obligations.LoadsComplete := by
  unfold Obligations.LoadsComplete
  intro row hrow sl f s hw hal hc
  obtain ⟨mk, hexec, hval, hlands⟩ := exec_loadRow row hrow
  have hmk := hlands f s hc
  rw [hexec]
  refine ⟨fun a ha hm hplace hecc => ?_, fun o bs ho hbs => ?_⟩
  · rw [← hval f _ _ (readNat_lt _ _ _)]
    exact loadOp_inside hw hmk (resolve_inside _ _ hal ha hm) hplace hecc
  · have hlt : fromBytes bs < 256 ^ row.size :=
      (fromBytes_lt bs).trans_le (Nat.pow_le_pow_right (by decide) (Room.overBytes_length hbs))
    rw [← hval f _ _ hlt]
    exact loadOp_over hw hmk (resolve_over _ _ hal ho) hbs

/-! ### What a store does (R152, R181, R183) -/

/-- Bytes on their way to the scratchpad or to the overflow area meet no landing of a register. -/
theorem landAt_store (c : Ctx) (slot : Nat) (v : LandVal) (h : ∀ x, sameReg x v = false) (hd : discarded v = false) :
    c.landAt slot 1 v Raised.none = .ok { c with landings := c.landings ++
      [{ due := c.ic + 1, val := v, slot := slot, raised := Raised.none, escape := none }] } :=
  Ctx.landAt_ok Raised.none hd fun l _ _ => h l.val

section
variable {i : Instr} {sl : SSlot} {f : IForm} {size : Nat} {val : Ctx → Nat} {s : State} (hw : i.wellFormed = true)
include hw

theorem storeOp_unguarded (hg : s.me.ctx.guard f.gi f.gn = false) : storeOp i sl f size val s = .next s :=
  roomOp_ok hw (if_pos (by rw [hg]; rfl))

variable (hg : s.me.ctx.guard f.gi f.gn = true)
include hg

theorem storeOp_fault {k : Cause} (hres : s.me.resolve (sNum sl) 0 true (isAttic f) (ea s f) size = .error k) :
    storeOp i sl f size val s = .next (s.takeTrap k s.me.ctx.pc) := by
  rw [← effective_eq] at hres
  refine roomOp_trap hw ?_
  dsimp only [isAttic] at hres ⊢
  rw [hg, hres]
  rfl

theorem storeOp_over {o : Nat} {bs : List Byte}
    (hres : s.me.resolve (sNum sl) 0 true (isAttic f) (ea s f) size = .ok (.over o))
    (hbs : s.me.overBytes o size = some bs) : storeOp i sl f size val s = .next (withLandings s
      [pend s (sNum sl) 1 (.overflow (cellsAt o (toBytes size (val s.me.ctx)))) Raised.none]) := by
  rw [← effective_eq] at hres
  refine roomOp_ok hw ?_
  dsimp only [isAttic] at hres ⊢
  rw [hg, hres]
  dsimp only
  rw [hbs, if_neg (by decide)]
  dsimp only
  rw [landAt_store _ _ _ (fun x => by cases x <;> rfl) rfl]
  rfl

/-- A store in the partition makes one access, and its bytes land at the end of its cycle. -/
theorem storeOp_inside {a : Nat} (hres : s.me.resolve (sNum sl) 0 true (isAttic f) (ea s f) size = .ok (.inside a))
    (hplace : TakesPlace s (sNum sl) true (span a size)) :
    ∃ t, storeOp i sl f size val s = .next t ∧ Touched s t ∧ t.me.ctx.landings = s.me.ctx.landings ++
      [pend s (sNum sl) 1 (.store (cellsAt a (toBytes size (val s.me.ctx)))) Raised.none] := by
  obtain ⟨htaken, hmiss⟩ := hplace
  obtain ⟨p, e, hacc⟩ := Room.engAccess_accessed hmiss (sNum sl) s.me.ctx.ic false true
  rw [← effective_eq] at hres
  refine ⟨_, roomOp_ok (r := s.me.accessed p e
    [pend s (sNum sl) 1 (.store (cellsAt a (toBytes size (val s.me.ctx)))) Raised.none]) hw ?_, rfl, rfl⟩
  dsimp only [isAttic] at hres ⊢
  rw [hg, hres]
  dsimp only
  rw [if_neg (by decide), ← span, if_pos htaken, hacc, landAt_store _ _ _ (fun x => by cases x <;> rfl) rfl]
  rfl

end

/-- What R181 says of a store: the bytes it writes. -/
theorem exec_storeRow : ∀ row ∈ storeRows,
    ∀ sl f s, exec (row.op sl f) s = storeOp (row.op sl f) sl f row.size (fun c => row.val c f) s := by
  have pair (x y : Word) : x.toNat + y.toNat * 2 ^ 32 = x.toNat + 2 ^ 32 * y.toNat := by rw [Nat.mul_comm]
  simp only [storeRows, List.forall_mem_cons, List.not_mem_nil, false_implies, implies_true, and_true, ← pair]
  exact ⟨fun _ _ _ => rfl, fun _ _ _ => rfl, fun _ _ _ => rfl, fun _ _ _ => rfl, fun _ _ _ => rfl, fun _ _ _ => rfl⟩

/-- Settles O24: the store's law with where its location lies. -/
theorem storesComplete : Obligations.StoresComplete := by
  unfold Obligations.StoresComplete
  intro row hrow sl f s hw
  rw [exec_storeRow row hrow]
  exact ⟨storeOp_unguarded hw, fun hg hal =>
    ⟨fun a ha hm hplace => storeOp_inside hw hg (resolve_inside _ _ hal ha hm) hplace,
      fun o bs ho hbs => storeOp_over hw hg (resolve_over _ _ hal ho) hbs⟩⟩

/-- Settles O25: both kinds of access raise what their location gives. -/
theorem addressFaults : Obligations.AddressFaults := by
  unfold Obligations.AddressFaults
  intro op size write hop sl f s hw hg hc
  have fault (k : Cause) (hres : s.me.resolve (sNum sl) 0 write (isAttic f) (ea s f) size = .error k) :
      exec (op sl f) s = .next (s.takeTrap k s.me.ctx.pc) := by
    obtain ⟨row, hrow, rfl, rfl, rfl⟩ | ⟨row, hrow, rfl, rfl, rfl⟩ := hop
    · obtain ⟨mk, hexec, -, hlands⟩ := exec_loadRow row hrow
      rw [hexec]
      exact loadOp_fault hw (hlands f s (hc row hrow rfl)) hres
    · rw [exec_storeRow row hrow]
      exact storeOp_fault hw (hg rfl) hres
  exact ⟨fun hmis => fault _ (resolve_misaligned _ _ hmis), fun hal hattic hb => fault _ (resolve_beyond _ _ hal hattic hb),
    fun hal a ha hm => fault _ (resolve_escapes _ _ hal ha hm)⟩

end Sys2Proof.Machine
end

section
/-! PROOFS. Branches, loops, repeats and the sequencer (R152, R158, R159, R188 to R202: O26, O27, O29). -/

namespace Sys2Proof.Machine

open Sys2Proof.Claims

/-! ### Branches (R188, R189) -/

section
variable {i : Instr} {f : BForm} {target : Ctx → DWord} {pops link : Bool} {s : State} (hw : i.wellFormed = true)
include hw

theorem branchOp_notTaken (hg : s.me.ctx.guard f.gi f.gn = false) : branchOp i f target pops link s = .next s :=
  roomOp_ok hw (if_pos (by rw [hg]; rfl))

variable (hg : s.me.ctx.guard f.gi f.gn = true)
include hg

/-- A link that meets another landing is found before the target is looked at (R159). -/
theorem branchOp_busy (hl : link = true) (hc : ¬ NoClash s 1 (.a 15 0)) :
    branchOp i f target pops link s = .next (s.takeTrap (cause 0x03 0) s.me.ctx.pc) := by
  have hland : s.me.ctx.landAt 0 1 (.a 15 (s.me.ctx.pc + 96)) Raised.none = .error (busy 0) :=
    landAt_busy_of_clash _ fun h => hc (noClash_destA (d := 15) h 0)
  refine roomOp_trap hw ?_
  dsimp only
  rw [hg, if_neg (by decide), if_pos hl, hland]
  rfl

variable {l : List Landing}
  (hlink : (if link then s.me.ctx.landAt 0 1 (.a 15 (s.me.ctx.pc + 96)) Raised.none else .ok s.me.ctx) =
    .ok { s.me.ctx with landings := s.me.ctx.landings ++ l })
include hlink

theorem branchOp_misaligned (ht : (target s.me.ctx).toNat % 32 ≠ 0) :
    branchOp i f target pops link s = .next (s.takeTrap (cause 0x07 0) s.me.ctx.pc) := by
  refine roomOp_trap hw ?_
  dsimp only at hlink ⊢
  rw [hg, if_neg (by decide), hlink]
  exact if_pos (bne_iff_ne.2 ht)

theorem branchOp_taken (ht : (target s.me.ctx).toNat % 32 = 0) :
    branchOp i f target pops link s = .next { s with me := { s.me with ctx := { s.me.ctx with
      redirects := s.me.ctx.redirects ++ [{ due := s.me.ctx.ic + 3, target := target s.me.ctx, pops := pops }]
      landings := s.me.ctx.landings ++ l } } } := by
  refine roomOp_ok hw ?_
  dsimp only at hlink ⊢
  rw [hg, if_neg (by decide), hlink]
  exact if_neg (by rw [ht]; decide)

end

/-- R188: `call` and `callr` land PC + 96 in a15, and the other branches nothing. -/
theorem link_lands {s : State} {link : Bool} (hc : link = true → NoClash s 1 (.a 15 0)) :
    (if link then s.me.ctx.landAt 0 1 (.a 15 (s.me.ctx.pc + 96)) Raised.none else .ok s.me.ctx) =
      .ok { s.me.ctx with landings := s.me.ctx.landings ++
        if link then [pend s 0 1 (.a 15 (s.me.ctx.pc + 96)) Raised.none] else [] } := by
  cases link with
  | false => simp only [Bool.false_eq_true, if_false, List.append_nil]
  | true => exact Ctx.landAt_landsOf (s := s) 0 1 Raised.none rfl (noClash_destA (d := 15) (hc rfl) (s.me.ctx.pc + 96))

theorem exec_branchRow : ∀ row ∈ branchRows,
    ∀ f s, exec (row.op f) s = branchOp (row.op f) f (fun c => row.target c f) row.pops row.links s := by
  simp only [branchRows, List.forall_mem_cons, List.not_mem_nil, false_implies, implies_true, and_true]
  exact ⟨fun _ _ => rfl, fun _ _ => rfl, fun _ _ => rfl, fun _ _ => rfl, fun _ _ => rfl⟩

/-- Settles O26: each row by the laws of a branch. -/
theorem branches : Obligations.Branches := by
  unfold Obligations.Branches
  intro row hrow f s hw
  rw [exec_branchRow row hrow]
  exact ⟨branchOp_notTaken hw, fun hg => branchOp_busy hw hg, fun hg hc =>
    ⟨branchOp_misaligned (target := fun c => row.target c f) (pops := row.pops) hw hg (link_lands hc),
      branchOp_taken (target := fun c => row.target c f) (pops := row.pops) hw hg (link_lands hc)⟩⟩

/-! ### The end of a cycle as the sequencer sees it (R190, R195, R197)

The stores of the cycle and a snapshot leave what the sequencer wrote. -/

/-- What the sequencer and the system-register writes decide at the end of a cycle. -/
def Room.sequenced (r : Room) : DWord × Word × Bool × Word := (r.ctx.pc, r.ctx.repc, r.ctx.repZero, r.ctx.winb)

theorem Room.land_sequenced (r : Room) (l : Landing) : (r.land l).sequenced = r.sequenced := by
  have raised (x : Room) : (if l.raised = Raised.none then x else { x with ctx := x.ctx.raise l.slot l.raised }).sequenced =
      x.sequenced := apply_ite_eq Room.sequenced rfl rfl
  obtain ⟨due, val, slot, flags, escape⟩ := l
  have h1 : (r.land ⟨due, val, slot, Raised.none, none⟩).sequenced = r.sequenced := by
    cases val with
    | bytes cells | store cells => exact (congrArg Room.sequenced (r.markWritten_frame _)).trans rfl
    | tile x => exact (congrArg Room.sequenced (r.landTile_frame x)).trans rfl
    | _ => rfl
  cases escape <;> exact (raised _).trans h1

theorem Room.finish_sequenced (x : Room) : x.finish.sequenced = x.sequenced := by
  have hfold (l : List Landing) (y : Room) : (l.foldl Room.land y).sequenced = y.sequenced := by
    induction l generalizing y with
    | nil => rfl
    | cons z l ih => exact (ih _).trans (y.land_sequenced z)
  have hstores : x.landStores.sequenced = x.sequenced := apply_ite_eq Room.sequenced rfl (hfold _ _)
  unfold Room.finish
  split <;> exact hstores

/-- A room that neither halts nor returns goes on where the sequencer says. -/
theorem Room.advance_sequenced {r : Room} (sp : Bool) (hh : r.ctl ≠ .halts) (hr : ∀ again ended, r.ctl ≠ .returned again ended) :
    (r.advance sp).sequenced = ((r.ctx.seqNext r.ctl).pc, r.sysWritten.repc, r.sysWritten.repZero,
      winbAdd r.sysWritten.winb (r.ctx.rotBy - ((r.ctx.seqNext r.ctl).rots : Int))) := by
  have : ∃ x : Room, r.advance sp = x.finish ∧ x.sequenced = ((r.ctx.seqNext r.ctl).pc, r.sysWritten.repc,
      r.sysWritten.repZero, winbAdd r.sysWritten.winb (r.ctx.rotBy - ((r.ctx.seqNext r.ctl).rots : Int))) := by
    unfold Room.advance Room.sysWritten
    dsimp only
    cases hctl : r.ctl with
    | halts => exact absurd hctl hh
    | returned again ended => exact absurd hctl (hr again ended)
    | none => exact ⟨_, rfl, rfl⟩
    | skip t => exact ⟨_, rfl, rfl⟩
  obtain ⟨x, hx, hseq⟩ := this
  rw [hx, x.finish_sequenced, hseq]

/-! ### What follows a bundle (R190, R191, R194) -/

theorem repRem_eq (w : Word) : repRem w = w.toNat / 2 ^ 16 := by
  have := w.isLt
  simp only [repRem, bitsOf, Nat.shiftRight_eq_div_pow]
  omega

section
variable {c : Ctx} (ctl : Ctl)

theorem Ctx.seqNext_repeats (h : 1 < repRem c.repc) : (c.seqNext ctl).pc = c.pc :=
  congrArg Seq.pc (if_pos h)

variable (h : repRem c.repc ≤ 1)
include h

theorem Ctx.seqNext_redirected {x : Redirect} {l : List Redirect} (hx : c.redirects = x :: l) (hdue : x.due = c.ic + 1) :
    (c.seqNext ctl).pc = x.target := by
  unfold Ctx.seqNext
  simp only [Nat.not_lt.2 h, if_false, hx, List.find?_cons, hdue, beq_self_eq_true]

section
variable (hx : ∀ x ∈ c.redirects, x.due ≠ c.ic + 1)
include hx

theorem Ctx.seqNext_continues {t : DWord} (ht : (iterEnd c.pc c.loops).2.2 = some t) : (c.seqNext ctl).pc = t := by
  have hnone : (c.redirects.find? fun x => x.due == c.ic + 1) = none :=
    List.find?_eq_none.2 fun x hmem => by simpa using hx x hmem
  unfold Ctx.seqNext
  simp only [Nat.not_lt.2 h, if_false, hnone, ht]

variable (ht : (iterEnd c.pc c.loops).2.2 = none)
include ht

theorem Ctx.seqNext_skips (t : DWord) : (c.seqNext (.skip t)).pc = t := by
  have hnone : (c.redirects.find? fun x => x.due == c.ic + 1) = none :=
    List.find?_eq_none.2 fun x hmem => by simpa using hx x hmem
  unfold Ctx.seqNext
  simp only [Nat.not_lt.2 h, if_false, hnone, ht]

theorem Ctx.seqNext_falls : (c.seqNext .none).pc = c.pc + 32 := by
  have hnone : (c.redirects.find? fun x => x.due == c.ic + 1) = none :=
    List.find?_eq_none.2 fun x hmem => by simpa using hx x hmem
  unfold Ctx.seqNext
  simp only [Nat.not_lt.2 h, if_false, hnone, ht]

end

/-- R195: the rotations of a cycle are those of the iterations that end with its bundle. -/
theorem Ctx.seqNext_rots_eq : (c.seqNext ctl).rots = (iterEnd c.pc c.loops).2.1 := by
  unfold Ctx.seqNext
  simp only [Nat.not_lt.2 h, if_false]
  split <;> rfl

end

/-- R194: a bundle that is the END of no loop on top ends no iteration. -/
theorem iterEnd_elsewhere {pc : DWord} {l : List LoopEntry} (h : ∀ e ∈ l.head?, e.last ≠ pc) : iterEnd pc l = (l, 0, none) := by
  cases l with
  | nil => rfl
  | cons e l => exact if_neg (h e rfl)

theorem iterEnd_continues {pc : DWord} {e : LoopEntry} {l : List LoopEntry} (hl : e.last = pc) (hc : 1 < e.count) :
    iterEnd pc (e :: l) = ({ e with count := e.count - 1 } :: l, b2n e.rot, some e.start) :=
  (if_pos hl).trans (if_neg (Nat.not_le.2 hc))

theorem iterEnd_last {pc : DWord} {e : LoopEntry} {l : List LoopEntry} (hl : e.last = pc) (hc : e.count ≤ 1) :
    iterEnd pc (e :: l) = ((iterEnd pc l).1, (iterEnd pc l).2.1 + b2n e.rot, (iterEnd pc l).2.2) :=
  (if_pos hl).trans (if_pos hc)

/-- The body of a loop holds an address. -/
def LoopEntry.holds (e : LoopEntry) (t : DWord) : Prop := e.start.toNat ≤ t.toNat ∧ t.toNat ≤ e.last.toNat

/-- R191: the entries popped are those from the top whose bodies do not hold the target, up to one whose body does. -/
theorem popOutside_spec (t : DWord) (l : List LoopEntry) : ∃ n, popOutside t l = l.drop n ∧
    (∀ e ∈ l.take n, ¬ e.holds t) ∧ ∀ e ∈ (popOutside t l).head?, e.holds t := by
  induction l with
  | nil => exact ⟨0, rfl, nofun, nofun⟩
  | cons e l ih =>
    by_cases he : e.holds t
    · have hpop : popOutside t (e :: l) = e :: l := if_pos (by simpa [LoopEntry.holds] using he)
      rw [hpop]
      exact ⟨0, rfl, nofun, fun x hx => by cases hx; exact he⟩
    · have hpop : popOutside t (e :: l) = popOutside t l := if_neg (by simpa [LoopEntry.holds] using he)
      obtain ⟨n, hdrop, hout, hin⟩ := ih
      rw [hpop]
      exact ⟨n + 1, hdrop, List.forall_mem_cons.2 ⟨he, hout⟩, hin⟩

/-- Settles O29: the redirection that arrives, and the sequencer's choice case by case. -/
theorem nextBundle : Obligations.NextBundle := by
  unfold Obligations.NextBundle
  refine ⟨fun c x l hx hdue => ?_, fun r sp hh hr => ?_⟩
  · have hfind : (c.redirects.find? fun x => decide (x.due ≤ c.ic)) = some x := by
      rw [hx, List.find?_cons, decide_eq_true hdue]
    have hloops : c.arrive.loops = if x.pops then popOutside x.target c.loops else c.loops := by
      simp only [Ctx.arrive, hfind]
    refine ⟨rfl, fun y => by simp [Ctx.arrive], fun hp => by rw [hloops, hp]; rfl, fun hp => ?_⟩
    rw [hloops, if_pos hp]
    exact popOutside_spec x.target c.loops
  · have hpc : (r.advance sp).ctx.pc = (r.ctx.seqNext r.ctl).pc := congrArg Prod.fst (Room.advance_sequenced sp hh hr)
    dsimp only
    rw [hpc, ← repRem_eq]
    refine ⟨Ctx.seqNext_repeats _, fun hrep x l => Ctx.seqNext_redirected _ hrep, fun hrep hx => ?_⟩
    refine ⟨fun e l hl hlast hcount => ?_, fun e l hl hlast hcount hrest hctl => ?_, fun hhead => ?_⟩
    · exact Ctx.seqNext_continues _ hrep hx (by rw [hl, iterEnd_continues hlast hcount])
    · have hhead : ∀ e' ∈ l.head?, e'.last ≠ r.ctx.pc := fun e' he' => hrest e' (List.mem_of_mem_head? he')
      rw [hctl]
      exact Ctx.seqNext_falls hrep hx (by rw [hl, iterEnd_last hlast hcount, iterEnd_elsewhere hhead])
    · have hit : (iterEnd r.ctx.pc r.ctx.loops).2.2 = none := by rw [iterEnd_elsewhere hhead]
      exact ⟨fun t hctl => hctl ▸ Ctx.seqNext_skips hrep hx hit t, fun hctl => hctl ▸ Ctx.seqNext_falls hrep hx hit⟩

/-! ### Loops and repeats (R193, R197 to R199) -/

section
variable {f : LForm} {s : State} (hw : (Instr.loop f).wellFormed = true)
include hw

theorem exec_loop_delay (h : s.me.ctx.redirects ≠ []) :
    exec (.loop f) s = .next (s.takeTrap (cause 0x01 0) s.me.ctx.pc) := by
  unfold exec execLoop
  exact roomOp_trap hw (if_pos (bne_iff_ne.2 h))

variable (h : s.me.ctx.redirects = [])
include h

theorem exec_loop_none (hn : s.me.ctx.loopCount f = 0) : exec (.loop f) s = .next { s with
    me := { s.me with ctl := .skip (s.me.ctx.pc + BitVec.ofNat 64 (32 * f.endB.toNat) + 32) } } := by
  unfold exec execLoop
  exact roomOp_ok hw ((if_neg (by rw [h]; decide)).trans (if_pos hn))

theorem exec_loop_full (hn : s.me.ctx.loopCount f ≠ 0) (hl : 6 ≤ s.me.ctx.loops.length) :
    exec (.loop f) s = .next (s.takeTrap (cause 0x05 0) s.me.ctx.pc) := by
  unfold exec execLoop
  exact roomOp_trap hw ((if_neg (by rw [h]; decide)).trans ((if_neg hn).trans (if_pos hl)))

theorem exec_loop_push (hn : s.me.ctx.loopCount f ≠ 0) (hl : s.me.ctx.loops.length < 6) :
    exec (.loop f) s = .next { s with me := { s.me with ctx := { s.me.ctx with
      loops := { start := s.me.ctx.pc + 32, last := s.me.ctx.pc + BitVec.ofNat 64 (32 * f.endB.toNat),
                 count := s.me.ctx.loopCount f, rot := f.rot == 1 } :: s.me.ctx.loops } } } := by
  unfold exec execLoop
  exact roomOp_ok hw ((if_neg (by rw [h]; decide)).trans ((if_neg hn).trans (if_neg (Nat.not_le.2 hl))))

end

theorem repWord_fields (n : BitVec 16) (k : BitVec 6) : let w := repWord n.toNat k.toNat 0
    repRem w = n.toNat ∧ repK w = k.toNat ∧ repOfs w = 0 := by
  have hn := n.isLt
  have hk := k.isLt
  simp only [repRem, repK, repOfs, repWord, bitsOf, BitVec.toNat_ofNat, Nat.shiftRight_eq_div_pow]
  omega

/-- R197: from the next cycle on a repeat runs its iterations from offset 0, or one cycle without effect. -/
theorem Room.advance_rep {r : Room} {n : BitVec 16} {k : BitVec 6} (sp : Bool) (hs : r.ctx.sysWrites = [])
    (hctl : r.ctl = .none) : let c := ((r.queueSys repNumber (repWord n.toNat k.toNat 0)).advance sp).ctx
    (n ≠ 0 → repRem c.repc = n.toNat ∧ repK c.repc = k.toNat ∧ repOfs c.repc = 0 ∧ c.repZero = false) ∧
      (n = 0 → c.repc = 0 ∧ c.repZero = true) := by
  obtain ⟨hrem, hk, hofs⟩ := repWord_fields n k
  have hseq := Room.advance_sequenced (r := r.queueSys repNumber (repWord n.toNat k.toNat 0)) sp
    (hctl ▸ nofun) fun _ _ => hctl ▸ nofun
  obtain ⟨-, hrepc, hzero, -⟩ := by simpa only [Room.sequenced, Prod.mk.injEq] using hseq
  dsimp only
  rw [hrepc, hzero]
  simp only [Room.sysWritten, Room.queueSys, hs, List.nil_append, List.foldl_cons, List.foldl_nil, Ctx.sysWrite, repNumber, hrem]
  refine ⟨fun hn => ?_, ?_⟩
  · have hne : n.toNat ≠ 0 := fun h => hn (BitVec.eq_of_toNat_eq h)
    rw [if_neg hne]
    exact ⟨hrem, hk, hofs, decide_eq_false hne⟩
  · rintro rfl
    exact ⟨rfl, rfl⟩

theorem exec_rep_delay {f : PForm} {s : State} (h : s.me.ctx.redirects ≠ []) :
    exec (.rep f) s = .next (s.takeTrap (cause 0x01 0) s.me.ctx.pc) := by
  unfold exec execRep
  exact slotOp_trap rfl (if_pos (bne_iff_ne.2 h))

section
variable {f : PForm} {s : State} (h : s.me.ctx.redirects = []) {w : BitVec 256}
  (hcode : s.codeAt s.me (s.me.ctx.seqNext s.me.ctl).pc = .word w)
include h hcode

theorem exec_rep_refused {c : Cause} (hc : repeatCheck w f.n.toNat f.k.toNat 0 = some c) :
    exec (.rep f) s = .next (s.takeTrap c s.me.ctx.pc) := by
  unfold exec execRep
  refine slotOp_trap rfl ?_
  dsimp only
  rw [if_neg (by rw [h]; decide), hcode]
  dsimp only
  rw [hc]

theorem exec_rep_armed (hc : repeatCheck w f.n.toNat f.k.toNat 0 = none) :
    exec (.rep f) s = .next { s with me := s.me.queueSys repNumber (repWord f.n.toNat f.k.toNat 0) } := by
  unfold exec execRep
  refine slotOp_ok rfl ?_
  dsimp only
  rw [if_neg (by rw [h]; decide), hcode]
  dsimp only
  rw [hc]
  rfl

end

/-! ### Rotation (R195, R202) -/

theorem imm64_toInt (i : Imm) : (imm64 i).toInt = immSigned i := by
  cases i with
  | short v => exact BitVec.toInt_signExtend_of_le (by decide)
  | long v => exact BitVec.toInt_signExtend_of_le (by decide)

/-- The base under WINB after a move, modulo 32. -/
theorem winbAdd_toNat (w : Word) (k : Int) : ((winbAdd w k).toNat : Int) = ((w.toNat : Int) + k) % 32 := by
  simp only [winbAdd, wrapTo, BitVec.toNat_ofNat]
  omega

/-- R195, R202: the base under WINB moves by the `rot` of the cycle, less the rotations of the iterations that end there. -/
theorem Room.advance_winb {r : Room} (sp : Bool) (hs : r.ctx.sysWrites = []) (hctl : r.ctl = .none)
    (hrep : repRem r.ctx.repc ≤ 1) : ((r.advance sp).ctx.winb.toNat : Int) =
      ((r.ctx.winb.toNat : Int) + (r.ctx.rotBy - ((iterEnd r.ctx.pc r.ctx.loops).2.1 : Int))) % 32 := by
  have hseq := Room.advance_sequenced (r := r) sp (hctl ▸ nofun) fun _ _ => hctl ▸ nofun
  have hwritten : r.sysWritten.winb = r.ctx.winb := by simp only [Room.sysWritten, hs, List.foldl_nil]
  obtain ⟨-, -, -, hwinb⟩ := by simpa only [Room.sequenced, Prod.mk.injEq] using hseq
  rw [hwinb, winbAdd_toNat, Ctx.seqNext_rots_eq _ hrep, hwritten]

/-- Settles O27: each instruction by its laws, and the end of the cycle by what the sequencer is left with. -/
theorem loopsAndRepeats : Obligations.LoopsAndRepeats := by
  unfold Obligations.LoopsAndRepeats
  refine ⟨fun f s hw => ?_, fun f s _ => ?_, fun f s hw => ?_⟩
  · exact ⟨exec_loop_delay hw, exec_loop_none hw, exec_loop_push hw, exec_loop_full hw⟩
  · refine ⟨exec_rep_delay, fun h w hcode => ⟨fun c => exec_rep_refused h hcode, fun hc => ?_⟩⟩
    exact ⟨_, exec_rep_armed h hcode hc, rfl, fun hs hctl sp => Room.advance_rep sp hs hctl⟩
  · refine ⟨{ s with me := { s.me with ctx := { s.me.ctx with rotBy := immSigned f.imm } } }, if_pos hw, rfl,
      fun hs hctl hrep sp => ?_⟩
    have hwinb := Room.advance_winb (r := { s.me with ctx := { s.me.ctx with rotBy := immSigned f.imm } }) sp hs hctl hrep
    dsimp only at hwinb ⊢
    rw [hwinb, imm64_toInt]
    refine ⟨fun hlast => ?_, fun e l hl hlast hcount hrot => ?_⟩
    · rw [iterEnd_elsewhere fun e he => hlast e (List.mem_of_mem_head? he)]
      simp
    · rw [hl, iterEnd_continues hlast hcount, hrot]
      exact congrArg (· % 32) (add_sub_assoc _ _ _).symm

end Sys2Proof.Machine
end

section
/-! PROOFS. The turn of a room whose bundle holds one instruction (R142, R159, R188, R190: O6). -/

namespace Sys2Proof.Machine

open Sys2Proof.Claims

/-! ### What the count of read errors leaves alone (R97, R98) -/

/-- A failed bank is noted with its core and its counters, not with the room. -/
theorem State.failBank_me (s : State) (core bank : Nat) : (s.failBank core bank).me = s.me := by
  unfold State.failBank
  split
  · rfl
  · have hcount : ∀ x : State, (if assocGet x.counters (coreCounter core 0x0B) 0 < 2
        then x.count (coreCounter core 0x0B) 1 else x).me = x.me := fun x =>
      apply_ite_eq State.me (x.count_me _ _) rfl
    refine apply_ite_eq State.me ?_ ?_ <;> simp only [State.post_me, hcount, State.onCore_me]

theorem State.correctedError_me (s : State) (core bank : Nat) : (s.correctedError core bank).me = s.me :=
  apply_ite_eq State.me (State.failBank_me _ core bank) rfl

/-- R97: the count of a room's reads in error clears them and leaves the room as it is. -/
theorem State.flushEcc_me (s : State) : s.flushEcc.me = s.me ∨ s.flushEcc.me = { s.me with eccHits := [] } := by
  unfold State.flushEcc
  dsimp only
  split
  · exact .inl rfl
  · refine .inr (congrArg (fun r : Room => { r with eccHits := [] }) ?_)
    refine (foldl_aside State.me _ (fun s b => s.correctedError_me _ b) _ _).trans ?_
    simp only [State.count_me]

theorem State.flushEcc_life (s : State) : s.flushEcc.me.life = s.me.life := by
  obtain h | h := s.flushEcc_me <;> rw [h]

/-! ### A slot (R142, R158, R159) -/

section
variable {x : SlotRun} {n : Nat} {i : Instr} {u : State}

theorem SlotRun.slot_taken (hu : exec i x.state = .next u) (hs : ∀ c, u.me.stop ≠ .frozen c) (ho : x.owed = []) :
    ∃ l, x.slot n (some i) = { state := u, causes := x.causes, owed := l } := by
  unfold SlotRun.slot
  simp only [hu, ho, List.any_nil, Bool.false_eq_true, if_false]
  exact ⟨_, rfl⟩

theorem SlotRun.slot_trapped {c : Cause} (hu : exec i x.state = .next u) (hs : u.me.stop = .frozen c) :
    (x.slot n (some i)).causes = x.causes ++ [(n, c)] := by
  unfold SlotRun.slot
  simp only [hu, hs]

/-- A slot that raised a cause leaves the state but for its claims, so no slot leaves a frozen room. -/
theorem SlotRun.slot_notFrozen (hx : ∀ c, x.state.me.stop ≠ .frozen c) (c : Cause) :
    (x.slot n (some i)).state.me.stop ≠ .frozen c := by
  unfold SlotRun.slot
  dsimp only
  split
  · split
    · exact hx c
    · next hne => exact hne c
  · exact hx c

end

/-- An instruction without effect that lands nothing: the no-op of a slot. -/
def Idle (i : Instr) : Prop := (∀ s, exec i s = .next s) ∧ ∀ c n, Ctx.owing c n i = []

theorem idle_nop (sl : SSlot) : Idle (.nop sl) := ⟨fun _ => by unfold exec execNop; exact slotOp_ok rfl rfl, fun _ _ => rfl⟩
theorem idle_vnop : Idle .vnop := ⟨fun _ => rfl, fun _ _ => rfl⟩
theorem idle_mnop : Idle .mnop := ⟨fun _ => rfl, fun _ _ => rfl⟩
theorem idle_xnop : Idle .xnop := ⟨fun _ => rfl, fun _ _ => rfl⟩

theorem SlotRun.slot_idle {x : SlotRun} {n : Nat} {i : Instr} (hi : Idle i) (hx : ∀ c, x.state.me.stop ≠ .frozen c) :
    x.slot n (some i) = x := by
  obtain ⟨hexec, howing⟩ := hi
  unfold SlotRun.slot
  simp [hexec, howing]

/-- The slots of a bundle before any has run. -/
def State.freshSlots (t : State) : SlotRun := { state := t, causes := [], owed := [] }

/-- R204, R305: no-ops beside a `halt` or `tret` are what they ask for. -/
theorem aloneOk_of_alone {b : Decode.Bundle} {i : Instr} (hb : Alone b i) : aloneOk b = [] := by
  unfold aloneOk
  obtain ⟨h0, h1, hv, hm, hx⟩ | ⟨h0, h1, hv, hm, hx⟩ | ⟨h0, h1, hv, hm, hx⟩ | ⟨h0, h1, hv, hm, hx⟩ |
    ⟨h0, h1, hv, hm, hx⟩ := hb
  case inl =>
    simp only [h0, h1, hv, hm, hx]
    split <;> rfl
  case inr.inr.inr.inr =>
    simp only [h0, h1, hv, hm, hx]
    split <;> rfl
  all_goals simp only [h0, hx, List.append_nil]

/-- A bundle of one instruction runs that instruction alone, in its slot. -/
theorem runSlots_alone {t : State} {b : Decode.Bundle} {i : Instr} (hb : Alone b i) (hrep : repRem t.me.ctx.repc = 0)
    (ht : ∀ c, t.me.stop ≠ .frozen c) : ∃ n, t.runSlots b = t.freshSlots.slot n (some i) := by
  have before {n j} (hj : Idle j) : t.freshSlots.slot n (some j) = t.freshSlots := SlotRun.slot_idle hj ht
  have after {m n j} (hj : Idle j) : (t.freshSlots.slot m (some i)).slot n (some j) = t.freshSlots.slot m (some i) :=
    SlotRun.slot_idle hj (SlotRun.slot_notFrozen ht)
  have n0 := idle_nop .s0
  have n1 := idle_nop .s1
  have hfresh : ({ state := t, causes := aloneOk b, owed := [] } : SlotRun) = t.freshSlots := by
    rw [aloneOk_of_alone hb, State.freshSlots]
  unfold State.runSlots
  simp only [hrep, if_true, hfresh]
  obtain ⟨h0, h1, hv, hm, hx⟩ | ⟨h0, h1, hv, hm, hx⟩ | ⟨h0, h1, hv, hm, hx⟩ | ⟨h0, h1, hv, hm, hx⟩ |
    ⟨h0, h1, hv, hm, hx⟩ := hb
  case inr.inr.inr.inr =>
    refine ⟨4, ?_⟩
    simp only [h0, h1, hv, hm, hx, before n0, before n1, before idle_vnop, before idle_mnop, after n0, after n1,
      after idle_vnop, after idle_mnop]
    split <;> rfl
  · exact ⟨0, by simp only [h0, h1, hv, hm, hx, after n1, after idle_vnop, after idle_mnop, after idle_xnop]⟩
  · exact ⟨1, by simp only [h0, h1, hv, hm, hx, before n0, after idle_vnop, after idle_mnop, after idle_xnop]⟩
  · exact ⟨2, by simp only [h0, h1, hv, hm, hx, before n0, before n1, after idle_mnop, after idle_xnop]⟩
  · exact ⟨3, by simp only [h0, h1, hv, hm, hx, before n0, before n1, before idle_vnop, after idle_xnop]⟩

/-! ### The issue of a bundle and the turn of its room (R159, R190, R192) -/

section
variable {f : State} {w : BitVec 256} {b : Decode.Bundle} (hb : Decode.bundle w = some b) (hbp : f.me.breakpoint = none)
  (hfresh : f.openCycle.me.ctx.repFresh = false) (hzero : f.openCycle.me.ctx.repZero = false)
include hb hbp hfresh hzero

/-- R159: a bundle in which one slot raises a cause is stopped. -/
theorem issueBundle_stopped {n : Nat} {c : Cause} (hrun : (f.openCycle.runSlots b).causes = [(n, c)]) :
    f.issueBundle w = f.stopBundle c := by
  unfold State.issueBundle
  simp only [hb, hbp, hfresh, hzero, Bool.false_eq_true, if_false, hrun, List.nil_append]
  rfl

variable {u : State} {l : List Landing} (hrun : f.openCycle.runSlots b = { state := u, causes := [], owed := l })
include hrun

theorem issueBundle_held {m : Miss} (hm : u.me.miss = some m) : f.issueBundle w = f.holdFor m := by
  unfold State.issueBundle
  simp only [hb, hbp, hfresh, hzero, Bool.false_eq_true, if_false, hrun, List.nil_append, firstIssue, List.foldl_nil,
    Option.map_none, hm]

theorem issueBundle_closed (hm : u.me.miss = none) : f.issueBundle w =
    (u.noteLoop (pushesLoop b && decide (f.openCycle.me.ctx.loops.length < u.me.ctx.loops.length))
      f.openCycle.me.ctx.pc w).closeCycle b true := by
  unfold State.issueBundle
  simp only [hb, hbp, hfresh, hzero, Bool.false_eq_true, if_false, hrun, List.nil_append, firstIssue, List.foldl_nil,
    Option.map_none, hm, Bool.not_false]

end

/-- A running room in residence with nothing due and nothing to wait for issues the bundle at its pc. -/
theorem roomCycle_issues {s f : State} (hf : s.flushEcc = f) {w : BitVec 256} (hstop : f.me.stop = .none)
    (hdue : f.me.ctx.due = []) (hlife : f.me.life = .running) (hwait : f.me.ctx.wait = .none)
    (hres : (f.coreOf f.me.core).resident = some f.me.id) (hw : f.codeAt f.me f.me.ctx.pc = .word w) :
    s.roomCycle = f.issueBundle w := by
  have hdrains : f.me.drains = false := by simp only [Room.drains, hlife, hwait]; simp
  have hfetch : f.fetchAndIssue = f.issueBundle w := by simp only [State.fetchAndIssue, hw]
  unfold State.roomCycle
  simp [hf, hstop, hdue, hdrains, hlife, hwait, hres, hfetch]

/-- With power on and no event pending, the step is the turn of the next room, which is in place (R188). -/
theorem step_roomCycle {s : State} {r : RoomId} {rest : List RoomId} (hp : s.power.on = true) (ha : s.agenda = [])
    (hq : s.queue = r :: rest) (hid : (State.focus { s with queue := rest } r).me.id = r)
    (hlife : (State.focus { s with queue := rest } r).me.life ≠ .absent) :
    step s = .next (State.focus { s with queue := rest } r).roomCycle := by
  rw [step, if_pos hp]
  unfold State.advanceAll
  split
  case h_1 h => exact nomatch ha.symm.trans h
  split
  case h_2 h => exact nomatch hq.symm.trans h
  case h_1 h =>
    cases hq.symm.trans h
    exact congrArg Host.Outcome.next (if_pos (by simp [hid, hlife]))

/-- Settles O6: the step is the room's turn, the turn is the issue of its bundle, and the bundle is its one instruction. -/
theorem stepIssuesInstruction : Obligations.StepIssuesInstruction := by
  unfold Obligations.StepIssuesInstruction
  intro s r rest w b i
  dsimp only
  intro hp ha hq hid hlife hstop hdue hwait hres hcode hb halone hbp htstop hfresh hzero hrep
  have hpresent : (State.focus { s with queue := rest } r).me.life ≠ .absent := by
    rw [← State.flushEcc_life, hlife]
    decide
  have hstep : step s = .next ((State.focus { s with queue := rest } r).flushEcc.issueBundle w) := by
    rw [step_roomCycle hp ha hq hid hpresent, roomCycle_issues rfl hstop hdue hlife hwait hres hcode]
  obtain ⟨n, hrun⟩ := runSlots_alone halone hrep (htstop ▸ nofun)
  rw [hstep]
  refine ⟨fun u hu hs hm => ?_, fun u m hu hs hm => ?_, fun u c hu hs => ?_⟩
  · obtain ⟨l, hslot⟩ := SlotRun.slot_taken (x := State.freshSlots _) (n := n) hu hs rfl
    rw [issueBundle_closed hb hbp hfresh hzero (hrun.trans hslot) hm]
  · obtain ⟨l, hslot⟩ := SlotRun.slot_taken (x := State.freshSlots _) (n := n) hu hs rfl
    rw [issueBundle_held hb hbp hfresh hzero (hrun.trans hslot) hm]
  · have hslot := SlotRun.slot_trapped (x := State.freshSlots _) (n := n) hu hs
    rw [issueBundle_stopped hb hbp hfresh hzero ((congrArg SlotRun.causes hrun).trans hslot)]

end Sys2Proof.Machine
end

section
/-! PROOFS. Integer values of the vector operations (R51, R218 to R221: O31). -/

namespace Sys2Proof.Machine

open Sys2Proof.Claims

/-! ### Integers as values (R51, R219) -/

/-- The encoding of an integer is congruent to the integer that it stands for. -/
theorem modEq_intVal (sg : Bool) {b : Nat} (hb : 0 < b) (e : Nat) : (e : Int) ≡ intVal sg b e [ZMOD ((2 ^ b : Nat) : Int)] := by
  unfold intVal
  split
  · exact modEq_sext hb e
  · rw [Int.natCast_mod]
    exact (Int.mod_modEq _ _).symm

/-- An integer wraps back to the encoding that it was read from. -/
theorem wrapTo_intVal (sg : Bool) {b : Nat} (hb : 0 < b) (e : Nat) : wrapTo b (intVal sg b e) = e % 2 ^ b :=
  (mod_eq_wrapTo (modEq_intVal sg hb e)).symm

theorem wrapTo_intVal_of_lt (sg : Bool) {b e : Nat} (hb : 0 < b) (he : e < 2 ^ b) : wrapTo b (intVal sg b e) = e :=
  (wrapTo_intVal sg hb e).trans (Nat.mod_eq_of_lt he)

theorem intOf_eq {d : Nat} {sg : Bool} {b : Nat} (h : descFmt d = .int sg b) (e : Nat) : intOf d e = intVal sg b e := by
  unfold intOf intVal
  rw [h]
  cases sg <;> rfl

theorem descVal_eq {d : Nat} {sg : Bool} {b : Nat} (h : descFmt d = .int sg b) (e : Nat) :
    descVal d e = Val.ofInt (intVal sg b e) := by
  unfold descVal
  rw [h]
  rfl

/-- The sign that R219 compares first. -/
theorem sign_cases (z : Int) (s : Int) (h : s = if z.natAbs = 0 then 0 else if decide (z < 0) = true then -1 else 1) :
    s = -1 ∧ z < 0 ∨ s = 0 ∧ z = 0 ∨ s = 1 ∧ 0 < z := by
  simp only [Int.natAbs_eq_zero, decide_eq_true_eq] at h
  split at h
  · exact .inr (.inl ⟨h, ‹_›⟩)
  · split at h <;> omega

/-- Of two integers the sign decides, and between equal signs the magnitude. -/
theorem valCmp_ofInt (x y : Int) : valCmp (.ofInt x) (.ofInt y) = compare x y := by
  have same {a b : Int} (hlt : a < b ↔ x < y) (heq : a = b ↔ x = y) : compare a b = compare x y := by
    simp only [compare, compareOfLessAndEq, hlt, heq]
  have hx := sign_cases x _ rfl
  have hy := sign_cases y _ rfl
  simp only [valCmp, Val.ofInt, min_self, sub_self, Int.toNat_zero, Nat.shiftLeft_zero, bne_iff_ne]
  generalize (ite (x.natAbs = 0) _ _ : Int) = u at hx ⊢
  generalize (ite (y.natAbs = 0) _ _ : Int) = v at hy ⊢
  simp only [decide_eq_true_eq]
  split
  · exact same (by omega) (by omega)
  · split
    · exact same (by omega) (by omega)
    · exact same (by omega) (by omega)

/-- R219 takes the lesser of two integers. -/
theorem valLess_ofInt (x y : Int) : valLess (.ofInt x) (.ofInt y) = decide (x < y) := by
  unfold valLess
  rw [valCmp_ofInt]
  rcases lt_trichotomy x y with h | h | h
  · rw [compare_lt_iff_lt.2 h, decide_eq_true h]
  · subst h
    simp
  · rw [compare_gt_iff_gt.2 h, decide_eq_false h.not_gt]

/-! ### The rows of R218 to R221 -/

section
variable {sg : Bool} {b : Nat} {dd da db dc : Nat} (hd : descFmt dd = .int sg b) (ha : descFmt da = .int sg b)
  (hb : descFmt db = .int sg b)
include hd ha

theorem absFn_int (ea : Nat) :
    absFn dd da ea = (wrapTo b (maxI (intVal sg b ea) (-(intVal sg b ea))), Fl.none) := by
  simp only [absFn, hd, intOf_eq ha]
  refine congrArg (fun x => (wrapTo b x, Fl.none)) ?_
  cases sg
  · have : 0 ≤ intVal false b ea := Int.natCast_nonneg _
    simp only [maxI, Bool.false_eq_true, if_false]
    omega
  · simp only [maxI, if_true]
    omega

theorem negFn_int (ea : Nat) : negFn dd da ea = (wrapTo b (-(intVal sg b ea)), Fl.none) := by
  simp only [negFn, hd, intOf_eq ha]

theorem vshrFn_int (hpos : 0 < b) (ea eb : Nat) : vshrFn dd da ea eb =
    (wrapTo b (intVal sg b ea / (2 ^ (wrapTo b (intVal sg b eb) % b) : Nat)), Fl.none) := by
  simp only [vshrFn, hd, Fmt.bits, intOf_eq ha, wrapTo_intVal sg hpos]

include hb

theorem arithFn_int (hc : descFmt dc = .int sg b) (int3 : Int → Int → Int → Int)
    (real : RM → Val → Val → Val → Val × Fl) (rm : RM) (ea eb ec : Nat) : arithFn int3 real rm dd da db dc ea eb ec =
      (wrapTo b (int3 (intVal sg b ea) (intVal sg b eb) (intVal sg b ec)), Fl.none) := by
  simp only [arithFn, hd, intOf_eq ha, intOf_eq hb, intOf_eq hc]

/-- R219: on integers the form for NaNs makes no difference. -/
theorem minMaxFn_int (greater num : Bool) (hpos : 0 < b) (ea eb : Nat) : minMaxFn greater num dd da db ea eb =
      (wrapTo b ((if greater then maxI else minI) (intVal sg b ea) (intVal sg b eb)), Fl.none) := by
  simp only [minMaxFn, hd, descVal_eq ha, descVal_eq hb, valLess_ofInt]
  cases greater
  · by_cases h : intVal sg b eb < intVal sg b ea <;> simp [minI, h, wrapTo_intVal sg hpos]
  · rcases lt_trichotomy (intVal sg b ea) (intVal sg b eb) with h | h | h
    · simp [maxI, h, h.not_gt, wrapTo_intVal sg hpos]
    · simp [maxI, h, wrapTo_intVal sg hpos]
    · simp [maxI, h, h.not_gt, wrapTo_intVal sg hpos]

/-- R221: the bounds of a saturating sum or difference are those of the format. -/
theorem satFn_int (minus : Bool) (ea eb : Nat) : satFn minus dd da db ea eb =
    (wrapTo b (clampI (if minus then intVal sg b ea - intVal sg b eb else intVal sg b ea + intVal sg b eb)
      (if sg then sLo b else 0) (if sg then sHi b else (2 ^ b : Nat) - 1)), Fl.none) := by
  simp only [satFn, hd, intOf_eq ha, intOf_eq hb]
  rfl

end

theorem vshlFn_int {sg : Bool} {b dd : Nat} (hd : descFmt dd = .int sg b) (hpos : 0 < b) (ea eb : Nat) : vshlFn dd ea eb =
    (wrapTo b (intVal sg b ea * (2 ^ (wrapTo b (intVal sg b eb) % b) : Nat)), Fl.none) := by
  simp only [vshlFn, hd, Fmt.bits, wrapTo_intVal sg hpos, Nat.shiftLeft_eq]
  refine congrArg (·, Fl.none) (mod_eq_wrapTo ?_)
  rw [Nat.cast_mul]
  exact (modEq_intVal sg hpos ea).mul_right _

/-- Settles O31: each row by the law of its value function. -/
theorem vectorIntegerValues : Obligations.VectorIntegerValues := by
  unfold Obligations.VectorIntegerValues
  intro f rm g sg b ea eb ec hb hd ha hb' hc hea _ _
  have hpos : 0 < b := by fin_cases hb <;> decide
  refine ⟨?_, fun j => Nat.testBit_and .., fun j => Nat.testBit_or .., fun j => Nat.testBit_xor ..⟩
  simp only [intRows, List.forall_mem_cons, List.not_mem_nil, false_implies, implies_true, and_true]
  have arith (int3 : Int → Int → Int → Int) (real : RM → Val → Val → Val → Val × Fl) :=
    arithFn_int hd ha hb' hc int3 real rm ea eb ec
  exact ⟨arith (fun a b _ => a + b) fun rm a b _ => valAdd rm a b,
    arith (fun a b _ => a - b) fun rm a b _ => valAdd rm a b.neg, arith (fun a b _ => a * b) fun _ a b _ => valMul a b,
    arith (fun a b c => a * b + c) fun rm a b c => valFma rm a b c,
    minMaxFn_int hd ha hb' false _ hpos ea eb, minMaxFn_int hd ha hb' true _ hpos ea eb, absFn_int hd ha ea,
    negFn_int hd ha ea, satFn_int hd ha hb' false ea eb, satFn_int hd ha hb' true ea eb, vshlFn_int hd hpos ea eb,
    vshrFn_int hd ha hpos ea eb, congrArg (·, Fl.none) (wrapTo_intVal_of_lt sg hpos hea).symm⟩

end Sys2Proof.Machine
end

section
/-! PROOFS. The cycles of a vector operation and its issue (R154, R158, R159, R207 to R217: O30). -/

namespace Sys2Proof.Machine

open Sys2Proof.Claims
open Sys2Proof.Safety (foldl_keeps)

/-! ### The rows of R217 -/

/-- What R217 and R239 say of a row: the form of its instruction, its depth, whether it sums into a q-register, which no
value-by-value operation does, and its issue. -/
structure VectorLaw (row : VectorRow) : Prop where
  form : ∀ f, vFormOf (row.op f) = some f
  depth : ∀ f b, (vInfo (row.op f) b).depth = if b then row.depthInt else row.depth
  deep : 2 ≤ row.depth ∧ 2 ≤ row.depthInt
  sums : ∀ f b, (vInfo (row.op f) b).q = true ↔ row.op f = .vsum f ∨ row.op f = .vdot f
  each : row.each = true → ∀ f b, (vInfo (row.op f) b).q = false
  exec : ∀ f s, exec (row.op f) s = vIssue (row.op f) f s

theorem vectorLaw : ∀ row ∈ vectorRows, VectorLaw row := by
  simp only [vectorRows, List.cons_append, List.nil_append, List.forall_mem_cons, List.not_mem_nil, false_implies,
    implies_true, and_true]
  and_intros
  all_goals exact ⟨fun _ => rfl, fun _ b => by cases b <;> rfl, by decide, fun _ _ => by simp [vInfo], by simp [vInfo],
    fun _ _ => rfl⟩

section
variable {row : VectorRow} (h : VectorLaw row)
include h

theorem VectorLaw.depth_eq (f : VForm) (d : Nat) : (vInfo (row.op f) (descFmt d).isInt).depth = row.p d := h.depth f _

theorem VectorLaw.two_le (d : Nat) : 2 ≤ row.p d := by
  unfold VectorRow.p
  split
  · exact h.deep.2
  · exact h.deep.1

end

/-! ### What the accesses of an operation change (R96, R97, R235, R396) -/

/-- A room that differs in what the accesses of an engine note of a cycle alone: ports, errors found, a missing line, causes
due, and poison. -/
def Streamed (r t : Room) : Prop := ∃ p e m d b,
  t = { r with ports := p, eccHits := e, miss := m, ctx := { r.ctx with due := d, poison := b } }

theorem Streamed.refl (r : Room) : Streamed r r := ⟨_, _, _, _, _, rfl⟩

theorem Streamed.trans {r t u : Room} (h : Streamed r t) (h' : Streamed t u) : Streamed r u := by
  obtain ⟨p, e, m, d, b, rfl⟩ := h
  obtain ⟨p', e', m', d', b', rfl⟩ := h'
  exact ⟨p', e', m', d', b', rfl⟩

theorem Streamed.scratch {r t : Room} (h : Streamed r t) : t.scratch = r.scratch := by
  obtain ⟨p, e, m, d, b, rfl⟩ := h
  rfl

theorem Streamed.ic {r t : Room} (h : Streamed r t) : t.ctx.ic = r.ctx.ic := by
  obtain ⟨p, e, m, d, b, rfl⟩ := h
  rfl

theorem Streamed.landings {r t : Room} (h : Streamed r t) : t.ctx.landings = r.ctx.landings := by
  obtain ⟨p, e, m, d, b, rfl⟩ := h
  rfl

theorem Accessed.streamed {r t : Room} (h : Accessed r t) : Streamed r t := by
  obtain ⟨p, d, rfl⟩ := h
  exact ⟨p, _, _, d, _, rfl⟩

theorem Room.missing_streamed (r : Room) (addrs : List Nat) :
    Streamed r (match r.miss with | some _ => r | none => { r with miss := r.missOf addrs }) := by
  split
  · exact .refl r
  · exact ⟨_, _, _, _, _, rfl⟩

theorem Room.engAccess_streamed (r : Room) (slot c0 : Nat) (lost write : Bool) (addrs : List Nat) :
    Streamed r (r.engAccess slot c0 lost write addrs).1 := by
  refine Streamed.trans ?_ (Room.watchHits_accessed _ _ _ _).streamed
  exact foldl_keeps (p := fun x : Room × List Nat => Streamed r x.1)
    (fun x _ hx => hx.trans (Room.claim_accessed _ _ _).streamed) _ (r.missing_streamed addrs)

theorem Room.holdGroups_streamed (r : Room) (slot c0 : Nat) (groups : List Nat) :
    Streamed r (r.holdGroups slot c0 groups).1 := by
  refine foldl_keeps (p := fun x : Room × Bool => Streamed r x.1) (fun x _ hx => hx.trans ?_) _ (.refl r)
  dsimp only
  split
  · exact ⟨_, _, _, _, _, rfl⟩
  · exact ⟨_, _, _, _, _, rfl⟩

theorem Room.readChecked_streamed (r : Room) (k : Core) (addrs : List Nat) : Streamed r (r.readChecked k addrs).1 := by
  unfold Room.readChecked
  dsimp only
  split
  · exact .refl r
  · exact ⟨_, _, _, _, _, rfl⟩

theorem Room.readStream_streamed (r : Room) (k : Core) (slot c0 : Nat) (lost : Bool) (d : Nat) (vals : List (Nat × Nat)) :
    Streamed r (r.readStream k slot c0 lost d vals).1 := by
  unfold Room.readStream
  dsimp only
  split
  · exact (r.engAccess_streamed _ _ _ _ _).trans (Room.readChecked_streamed _ _ _)
  · exact r.engAccess_streamed _ _ _ _ _

/-! ### The reads of a beat (R211, R213) -/

/-- The reads of one region, when the operation has it. -/
def Room.readOn (r : Room) (k : Core) (f : Flight) (on : Bool) (d : Nat) (vals : List (Nat × Nat)) : Room × List Nat × Bool :=
  if on then r.readStream k 2 f.c0 f.lost d vals else (r, [], true)

theorem Room.readOn_streamed (r : Room) (k : Core) (f : Flight) (on : Bool) (d : Nat) (vals : List (Nat × Nat)) :
    Streamed r (r.readOn k f on d vals).1 := by
  unfold Room.readOn
  split
  · exact r.readStream_streamed _ _ _ _ _ _
  · exact .refl r

section
variable (r : Room) (k : Core) (fv : VForm) (g : VRegs) (p : VPlan) (f : Flight) (j : Nat)

/-- Whatever an operation reads, and however, its accesses change the room as any of an engine do. -/
theorem vRead_streamed : Streamed r (vRead r k fv g p f j).1 := by
  unfold vRead
  extract_lets v isSplit isPerm second jj vals row k0 rowEnd rd b idx tblV inside _ m r1 bad o o' a b2 done whole acc rc
  have hrd (x : Room) (on : Bool) (d : Nat) (vs : List (Nat × Nat)) : Streamed x (rd x on d vs).1 :=
    x.readOn_streamed k f on d vs
  split
  · show Streamed r (if _ then _ else _)
    split
    · exact (((hrd _ _ _ _).trans (b.1.missing_streamed _)).trans (Room.watchHits_accessed _ _ _ _).streamed).trans
        (Room.readChecked_streamed _ _ _)
    · exact hrd _ _ _ _
  · exact (hrd _ _ _ _).trans (hrd _ _ _ _)
  · split
    · show Streamed r (if _ then _ else _)
      split
      · exact (r.engAccess_streamed _ _ _ _ _).trans (Room.readChecked_streamed _ _ _)
      · exact r.engAccess_streamed _ _ _ _ _
    · exact hrd _ _ _ _
  · exact ((hrd _ _ _ _).trans (hrd _ _ _ _)).trans (hrd _ _ _ _)

/-- A flight that differs in the state of its row, its sum and its escape alone. -/
def Progressed (f t : Flight) : Prop := ∃ b i e a x,
  t = { f with buf := b, rowInvalid := i, rowExp := e, acc := a, escape := x }

theorem Progressed.refl (f : Flight) : Progressed f f := ⟨_, _, _, _, _, rfl⟩

theorem tableOut_progressed (gather : Bool) (v : Nat × Nat) (idx data : Nat) :
    Progressed f (tableOut r p gather g f v idx data).flight := by
  unfold tableOut
  dsimp only
  split
  · split <;> exact ⟨_, _, _, _, _, rfl⟩
  · split <;> exact ⟨_, _, _, _, _, rfl⟩

theorem splitOut_progressed (row k0 : Nat) (second : Bool) (encs : List Nat) (rowEnd : Bool) :
    Progressed f (splitOut p g f row k0 second encs rowEnd).flight := by
  unfold splitOut
  split
  · exact .refl f
  · dsimp only
    split <;> exact ⟨_, _, _, _, _, rfl⟩

/-- A beat forms its write apart: of the operation it changes what the next beats of its row need alone. -/
theorem vRead_progressed : Progressed f (vRead r k fv g p f j).2.1.flight := by
  unfold vRead
  extract_lets v isSplit isPerm second jj vals row k0 rowEnd rd b idx tblV inside _ m r1 bad o o' a b2 done whole acc rc
    _ _ _ _ _ _ _ _ _ _ _ _ _ _ _ _ out
  split
  · show Progressed f (if _ then _ else _ : BeatOut).flight
    split
    · exact .refl f
    · exact tableOut_progressed _ _ _ _ _ _ _ _
  · exact tableOut_progressed _ _ _ _ _ _ _ _
  · split <;> exact .refl f
  · dsimp only [out]
    split
    case h_5 => exact splitOut_progressed _ _ _ _ _ _ _ _
    case h_7 | h_8 | h_9 => split <;> exact ⟨_, _, _, _, _, rfl⟩
    all_goals exact ⟨_, _, _, _, _, rfl⟩

end

/-! ### A cycle of an operation (R211, R213, R235) -/

/-- The hold of an operation in this cycle: the room, and whether it holds every bank. -/
def Room.holdBanks (r : Room) (f : Flight) : Room × Bool := if !f.hold.isEmpty then r.holdGroups 2 f.c0 f.hold else (r, true)

/-- The operation after its hold, which it may have lost. -/
def Flight.afterHold (f : Flight) (held : Bool) : Flight :=
  { f with lost := f.lost || !held
           writes := if (match f.op with | .vscatter _ => true | _ => false) && !held then [] else f.writes }

/-- The operation after a beat that has formed o, of a sum or for a write in the cycle given. -/
def BeatOut.after (o : BeatOut) (sums : Bool) (cycle : Nat) : Flight :=
  { o.flight with
    writes := if sums then o.flight.writes
      else o.flight.writes ++ [{ cycle := cycle, cells := o.cells, halves := o.halves, raised := o.raised }]
    raised := if sums then o.flight.raised.merge o.raised else o.flight.raised }

/-- The reads of cycle j of an operation, while it has beats. -/
def vStep (h : Room) (k : Core) (fv : VForm) (g : VRegs) (p : VPlan) (f : Flight) (j cycle : Nat) : Room × Flight :=
  if j < p.nb then
    let y := vRead h k fv g p f j
    if y.2.2 && !f.lost then (y.1, y.2.1.after (vInfo f.op (descFmt g.dd).isInt).q cycle) else (y.1, { f with lost := true })
  else (h, f)

/-- Whether an operation lands in this cycle: a sum after its last beat, another in its last cycle. -/
def vEnds (sums : Bool) (ic j nb last : Nat) : Bool := if sums then j + 1 == max 1 nb else ic + 1 == last

/-- No operation of more than one cycle ends in its first, as none has a latency of 1. -/
theorem vEnds_first (sums : Bool) (ic : Nat) {nb lat : Nat} (hnb : 1 < max 1 nb) (hlat : 1 < lat) :
    vEnds sums ic 0 nb (ic + lat) = false := by
  unfold vEnds
  split
  · exact beq_false_of_ne (by omega)
  · exact beq_false_of_ne (by omega)

section
variable {r : Room} {k : Core} {f : Flight} {fv : VForm} {p : VPlan} (hform : vFormOf f.op = some fv)
  (hplan : vPlan f.op { dd := f.dd, da := f.da, db := f.db, dc := f.dc } = some p) (hlast : r.ctx.ic < f.c0 + f.lat)
include hform hplan hlast

/-- One cycle: the hold, the reads of a beat, the writes whose turn has come, and at the end what lands. -/
theorem vRun_eq : vRun r k f =
    let v := vInfo f.op (descFmt f.dd).isInt
    let h := r.holdBanks f
    let x := vStep h.1 k fv { dd := f.dd, da := f.da, db := f.db, dc := f.dc } p (f.afterHold h.2) (r.ctx.ic - f.c0)
      (r.ctx.ic + v.depth - 1)
    let z := flightWrites x.1 { x.2 with next := r.ctx.ic - f.c0 + 1 } 2 (match f.op with | .vscatter _ => true | _ => false)
    if vEnds v.q r.ctx.ic (r.ctx.ic - f.c0) p.nb (f.c0 + f.lat) then (finishV z.1 fv v.q z.2 p.nb, some z.2)
    else (z.1, some z.2) := by
  unfold vRun
  simp only [hform, hplan, if_neg (Nat.not_le.2 hlast)]
  rfl

end

/-- Where no write's turn has come nothing is written. -/
theorem flightWrites_later {r : Room} {f : Flight} (h : ∀ w ∈ f.writes, r.ctx.ic < w.cycle) (slot : Nat) (held : Bool) :
    flightWrites r f slot held = (r, f) := by
  have hnow : (f.writes.filter fun w => decide (w.cycle ≤ r.ctx.ic)) = [] :=
    List.filter_eq_nil_iff.2 fun w hw => by simpa using h w hw
  have hlater : (f.writes.filter fun w => !decide (w.cycle ≤ r.ctx.ic)) = f.writes :=
    List.filter_eq_self.2 fun w hw => by simpa using h w hw
  simp only [flightWrites, hnow, hlater, List.foldl_nil]

/-- The room with some landings more pending. -/
def Room.pending (r : Room) (l : List Landing) : Room := { r with ctx := { r.ctx with landings := r.ctx.landings ++ l } }

theorem Room.pending_nil (r : Room) : r.pending [] = r := by simp only [Room.pending, List.append_nil]

/-- What an operation lands at its end (R83, R214, R234): its sum, or its flags and its escape when it has any. -/
def endLandings (fv : VForm) (sums : Bool) (f : Flight) (nb : Nat) : List Landing :=
  let val : LandVal := if sums && !f.lost && nb != 0 then .q fv.qd f.acc.close.1 else .flagsOnly
  let raised := if sums then (if f.lost || nb = 0 then Raised.none else f.raised.merge (Raised.of1 0 f.acc.close.2)) else f.raised
  if val = .flagsOnly && raised = Raised.none && f.escape = none then []
  else [{ due := f.c0 + f.lat, val := val, slot := 2, raised := raised, escape := f.escape }]

theorem finishV_eq (r : Room) (fv : VForm) (sums : Bool) (f : Flight) (nb : Nat) :
    finishV r fv sums f nb = r.pending (endLandings fv sums f nb) := by
  unfold finishV endLandings
  extract_lets sum val raised
  split
  · exact r.pending_nil.symm
  · rfl

/-- Whatever an operation lands, it lands at the end of its latency from slot V. -/
theorem mem_endLandings {fv : VForm} {sums : Bool} {f : Flight} {nb : Nat} {x : Landing}
    (h : x ∈ endLandings fv sums f nb) : x.due = f.c0 + f.lat ∧ x.slot = 2 := by
  unfold endLandings at h
  extract_lets val raised at h
  split at h
  · exact absurd h List.not_mem_nil
  · exact List.mem_singleton.1 h ▸ ⟨rfl, rfl⟩

/-- A flight that is the same as at issue: what its cycles change is its progress. -/
def SameIssue (f t : Flight) : Prop := ∃ b i e a x l n w c,
  t = { f with buf := b, rowInvalid := i, rowExp := e, acc := a, escape := x, lost := l, next := n, writes := w, raised := c }

theorem Progressed.after_issue {f : Flight} {o : BeatOut} (h : Progressed f o.flight) (sums : Bool) (cycle : Nat) :
    SameIssue f (o.after sums cycle) := by
  obtain ⟨b, i, e, a, x, hf⟩ := h
  unfold BeatOut.after
  rw [hf]
  exact ⟨_, _, _, _, _, _, _, _, _, rfl⟩

theorem Progressed.writes {f t : Flight} (h : Progressed f t) : t.writes = f.writes := by
  obtain ⟨b, i, e, a, x, rfl⟩ := h
  rfl

section
variable (h : Room) (k : Core) (fv : VForm) (g : VRegs) (p : VPlan) (f : Flight) (j cycle : Nat)

theorem vStep_streamed : Streamed h (vStep h k fv g p f j cycle).1 := by
  unfold vStep
  split
  · dsimp only
    split <;> exact vRead_streamed _ _ _ _ _ _ _
  · exact .refl h

theorem vStep_issue : SameIssue f (vStep h k fv g p f j cycle).2 := by
  unfold vStep
  split
  · dsimp only
    split
    · exact (vRead_progressed _ _ _ _ _ _ _).after_issue _ _
    · exact ⟨_, _, _, _, _, _, _, _, _, rfl⟩
  · exact ⟨_, _, _, _, _, _, _, _, _, rfl⟩

/-- A beat forms one write at most, for the cycle given. -/
theorem vStep_writes : ∀ w ∈ (vStep h k fv g p f j cycle).2.writes, w ∈ f.writes ∨ w.cycle = cycle := by
  intro w hw
  unfold vStep at hw
  split at hw
  · dsimp only at hw
    split at hw
    · simp only [BeatOut.after, (vRead_progressed _ _ _ _ _ _ _).writes] at hw
      split at hw
      · exact .inl hw
      · exact (List.mem_append.1 hw).imp id fun hw => congrArg BeatWrite.cycle (List.mem_singleton.1 hw)
    · exact .inl hw
  · exact .inl hw

end

theorem Flight.mem_afterHold_writes {f : Flight} {held : Bool} {w : BeatWrite} (h : w ∈ (f.afterHold held).writes) : w ∈ f.writes := by
  unfold Flight.afterHold at h
  dsimp only at h
  generalize (_ && _ : Bool) = b at h
  cases b
  · exact h
  · exact absurd h List.not_mem_nil

theorem Flight.afterHold_issue (f : Flight) (held : Bool) : SameIssue f (f.afterHold held) := ⟨_, _, _, _, _, _, _, _, _, rfl⟩

theorem SameIssue.trans {f t u : Flight} (h : SameIssue f t) (h' : SameIssue t u) : SameIssue f u := by
  obtain ⟨b, i, e, a, x, l, n, w, c, rfl⟩ := h
  obtain ⟨b', i', e', a', x', l', n', w', c', rfl⟩ := h'
  exact ⟨_, _, _, _, _, _, _, _, _, rfl⟩

theorem SameIssue.kept {f t : Flight} (h : SameIssue f t) : t.op = f.op ∧ t.slot = f.slot ∧ t.c0 = f.c0 ∧ t.occ = f.occ ∧
    t.lat = f.lat ∧ t.rm = f.rm ∧
    ({ dd := t.dd, da := t.da, db := t.db, dc := t.dc } : VRegs) = { dd := f.dd, da := f.da, db := f.db, dc := f.dc } := by
  obtain ⟨b, i, e, a, x, l, n, w, c, rfl⟩ := h
  exact ⟨rfl, rfl, rfl, rfl, rfl, rfl, rfl⟩

theorem Room.holdBanks_streamed (r : Room) (f : Flight) : Streamed r (r.holdBanks f).1 := by
  unfold Room.holdBanks
  split
  · exact r.holdGroups_streamed _ _ _
  · exact .refl r

/-- The operation with its next beat noted. -/
def Flight.upTo (f : Flight) (n : Nat) : Flight := { f with next := n }

theorem SameIssue.upTo {f t : Flight} (h : SameIssue f t) (n : Nat) : SameIssue f (t.upTo n) :=
  h.trans ⟨_, _, _, _, _, _, _, _, _, rfl⟩

section
variable {r : Room} {k : Core} {f : Flight} {fv : VForm} {g : VRegs} {p : VPlan} {j : Nat}
  (hform : vFormOf f.op = some fv) (hg : g = { dd := f.dd, da := f.da, db := f.db, dc := f.dc })
  (hplan : vPlan f.op g = some p) (hj : r.ctx.ic - f.c0 = j) (hlast : r.ctx.ic < f.c0 + f.lat)
  (hwrites : ∀ w ∈ f.writes, r.ctx.ic < w.cycle) (hdeep : 2 ≤ (vInfo f.op (descFmt g.dd).isInt).depth)
include hform hg hplan hj hlast hwrites hdeep

/-- A cycle in which no write's turn comes: the hold, the reads of a beat, and what lands at the end. -/
theorem vRun_reads : vRun r k f =
    let v := vInfo f.op (descFmt g.dd).isInt
    let h := r.holdBanks f
    let x := vStep h.1 k fv g p (f.afterHold h.2) j (r.ctx.ic + v.depth - 1)
    let u := x.2.upTo (j + 1)
    (x.1.pending (if vEnds v.q r.ctx.ic j p.nb (f.c0 + f.lat) then endLandings fv v.q u p.nb else []), some u) := by
  subst hg hj
  rw [vRun_eq hform hplan hlast]
  dsimp only
  rw [flightWrites_later, finishV_eq]
  · dsimp only
    split
    · rfl
    · rw [Room.pending_nil]
      rfl
  · intro w hw
    rw [(vStep_streamed _ _ _ _ _ _ _ _).ic, (r.holdBanks_streamed f).ic]
    rcases vStep_writes _ _ _ _ _ _ _ _ w hw with hw | hw
    · exact hwrites w (Flight.mem_afterHold_writes hw)
    · dsimp only at hdeep
      omega

/-- Such a cycle leaves the operation in flight, and the room as accesses leave it, but for what it lands at its end. -/
theorem vRun_inFlight : ∃ t u ls, vRun r k f = (t.pending ls, some u) ∧ Streamed r t ∧ SameIssue f u ∧
    (∀ x ∈ ls, x.due = f.c0 + f.lat ∧ x.slot = 2) ∧
    (vEnds (vInfo f.op (descFmt g.dd).isInt).q r.ctx.ic j p.nb (f.c0 + f.lat) = false → ls = []) := by
  rw [vRun_reads hform hg hplan hj hlast hwrites hdeep]
  extract_lets v h x u
  have hu : SameIssue f u := ((f.afterHold_issue _).trans (vStep_issue _ _ _ _ _ _ _ _)).upTo _
  obtain ⟨-, -, hc0, -, hlat, -, -⟩ := hu.kept
  refine ⟨x.1, u, _, rfl, (r.holdBanks_streamed f).trans (vStep_streamed _ _ _ _ _ _ _ _), hu, fun y hy => ?_, fun hno => ?_⟩
  · split at hy
    · rw [← hc0, ← hlat]
      exact mem_endLandings hy
    · exact absurd hy List.not_mem_nil
  · rw [hno]
    rfl

end

/-! ### The checks of an issued instruction (R154, R158, R159, R207 to R209) -/

/-- Whether some region that is not empty has a finding of R154. -/
theorem checks_contain (l : List Nat) (c : DescCheck) :
    ((l.filter fun d => descCount d != 0).map descCheck).contains c = true ↔
      ¬ ∀ d ∈ l, descCount d ≠ 0 → descCheck d ≠ c := by
  simp only [List.contains_iff_mem, List.mem_map, List.mem_filter, bne_iff_ne, and_assoc, not_forall, not_not, exists_prop]

/-- Whether R154, or R233 of the pattern of a `vperm`, finds a region misaligned. -/
def vMisaligned (i : Instr) (g : VRegs) : Bool :=
  (((vReads i g ++ vWrites i g).filter fun d => descCount d != 0).map descCheck).contains .misaligned ||
    (match i with | .vperm _ => descBase g.db % 64 != 0 | _ => false)

section
variable {row : VectorRow} (hlaw : VectorLaw row) {f : VForm} {s : State} {g : VRegs} {p : VPlan}

/-- A plan is there, and what R154 and R207 ask of the descriptors holds, when the operation is legal. -/
theorem vCheck_illegal {i : Instr} {r : Room} (h : ∀ p, ¬ VLegal i f g p) : vCheck i f r g = .error (illegal 2) := by
  unfold vCheck
  dsimp only
  split
  · rfl
  · next hc =>
    simp only [Bool.or_eq_true, checks_contain, Bool.not_eq_true', not_or, not_not, Bool.not_eq_false] at hc
    split
    · rfl
    · next p hp => exact absurd ⟨hc.1, hc.2, hp⟩ (h p)

/-- The checks of a legal operation, in the order of R159. -/
theorem vCheck_legal {i : Instr} {r : Room} (h : VLegal i f g p) : vCheck i f r g =
    (let v := vInfo i (descFmt g.dd).isInt
     if r.ctx.ic < r.ctx.vFree || (v.q && r.qBusy f.qd) then .error (busy 2)
     else if vMisaligned i g then .error (misaligned 2)
     else if (vReads i g).all (r.regionOk 0 false) && (vWrites i g).all (r.regionOk 0 true) then .ok p
     else .error (escapes 2)) := by
  obtain ⟨hd, hf, hp⟩ := h
  have hc : (((vReads i g ++ vWrites i g).filter fun d => descCount d != 0).map descCheck).contains .illegal = false := by
    rw [← Bool.not_eq_true, checks_contain, not_not]
    exact hd
  unfold vCheck
  simp only [hc, hf, hp, Bool.not_true, Bool.or_self, Bool.false_eq_true, if_false]
  rfl

include hlaw

/-- R158, R83: the engine and the q-register are free when nothing makes the operation wait. -/
theorem vFree_iff (g : VRegs) : VFree (row.op f) s ↔
    (decide (s.me.ctx.ic < s.me.ctx.vFree) || ((vInfo (row.op f) (descFmt g.dd).isInt).q && s.me.qBusy f.qd)) = false := by
  have hform (f' : VForm) (h : row.op f = .vsum f' ∨ row.op f = .vdot f') : f' = f := by
    have := hlaw.form f
    rcases h with h | h <;> rw [h] at this <;> exact Option.some.inj this
  rw [Bool.or_eq_false_iff, decide_eq_false_iff_not, Nat.not_lt, VFree]
  refine and_congr_right fun _ => ⟨fun h => ?_, fun h f' hf' => ?_⟩
  · by_cases hq : (vInfo (row.op f) (descFmt g.dd).isInt).q = true
    · rw [h f ((hlaw.sums f _).1 hq), Bool.and_false]
    · rw [Bool.not_eq_true] at hq
      rw [hq, Bool.false_and]
  · obtain rfl := hform f' hf'
    rwa [(hlaw.sums f' _).2 hf', Bool.true_and] at h

omit hlaw

/-- R154, R209, R233: every region and the pattern are aligned when nothing is found misaligned. -/
theorem vAligned_iff {i : Instr} : VAligned i g ↔ vMisaligned i g = false := by
  unfold vMisaligned
  rw [Bool.or_eq_false_iff, ← Bool.not_eq_true, checks_contain, not_not, VAligned]
  refine and_congr_right fun hregions => ?_
  split
  · next f =>
    rw [bne_eq_false_iff_eq]
    exact ⟨fun h => h f rfl, fun h _ _ => h⟩
  · next hne => exact iff_of_true (fun f hf => absurd hf (hne f)) rfl

theorem vInside_iff {i : Instr} {r : Room} : VInside i g r ↔
    ((vReads i g).all (r.regionOk 0 false) && (vWrites i g).all (r.regionOk 0 true)) = true := by
  rw [Bool.and_eq_true, List.all_eq_true, List.all_eq_true, VInside]

end

section
variable {i : Instr} {f : VForm} {s : State} (hw : i.wellFormed = true)
include hw

/-- An instruction whose checks find a cause takes it (R159). -/
theorem vIssue_trap {c : Cause} (h : vCheck i f s.me (vRegs s f) = .error c) :
    vIssue i f s = .next (s.takeTrap c s.me.ctx.pc) := by
  refine roomOp_trap hw ?_
  dsimp only
  rw [← vRegs, h]

/-- The operation that an issue puts in flight (R158, R211, R235). -/
def issued (i : Instr) (f : VForm) (s : State) (p : VPlan) : Flight :=
  let g := vRegs s f
  let occ := max 1 p.nb
  let lat := occ + (vInfo i (descFmt g.dd).isInt).depth - 1
  let tbl := match i with | .vgather _ => some g.da | .vscatter _ => some g.dd | _ => none
  { op := i, slot := 2, pc := s.me.ctx.pc, tile := none, fill := [], c0 := s.me.ctx.ic, occ := occ, lat := lat
    rm := s.me.ctx.mode f.rm.toNat, dd := g.dd, da := g.da, db := g.db, dc := g.dc, next := 0, lost := false
    hold := match tbl with | some d => (match descIv d with | some a => s.me.groupsOf a | none => []) | none => []
    holdEnd := s.me.ctx.ic + lat, buf := [], rowInvalid := false, rowExp := 0, acc := s.me.ctx.readQ f.qd
    raised := Raised.none, escape := none, writes := [] }

/-- An instruction whose checks pass puts its operation in flight and makes its first cycle. -/
theorem vIssue_ok {p : VPlan} (h : vCheck i f s.me (vRegs s f) = .ok p) {t : Room} {fl : Flight}
    (hrun : vRun { s.me with ctx.vFree := s.me.ctx.ic + max 1 p.nb } (s.coreOf s.me.core) (issued i f s p) = (t, some fl)) :
    vIssue i f s = .next { s with me := { t with ctx := { t.ctx with flights := t.ctx.flights ++ [fl] } } } := by
  refine roomOp_ok hw ?_
  dsimp only
  rw [← vRegs, h]
  exact congrArg (fun x : Room × Option Flight =>
    Except.ok { x.1 with ctx := { x.1.ctx with flights := x.1.ctx.flights ++ x.2.toList } }) hrun

end

/-- R207 to R211, R158: a legal operation on regions that are aligned and inside, whose engine is free, starts. -/
theorem vIssue_starts {row : VectorRow} (hlaw : VectorLaw row) {f : VForm} {s : State} {p : VPlan}
    (hw : (row.op f).wellFormed = true) (hp : vPlan (row.op f) (vRegs s f) = some p)
    (hok : vCheck (row.op f) f s.me (vRegs s f) = .ok p) :
    ∃ t fl, vIssue (row.op f) f s = .next t ∧ VStarted s t fl ∧ SameIssue (issued (row.op f) f s p) fl := by
  have hdepth := hlaw.depth_eq f (vRegs s f).dd
  have hdeep := hlaw.two_le (vRegs s f).dd
  have hlat : (issued (row.op f) f s p).lat = max 1 p.nb + row.p (vRegs s f).dd - 1 := by
    simp only [issued, hdepth]
  obtain ⟨t, fl, ls, hrun, ht, hfl, hls, hends⟩ :=
    vRun_inFlight (r := { s.me with ctx.vFree := s.me.ctx.ic + max 1 p.nb }) (k := s.coreOf s.me.core)
      (f := issued (row.op f) f s p) (hlaw.form f) rfl hp (Nat.sub_self s.me.ctx.ic)
      (Nat.lt_add_of_pos_right (by rw [hlat]; omega)) (fun w hw => absurd hw List.not_mem_nil) (hdepth ▸ hdeep)
  obtain ⟨-, -, -, hocc, hlat', -, -⟩ := hfl.kept
  refine ⟨_, fl, vIssue_ok hw hok hrun, ⟨⟨ls, congrArg (· ++ ls) ht.landings, fun h1 => hends ?_, fun x hx => ?_⟩, ?_⟩, hfl⟩
  · rw [hocc] at h1
    exact vEnds_first _ _ h1 (by rw [hlat]; omega)
  · rw [hlat']
    exact hls x hx
  · obtain ⟨ports, ecc, miss, due, poison, rfl⟩ := ht
    rw [hocc]
    rfl

/-- Settles O30: what passes every check starts, and the first check that fails gives the cause. -/
theorem vectorIssue : Obligations.VectorIssue := by
  unfold Obligations.VectorIssue
  refine ⟨fun row hrow f s p hw hlegal hfree haligned hinside => ?_, fun row hrow f s hw => ⟨fun hillegal => ?_,
    fun p hlegal => ⟨fun hfree => ?_, fun hfree haligned => ?_, fun hfree haligned hinside => ?_⟩⟩⟩
  all_goals
    have hlaw := vectorLaw row hrow
    rw [hlaw.exec]
  · have hok : vCheck (row.op f) f s.me (vRegs s f) = .ok p := by
      simp [vCheck_legal hlegal, (vFree_iff hlaw _).1 hfree, vAligned_iff.1 haligned, vInside_iff.1 hinside]
    obtain ⟨t, fl, hexec, hstart, hfl⟩ := vIssue_starts hlaw hw hlegal.2.2 hok
    obtain ⟨hop, hslot, hc0, hocc, hlat, hrm, hregs⟩ := hfl.kept
    exact ⟨t, fl, hexec, hstart, hop, hslot, hc0, hocc, hlat.trans (by simp only [issued, hlaw.depth_eq]), hrm, hregs⟩
  · exact vIssue_trap hw (vCheck_illegal hillegal)
  · rw [vFree_iff hlaw (vRegs s f), Bool.not_eq_false] at hfree
    exact vIssue_trap hw ((vCheck_legal hlegal).trans (if_pos hfree))
  · rw [vFree_iff hlaw (vRegs s f)] at hfree
    rw [vAligned_iff, Bool.not_eq_false] at haligned
    exact vIssue_trap hw (by simp [vCheck_legal hlegal, hfree, haligned, misaligned])
  · rw [vFree_iff hlaw (vRegs s f)] at hfree
    rw [vInside_iff, Bool.not_eq_true] at hinside
    exact vIssue_trap hw (by simp [vCheck_legal hlegal, hfree, vAligned_iff.1 haligned, hinside, escapes])

end Sys2Proof.Machine
end

section
/-! PROOFS. The beats of the vector operations (R211, R213, R214, R218 to R240: O32). -/

namespace Sys2Proof.Machine

open Sys2Proof.Claims

/-! ### Flags at their value indices (R214) -/

theorem Raised.add_none (r : Raised) (i : Nat) : r.add i Fl.none = r := rfl

theorem flagsAt_silent (l : List (Nat × Fl)) (h : ∀ x ∈ l, x.2 = Fl.none) : flagsAt l = Raised.none := by
  refine List.foldlRecOn (motive := fun r => r = Raised.none) l _ rfl fun r hr x hx => ?_
  rw [h x hx, Raised.add_none, hr]

theorem raiseVals_eq (nv : Nat) (vals : List (Nat × Nat)) (fls : List Fl) :
    raiseVals nv vals fls = flagsAt ((vals.map fun x => x.1 * nv + x.2).zip fls) := by
  simp only [raiseVals, flagsAt, List.zip_map_left, List.foldl_map, Prod.map_fst, Prod.map_snd, id]

/-- Flags of consecutive values are those of each at its index. -/
theorem Raised.addList_eq (r : Raised) (i : Nat) (l : List Fl) : r.addList i l =
    ((List.range l.length).map fun x => (i + x, l.getD x Fl.none)).foldl (fun r x => r.add x.1 x.2) r := by
  induction l generalizing r i with
  | nil => rfl
  | cons f l ih =>
    simp only [Raised.addList, ih, List.length_cons, List.range_succ_eq_map, List.map_cons, List.foldl_cons, List.map_map,
      Nat.add_zero, List.getD_cons_zero, Function.comp_def, List.getD_cons_succ, Nat.succ_eq_add_one, Nat.add_assoc,
      Nat.add_comm 1]

/-- The same of the first n of a list of flags. -/
theorem Raised.addList_take (r : Raised) (i : Nat) {n : Nat} {l : List Fl} (h : n ≤ l.length) : r.addList i (l.take n) =
    ((List.range n).map fun x => (i + x, l.getD x Fl.none)).foldl (fun r x => r.add x.1 x.2) r := by
  rw [Raised.addList_eq, List.length_take, min_eq_left h]
  refine congrArg (List.foldl _ r) (List.map_congr_left fun x hx => ?_)
  rw [List.getD_eq_getElem?_getD, List.getElem?_take_of_lt (List.mem_range.1 hx), List.getD_eq_getElem?_getD]

/-- The indices of the values of one beat rise from its first (R210, R214). -/
theorem VPlan.beat_zipIdx (p : VPlan) (j : Nat) (enc : Nat × Nat → Nat) : ((p.beat j).map enc).zipIdx =
    (List.range (min p.n (p.nv - j % p.b * p.n))).map fun x => (enc (j / p.b, j % p.b * p.n + x), x) := by
  refine List.ext_getElem (by simp [VPlan.beat]) fun i h1 h2 => ?_
  simp [VPlan.beat]

/-- R236, R240: the signalling NaNs of a beat. -/
theorem beat_snans (p : VPlan) (j d : Nat) (enc : Nat × Nat → Nat) :
    ((p.beat j).map enc).zipIdx.foldl (fun r x =>
      if (descVal d x.1).isSnan then r.add (j / p.b * p.nv + j % p.b * p.n + x.2) Fl.signalling else r) Raised.none =
    flagsAt ((p.beat j).map fun x => (x.1 * p.nv + x.2, if (descVal d (enc x)).isSnan then Fl.signalling else Fl.none)) := by
  rw [p.beat_zipIdx]
  simp only [flagsAt, VPlan.beat, List.foldl_map]
  congr 1
  funext r x
  split
  · rw [Nat.add_assoc]
  · rfl

/-! ### What a beat makes of what it reads (R218 to R240)

One equation per kind of instruction: its reads, and the write or the state of the row that they form. -/

/-- The reads of DA, DB and DC, one after another: the room, the encodings of each, and whether all took place. -/
def Room.readThree (r : Room) (k : Core) (f : Flight) (g : VRegs) (vals bVals : List (Nat × Nat)) :
    Room × (List Nat × List Nat × List Nat) × Bool :=
  let v := vInfo f.op (descFmt g.dd).isInt
  let a := r.readOn k f v.a g.da vals
  let b := a.1.readOn k f v.b g.db bVals
  let c := b.1.readOn k f v.c g.dc vals
  (c.1, (a.2.1, b.2.1, c.2.1), a.2.2 && b.2.2 && c.2.2)

/-- The value-by-value result of a beat from the encodings read. -/
def valuesOut (fv : VForm) (g : VRegs) (p : VPlan) (f : Flight) (vals : List (Nat × Nat)) (as bs cs : List Nat) : BeatOut :=
  let xs := (List.range vals.length).map fun x => vValue f.op fv f.rm g (as.getD x 0) (bs.getD x 0) (cs.getD x 0)
  outValues f g.dd vals (xs.map Prod.fst) (raiseVals p.nv vals (xs.map Prod.snd))

/-- R233: the pattern of a `vperm` is read in its first beat. -/
def permPattern (g : VRegs) (j : Nat) : List (Nat × Nat) :=
  if j = 0 then (List.range (descCount g.db)).map fun x => (0, x) else []

/-- R233: the values of a beat, picked from their groups by the pattern. -/
def permOut (g : VRegs) (f : Flight) (vals : List (Nat × Nat)) (pat as : List Nat) : BeatOut :=
  outValues { f with buf := pat } g.dd vals ((List.range vals.length).map fun x =>
    as.getD (x / descCount g.db * descCount g.db + pat.getD (x % descCount g.db) 0 % descCount g.db) 0) Raised.none

/-- R240: the extreme of a row, written when the row has been read, with the signalling NaNs of the beat. -/
def extremeOut (greater num : Bool) (p : VPlan) (g : VRegs) (f : Flight) (row k0 : Nat) (encs : List Nat) (rowEnd : Bool) :
    BeatOut :=
  let sn := encs.zipIdx.foldl (fun r x =>
    if (descVal g.da x.1).isSnan then r.add (row * p.nv + k0 + x.2) Fl.signalling else r) Raised.none
  let z := rowResult greater num g (f.buf ++ encs)
  if rowEnd then outValues { f with buf := [] } g.dd [(0, row)] [z.1] (sn.merge (Raised.of1 row z.2))
  else { flight := { f with buf := f.buf ++ encs }, cells := [], halves := [], raised := sn }

/-- R222: the conversion of a beat, to blocks or value by value. -/
def convertOut (p : VPlan) (g : VRegs) (f : Flight) (j : Nat) (encs : List Nat) : BeatOut :=
  if (descFmt g.dd).isBlk then quantOut p g f (j / p.b) (j % p.b * p.n) encs (j % p.b + 1 == p.b)
  else
    outValues f g.dd (p.beat j) ((encs.map fun e => cvtFn f.rm g.dd g.da e).map Prod.fst)
      (raiseVals p.nv (p.beat j) ((encs.map fun e => cvtFn f.rm g.dd g.da e).map Prod.snd))

/-- A beat reads its streams one after another, and forms what `out` makes of their encodings. -/
def FormsFrom (r : Room) (k : Core) (fv : VForm) (g : VRegs) (p : VPlan) (f : Flight) (j : Nat) (vals bVals : List (Nat × Nat))
    (out : List Nat → List Nat → List Nat → BeatOut) : Prop :=
  vRead r k fv g p f j = (let y := r.readThree k f g vals bVals; (y.1, out y.2.1.1 y.2.1.2.1 y.2.1.2.2, y.2.2))

section
variable (r : Room) (k : Core) (fv : VForm) (g : VRegs) (p : VPlan) {f : Flight} (j : Nat) {f' : VForm}

theorem vRead_each : ∀ row ∈ vectorRows, row.each = true → ∀ f', f.op = row.op f' →
    FormsFrom r k fv g p f j (p.beat j) (p.beat j) fun as bs cs => valuesOut fv g p f (p.beat j) as bs cs := by
  simp only [vectorRows, List.cons_append, List.nil_append, List.forall_mem_cons, List.not_mem_nil, Bool.false_eq_true,
    false_implies, true_implies, implies_true, true_and, and_true]
  and_intros
  all_goals
    intro f' hop
    unfold FormsFrom vRead Room.readThree valuesOut
    simp only [hop]
    rfl

theorem vRead_vcvt (hop : f.op = .vcvt f') :
    FormsFrom r k fv g p f j (p.beat j) (p.beat j) fun as _ _ => convertOut p g f j as := by
  unfold FormsFrom vRead Room.readThree convertOut
  simp only [hop]
  rfl

theorem vRead_vperm (hop : f.op = .vperm f') : FormsFrom r k fv g p f j (p.beat j) (permPattern g j)
    fun as bs _ => permOut g f (p.beat j) (if j = 0 then bs else f.buf) as := by
  unfold FormsFrom vRead Room.readThree permOut
  simp only [hop]
  rfl

theorem vRead_vbmax (hop : f.op = .vbmax f') : FormsFrom r k fv g p f j (p.beat j) (p.beat j)
    fun as _ _ => bmaxOut p g f (j / p.b) (j % p.b * p.n) as (j % p.b + 1 == p.b) := by
  unfold FormsFrom vRead Room.readThree
  simp only [hop]
  rfl

theorem vRead_vsplit (hop : f.op = .vsplit f') :
    let jj := j / (2 * p.b) * p.b + j % p.b
    FormsFrom r k fv g p f j (p.beat jj) []
      fun as _ _ => splitOut p g f (jj / p.b) (jj % p.b * p.n) (j / p.b % 2 == 1) as (jj % p.b + 1 == p.b) := by
  unfold FormsFrom vRead Room.readThree
  simp only [hop]
  rfl

theorem vRead_vrand (hop : f.op = .vrand f') : FormsFrom r k fv g p f j (p.beat j) (p.beat j) fun _ _ _ =>
    outValues f g.dd (p.beat j) ((p.beat j).map fun x => (randFn (fv.fn == 1) g.dd g.db g.dc x.1 x.2).1) Raised.none := by
  unfold FormsFrom vRead Room.readThree
  simp only [hop]
  rfl

theorem vRead_sum (dot : Bool) (hop : f.op = if dot then .vdot f' else .vsum f') : FormsFrom r k fv g p f j (p.beat j)
    (p.beat j) fun as bs _ => sumOut p dot g f (p.beat j) as (if dot then bs else []) := by
  unfold FormsFrom vRead Room.readThree
  cases dot <;> (simp only [hop]; rfl)

theorem vRead_extreme (greater : Bool) (hop : f.op = if greater then .vrmax f' else .vrmin f') :
    FormsFrom r k fv g p f j (p.beat j) (p.beat j)
      fun as _ _ => extremeOut greater (fv.fn == 1) p g f (j / p.b) (j % p.b * p.n) as (j % p.b + 1 == p.b) := by
  unfold FormsFrom vRead Room.readThree extremeOut
  cases greater <;> (simp only [hop]; rfl)

theorem vRead_vmov (hop : f.op = .vmov f') (hblk : (descFmt g.da).isBlk = false) : vRead r k fv g p f j =
    (let y := r.readOn k f true g.da (p.beat j)
     (y.1, outValues f g.dd (p.beat j) y.2.1 Raised.none, y.2.2)) := by
  unfold vRead
  simp only [hop, hblk]
  rfl

theorem vRead_vmov_blocks (hop : f.op = .vmov f') (hblk : (descFmt g.da).isBlk = true) :
    (vRead r k fv g p f j).2.1 = blockMove r k p g f (p.beat j) := by
  unfold vRead
  simp only [hop, hblk]
  rfl

end

/-! ### Reads through a check that finds nothing (R97, R99) -/

theorem Room.encAt_congr {r t : Room} (h : t.scratch = r.scratch) (d : Nat) : t.encAt d = r.encAt d := by
  funext v
  unfold Room.encAt
  rw [h]

section
variable {k : Core} (hk : k.errors = [] ∧ k.failed.length < 3)
include hk

theorem clean_of_undamaged : k.clean = true := by
  simp [Core.clean, hk]

theorem seen_of_undamaged (r : Room) : r.seen k = r := by
  simp [Room.seen, hk]

theorem byteBad_of_undamaged (r : Room) (a : Nat) : r.byteBad k a = false := by
  simp [Room.byteBad, clean_of_undamaged hk]

/-- A stream whose accesses take place reads the encodings that the scratchpad holds. -/
theorem readStream_undamaged {r : Room} {slot c0 : Nat} {lost : Bool} {d : Nat} {vals : List (Nat × Nat)}
    (h : (r.readStream k slot c0 lost d vals).2.2 = true) :
    (r.readStream k slot c0 lost d vals).2.1 = vals.map (r.encAt d) := by
  unfold Room.readStream at h ⊢
  dsimp only at h ⊢
  split at h
  · simp [*, readChecked_clean _ (clean_of_undamaged hk), seen_of_undamaged hk]
  · cases h

theorem readOn_undamaged {r : Room} {f : Flight} {on : Bool} {d : Nat} {vals : List (Nat × Nat)}
    (h : (r.readOn k f on d vals).2.2 = true) :
    (r.readOn k f on d vals).2.1 = if on then vals.map (r.encAt d) else [] := by
  unfold Room.readOn at h ⊢
  cases on
  · rfl
  · exact readStream_undamaged hk h

/-- What a beat forms of three streams, it forms of the encodings that the scratchpad holds. -/
theorem FormsFrom.out {r : Room} {fv : VForm} {g : VRegs} {p : VPlan} {f : Flight} {j : Nat} {vals bVals : List (Nat × Nat)}
    {out : List Nat → List Nat → List Nat → BeatOut} (h : FormsFrom r k fv g p f j vals bVals out)
    (hok : (vRead r k fv g p f j).2.2 = true) :
    let v := vInfo f.op (descFmt g.dd).isInt
    (vRead r k fv g p f j).2.1 = out (if v.a then vals.map (r.encAt g.da) else []) (if v.b then bVals.map (r.encAt g.db) else [])
      (if v.c then vals.map (r.encAt g.dc) else []) := by
  rw [h] at hok ⊢
  unfold Room.readThree at hok ⊢
  dsimp only at hok ⊢
  simp only [Bool.and_eq_true] at hok
  obtain ⟨⟨ha, hb⟩, hc⟩ := hok
  rw [readOn_undamaged hk ha, readOn_undamaged hk hb, readOn_undamaged hk hc]
  have hab := Room.readOn_streamed r k f (vInfo f.op (descFmt g.dd).isInt).a g.da vals
  have hbc := hab.trans (Room.readOn_streamed _ k f (vInfo f.op (descFmt g.dd).isInt).b g.db bVals)
  rw [Room.encAt_congr hab.scratch, Room.encAt_congr hbc.scratch]

theorem vRead_vmov_out {r : Room} {fv : VForm} {g : VRegs} {p : VPlan} {f : Flight} {j : Nat} {f' : VForm}
    (hop : f.op = .vmov f') (hblk : (descFmt g.da).isBlk = false) (hok : (vRead r k fv g p f j).2.2 = true) :
    (vRead r k fv g p f j).2.1 = outValues f g.dd (p.beat j) ((p.beat j).map (r.encAt g.da)) Raised.none := by
  rw [vRead_vmov r k fv g p j hop hblk] at hok ⊢
  exact congrArg (outValues f g.dd (p.beat j) · Raised.none) (readOn_undamaged hk hok)

/-- R224: what a move copies of a block is what the scratchpad holds. -/
theorem elemSeen_undamaged (r : Room) (fmt : Fmt) (a : Nat) : r.elemSeen k fmt a = Memory.read r.scratch a fmt.elemBytes := by
  simp [Room.elemSeen, byteBad_of_undamaged hk, seen_of_undamaged hk]

/-- R234: a gather looks up the index that its beat reads. -/
theorem vRead_vgather_out {r : Room} {fv : VForm} {g : VRegs} {p : VPlan} {f : Flight} {j : Nat} {f' : VForm}
    (hop : f.op = .vgather f') (hok : (vRead r k fv g p f j).2.2 = true) {v : Nat × Nat} (hv : p.beat j = [v]) :
    (vRead r k fv g p f j).2.1 = tableOut r p true g f v (r.encAt g.db v) 0 := by
  have hread : (r.readOn k f true g.db (p.beat j)).2.2 = true := by
    unfold vRead at hok
    simp only [hop] at hok
    exact hok
  have hout (bad : ∀ a, r.byteBad k a = false) : (vRead r k fv g p f j).2.1 = tableOut (r.seen k) p true g f
      ((p.beat j).getD 0 (0, 0)) ((r.readOn k f true g.db (p.beat j)).2.1.getD 0 0) 0 := by
    have hany (l : List Nat) : l.any (r.byteBad k) = false := by simp [bad]
    unfold vRead
    simp only [hop, hany, Bool.and_false]
    rfl
  rw [hout (byteBad_of_undamaged hk r), readOn_undamaged hk hread, seen_of_undamaged hk, hv]
  rfl

/-- R234: a scatter places the value that its beat reads at the index that it reads. -/
theorem vRead_vscatter_out {r : Room} {fv : VForm} {g : VRegs} {p : VPlan} {f : Flight} {j : Nat} {f' : VForm}
    (hop : f.op = .vscatter f') (hok : (vRead r k fv g p f j).2.2 = true) {v : Nat × Nat} (hv : p.beat j = [v]) :
    (vRead r k fv g p f j).2.1 = tableOut r p false g f v (r.encAt g.db v) (r.encAt g.da v) := by
  have heq : vRead r k fv g p f j = (let a := r.readOn k f true g.da (p.beat j)
      let b := a.1.readOn k f true g.db (p.beat j)
      (b.1, tableOut r p false g f ((p.beat j).getD 0 (0, 0)) (b.2.1.getD 0 0) (a.2.1.getD 0 0), a.2.2 && b.2.2)) := by
    unfold vRead
    simp only [hop]
    rfl
  rw [heq] at hok ⊢
  dsimp only at hok ⊢
  rw [Bool.and_eq_true] at hok
  have ha := Room.readOn_streamed r k f true g.da (p.beat j)
  rw [readOn_undamaged hk hok.1, readOn_undamaged hk hok.2, Room.encAt_congr ha.scratch, hv]
  rfl

end

/-! ### The cycle of a beat (R211, R213) -/

theorem heldRoom_streamed (r : Room) (fl : Flight) : Streamed r (heldRoom r fl) := by
  unfold heldRoom
  split
  · exact .refl r
  · exact r.holdGroups_streamed _ _ _

/-- An operation whose hold takes every bank goes on as it is. -/
theorem holdBanks_held {r : Room} {fl : Flight} (h : fl.hold ≠ [] → (r.holdGroups 2 fl.c0 fl.hold).2 = true) :
    r.holdBanks fl = (heldRoom r fl, true) := by
  unfold Room.holdBanks heldRoom
  by_cases hnil : fl.hold = []
  · simp [hnil]
  · simp only [List.isEmpty_eq_false_iff.2 hnil, if_neg hnil, Bool.not_false, if_true]
    exact Prod.ext rfl (h hnil)

theorem afterHold_held (fl : Flight) : fl.afterHold true = fl := by
  unfold Flight.afterHold
  simp only [Bool.not_true, Bool.or_false, Bool.and_false, Bool.false_eq_true, if_false]

/-- The operation after its beat j, all reads of which took place. -/
def afterBeat (r : Room) (k : Core) (f : VForm) (fl : Flight) (g : VRegs) (p : VPlan) (j : Nat) : Flight :=
  let v := vInfo fl.op (descFmt g.dd).isInt
  ((vRead (heldRoom r fl) k f g p fl j).2.1.after v.q (r.ctx.ic + v.depth - 1)).upTo (j + 1)

section
variable {row : VectorRow} {f : VForm} {r : Room} {k : Core} {fl : Flight} {g : VRegs} {p : VPlan} {j : Nat}
  (hlaw : VectorLaw row) (h : AtBeat row f r k fl g p j)
include hlaw h

/-- A beat leaves its operation in flight; only a sum can land with its last. -/
theorem vRun_beat : vRun r k fl =
    let y := vRead (heldRoom r fl) k f g p fl j
    let q := (vInfo fl.op (descFmt g.dd).isInt).q
    let u := if y.2.2 then afterBeat r k f fl g p j else { fl with lost := true }.upTo (j + 1)
    (y.1.pending (if q && j + 1 == p.nb then endLandings f q u p.nb else []), some u) := by
  obtain ⟨hop, hregs, hplan, ⟨hj, hic⟩, hlat, hwrites, -, hlost, hheld⟩ := h
  have hform : vFormOf fl.op = some f := hop ▸ hlaw.form f
  have hdepth : (vInfo fl.op (descFmt g.dd).isInt).depth = row.p g.dd := hop ▸ hlaw.depth_eq f g.dd
  have hdeep := hlaw.two_le g.dd
  have hends (q : Bool) : vEnds q r.ctx.ic j p.nb (fl.c0 + fl.lat) = (q && j + 1 == p.nb) := by
    unfold vEnds
    cases q
    · exact beq_false_of_ne (by omega)
    · rw [max_eq_right (by omega)]
      rfl
  have hcycle : r.ctx.ic - fl.c0 = j := by omega
  rw [vRun_reads hform hregs hplan hcycle (by omega) hwrites (hdepth ▸ hdeep), holdBanks_held hheld]
  dsimp only
  rw [afterHold_held, hends]
  unfold vStep
  simp only [hj, hlost, if_true, Bool.not_false, Bool.and_true]
  split
  · rfl
  · rfl

end

/-! ### What a beat of each instruction forms (R211, R214, R218 to R240) -/

theorem heldRoom_encAt (r : Room) (fl : Flight) (d : Nat) : (heldRoom r fl).encAt d = r.encAt d :=
  Room.encAt_congr (heldRoom_streamed r fl).scratch d

/-- The i-th encoding that a beat has read of a stream, or 0 of one that the operation has not. -/
theorem encs_getD (on : Bool) (enc : Nat × Nat → Nat) (vals : List (Nat × Nat)) {i : Nat} (hi : i < vals.length) :
    (if on then vals.map enc else []).getD i 0 = if on then enc vals[i] else 0 := by
  cases on
  · rfl
  · simp [hi]

/-- The value-by-value results of a beat, with their flags at their value indices. -/
theorem valuesOut_eq (fv : VForm) (g : VRegs) (p : VPlan) (f : Flight) (vals : List (Nat × Nat)) (a b c : Bool)
    (ea eb ec : Nat × Nat → Nat) :
    let res := vals.map fun x => vValue f.op fv f.rm g (if a then ea x else 0) (if b then eb x else 0) (if c then ec x else 0)
    valuesOut fv g p f vals (if a then vals.map ea else []) (if b then vals.map eb else []) (if c then vals.map ec else []) =
      outValues f g.dd vals (res.map Prod.fst) (flagsAt ((vals.map fun x => x.1 * p.nv + x.2).zip (res.map Prod.snd))) := by
  intro res
  have hres : ((List.range vals.length).map fun x => vValue f.op fv f.rm g ((if a then vals.map ea else []).getD x 0)
      ((if b then vals.map eb else []).getD x 0) ((if c then vals.map ec else []).getD x 0)) = res := by
    refine List.ext_getElem (by simp [res]) fun i hi _ => ?_
    rw [List.length_map, List.length_range] at hi
    simp only [List.getElem_map, List.getElem_range, encs_getD _ _ _ hi, res]
  unfold valuesOut
  dsimp only
  rw [hres, raiseVals_eq]

/-- The flags of a list of values, each with its place from the first on. -/
theorem range_zip_flags (i : Nat) (l : List Fl) : ((List.range l.length).zip l).map (fun x => (i + x.1, x.2)) =
    (List.range l.length).map fun x => (i + x, l.getD x Fl.none) := by
  refine List.ext_getElem (by simp) fun n h1 h2 => ?_
  simp only [List.length_map, List.length_range] at h2
  simp [h2]

section
variable {p : VPlan} {g : VRegs} {f : Flight} {row k0 i m n : Nat} {encs : List Nat}

theorem splitOut_first (hfirst : i % 2 = 0) (hmid : m ≠ n) : splitOut p g f row k0 (i % 2 == 1) encs (m == n) =
    BeatOut.nothing { f with buf := f.buf ++ encs } := by
  simp [splitOut, hfirst, hmid]

theorem splitOut_end (hfirst : i % 2 = 0) (hend : m = n) : splitOut p g f row k0 (i % 2 == 1) encs (m == n) =
    (let s := splitExp ((f.buf ++ encs).map (descVal g.da))
     outValues { f with buf := [], rowInvalid := s.1, rowExp := s.2.1 } g.db [(0, row)] [wrapTo 16 s.2.1]
       (flagsAt (((List.range s.2.2.length).zip s.2.2).map fun x => (row * p.nv + x.1, x.2)))) := by
  simp only [range_zip_flags, flagsAt, ← Raised.addList_eq]
  simp [splitOut, hfirst, hend, outValues]

theorem splitOut_second (hsecond : i % 2 = 1) (rowEnd : Bool) : splitOut p g f row k0 (i % 2 == 1) encs rowEnd =
    { flight := f, halves := [], raised := Raised.none, cells := (List.range 8).flatMap fun q =>
        (valCells g.dd ((List.range encs.length).map fun x => (8 * row + q, k0 + x))
          (encs.map fun e => wrapTo 8 ((splitDigits f.rowInvalid f.rowExp (descVal g.da e)).getD q 0))).1 } := by
  simp [splitOut, hsecond, Function.comp_def]

end

theorem quantBlock_flags_length (w : Nat) (vals : List Val) : (quantBlock w vals).2.2.length = vals.length := by
  unfold quantBlock
  dsimp only
  split
  · exact List.length_map _
  · split
    · exact List.length_map _
    · exact List.length_map _

/-- R222: the 32 values of a block: those of the row that are left, and zeros after them. -/
theorem block_values (d : Nat) (all : List Nat) (b : Nat) :
    ((all.drop (32 * b)).take 32).map (descVal d) ++
      List.replicate (32 - (((all.drop (32 * b)).take 32).map (descVal d)).length) Val.zero =
    (List.range 32).map fun i => match all[32 * b + i]? with | some e => descVal d e | none => Val.zero := by
  refine List.ext_getElem (by simp) fun i h1 h2 => ?_
  have hi : i < 32 := by simpa using h2
  simp only [List.getElem_map, List.getElem_range]
  rcases Nat.lt_or_ge (32 * b + i) all.length with hin | hout
  · rw [List.getElem_append_left (by simp; omega)]
    simp [hin]
  · rw [List.getElem_append_right (by simp; omega), List.getElem?_eq_none hout]
    simp

section
variable {p : VPlan} {g : VRegs} {f : Flight} {row k0 w : Nat} {encs : List Nat} {rowEnd : Bool}

/-- R222: the flags of a beat's blocks, each at its value index. -/
theorem quantOut_eq (hblk : descFmt g.dd = .blk w) :
    let all := f.buf ++ encs
    let first := k0 - f.buf.length
    let full := if rowEnd then cdiv all.length 32 else all.length / 32
    let q (b : Nat) := quantBlock w ((List.range 32).map fun i =>
      match all[32 * b + i]? with | some e => descVal g.da e | none => Val.zero)
    quantOut p g f row k0 encs rowEnd =
      { flight := { f with buf := all.drop (32 * full) }, halves := []
        cells := (List.range full).flatMap fun b =>
          cellsAt (elemAddr g.dd row (first / 32 + b)).toNat (blockBytes w (q b).1 (q b).2.1)
        raised := flagsAt ((List.range full).flatMap fun b => (List.range (min 32 (all.length - 32 * b))).map fun i =>
          (row * p.nv + (first + 32 * b) + i, (q b).2.2.getD i Fl.none)) } := by
  intro all first full q
  unfold quantOut
  simp only [hblk, block_values]
  have hflags (b : Nat) (r : Raised) : r.addList (row * p.nv + (first + 32 * b))
      ((q b).2.2.take ((all.drop (32 * b)).take 32).length) =
      ((List.range (min 32 (all.length - 32 * b))).map fun i =>
        (row * p.nv + (first + 32 * b) + i, (q b).2.2.getD i Fl.none)).foldl (fun r x => r.add x.1 x.2) r := by
    rw [List.length_take, List.length_drop]
    exact Raised.addList_take _ _ (by simp [q, quantBlock_flags_length])
  simp only [flagsAt, List.foldl_flatMap, ← hflags, List.foldl_map, List.flatMap_map]
  rfl

end

/-- A sum of products with the flags of each at the index of its values (R83, R239). -/
theorem foldl_gather_at {α : Type} (c : QCls) (at_ : α → Nat) (x : α → Val × Val) (l : List α) (q : Quire) (r : Raised) :
    l.foldl (fun (st : Quire × Raised) v => ((st.1.gather c (x v).1 (x v).2).1, st.2.add (at_ v) (st.1.gather c (x v).1 (x v).2).2))
      (q, r) = (sums c q (l.map x), ((l.map at_).zip (gatherFlags c q (l.map x))).foldl (fun r x => r.add x.1 x.2) r) := by
  induction l generalizing q r with
  | nil => rfl
  | cons v l ih => exact ih _ _

/-- R239: what a beat of `vsum` and of `vdot` adds. -/
theorem sumOut_eq (p : VPlan) (dot : Bool) {g : VRegs} (f : Flight) (vals : List (Nat × Nat)) (ea eb : Nat × Nat → Nat) {c : QCls}
    (hc : (if dot then classOf2 (descFmt g.da) (descEs g.da) (descFmt g.db) (descEs g.db)
      else classOf (descFmt g.da) (descEs g.da)) = some c) :
    let xs := vals.map fun x => (descVal g.da (ea x), if dot then descVal g.db (eb x) else Val.one)
    sumOut p dot g f vals (vals.map ea) (if dot then vals.map eb else []) =
      { flight := { f with acc := sums c f.acc xs }, cells := [], halves := []
        raised := flagsAt ((vals.map fun x => x.1 * p.nv + x.2).zip (gatherFlags c f.acc xs)) } := by
  intro xs
  have hzip : vals.zip ((vals.map ea).zip (if dot then (if dot then vals.map eb else []) else vals.map ea)) =
      vals.map fun x => (x, ea x, if dot then eb x else ea x) := by
    refine List.ext_getElem (by cases dot <;> simp) fun i h1 h2 => ?_
    cases dot <;> simp
  have hfold := foldl_gather_at c (fun x : Nat × Nat => x.1 * p.nv + x.2)
    (fun x => (descVal g.da (ea x), if dot then descVal g.db (eb x) else Val.one)) vals f.acc Raised.none
  unfold sumOut
  rw [hc, hzip]
  dsimp only
  rw [List.foldl_map]
  cases dot
  · exact congrArg (fun y : Quire × Raised =>
      ({ flight := { f with acc := y.1 }, cells := [], halves := [], raised := y.2 } : BeatOut)) hfold
  · exact congrArg (fun y : Quire × Raised =>
      ({ flight := { f with acc := y.1 }, cells := [], halves := [], raised := y.2 } : BeatOut)) hfold

section
variable {r : Room} {p : VPlan} {g : VRegs} {f : Flight} {v : Nat × Nat} {idx data : Nat}

theorem tableOut_gather (h : idx < descRows g.da * descVals g.da) : tableOut r p true g f v idx data =
    outValues f g.dd [v] [r.encAt g.da (idx / descVals g.da, idx % descVals g.da)] Raised.none := if_pos h

theorem tableOut_gather_beyond (h : descRows g.da * descVals g.da ≤ idx) : tableOut r p true g f v idx data =
    outValues { f with escape := minOpt f.escape (some (v.1 * p.nv + v.2)) } g.dd [v] [0] Raised.none := if_neg (Nat.not_lt.2 h)

theorem tableOut_scatter (h : idx < descRows g.dd * descVals g.dd) : tableOut r p false g f v idx data =
    outValues f g.dd [(idx / descVals g.dd, idx % descVals g.dd)] [data] Raised.none := if_pos h

theorem tableOut_scatter_beyond (h : descRows g.dd * descVals g.dd ≤ idx) : tableOut r p false g f v idx data =
    BeatOut.nothing { f with escape := minOpt f.escape (some (v.1 * p.nv + v.2)) } := if_neg (Nat.not_lt.2 h)

end

section
variable {row : VectorRow} {f : VForm} {r : Room} {k : Core} {fl : Flight} {g : VRegs} {p : VPlan} {j : Nat}
  (h : AtBeat row f r k fl g p j) (hok : (vRead (heldRoom r fl) k f g p fl j).2.2 = true)
include h hok

/-- What a beat forms of its streams. -/
theorem beat_out {vals bVals : List (Nat × Nat)} {out : List Nat → List Nat → List Nat → BeatOut}
    (hout : FormsFrom (heldRoom r fl) k f g p fl j vals bVals out) :
    let v := vInfo fl.op (descFmt g.dd).isInt
    (vRead (heldRoom r fl) k f g p fl j).2.1 = out (if v.a then vals.map (r.encAt g.da) else [])
      (if v.b then bVals.map (r.encAt g.db) else []) (if v.c then vals.map (r.encAt g.dc) else []) := by
  have := hout.out h.errors hok
  simpa only [heldRoom_encAt] using this

omit h hok

/-- What a beat that writes has formed becomes one write more. -/
theorem afterBeat_forms {o : BeatOut} {late : Nat} (ho : (vRead (heldRoom r fl) k f g p fl j).2.1 = o)
    (hq : (vInfo fl.op (descFmt g.dd).isInt).q = false) (hd : (vInfo fl.op (descFmt g.dd).isInt).depth = late + 1) :
    BeatForms r fl (afterBeat r k f fl g p j) late (o.cells, o.halves) o.raised := by
  have hw := (vRead_progressed (heldRoom r fl) k f g p fl j).writes
  subst ho
  refine ⟨{ cycle := r.ctx.ic + late, cells := _, halves := _, raised := _ }, ?_, rfl, rfl, rfl, rfl⟩
  simp only [afterBeat, Flight.upTo, BeatOut.after, hq, hw, hd]
  rfl

/-- Of the row's state, and of the escape, an operation keeps what its beat has made of them. -/
theorem afterBeat_row {o : BeatOut} (ho : (vRead (heldRoom r fl) k f g p fl j).2.1 = o) :
    (afterBeat r k f fl g p j).buf = o.flight.buf ∧ (afterBeat r k f fl g p j).rowInvalid = o.flight.rowInvalid ∧
    (afterBeat r k f fl g p j).rowExp = o.flight.rowExp ∧ (afterBeat r k f fl g p j).escape = o.flight.escape := by
  subst ho
  exact ⟨rfl, rfl, rfl, rfl⟩

include h in
/-- R224: blocks are copied as the scratchpad holds them. -/
theorem beat_moves (hop : fl.op = .vmov f) (hblk : (descFmt g.da).isBlk = true) :
    BeatForms r fl (afterBeat r k f fl g p j) 1 (((p.beat j).filter fun v => v.2 % 32 == 31 || v.2 + 1 == p.nv).flatMap fun v =>
      cellsAt (elemAddr g.dd v.1 (v.2 / 32)).toNat
        (Memory.read r.scratch (elemAddr g.da v.1 (v.2 / 32)).toNat (descFmt g.da).elemBytes), []) Raised.none := by
  have ho := vRead_vmov_blocks (heldRoom r fl) k f g p j hop hblk
  have := afterBeat_forms ho (late := 1) (by rw [hop]; rfl) (by rw [hop]; rfl)
  simpa only [blockMove, elemSeen_undamaged h.errors, (heldRoom_streamed r fl).scratch] using this

include h hok

theorem beat_permutes (hop : fl.op = .vperm f) :
    let pn := descCount g.db
    (afterBeat r k f fl g p j).buf = (if j = 0 then (List.range pn).map fun x => r.encAt g.db (0, x) else fl.buf) ∧
    BeatForms r fl (afterBeat r k f fl g p j) 2 (valCells g.dd (p.beat j) ((List.range (p.beat j).length).map fun x =>
      (((p.beat j).map (r.encAt g.da)).getD (x / pn * pn + (afterBeat r k f fl g p j).buf.getD (x % pn) 0 % pn) 0)))
      Raised.none := by
  have hread := beat_out h hok (vRead_vperm (heldRoom r fl) k f g p j hop)
  rw [hop] at hread
  have ho : (vRead (heldRoom r fl) k f g p fl j).2.1 = permOut g fl (p.beat j)
      (if j = 0 then (List.range (descCount g.db)).map fun x => r.encAt g.db (0, x) else fl.buf)
      ((p.beat j).map (r.encAt g.da)) := by
    rw [hread]
    by_cases hj : j = 0 <;> simp [permPattern, hj, vInfo, Function.comp_def]
  obtain ⟨hbuf, -⟩ := afterBeat_row ho
  refine ⟨hbuf, ?_⟩
  rw [hbuf]
  exact afterBeat_forms ho (by rw [hop]; rfl) (by rw [hop]; rfl)

theorem beat_gathers (hop : fl.op = .vgather f) (v : Nat × Nat) (hv : p.beat j = [v]) :
    let i := r.encAt g.db v
    let nv := descVals g.da
    let fl' := afterBeat r k f fl g p j
    (i < descRows g.da * nv → fl'.escape = fl.escape ∧
      BeatForms r fl fl' 5 (valCells g.dd [v] [r.encAt g.da (i / nv, i % nv)]) Raised.none) ∧
    (descRows g.da * nv ≤ i → fl'.escape = minOpt fl.escape (some (v.1 * p.nv + v.2)) ∧
      BeatForms r fl fl' 5 (valCells g.dd [v] [0]) Raised.none) := by
  have hread := vRead_vgather_out h.errors hop hok hv
  rw [heldRoom_encAt] at hread
  refine ⟨fun hin => ?_, fun hout => ?_⟩
  · have ho := hread.trans (tableOut_gather hin)
    rw [heldRoom_encAt] at ho
    obtain ⟨-, -, -, hesc⟩ := afterBeat_row ho
    exact ⟨hesc, afterBeat_forms ho (by rw [hop]; rfl) (by rw [hop]; rfl)⟩
  · have ho := hread.trans (tableOut_gather_beyond hout)
    obtain ⟨-, -, -, hesc⟩ := afterBeat_row ho
    exact ⟨hesc, afterBeat_forms ho (by rw [hop]; rfl) (by rw [hop]; rfl)⟩

theorem beat_scatters (hop : fl.op = .vscatter f) (v : Nat × Nat) (hv : p.beat j = [v]) :
    let i := r.encAt g.db v
    let nv := descVals g.dd
    let fl' := afterBeat r k f fl g p j
    (i < descRows g.dd * nv → fl'.escape = fl.escape ∧
      BeatForms r fl fl' 5 (valCells g.dd [(i / nv, i % nv)] [r.encAt g.da v]) Raised.none) ∧
    (descRows g.dd * nv ≤ i → fl'.escape = minOpt fl.escape (some (v.1 * p.nv + v.2)) ∧
      BeatForms r fl fl' 5 ([], []) Raised.none) := by
  have hread := vRead_vscatter_out h.errors hop hok hv
  rw [heldRoom_encAt, heldRoom_encAt] at hread
  refine ⟨fun hin => ?_, fun hout => ?_⟩
  · have ho := hread.trans (tableOut_scatter hin)
    obtain ⟨-, -, -, hesc⟩ := afterBeat_row ho
    exact ⟨hesc, afterBeat_forms ho (by rw [hop]; rfl) (by rw [hop]; rfl)⟩
  · have ho := hread.trans (tableOut_scatter_beyond hout)
    obtain ⟨-, -, -, hesc⟩ := afterBeat_row ho
    exact ⟨hesc, afterBeat_forms ho (by rw [hop]; rfl) (by rw [hop]; rfl)⟩

theorem beat_blockMax (hop : fl.op = .vbmax f) :
    let fl' := afterBeat r k f fl g p j
    let all := fl.buf ++ (p.beat j).map (r.encAt g.da)
    let first := j % p.b * p.n - fl.buf.length
    let full := if j % p.b + 1 = p.b then cdiv all.length 32 else all.length / 32
    fl'.buf = all.drop (32 * full) ∧
    BeatForms r fl fl' 3 (valCells g.dd ((List.range full).map fun b => (j / p.b, first / 32 + b))
        ((List.range full).map fun b => blockExp (((all.drop (32 * b)).take 32).map (descVal g.da))))
      (flagsAt ((p.beat j).map fun x =>
        (x.1 * p.nv + x.2, if (descVal g.da (r.encAt g.da x)).isSnan then Fl.signalling else Fl.none))) := by
  have ho := beat_out h hok (vRead_vbmax (heldRoom r fl) k f g p j hop)
  have hforms := afterBeat_forms ho (late := 3) (by rw [hop]; rfl) (by rw [hop]; rfl)
  obtain ⟨hbuf, -⟩ := afterBeat_row ho
  rw [hop] at hbuf hforms
  simp only [bmaxOut, vInfo, if_true, beq_iff_eq, beat_snans] at hbuf hforms
  exact ⟨hbuf, hforms⟩

theorem beat_random (hop : fl.op = .vrand f) : BeatForms r fl (afterBeat r k f fl g p j) 5 (valCells g.dd (p.beat j)
    ((p.beat j).map fun x => (randFn (f.fn == 1) g.dd g.db g.dc x.1 x.2).1)) Raised.none :=
  afterBeat_forms (beat_out h hok (vRead_vrand (heldRoom r fl) k f g p j hop)) (by rw [hop]; rfl) (by rw [hop]; rfl)

theorem beat_extremes (greater : Bool) (hop : fl.op = if greater then .vrmax f else .vrmin f) :
    let fl' := afterBeat r k f fl g p j
    let all := fl.buf ++ (p.beat j).map (r.encAt g.da)
    let sn := flagsAt ((p.beat j).map fun x =>
      (x.1 * p.nv + x.2, if (descVal g.da (r.encAt g.da x)).isSnan then Fl.signalling else Fl.none))
    let z := rowResult greater (f.fn == 1) g all
    (j % p.b + 1 ≠ p.b → fl'.buf = all ∧ BeatForms r fl fl' 3 ([], []) sn) ∧
    (j % p.b + 1 = p.b → fl'.buf = [] ∧
      BeatForms r fl fl' 3 (valCells g.dd [(0, j / p.b)] [z.1]) (sn.merge (Raised.of1 (j / p.b) z.2))) := by
  have hinfo : vInfo fl.op (descFmt g.dd).isInt = { depth := 4 } := by
    cases greater <;> rw [hop] <;> rfl
  have hread := beat_out h hok (vRead_extreme (heldRoom r fl) k f g p j greater hop)
  simp only [hinfo, if_true, extremeOut, beat_snans] at hread
  refine ⟨fun hmid => ?_, fun hend => ?_⟩
  · have ho := hread.trans (if_neg (mt beq_iff_eq.1 hmid))
    obtain ⟨hbuf, -⟩ := afterBeat_row ho
    exact ⟨hbuf, afterBeat_forms ho (by rw [hinfo]) (by rw [hinfo])⟩
  · have ho := hread.trans (if_pos (beq_iff_eq.2 hend))
    obtain ⟨hbuf, -⟩ := afterBeat_row ho
    exact ⟨hbuf, afterBeat_forms ho (by rw [hinfo]) (by rw [hinfo])⟩

theorem beat_splits (hop : fl.op = .vsplit f) :
    let fl' := afterBeat r k f fl g p j
    let jj := j / (2 * p.b) * p.b + j % p.b
    let row' := jj / p.b
    let encs := (p.beat jj).map (r.encAt g.da)
    let all := fl.buf ++ encs
    let s := splitExp (all.map (descVal g.da))
    (j / p.b % 2 = 0 → jj % p.b + 1 ≠ p.b → fl'.buf = all ∧ BeatForms r fl fl' 5 ([], []) Raised.none) ∧
    (j / p.b % 2 = 0 → jj % p.b + 1 = p.b → fl'.buf = [] ∧ fl'.rowInvalid = s.1 ∧ fl'.rowExp = s.2.1 ∧
      BeatForms r fl fl' 5 (valCells g.db [(0, row')] [wrapTo 16 s.2.1])
        (flagsAt ((List.range s.2.2.length).zip s.2.2 |>.map fun x => (row' * p.nv + x.1, x.2)))) ∧
    (j / p.b % 2 = 1 → BeatForms r fl fl' 5 ((List.range 8).flatMap fun q =>
      (valCells g.dd ((List.range encs.length).map fun x => (8 * row' + q, jj % p.b * p.n + x))
        (encs.map fun e => wrapTo 8 ((splitDigits fl.rowInvalid fl.rowExp (descVal g.da e)).getD q 0))).1, []) Raised.none) := by
  intro fl' jj row' encs all s
  have hread := beat_out h hok (vRead_vsplit (heldRoom r fl) k f g p j hop)
  have hinfo : vInfo fl.op (descFmt g.dd).isInt = { b := true, depth := 6, den := 4 } := by rw [hop]; rfl
  simp only [hinfo, if_true] at hread
  have hforms {o : BeatOut} (ho : (vRead (heldRoom r fl) k f g p fl j).2.1 = o) :=
    afterBeat_forms ho (late := 5) (by rw [hinfo]) (by rw [hinfo])
  refine ⟨fun hfirst hmid => ?_, fun hfirst hend => ?_, fun hsecond => ?_⟩
  · have ho := hread.trans (splitOut_first hfirst hmid)
    obtain ⟨hbuf, -⟩ := afterBeat_row ho
    exact ⟨hbuf, hforms ho⟩
  · have ho := hread.trans (splitOut_end hfirst hend)
    obtain ⟨hbuf, hinv, hexp, -⟩ := afterBeat_row ho
    exact ⟨hbuf, hinv, hexp, hforms ho⟩
  · have ho := hread.trans (splitOut_second hsecond _)
    exact hforms ho

theorem beat_quantises (w : Nat) (hop : fl.op = .vcvt f) (hblk : descFmt g.dd = .blk w) :
    let fl' := afterBeat r k f fl g p j
    let all := fl.buf ++ (p.beat j).map (r.encAt g.da)
    let first := j % p.b * p.n - fl.buf.length
    let full := if j % p.b + 1 = p.b then cdiv all.length 32 else all.length / 32
    let q (b : Nat) := quantBlock w ((List.range 32).map fun i =>
      match all[32 * b + i]? with | some e => descVal g.da e | none => Val.zero)
    fl'.buf = all.drop (32 * full) ∧
    BeatForms r fl fl' 3 ((List.range full).flatMap fun b =>
        cellsAt (elemAddr g.dd (j / p.b) (first / 32 + b)).toNat (blockBytes w (q b).1 (q b).2.1), [])
      (flagsAt ((List.range full).flatMap fun b => (List.range (min 32 (all.length - 32 * b))).map fun i =>
        (j / p.b * p.nv + (first + 32 * b) + i, (q b).2.2.getD i Fl.none))) := by
  have hinfo : vInfo fl.op (descFmt g.dd).isInt = { depth := 4 } := by rw [hop]; rfl
  have hread := beat_out h hok (vRead_vcvt (heldRoom r fl) k f g p j hop)
  have hisBlk : (descFmt g.dd).isBlk = true := by rw [hblk]; rfl
  simp only [hinfo, if_true, convertOut, hisBlk] at hread
  have ho := hread.trans (quantOut_eq hblk)
  obtain ⟨hbuf, -⟩ := afterBeat_row ho
  have hforms := afterBeat_forms ho (late := 3) (by rw [hinfo]) (by rw [hinfo])
  simp only [beq_iff_eq] at hbuf hforms
  exact ⟨hbuf, hforms⟩

theorem beat_sums (dot : Bool) (hop : fl.op = if dot then .vdot f else .vsum f) (c : QCls)
    (hc : (if dot then classOf2 (descFmt g.da) (descEs g.da) (descFmt g.db) (descEs g.db)
      else classOf (descFmt g.da) (descEs g.da)) = some c) :
    let fl' := afterBeat r k f fl g p j
    let xs := (p.beat j).map fun x => (descVal g.da (r.encAt g.da x), if dot then descVal g.db (r.encAt g.db x) else Val.one)
    fl'.writes = fl.writes ∧ fl'.acc = sums c fl.acc xs ∧
    fl'.raised = fl.raised.merge (flagsAt (((p.beat j).map fun x => x.1 * p.nv + x.2).zip (gatherFlags c fl.acc xs))) := by
  intro fl' xs
  have hinfo : (vInfo fl.op (descFmt g.dd).isInt).a = true ∧ (vInfo fl.op (descFmt g.dd).isInt).b = dot ∧
      (vInfo fl.op (descFmt g.dd).isInt).q = true := by
    cases dot <;> rw [hop] <;> exact ⟨rfl, rfl, rfl⟩
  obtain ⟨hina, hinb, hinq⟩ := hinfo
  have hread := beat_out h hok (vRead_sum (heldRoom r fl) k f g p j dot hop)
  have ho : (vRead (heldRoom r fl) k f g p fl j).2.1 =
      { flight := { fl with acc := sums c fl.acc xs }, cells := [], halves := []
        raised := flagsAt (((p.beat j).map fun x => x.1 * p.nv + x.2).zip (gatherFlags c fl.acc xs)) } := by
    rw [← sumOut_eq p dot fl (p.beat j) (r.encAt g.da) (r.encAt g.db) hc]
    simp only [hina, hinb, if_true] at hread
    cases dot
    · exact hread
    · exact hread
  simp only [fl', afterBeat, Flight.upTo, BeatOut.after, ho, hinq, if_true, and_self]

theorem beat_values (hrow : row ∈ vectorRows) (heach : row.each = true ∨ (fl.op = .vcvt f ∧ (descFmt g.dd).isBlk = false) ∨
      (fl.op = .vmov f ∧ (descFmt g.da).isBlk = false)) :
    let v := vInfo fl.op (descFmt g.dd).isInt
    let on (b : Bool) (d : Nat) (x : Nat × Nat) : Nat := if b then r.encAt d x else 0
    let res := (p.beat j).map fun x => vValue fl.op f fl.rm g (on v.a g.da x) (on v.b g.db x) (on v.c g.dc x)
    (vRead (heldRoom r fl) k f g p fl j).2.1 = outValues fl g.dd (p.beat j) (res.map Prod.fst)
      (flagsAt (((p.beat j).map fun x => x.1 * p.nv + x.2).zip (res.map Prod.snd))) := by
  rcases heach with heach | ⟨hop, hblk⟩ | ⟨hop, hblk⟩
  · exact (beat_out h hok (vRead_each (heldRoom r fl) k f g p j row hrow heach f h.op)).trans (valuesOut_eq f g p fl _ _ _ _ _ _ _)
  · have hread := beat_out h hok (vRead_vcvt (heldRoom r fl) k f g p j hop)
    rw [hop] at hread ⊢
    simp only [convertOut, hblk, vInfo, if_true, Bool.false_eq_true, if_false, raiseVals_eq, List.map_map] at hread ⊢
    exact hread
  · have hread := vRead_vmov_out h.errors hop hblk hok
    rw [heldRoom_encAt] at hread
    have hsilent : flagsAt (((p.beat j).map fun x => x.1 * p.nv + x.2).zip ((p.beat j).map fun _ => Fl.none)) = Raised.none :=
      flagsAt_silent _ fun x hx => by
        obtain ⟨y, -, hy⟩ := List.mem_map.1 (List.of_mem_zip hx).2
        exact hy.symm
    rw [hop, hread]
    simp only [vInfo, vValue, if_true, List.map_map]
    exact congrArg (outValues fl g.dd (p.beat j) ((p.beat j).map (r.encAt g.da))) hsilent.symm

/-- What a beat of any row forms is what its rule says. -/
theorem beatDoes (hrow : row ∈ vectorRows) : BeatDoes row f r fl (afterBeat r k f fl g p j) g p j where
  each heach := by
    have hlaw := vectorLaw row hrow
    have hdepth : (vInfo fl.op (descFmt g.dd).isInt).depth = row.p g.dd := h.op ▸ hlaw.depth_eq f g.dd
    have hdeep := hlaw.two_le g.dd
    have hq : (vInfo fl.op (descFmt g.dd).isInt).q = false := by
      rcases heach with heach | ⟨hop, -⟩ | ⟨hop, -⟩
      · exact h.op ▸ hlaw.each heach f _
      · rw [hop]; rfl
      · rw [hop]; rfl
    exact afterBeat_forms (beat_values h hok hrow heach) hq (by omega)
  quant w hop hblk := beat_quantises h hok w hop hblk
  moves hop hblk := beat_moves h hop hblk
  permutes hop := beat_permutes h hok hop
  gathers hop v hv := beat_gathers h hok hop v hv
  scatters hop v hv := beat_scatters h hok hop v hv
  blockMax hop := beat_blockMax h hok hop
  splits hop := beat_splits h hok hop
  random hop := beat_random h hok hop
  sums dot hop c hc := beat_sums h hok dot hop c hc
  extremes greater hop := beat_extremes h hok greater hop

end

/-! ### Writes and landings (R211, R214) -/

/-- R83, R239: a sum that has lost no access lands its quire, with the flags of its values and of the close. -/
theorem endLandings_sum (fv : VForm) {f : Flight} {nb : Nat} (hlost : f.lost = false) (hnb : nb ≠ 0) :
    endLandings fv true f nb = [{ due := f.c0 + f.lat, val := .q fv.qd f.acc.close.1, slot := 2, escape := f.escape
                                  raised := f.raised.merge (Raised.of1 0 f.acc.close.2) }] := by
  simp [endLandings, hlost, hnb]

/-- R214, R234: another operation lands its flags and its escape, when it has any. -/
theorem endLandings_flags (fv : VForm) (f : Flight) (nb : Nat) : endLandings fv false f nb =
    if f.raised = Raised.none ∧ f.escape = none then []
    else [{ due := f.c0 + f.lat, val := .flagsOnly, slot := 2, raised := f.raised, escape := f.escape }] := by
  simp [endLandings]

/-- R239: the last beat of a sum makes its landing. -/
theorem sum_lands {row : VectorRow} {f : VForm} {r : Room} {k : Core} {fl : Flight} {g : VRegs} {p : VPlan} {j : Nat}
    (h : AtBeat row f r k fl g p j) (hok : (vRead (heldRoom r fl) k f g p fl j).2.2 = true)
    (hsum : fl.op = .vsum f ∨ fl.op = .vdot f) : let fl' := afterBeat r k f fl g p j
    endLandings f true fl' p.nb = [{ due := fl.c0 + fl.lat, val := .q f.qd fl'.acc.close.1, slot := 2, escape := fl.escape
                                     raised := fl'.raised.merge (Raised.of1 0 fl'.acc.close.2) }] := by
  intro fl'
  obtain ⟨b, i, e, a, x, hrow⟩ := vRead_progressed (heldRoom r fl) k f g p fl j
  have hkept : fl'.c0 = fl.c0 ∧ fl'.lat = fl.lat ∧ fl'.lost = fl.lost := by
    simp only [fl', afterBeat, Flight.upTo, BeatOut.after, hrow, and_self]
  obtain ⟨hc0, hlat, hlost⟩ := hkept
  have hesc : fl'.escape = fl.escape := by
    obtain ⟨dot, hop⟩ : ∃ dot : Bool, fl.op = if dot then .vdot f else .vsum f :=
      hsum.elim (fun h => ⟨false, h⟩) fun h => ⟨true, h⟩
    obtain ⟨-, -, -, hesc⟩ := afterBeat_row (beat_out h hok (vRead_sum (heldRoom r fl) k f g p j dot hop))
    exact hesc
  rw [endLandings_sum f (hlost.trans h.lost) (Nat.ne_of_gt (Nat.zero_lt_of_lt h.beat.1)), hc0, hlat, hesc]

/-- A write whose turn has come, and whose accesses take place, lands with the next cycle and its flags join the operation's. -/
theorem flightWrites_one {r : Room} {f : Flight} {slot : Nat} {w : BeatWrite} (hf : f.writes = [w]) (hw : w.cycle ≤ r.ctx.ic)
    (hh : w.halves = []) (hc : w.cells ≠ []) (hacc : (r.engAccess slot f.c0 f.lost true (w.cells.map Prod.fst)).2 = true) :
    (flightWrites r f slot false).2.raised = f.raised.merge w.raised ∧
    (flightWrites r f slot false).1.ctx.landings = r.ctx.landings ++
      [{ due := r.ctx.ic + 1, val := .bytes w.cells, slot := slot, raised := Raised.none, escape := none }] := by
  have hland := (r.engAccess_streamed slot f.c0 f.lost true (w.cells.map Prod.fst)).landings
  simp [flightWrites, hf, hw, hh, hc, hacc, hland, Room.halfCells]

/-- In the cycle before its results are due an operation that sums nothing has no beat left, and lands its flags. -/
theorem vRun_last {row : VectorRow} (hlaw : VectorLaw row) {f : VForm} {r : Room} {k : Core} {fl : Flight} {g : VRegs} {p : VPlan}
    (hop : fl.op = row.op f) (hg : g = { dd := fl.dd, da := fl.da, db := fl.db, dc := fl.dc }) (hplan : vPlan fl.op g = some p)
    (hheld : fl.hold ≠ [] → (r.holdGroups 2 fl.c0 fl.hold).2 = true) (hwrites : fl.writes = [])
    (hlat : fl.lat = max 1 p.nb + row.p g.dd - 1) (hic : r.ctx.ic + 1 = fl.c0 + fl.lat)
    (hq : (vInfo fl.op (descFmt g.dd).isInt).q = false) :
    (vRun r k fl).1 = (heldRoom r fl).pending (endLandings f false fl p.nb) := by
  have hdepth : (vInfo fl.op (descFmt g.dd).isInt).depth = row.p g.dd := hop ▸ hlaw.depth_eq f g.dd
  have hdeep := hlaw.two_le g.dd
  have hform : vFormOf fl.op = some f := hop ▸ hlaw.form f
  have hdone : ¬ r.ctx.ic - fl.c0 < p.nb := by omega
  have hends : vEnds false r.ctx.ic (r.ctx.ic - fl.c0) p.nb (fl.c0 + fl.lat) = true := beq_iff_eq.2 hic
  rw [vRun_reads hform hg hplan rfl (by omega) (fun w hw => absurd (hwrites ▸ hw) List.not_mem_nil) (hdepth ▸ hdeep),
    holdBanks_held hheld]
  dsimp only
  rw [afterHold_held, hq, hends, if_pos rfl]
  simp only [vStep, if_neg hdone]
  rfl

/-- Settles O32: the cycle of a beat, what its instruction forms, and the turn of its writes and of its landing. -/
theorem vectorBeat : Obligations.VectorBeat := by
  unfold Obligations.VectorBeat
  refine ⟨fun row hrow f r k fl g p j h => ?_, fun r f slot w hf hw hh hc hacc => flightWrites_one hf hw hh hc hacc,
    fun row hrow f r k fl g p hop hg hplan hheld hwrites hlat hic hsum hdot => ?_⟩
  · have hlaw := vectorLaw row hrow
    have hread : Streamed r (vRead (heldRoom r fl) k f g p fl j).1 :=
      (heldRoom_streamed r fl).trans (vRead_streamed _ _ _ _ _ _ _)
    rw [vRun_beat hlaw h]
    refine ⟨_, rfl, hread.scratch, fun hlost => ?_, fun hok => ?_⟩
    · rw [hlost]
      exact ⟨rfl, rfl⟩
    · rw [if_pos hok]
      refine ⟨beatDoes h hok hrow, fun hsum hlast => ?_⟩
      have hq : (vInfo fl.op (descFmt g.dd).isInt).q = true := by
        rw [h.op] at hsum ⊢
        exact (hlaw.sums f _).2 hsum
      rw [hq, hlast, beq_self_eq_true]
      dsimp only
      rw [if_pos hok, Bool.and_self, if_pos rfl, sum_lands h hok hsum]
      exact congrArg (· ++ _) hread.landings
  · have hlaw := vectorLaw row hrow
    have hq : (vInfo fl.op (descFmt g.dd).isInt).q = false := by
      rw [hop, ← Bool.not_eq_true, hlaw.sums, ← hop]
      exact not_or.2 ⟨hsum f, hdot f⟩
    intro t
    rw [vRun_last hlaw hop hg hplan hheld hwrites hlat hic hq]
    rw [endLandings_flags]
    split
    · exact Room.pending_nil _
    · rfl

end Sys2Proof.Machine
end

section
/-! PROOFS. Tiles bound and released by the matrix array, and what `mzero`, `mscale` and `mrel` do (R242, R243, R254: O35). -/

namespace Sys2Proof.Machine

open Sys2Proof.Claims
open Sys2Proof.Safety (foldl_keeps)

/-! ### Bindings (R242, R243) -/

theorem Room.tile?_head {r : Room} {h : Nat} {x : Tile} (hx : r.tile? h = some x) : x.head = h :=
  beq_iff_eq.1 (List.find?_some hx :)

/-- R243: the writers pending on a tile have its head. -/
theorem Room.tileNow_head {r : Room} {h : Nat} {x : Tile} (hx : r.tileNow h = some x) : x.head = h := by
  have key : ∀ y, r.tileNow h = some y → y.head = h := by
    refine foldl_keeps (p := fun b : Option Tile => ∀ y, b = some y → y.head = h) (fun b l hb => ?_) _
      fun y hy => Room.tile?_head hy
    split
    · next t _ =>
      split
      · next ht =>
        have hnew : ∀ y : Tile, some t = some y → y.head = h := fun y hy => Option.some.inj hy ▸ ht
        split
        · split
          · exact hnew
          · exact hb
        · exact hnew
      · exact hb
    · exact hb
  exact key x hx

/-- A tile as its writers leave it, or one bound afresh there, has its head. -/
theorem Room.tileNow_getD_head (r : Room) {x : Tile} {h : Nat} (hx : x.head = h) : ((r.tileNow h).getD x).head = h := by
  cases hy : r.tileNow h with
  | some y => exact tileNow_head hy
  | none => exact hx

theorem Room.bindTile_frame (r : Room) (x : Tile) : r.bindTile x = { r with tiles := (r.bindTile x).tiles } := by
  unfold Room.bindTile
  split
  · rfl
  · exact r.setTile_frame _

/-- A binding depends on the tiles bound before it alone. -/
theorem Room.bindTile_tiles {r t : Room} (h : r.tiles = t.tiles) (x : Tile) : (r.bindTile x).tiles = (t.bindTile x).tiles := by
  have hany : r.tile? x.head = t.tile? x.head := by simp only [Room.tile?, h]
  unfold Room.bindTile Room.setTile
  rw [hany]
  split
  · exact h
  · rw [h]
    split <;> rfl

theorem Room.tile?_bindTile_other (r : Room) (x : Tile) : OtherTiles x.head r (r.bindTile x) := by
  unfold Room.bindTile
  split
  · exact fun _ _ => rfl
  · exact r.tile?_setTile_other (Tile.fresh x.head x.cls x.sigma)

/-- R242: a bound tile stays as it is, an unbound one is bound afresh in the class and scale of its first writer. -/
theorem Room.tile?_bindTile_same (r : Room) (x : Tile) :
    (r.bindTile x).tile? x.head = some ((r.tile? x.head).getD (Tile.fresh x.head x.cls x.sigma)) := by
  unfold Room.bindTile
  cases hy : r.tile? x.head with
  | some y => exact hy
  | none => exact r.tile?_setTile_same (Tile.fresh x.head x.cls x.sigma)

/-- R242: a room whose tiles are those of s after the binding of x has x's names bound in the class and scale of x. -/
theorem boundAs_of_bindTile {s t : State} {x : Tile} (ht : t.me.tiles = (s.me.bindTile x).tiles) :
    OtherTiles x.head s.me t.me ∧ BoundAs s t x.head (some x.cls) x.sigma := by
  have hsame (n : Nat) : t.me.tile? n = (s.me.bindTile x).tile? n := by simp only [Room.tile?, ht]
  refine ⟨fun n hn => (hsame n).trans (s.me.tile?_bindTile_other x n hn), _, (hsame _).trans (s.me.tile?_bindTile_same x),
    fun y hy => ?_, fun hnone => ?_⟩
  · rw [hy, Option.getD_some]
  · rw [hnone, Option.getD_none]
    exact ⟨rfl, rfl, rfl⟩

/-- A binding of an unbound name has one class and one scale. -/
theorem boundAs_unique {s t : State} {h : Nat} {c c' : Option QCls} {sigma sigma' : Int} (hnone : s.me.tile? h = none)
    (hb : BoundAs s t h c sigma) (hb' : BoundAs s t h c' sigma') : c = c' ∧ sigma = sigma' := by
  obtain ⟨x, hx, -, hfresh⟩ := hb
  obtain ⟨y, hy, -, hfresh'⟩ := hb'
  obtain rfl : x = y := Option.some.inj (hx.symm.trans hy)
  obtain ⟨hc, hs, -⟩ := hfresh hnone
  obtain ⟨hc', hs', -⟩ := hfresh' hnone
  exact ⟨hc.symm.trans hc', hs.symm.trans hs'⟩

/-! ### The checks of an M instruction (R159) -/

/-- Every check holds, so the instruction goes on. -/
theorem mGuard_ok {r : Room} {legalOk busyOk alignOk footOk : Bool} (hfree : r.ctx.mFree ≤ r.ctx.ic) (hl : legalOk = true)
    (hb : busyOk = true) (ha : alignOk = true) (hf : footOk = true) : mGuard r legalOk busyOk alignOk footOk = .ok () := by
  simp [mGuard, hl, hb, ha, hf, Nat.not_lt.2 hfree]

/-- An M instruction whose checks hold does what comes after them. -/
theorem mGuard_then {g : Except Cause Unit} {r : Room} : g = .ok () →
    (match g with | .error k => .error k | .ok _ => .ok r : Except Cause Room) = .ok r := by
  rintro rfl
  rfl

theorem mGuard_illegal (r : Room) (busyOk alignOk footOk : Bool) : mGuard r false busyOk alignOk footOk = .error (illegal 3) := rfl

/-! ### `mzero`, `mscale` and `mrel` (R254) -/

/-- The class of a bound tile is the one asked for. -/
def Room.classOk (r : Room) (h : Nat) (c : QCls) : Bool := match r.tile? h with | some t => t.cls == c | none => true

theorem Room.classOk_iff {r : Room} {h : Nat} {c : QCls} : r.classOk h c = true ↔ ∀ y, r.tile? h = some y → y.cls = c := by
  unfold Room.classOk
  split
  · next hy => simp [hy]
  · next hy => simp [hy]

/-- The tile that `mzero` and `mscale` leave: the one its writers have left, or one bound afresh, with every element zero. -/
def zeroedTile (r : Room) (f : MAForm) (sigma : Option Int) : Tile :=
  let t := (r.tileNow f.bd.toNat).getD (Tile.fresh f.bd.toNat (suffixCls f) 0)
  r.written { t with elems := [], sigma := sigma.getD t.sigma }

section
variable {i : Instr} {f : MAForm} {sigma : Option Int} {s : State} (hw : i.wellFormed = true)
include hw

theorem zeroIssue_lands (hm : MFree s) (hc : ∀ y, s.me.tile? f.bd.toNat = some y → y.cls = suffixCls f)
    (hn : s.me.tileNamesOk f.bd.toNat (suffixCls f).bays = true) :
    ∃ t, zeroIssue i f sigma s = .next t ∧ LandsTile s t (zeroedTile s.me f sigma) ∧
      t.me.tiles = (s.me.bindTile (zeroedTile s.me f sigma)).tiles := by
  have hg : mGuard s.me (s.me.classOk f.bd.toNat (suffixCls f) && s.me.tileNamesOk f.bd.toNat (suffixCls f).bays)
      true true true = .ok () := mGuard_ok hm (by rw [Room.classOk_iff.2 hc, hn]; rfl) rfl rfl rfl
  have hb := s.me.bindTile_frame (zeroedTile s.me f sigma)
  exact ⟨_, roomOp_ok hw (mGuard_then hg), ⟨rfl, rfl, congrArg (fun r : Room => { s with me := { r with
    lastM := some s.me.ctx.pc, writers := s.me.writers + 1, ctx := { r.ctx with
      mFree := s.me.ctx.ic + 1
      landings := r.ctx.landings ++ [pend s 3 1 (.tile (zeroedTile s.me f sigma)) Raised.none] } } }) hb⟩, rfl⟩

theorem zeroIssue_otherClass {y : Tile} (hy : s.me.tile? f.bd.toNat = some y) (hc : y.cls ≠ suffixCls f) :
    zeroIssue i f sigma s = .next (s.takeTrap (cause 0x01 3) s.me.ctx.pc) :=
  roomOp_trap hw (by simp only [hy, beq_false_of_ne hc, Bool.false_and, mGuard_illegal]; rfl)

end

/-- The tile that `mzero` and `mscale` land has the head named, and the class asked for when its writers left that. -/
theorem zeroedTile_form {r : Room} {f : MAForm} (sigma : Option Int)
    (hc : ∀ y, r.tileNow f.bd.toNat = some y → y.cls = suffixCls f) :
    (zeroedTile r f sigma).head = f.bd.toNat ∧ (zeroedTile r f sigma).cls = suffixCls f ∧
    (zeroedTile r f sigma).sigma = sigma.getD (match r.tileNow f.bd.toNat with | some y => y.sigma | none => 0) := by
  simp only [zeroedTile, Room.written]
  cases hy : r.tileNow f.bd.toNat with
  | some y => exact ⟨Room.tileNow_head hy, hc y hy, rfl⟩
  | none => exact ⟨rfl, rfl, rfl⟩

/-- R254: `mrel` unbinds the tile whose writers have all landed. -/
theorem execMrel_unbinds {f : MAForm} {s : State} (hw : (Instr.mrel f).wellFormed = true) (hm : MFree s)
    (hn : s.me.tileNamesOk f.bd.toNat (s.me.namedWidth f.bd.toNat) = true) (hp : s.me.tilePending f.bd.toNat = false) :
    execMrel f s = .next (withTiles s (s.me.tiles.filter fun t => t.head != f.bd.toNat)) := by
  have hg : mGuard s.me (s.me.tileNamesOk f.bd.toNat (s.me.namedWidth f.bd.toNat)) (!s.me.tilePending f.bd.toNat) true true =
      .ok () := mGuard_ok hm hn (by rw [hp]; rfl) rfl rfl
  exact roomOp_ok hw (mGuard_then hg)

/-- What unbinding a head leaves: nothing there, and everything else. -/
theorem tile?_unbound {r t : Room} {h : Nat} (ht : t.tiles = r.tiles.filter fun x => x.head != h) :
    t.tile? h = none ∧ OtherTiles h r t ∧ (r.tile? h = none → t.tiles = r.tiles) := by
  refine ⟨?_, fun n hn => ?_, fun hnone => ?_⟩
  · simp [Room.tile?, ht]
  · simp only [Room.tile?, ht, List.find?_filter]
    congr 1
    funext x
    by_cases hx : x.head = n
    · simp [hx, hn]
    · simp [hx]
  · rw [ht, List.filter_eq_self]
    intro x hx
    simpa using List.find?_eq_none.1 hnone x hx

/-- Settles O35: each operation by its law. -/
theorem tileControl : Obligations.TileControl := by
  unfold Obligations.TileControl
  intro f s hm
  refine ⟨fun op sigma hop hw hn hc hnow => ?_, fun op hop hw y hy hne => ?_, fun hw hn hp => ?_⟩
  · have hexec : exec (op f) s = zeroIssue (op f) f sigma s := by
      rcases hop with ⟨rfl, rfl⟩ | ⟨rfl, rfl⟩ <;> rfl
    obtain ⟨t, ht, hlands, htiles⟩ := zeroIssue_lands (sigma := sigma) hw hm hc hn
    obtain ⟨hhead, hcls, hsigma⟩ := zeroedTile_form sigma fun y hy => (hnow y hy).2
    obtain ⟨hother, hbound⟩ := boundAs_of_bindTile htiles
    rw [hhead] at hother hbound
    rw [hcls] at hbound
    exact ⟨t, _, hexec.trans ht, hlands, hhead, hcls, rfl, hsigma, hother, hbound⟩
  · have hexec : ∃ sigma, exec (op f) s = zeroIssue (op f) f sigma s := by
      simp only [List.mem_cons, List.not_mem_nil, or_false] at hop
      rcases hop with rfl | rfl
      · exact ⟨_, rfl⟩
      · exact ⟨_, rfl⟩
    obtain ⟨sigma, hexec⟩ := hexec
    exact hexec.trans (zeroIssue_otherClass hw hy hne)
  · obtain ⟨hnone, hother, hsame⟩ := tile?_unbound (r := s.me)
      (t := (withTiles s (s.me.tiles.filter fun t => t.head != f.bd.toNat)).me) rfl
    exact ⟨_, execMrel_unbinds hw hm hn hp, rfl, hnone, hother, hsame⟩

end Sys2Proof.Machine
end

section
/-! PROOFS. How a matrix operation starts (R158, R242 to R245, R252, R253, R257: O33, O36). -/

namespace Sys2Proof.Machine

open Sys2Proof.Claims

/-! ### A cycle of a matrix operation (R245, R247) -/

theorem Room.noteReads_streamed (r : Room) (k : Core) (f : MAForm) (fl : Flight) (t : Nat) :
    Streamed r (r.noteReads k f fl t).1 := by
  unfold Room.noteReads
  split
  · exact .refl r
  · exact ((r.missing_streamed _).trans (Room.watchHits_accessed _ _ _ _).streamed).trans (Room.readChecked_streamed _ _ _)

/-- A matrix operation that is the same as at issue: what its cycles change is what it has formed, of a tile its elements. -/
def SameMatrixOp (f t : Flight) : Prop := ∃ x l b i e n o c w,
  t = { f with tile := x, fill := l, buf := b, rowInvalid := i, rowExp := e, next := n, lost := o, raised := c, writes := w } ∧
    x.map Tile.head = f.tile.map Tile.head

theorem SameMatrixOp.refl (f : Flight) : SameMatrixOp f f := ⟨_, _, _, _, _, _, _, _, _, rfl, rfl⟩

theorem SameMatrixOp.trans {f t u : Flight} (h : SameMatrixOp f t) (h' : SameMatrixOp t u) : SameMatrixOp f u := by
  obtain ⟨x, l, b, i, e, n, o, c, w, rfl, hx⟩ := h
  obtain ⟨x', l', b', i', e', n', o', c', w', rfl, hx'⟩ := h'
  exact ⟨_, _, _, _, _, _, _, _, _, rfl, hx'.trans hx⟩

/-- No step of a sum over the elements of a tile moves its head, class or scale. -/
theorem Tile.accum_form (t : Tile) (m n : Nat) (fn : Nat → Nat → Quire → Quire × Fl) :
    (t.accum m n fn).1 = { t with elems := (t.accum m n fn).1.elems } :=
  Safety.foldl_keeps (p := fun x : Tile × Raised => x.1 = { t with elems := x.1.elems })
    (fun x y hx => by rw [hx]; rfl) _ rfl

theorem loadImage_head (m : List Host.Cell) (base : Nat) (c : QCls) (bad : Bool) (t : Tile) :
    (loadImage m base c bad t).1.head = t.head := by
  unfold loadImage
  dsimp only
  split <;> rfl

section
variable (r : Room) (k : Core) (f : MAForm) (fl : Flight) (t : Nat)

theorem mCycle_streamed : Streamed r (mCycle r k f fl t).1 := by
  rw [Safety.mCycle_fst]
  exact r.noteReads_streamed k f fl t

theorem mCycle_same : SameMatrixOp fl (mCycle r k f fl t).2 := by
  unfold mCycle
  extract_lets h n r' withTile
  have hw (g : Tile → Tile × Raised) (hg : ∀ x, (g x).1.head = x.head) : SameMatrixOp fl (withTile g).2 := by
    show SameMatrixOp fl (match fl.tile with | some x => _ | none => _ : Room × Flight).2
    split
    · next x hx => exact ⟨some (g x).1, _, _, _, _, _, _, _, _, rfl, by rw [hx, Option.map_some, hg]; rfl⟩
    · exact .refl fl
  split
  · exact hw _ fun x => by rw [mmacPart, x.accum_form]
  · exact hw _ fun x => by rw [mmacPart, x.accum_form]
  · exact hw _ fun x => by rw [mslicePart, x.accum_form]
  · exact ⟨_, _, _, _, _, _, _, _, _, rfl, rfl⟩
  · split
    · exact ⟨_, _, _, _, _, _, _, _, _, rfl, rfl⟩
    · exact .refl fl
  · split
    · exact ⟨_, _, _, _, _, _, _, _, _, rfl, rfl⟩
    · exact .refl fl
  · dsimp only
    split
    · exact hw _ fun x => loadImage_head _ _ _ _ x
    · exact ⟨_, _, _, _, _, _, _, _, _, rfl, rfl⟩
  · split
    · exact ⟨_, _, _, _, _, _, _, _, _, rfl, rfl⟩
    · split
      · exact ⟨_, _, _, _, _, _, _, _, _, rfl, rfl⟩
      · exact ⟨_, _, _, _, _, _, _, _, _, rfl, rfl⟩
  · exact .refl fl

/-- What a cycle forms for a later one is not written before the next (R256 to R258). -/
theorem mCycle_writes (hlast : r.ctx.ic + 1 < fl.c0 + fl.lat) :
    ∀ w ∈ (mCycle r k f fl t).2.writes, w ∈ fl.writes ∨ r.ctx.ic < w.cycle := by
  have hic : (r.noteReads k f fl t).1.ctx.ic = r.ctx.ic := (r.noteReads_streamed k f fl t).ic
  have hlater {d : Nat} (hd : 0 < d) : r.ctx.ic < (r.noteReads k f fl t).1.ctx.ic + d := by omega
  intro w hw
  unfold mCycle at hw
  extract_lets h n r' withTile at hw
  have htile (g : Tile → Tile × Raised) : (withTile g).2.writes = fl.writes := by
    show (match fl.tile with | some x => _ | none => _ : Room × Flight).2.writes = _
    split <;> rfl
  split at hw
  · exact .inl (htile _ ▸ hw)
  · exact .inl (htile _ ▸ hw)
  · exact .inl (htile _ ▸ hw)
  · exact .inl hw
  · split at hw
    · exact (List.mem_append.1 hw).imp id fun hw => by
        rw [List.mem_singleton.1 hw]
        exact hlater (by decide)
    · exact .inl hw
  · split at hw
    · exact (List.mem_append.1 hw).imp id fun hw => by
        rw [List.mem_singleton.1 hw]
        exact hlater (by decide)
    · exact .inl hw
  · dsimp only at hw
    split at hw
    · exact .inl (htile _ ▸ hw)
    · exact .inl hw
  · split at hw
    · exact .inl hw
    · split at hw
      · rw [List.mem_singleton.1 hw]
        exact .inr (Nat.lt_sub_of_add_lt hlast)
      · exact .inl hw
  · exact .inl hw

end

/-! ### The first cycle of a matrix operation (R158, R243) -/

/-- The first cycle leaves the operation in flight, and the room as accesses leave it; it lands nothing unless it is the last. -/
theorem mRun_first {r : Room} {k : Core} {fl : Flight} {f : MAForm} (hform : maFormOf fl.op = some f)
    (hc0 : fl.c0 = r.ctx.ic) (hlat : 2 ≤ fl.lat) (hwrites : fl.writes = []) :
    ∃ t u ls, mRun r k fl = (t.pending ls, some u) ∧ Streamed r t ∧ SameMatrixOp fl u ∧
      (∀ x ∈ ls, x.due = r.ctx.ic + fl.lat ∧ x.slot = 3) ∧ (1 < fl.occ → ls = []) := by
  unfold mRun
  rw [if_neg (by omega)]
  split
  · next hnone => exact nomatch hnone.symm.trans hform
  next f' _ =>
  extract_lets toEnd hg f0 x y _ next at_ v
  have hh : Streamed r hg.1 := by
    show Streamed r (if _ then _ else _ : Room × Bool).1
    split
    · exact r.holdGroups_streamed _ _ _
    · exact .refl r
  have hf0 : SameMatrixOp fl f0 := ⟨_, _, _, _, _, _, _, _, _, rfl, rfl⟩
  have hx : Streamed hg.1 x.1 ∧ SameMatrixOp f0 x.2 ∧ ∀ w ∈ x.2.writes, w ∈ f0.writes ∨ hg.1.ctx.ic < w.cycle := by
    dsimp only [x]
    split
    · refine ⟨mCycle_streamed _ _ _ _ _, mCycle_same _ _ _ _ _, mCycle_writes _ _ _ _ _ ?_⟩
      rw [hh.ic]
      show _ < fl.c0 + fl.lat
      omega
    · exact ⟨.refl _, .refl _, fun w hw => .inl hw⟩
  obtain ⟨hxr, hxf, hxw⟩ := hx
  have hy : y = x := by
    refine flightWrites_later (fun w hw => ?_) 3 toEnd
    rw [hxr.ic]
    exact (hxw w hw).resolve_left (by simp [f0, hwrites])
  have hlast : 1 < fl.occ → at_ = false := by
    intro hocc
    show (if _ then _ else _ : Bool) = false
    split
    · exact beq_false_of_ne (by omega)
    · exact beq_false_of_ne (by omega)
  have hu : SameMatrixOp fl next := by
    show SameMatrixOp fl { y.2 with next := _ }
    rw [hy]
    exact (hf0.trans hxf).trans ⟨_, _, _, _, _, _, _, _, _, rfl, rfl⟩
  have hr : Streamed r y.1 := hy ▸ hh.trans hxr
  split
  · next hends =>
    refine ⟨y.1, next, [{ due := fl.c0 + fl.lat, val := v.1, slot := 3, raised := v.2, escape := none }], rfl, hr, hu,
      fun z hz => ?_, fun hocc => ?_⟩
    · rw [List.mem_singleton.1 hz, hc0]
      exact ⟨rfl, rfl⟩
    · rw [hlast hocc, Bool.false_and] at hends
      exact absurd hends Bool.false_ne_true
  · exact ⟨y.1, next, [], by rw [Room.pending_nil], hr, hu, fun z hz => absurd hz List.not_mem_nil, fun _ => rfl⟩

/-! ### The start of an operation (R158, R242, R243, R245) -/

/-- The tiles once an operation on the tile given, if any, has bound it (R242). -/
def Room.tilesFor (r : Room) (tile : Option Tile) : List Tile := match tile with | some x => (r.bindTile x).tiles | none => r.tiles

/-- R243: a tile is pending while an operation in flight is to write it. -/
theorem tilePending_of_flight {r : Room} {fl : Flight} {h : Nat} (hfl : fl ∈ r.ctx.flights)
    (ht : fl.target = some (.tile h)) : r.tilePending h = true := by
  have : (r.ctx.flights.any fun f => f.target == some (.tile h)) = true := List.any_eq_true.2 ⟨fl, hfl, beq_iff_eq.2 ht⟩
  simp only [Room.tilePending, Room.pends, this, Bool.true_or]

section
variable {i : Instr} {f : MAForm} (hform : maFormOf i = some f) (s : State) (da db occ : Nat) {lat : Nat} (hlat : 2 ≤ lat)
  (rm : RM) (groups : List Nat) (holdTo : Nat) (buf : List Nat)
include hform hlat

/-- A start on the tile given puts the operation in flight for its occupancy and latency and binds its tile, and nothing else
changes but by the accesses of its first cycle. -/
theorem mStart_starts (tile : Option Tile) :
    let t := { s with me := mStart i s s.me da db occ lat rm none groups holdTo buf tile }
    MStarted s t i occ lat ∧ t.me.tiles = s.me.tilesFor tile ∧
    ∃ fl ∈ t.me.ctx.flights, fl.op = i ∧ fl.tile.map Tile.head = tile.map Tile.head := by
  unfold mStart
  extract_lets c r1 _ fl r2 x
  obtain ⟨tiles, writers, hr2, htiles⟩ : ∃ tiles writers, r2 = { s.me with
      tiles := tiles, writers := writers, lastM := some c.pc, ctx := { c with mFree := c.ic + occ } } ∧
      tiles = s.me.tilesFor tile := by
    cases tile with
    | some y => exact ⟨(r1.bindTile y).tiles, s.me.writers + 1,
        congrArg (fun r : Room => { r with writers := s.me.writers + 1 }) (r1.bindTile_frame y),
        Room.bindTile_tiles (r := r1) (t := s.me) rfl y⟩
    | none => exact ⟨s.me.tiles, s.me.writers, rfl, rfl⟩
  obtain ⟨t, u, ls, hrun, ht, hu, hls, hends⟩ := mRun_first (r := r2) (k := s.coreOf s.me.core) (fl := fl) hform
    (by rw [hr2]) hlat rfl
  have hx : x = (t.pending ls, some u) := hrun
  clear_value x r2
  subst hx hr2
  obtain ⟨p, e, m, d, b, rfl⟩ := ht
  obtain ⟨y, l, b', n, e', o, k, q, w, rfl, hy⟩ := hu
  exact ⟨⟨⟨_, rfl, rfl, rfl, rfl, rfl, rfl, rfl⟩, ⟨ls, rfl, hends, hls⟩, rfl⟩, htiles, _,
    List.mem_append_right _ List.mem_cons_self, rfl, hy⟩

/-- A start on a tile binds it, in the class and scale that its writers leave, and makes it pending. -/
theorem mStart_onTile (htarget : ∀ fl : Flight, fl.op = i → fl.target = fl.tile.map fun x => .tile x.head) (x : Tile) :
    let t := { s with me := mStart i s s.me da db occ lat rm none groups holdTo buf (some x) }
    MStarted s t i occ lat ∧ OtherTiles x.head s.me t.me ∧ BoundAs s t x.head (some x.cls) x.sigma ∧
      t.me.tilePending x.head = true := by
  obtain ⟨hstart, htiles, fl, hfl, hop, hhead⟩ := mStart_starts hform s da db occ hlat rm groups holdTo buf (some x)
  obtain ⟨hother, hbound⟩ := boundAs_of_bindTile htiles
  refine ⟨hstart, hother, hbound, tilePending_of_flight hfl ?_⟩
  rw [htarget fl hop, ← Function.comp_def Target.tile, ← Option.map_map, hhead]
  rfl

end

/-! ### `mmul`, `mmac`, `mslice` and `mload` (R242 to R245, R252, R253, R257) -/

/-- What R252 and R253 say of a row: its form, what it forms, and its issue. -/
structure ArrayLaw (row : ArrayRow) : Prop where
  form : ∀ f, maFormOf (row.op f) = some f
  target : ∀ f (fl : Flight), fl.op = row.op f → fl.target = fl.tile.map fun x => .tile x.head
  exec : ∀ f s, exec (row.op f) s = arrayIssue (row.op f) f row.zero row.slice s

theorem arrayLaw : ∀ row ∈ arrayRows, ArrayLaw row := by
  simp only [arrayRows, List.forall_mem_cons, List.not_mem_nil, false_implies, implies_true, and_true]
  and_intros
  all_goals exact ⟨fun _ => rfl, fun _ fl h => by simp only [Flight.target, h], fun _ _ => rfl⟩

/-- The tile on which an array operation starts: as its writers so far leave it, or bound afresh. -/
def arrayTile (r : Room) (f : MAForm) (zero slice : Bool) (da db : Nat) : Tile :=
  let t := (r.tileNow f.bd.toNat).getD (Tile.fresh f.bd.toNat (r.arrayTileClass f slice da db) (if slice then -112 else 0))
  r.written (if zero then { t with elems := [] } else t)

theorem arrayTile_head (r : Room) (f : MAForm) (zero slice : Bool) (da db : Nat) :
    (arrayTile r f zero slice da db).head = f.bd.toNat := by
  have h : ((r.tileNow f.bd.toNat).getD
      (Tile.fresh f.bd.toNat (r.arrayTileClass f slice da db) (if slice then -112 else 0))).head = f.bd.toNat :=
    r.tileNow_getD_head rfl
  cases zero <;> exact h

/-- R242 to R245, R252, R253: an array operation whose checks hold starts; an unbound tile is bound in the class and scale of
the tile that the operation starts on, which writers still pending on it have left if there are any. -/
theorem array_starts {row : ArrayRow} (hlaw : ArrayLaw row) {f : MAForm} {s : State} (hw : (row.op f).wellFormed = true)
    (hshape : arrayShapeOk f row.slice (mDa s f) (mDb s f) = true)
    (htile : s.me.arrayTileOk f row.slice (mDa s f) (mDb s f) = true) (hm : MFree s)
    (hsill : f.ws = 1 → s.me.sillPending f.w = false) (halign : arrayAlignOk f (mDa s f) (mDb s f) = true)
    (hda : s.me.regionOk 1 false (mDa s f) = true) (hdb : f.ws = 1 ∨ s.me.regionOk 1 false (mDb s f) = true)
    (hplace : s.me.badPlacement (arrayOps f (mDa s f) (mDb s f)) (f.ws != 1) = none) :
    let occ := arrayOcc f row.slice (mDa s f) (mDb s f)
    let x := arrayTile s.me f row.zero row.slice (mDa s f) (mDb s f)
    ∃ t, exec (row.op f) s = .next t ∧ MStarted s t (row.op f) occ (occ + 12) ∧ OtherTiles f.bd.toNat s.me t.me ∧
      BoundAs s t f.bd.toNat (some x.cls) x.sigma ∧ t.me.tilePending f.bd.toNat = true := by
  intro occ x
  have hg : mGuard s.me (arrayShapeOk f row.slice (mDa s f) (mDb s f) && s.me.arrayTileOk f row.slice (mDa s f) (mDb s f))
      (!(f.ws == 1) || !s.me.sillPending f.w) (arrayAlignOk f (mDa s f) (mDb s f))
      (s.me.regionOk 1 false (mDa s f) && (f.ws == 1 || s.me.regionOk 1 false (mDb s f))) = .ok () := by
    refine mGuard_ok hm (by rw [hshape, htile]; rfl) ?_ halign ?_
    · by_cases h : f.ws = 1
      · rw [hsill h, Bool.not_false, Bool.or_true]
      · rw [beq_false_of_ne h]
        rfl
    · rcases hdb with h | h
      · simp [h, hda]
      · simp [h, hda]
  have hx : x.head = f.bd.toNat := arrayTile_head _ _ _ _ _ _
  obtain ⟨hstart, hother, hbound, hpending⟩ := mStart_onTile (hlaw.form f) s (mDa s f) (mDb s f) occ (Nat.le_add_left 2 _)
    .rne _ _ [] (hlaw.target f) x
  rw [hx] at hother hbound hpending
  rw [hlaw.exec]
  exact ⟨_, roomOp_ok hw ((mGuard_then hg).trans (congrArg (fun b => Except.ok (mStart _ _ _ _ _ _ _ _ b _ _ _ _)) hplace)),
    hstart, hother, hbound, hpending⟩

/-- The tile on which an `mload` starts: as its writers so far leave it, or bound afresh. -/
def loadTile (r : Room) (f : MAForm) : Tile :=
  r.written ((r.tileNow f.bd.toNat).getD (Tile.fresh f.bd.toNat (suffixCls f) 0))

/-- R242, R257: an `mload` whose checks hold starts; an unbound tile is bound in the class and scale of the tile that it starts
on. -/
theorem mload_starts {f : MAForm} {s : State} (hw : (Instr.mload f).wellFormed = true) (hm : MFree s)
    (hn : s.me.tileNamesOk f.bd.toNat (suffixCls f).bays = true)
    (hc : ∀ y, s.me.tile? f.bd.toNat = some y → y.cls = suffixCls f) (halign : descBase (mDa s f) % 64 = 0)
    (hmay : s.me.mayAccess 1 false (imageIv (mDa s f) (suffixCls f)) = true) :
    let occ := cdiv (imageSize (suffixCls f)) 512
    ∃ t, exec (.mload f) s = .next t ∧ MStarted s t (.mload f) occ (occ + 4) ∧ OtherTiles f.bd.toNat s.me t.me ∧
      BoundAs s t f.bd.toNat (some (loadTile s.me f).cls) (loadTile s.me f).sigma ∧ t.me.tilePending f.bd.toNat = true := by
  intro occ
  have hg : mGuard s.me (s.me.classOk f.bd.toNat (suffixCls f) && s.me.tileNamesOk f.bd.toNat (suffixCls f).bays) true
      (descBase (mDa s f) % 64 == 0) (s.me.mayAccess 1 false (imageIv (mDa s f) (suffixCls f))) = .ok () :=
    mGuard_ok hm (by rw [Room.classOk_iff.2 hc, hn]; rfl) rfl (beq_iff_eq.2 halign) hmay
  have hx : (loadTile s.me f).head = f.bd.toNat := s.me.tileNow_getD_head rfl
  obtain ⟨hstart, hother, hbound, hpending⟩ := mStart_onTile (i := .mload f) rfl s (mDa s f) 0 occ (Nat.le_add_left 2 _)
    .rne _ _ [] (fun fl h => by simp only [Flight.target, h]) (loadTile s.me f)
  rw [hx] at hother hbound hpending
  have hexec : exec (.mload f) s = execMload f s := rfl
  exact ⟨_, hexec.trans (roomOp_ok hw (mGuard_then hg)), hstart, hother, hbound, hpending⟩

/-! ### An unbound tile with a writer pending (R242, R243)

O33 and O36 ask that a name that an array operation or an `mload` binds takes the class and scale of a fresh binding. The model
binds it in those of the tile that the operation starts on, as `array_starts` and `mload_starts` say, and a landing still pending
may have left others. No hypothesis of the two statements excludes a pending landing on an unbound name, and not every operation
of the model does: `Room.discarded` puts back the landings of a snapshot, and not the tiles bound then. -/

/-- A room that may use its whole partition, with one unbound name b0 and d-registers that hold an empty i8 region, in which a
Q128 tile of scale 5 is still to land on b0. -/
def unboundPending : State :=
  { State.reset with me := { Room.idle with nb := 1, ctx := { Ctx.initial with
      d := Vector.replicate 32 (BitVec.ofNat 128 (2 ^ 24))
      footprint := { Footprint.nil with reads := List.replicate 7 [{ lo := 0, hi := 0xFFFFFF }] }
      landings := [{ due := 1, val := .tile (Tile.fresh 0 .q128 5), slot := 3, raised := Raised.none, escape := none }] } } }

/-- Refutes O33: in `unboundPending` an `mmac` of no products on b0 starts and binds it in the scale 5 of its pending writer,
and not in 0. -/
theorem not_arrayIssue : ¬ Obligations.ArrayIssue := by
  unfold Obligations.ArrayIssue
  intro h
  let row : ArrayRow := { op := .mmac, zero := false, slice := false }
  let f : MAForm := { bd := 0, da := 1, db := 2, w := 0, ws := 0, rm := 0, fmt := 0, pi := 0, pj := 0, fn := 0 }
  have hrow : row ∈ arrayRows := List.mem_cons_of_mem _ List.mem_cons_self
  have hw : (row.op f).wellFormed = true := by decide
  have hshape : arrayShapeOk f row.slice (mDa unboundPending f) (mDb unboundPending f) = true := by decide
  have htile : unboundPending.me.arrayTileOk f row.slice (mDa unboundPending f) (mDb unboundPending f) = true := by decide
  have hm : MFree unboundPending := Nat.le_refl 0
  have hsill : f.ws = 1 → unboundPending.me.sillPending f.w = false := by decide
  have halign : arrayAlignOk f (mDa unboundPending f) (mDb unboundPending f) = true := by decide
  have hda : unboundPending.me.regionOk 1 false (mDa unboundPending f) = true := by decide
  have hdb : f.ws = 1 ∨ unboundPending.me.regionOk 1 false (mDb unboundPending f) = true := by decide
  have hplace : unboundPending.me.badPlacement (arrayOps f (mDa unboundPending f) (mDb unboundPending f)) (f.ws != 1) = none := by
    decide
  obtain ⟨t, ht, -, -, hfresh, -⟩ :=
    (h row hrow f unboundPending hw hshape htile hm hsill halign hda hdb).1 hplace
  obtain ⟨u, hu, -, -, hwriter, -⟩ := array_starts (arrayLaw row hrow) hw hshape htile hm hsill halign hda hdb hplace
  obtain rfl : t = u := Host.Outcome.next.inj (ht.symm.trans hu)
  obtain ⟨-, hscale⟩ := boundAs_unique (h := f.bd.toNat) rfl hfresh hwriter
  exact absurd hscale (by decide)

/-- Refutes O36: in `unboundPending` an `mload.q128` of b0 starts and binds it in the scale 5 of its pending writer, and not
in 0. -/
theorem not_tileMoves : ¬ Obligations.TileMoves := by
  unfold Obligations.TileMoves
  intro h
  let f : MAForm := { bd := 0, da := 1, db := 0, w := 0, ws := 0, rm := 0, fmt := 0, pi := 0, pj := 0, fn := 1 }
  have hw : (Instr.mload f).wellFormed = true := by decide
  have hm : MFree unboundPending := Nat.le_refl 0
  have hn : unboundPending.me.tileNamesOk f.bd.toNat (suffixCls f).bays = true := by decide
  have hunbound : unboundPending.me.tile? f.bd.toNat = none := rfl
  have hc : ∀ y, unboundPending.me.tile? f.bd.toNat = some y → y.cls = suffixCls f := fun y hy => nomatch hunbound.symm.trans hy
  have halign : descBase (mDa unboundPending f) % 64 = 0 := by decide
  have hmay : unboundPending.me.mayAccess 1 false (imageIv (mDa unboundPending f) (suffixCls f)) = true := by decide
  have hnow : ∀ y, unboundPending.me.tileNow f.bd.toNat = some y → y.head = f.bd.toNat ∧ y.cls = suffixCls f :=
    fun y hy => Option.some.inj hy ▸ ⟨rfl, rfl⟩
  obtain ⟨-, -, -, hload, -⟩ := h f unboundPending hm
  obtain ⟨t, ht, -, -, hfresh, -⟩ := hload hw hn hc halign hmay hnow
  obtain ⟨u, hu, -, -, hwriter, -⟩ := mload_starts hw hm hn hc halign hmay
  obtain rfl : t = u := Host.Outcome.next.inj (ht.symm.trans hu)
  obtain ⟨-, hscale⟩ := boundAs_unique hunbound hfresh hwriter
  exact absurd hscale (by decide)

end Sys2Proof.Machine
end

section
/-! PROOFS. The sums of the matrix array in the elements of a tile (R81, R83, R248, R252, R253: O34). -/

namespace Sys2Proof.Machine

open Sys2Proof.Claims
open Sys2Proof.Safety (foldl_keeps)

/-! ### Elements of a tile (R74, R241) -/

/-- The elements of a tile stand in the order of their indices. -/
def Tile.Ordered (t : Tile) : Prop := t.elems.Pairwise fun x y => x.idx < y.idx

/-- A quire has the class and the scale of a tile. -/
def Tile.Holds (t : Tile) (q : Quire) : Prop := q.cls = t.cls ∧ q.sigma = t.sigma

theorem Tile.holds_elem (t : Tile) (e : Nat) : t.Holds (t.elem e) := by
  unfold Tile.elem
  split <;> exact ⟨rfl, rfl⟩

theorem mem_putElem {e : Nat} {q : Quire} {l : List TileElem} {x : TileElem} (h : x ∈ putElem e q l) : x.idx = e ∨ x ∈ l := by
  induction l with
  | nil =>
    unfold putElem at h
    split at h
    · exact absurd h List.not_mem_nil
    · exact .inl (congrArg TileElem.idx (List.mem_singleton.1 h))
  | cons y l ih =>
    unfold putElem at h
    split at h
    · split at h
      · exact .inr h
      · exact (List.mem_cons.1 h).imp (congrArg TileElem.idx) id
    · split at h
      · split at h
        · exact .inr (List.mem_cons_of_mem _ h)
        · exact (List.mem_cons.1 h).imp (congrArg TileElem.idx) (List.mem_cons_of_mem _)
      · rcases List.mem_cons.1 h with rfl | h
        · exact .inr List.mem_cons_self
        · exact (ih h).imp id (List.mem_cons_of_mem _)

theorem putElem_ordered {e : Nat} {q : Quire} {l : List TileElem} (h : l.Pairwise fun x y => x.idx < y.idx) :
    (putElem e q l).Pairwise fun x y => x.idx < y.idx := by
  induction l with
  | nil =>
    unfold putElem
    split
    · exact h
    · exact List.pairwise_singleton _ _
  | cons y l ih =>
    obtain ⟨hy, hl⟩ := List.pairwise_cons.1 h
    unfold putElem
    split
    · next he =>
      split
      · exact h
      · refine List.pairwise_cons.2 ⟨fun z hz => ?_, h⟩
        rcases List.mem_cons.1 hz with rfl | hz
        · exact he
        · exact he.trans (hy z hz)
    · next hle =>
      split
      · next he =>
        split
        · exact hl
        · exact List.pairwise_cons.2 ⟨fun z hz => he ▸ hy z hz, hl⟩
      · next hne =>
        refine List.pairwise_cons.2 ⟨fun z hz => ?_, ih hl⟩
        rcases mem_putElem hz with hz | hz
        · omega
        · exact hy z hz

theorem find?_putElem_other {e e' : Nat} (hne : e' ≠ e) (q : Quire) (l : List TileElem) :
    (putElem e q l).find? (fun x => x.idx == e') = l.find? fun x => x.idx == e' := by
  have hskip (s : QState) (r : Int) (l : List TileElem) :
      (({ idx := e, state := s, raw := r } : TileElem) :: l).find? (fun x => x.idx == e') = l.find? fun x => x.idx == e' :=
    List.find?_cons_of_neg (by simpa using hne.symm)
  induction l with
  | nil =>
    unfold putElem
    split
    · rfl
    · exact hskip _ _ []
  | cons y l ih =>
    unfold putElem
    split
    · split
      · rfl
      · exact hskip _ _ _
    · split
      · next he =>
        have hy : (y :: l).find? (fun x => x.idx == e') = l.find? fun x => x.idx == e' :=
          List.find?_cons_of_neg (by simpa [← he] using hne.symm)
        rw [hy]
        split
        · rfl
        · exact hskip _ _ _
      · simp only [List.find?_cons, ih]

/-- What stands at an index of elements in order once a quire has been put there: nothing for a finite zero. -/
theorem find?_putElem_same (e : Nat) (q : Quire) {l : List TileElem} (h : l.Pairwise fun x y => x.idx < y.idx) :
    (putElem e q l).find? (fun x => x.idx == e) =
      if q.state = .finite ∧ q.raw = 0 then none else some { idx := e, state := q.state, raw := q.raw } := by
  have hnone {l : List TileElem} (hl : ∀ x ∈ l, e < x.idx) : l.find? (fun x => x.idx == e) = none :=
    List.find?_eq_none.2 fun x hx => by simpa using (hl x hx).ne'
  have hput {l : List TileElem} (hl : ∀ x ∈ l, e < x.idx) :
      (if q.state = .finite && q.raw = 0 then l else { idx := e, state := q.state, raw := q.raw } :: l).find?
          (fun x => x.idx == e) =
        if q.state = .finite ∧ q.raw = 0 then none else some { idx := e, state := q.state, raw := q.raw } := by
    simp only [Bool.and_eq_true, decide_eq_true_eq]
    split
    · exact hnone hl
    · exact List.find?_cons_of_pos (beq_self_eq_true e)
  induction l with
  | nil => exact hput fun x hx => absurd hx List.not_mem_nil
  | cons y l ih =>
    obtain ⟨hy, hl⟩ := List.pairwise_cons.1 h
    unfold putElem
    split
    · next he => exact hput (List.forall_mem_cons.2 ⟨he, fun x hx => he.trans (hy x hx)⟩)
    · split
      · next he => exact hput fun x hx => he ▸ hy x hx
      · next hle hne =>
        rw [List.find?_cons_of_neg (by simpa using Ne.symm hne)]
        exact ih hl

theorem Tile.setElem_ordered {t : Tile} (h : t.Ordered) (e : Nat) (q : Quire) : (t.setElem e q).Ordered := putElem_ordered h

/-- An element holds the quire put there. -/
theorem Tile.elem_setElem_same {t : Tile} (h : t.Ordered) (e : Nat) {q : Quire} (hq : t.Holds q) :
    (t.setElem e q).elem e = q := by
  obtain ⟨hcls, hsigma⟩ := hq
  unfold Tile.elem Tile.setElem
  rw [find?_putElem_same e q h, ← hcls, ← hsigma]
  split_ifs with hz
  · rw [← hz.1, ← hz.2]
  · rfl

theorem Tile.elem_setElem_other (t : Tile) {e e' : Nat} (hne : e' ≠ e) (q : Quire) : (t.setElem e q).elem e' = t.elem e' := by
  unfold Tile.elem Tile.setElem
  rw [find?_putElem_other hne]

/-! ### A function applied to the elements of a part of a tile (R248) -/

/-- The function keeps the class and scale of the quires that a tile holds. -/
def Tile.Keeps (t : Tile) (fn : Nat → Nat → Quire → Quire × Fl) : Prop := ∀ a b q, t.Holds q → t.Holds (fn a b q).1

/-- One element more, as `Tile.accum` takes it. -/
def accumStep (fn : Nat → Nat → Quire → Quire × Fl) (st : Tile × Raised) (x : Nat × Nat) : Tile × Raised :=
  let e := 128 * x.1 + x.2
  let y := fn x.1 x.2 (st.1.elem e)
  (st.1.setElem e y.1, st.2.add e y.2)

theorem Tile.accum_eq (t : Tile) (m n : Nat) (fn : Nat → Nat → Quire → Quire × Fl) :
    t.accum m n fn = (List.range m ×ˢ List.range n).foldl (accumStep fn) (t, Raised.none) := rfl

section
variable {t : Tile} {fn : Nat → Nat → Quire → Quire × Fl} (hfn : t.Keeps fn)
include hfn

/-- Over positions each of which is taken once, every element listed takes the function once, and no other changes. -/
theorem accumSteps_elem {l : List (Nat × Nat)} (hl : l.Pairwise fun x y => 128 * x.1 + x.2 ≠ 128 * y.1 + y.2)
    {st : Tile × Raised} (ho : st.1.Ordered) (hc : st.1.cls = t.cls) (hs : st.1.sigma = t.sigma) :
    let u := (l.foldl (accumStep fn) st).1
    (∀ x ∈ l, u.elem (128 * x.1 + x.2) = (fn x.1 x.2 (st.1.elem (128 * x.1 + x.2))).1) ∧
    ∀ e, (∀ x ∈ l, e ≠ 128 * x.1 + x.2) → u.elem e = st.1.elem e := by
  induction l generalizing st with
  | nil => exact ⟨fun x hx => absurd hx List.not_mem_nil, fun _ _ => rfl⟩
  | cons y l ih =>
    obtain ⟨hy, hl⟩ := List.pairwise_cons.1 hl
    have hkept : t.Holds (fn y.1 y.2 (st.1.elem (128 * y.1 + y.2))).1 := by
      refine hfn _ _ _ ?_
      obtain ⟨hcls, hsigma⟩ := st.1.holds_elem (128 * y.1 + y.2)
      exact ⟨hcls.trans hc, hsigma.trans hs⟩
    have hsame : (accumStep fn st y).1.elem (128 * y.1 + y.2) = (fn y.1 y.2 (st.1.elem (128 * y.1 + y.2))).1 :=
      Tile.elem_setElem_same ho _ ⟨hkept.1.trans hc.symm, hkept.2.trans hs.symm⟩
    have hother {e : Nat} (he : e ≠ 128 * y.1 + y.2) : (accumStep fn st y).1.elem e = st.1.elem e :=
      Tile.elem_setElem_other _ he _
    obtain ⟨hin, hout⟩ := ih hl (st := accumStep fn st y) (Tile.setElem_ordered ho _ _) hc hs
    refine ⟨fun x hx => ?_, fun e he => ?_⟩
    · rcases List.mem_cons.1 hx with rfl | hx
      · exact (hout _ hy).trans hsame
      · exact (hin x hx).trans (by rw [hother (hy x hx).symm])
    · exact (hout e fun x hx => he x (List.mem_cons_of_mem _ hx)).trans (hother (he y List.mem_cons_self))

/-- Each element of an M × N part takes the function once, and no other element changes. -/
theorem Tile.accum_elem (ho : t.Ordered) {m n : Nat} (hn : n ≤ 128) : let u := (t.accum m n fn).1
    u.cls = t.cls ∧ u.sigma = t.sigma ∧
    (∀ a b, a < m → b < n → u.elem (128 * a + b) = (fn a b (t.elem (128 * a + b))).1) ∧
    ∀ e, (∀ a b, a < m → b < n → e ≠ 128 * a + b) → u.elem e = t.elem e := by
  have hmem (x : Nat × Nat) : x ∈ List.range m ×ˢ List.range n ↔ x.1 < m ∧ x.2 < n := by
    rw [← Prod.mk.eta (p := x), List.mem_product, List.mem_range, List.mem_range]
  have hl : (List.range m ×ˢ List.range n).Pairwise fun x y => 128 * x.1 + x.2 ≠ 128 * y.1 + y.2 := by
    refine (List.nodup_range.product List.nodup_range).imp_of_mem fun {x y} hx hy hne heq => hne ?_
    obtain ⟨-, hx⟩ := (hmem x).1 hx
    obtain ⟨-, hy⟩ := (hmem y).1 hy
    exact Prod.ext (by omega) (by omega)
  obtain ⟨hin, hout⟩ := accumSteps_elem hfn hl (st := (t, Raised.none)) ho rfl rfl
  have hform := t.accum_form m n fn
  exact ⟨(congrArg Tile.cls hform :), (congrArg Tile.sigma hform :), fun a b ha hb => hin (a, b) ((hmem _).2 ⟨ha, hb⟩),
    fun e he => hout e fun x hx => he x.1 x.2 ((hmem x).1 hx).1 ((hmem x).1 hx).2⟩

end

/-- A function that raises no flag on what the tile holds raises none over it. -/
theorem Tile.accum_silent {t : Tile} {fn : Nat → Nat → Quire → Quire × Fl} (m n : Nat)
    (hq : ∀ a b q, t.Holds q → (fn a b q).2 = Fl.none) :
    (t.accum m n fn).2 = Raised.none := by
  rw [t.accum_eq]
  refine (foldl_keeps (p := fun st : Tile × Raised => (st.1.cls = t.cls ∧ st.1.sigma = t.sigma) ∧ st.2 = Raised.none)
    (fun st x h => ?_) _ ⟨⟨rfl, rfl⟩, rfl⟩).2
  obtain ⟨⟨hc, hs⟩, hr⟩ := h
  obtain ⟨hcls, hsigma⟩ := st.1.holds_elem (128 * x.1 + x.2)
  refine ⟨⟨hc, hs⟩, ?_⟩
  rw [accumStep, hr, hq _ _ _ ⟨hcls.trans hc, hsigma.trans hs⟩]
  rfl

/-! ### Products of two regions (R78, R83, R252) -/

theorem Quire.withState_form (q : Quire) (inc : QState) :
    (q.withState inc).1.cls = q.cls ∧ (q.withState inc).1.sigma = q.sigma := by
  rw [Quire.withState_fst]
  split <;> exact ⟨rfl, rfl⟩

theorem Quire.place_form (q : Quire) (neg : Bool) (m : Nat) (e : Int) :
    (q.place neg m e).1.cls = q.cls ∧ (q.place neg m e).1.sigma = q.sigma := by
  by_cases hm : m = 0
  · simp only [Quire.place, hm, if_true, and_self]
  · by_cases hw : Quire.inWindow q.cls q.sigma m e
    · rw [Quire.place_inWindow neg hm hw]
      split <;> exact ⟨rfl, rfl⟩
    · rw [Quire.place_outside neg hm hw]
      exact q.withState_form _

theorem Quire.promote_form {q : Quire} {c : QCls} (h : c.rank ≤ q.cls.rank) :
    (q.promote c).cls = q.cls ∧ (q.promote c).sigma = q.sigma := by
  have hmax : q.cls.max c = q.cls := if_neg (Nat.not_lt.2 h)
  unfold Quire.promote
  split
  · exact ⟨hmax, rfl⟩
  · exact ⟨hmax, rfl⟩

/-- R78: a product of no larger class keeps the class and the scale of the quire that it joins. -/
theorem Quire.gather_form {q : Quire} {c : QCls} (h : c.rank ≤ q.cls.rank) (a b : Val) :
    (q.gather c a b).1.cls = q.cls ∧ (q.gather c a b).1.sigma = q.sigma := by
  obtain ⟨hc, hs⟩ := Quire.promote_form h
  rcases Quire.gather_contributes c a b with ⟨inc, hg⟩ | ⟨neg, m, e, hg⟩
  · rw [hg, ← hc, ← hs]
    exact (q.promote c).withState_form inc
  · rw [hg, ← hc, ← hs]
    exact (q.promote c).place_form neg m e

theorem sums_form {q : Quire} {c : QCls} (h : c.rank ≤ q.cls.rank) (l : List (Val × Val)) :
    (sums c q l).cls = q.cls ∧ (sums c q l).sigma = q.sigma := by
  refine foldl_keeps (p := fun x : Quire => x.cls = q.cls ∧ x.sigma = q.sigma) (fun x y hx => ?_) l ⟨rfl, rfl⟩
  obtain ⟨hc, hs⟩ := hx
  obtain ⟨hc', hs'⟩ := Quire.gather_form (q := x) (hc ▸ h) y.1 y.2
  exact ⟨hc'.trans hc, hs'.trans hs⟩

/-- Products and their flags together: the sum is that of the products. -/
theorem foldl_gather_fst (c : QCls) (p : Nat → Val × Val) (l : List Nat) (st : Quire × Fl) :
    (l.foldl (fun (st : Quire × Fl) x =>
        let y := st.1.gather c (p x).1 (p x).2
        (y.1, Fl.or st.2 y.2)) st).1 = sums c st.1 (l.map p) := by
  induction l generalizing st with
  | nil => rfl
  | cons x l ih => exact ih _

/-- R252, R83: an element of the product takes the products of its row and its column in order as one sum. -/
theorem mmacPart_elem (r : Room) (k : Core) (f : MAForm) {da db : Nat} (lo hi : Nat) {t : Tile} {c : QCls}
    (hclass : classOf2 (descFmt da) (descEs da) (descFmt db) (descEs db) = some c) (hrank : c.rank ≤ t.cls.rank)
    (hrows : descRows db ≤ 128) (ho : t.Ordered) : let u := (mmacPart r k f da db lo hi t).1
    u.cls = t.cls ∧ u.sigma = t.sigma ∧
    (∀ a b, a < descRows da → b < descRows db → u.elem (128 * a + b) = sums c (t.elem (128 * a + b))
      ((List.range (hi - lo)).map fun x => (descVal da (r.arrayEnc k none da a (lo + x)),
        descVal db (r.arrayEnc k (sillOf f) db b (lo + x))))) ∧
    ∀ e, (∀ a b, a < descRows da → b < descRows db → e ≠ 128 * a + b) → u.elem e = t.elem e := by
  unfold mmacPart
  extract_lets cls
  obtain rfl : cls = c := by simp only [cls, hclass, Option.getD_some]
  have hsum (a b : Nat) (q : Quire) := foldl_gather_fst cls (fun x => (descVal da (r.arrayEnc k none da a (lo + x)),
    descVal db (r.arrayEnc k (sillOf f) db b (lo + x)))) (List.range (hi - lo)) (q, Fl.none)
  have hkeeps : t.Keeps _ := fun a b q hq => by
    obtain ⟨hc, hs⟩ := hq
    obtain ⟨hc', hs'⟩ := sums_form (q := q) (hc.symm ▸ hrank) ((List.range (hi - lo)).map _)
    rw [← hsum a b q] at hc' hs'
    exact ⟨hc'.trans hc, hs'.trans hs⟩
  obtain ⟨hc, hs, hin, hout⟩ := Tile.accum_elem hkeeps ho (m := descRows da) hrows
  exact ⟨hc, hs, fun a b ha hb => (hin a b ha hb).trans (hsum a b _), hout⟩

/-! ### Products of digits (R88, R89, R253) -/

theorem digitVal_eq (x n : Nat) : digitVal x n = .fin (decide (sext x 8 < 0)) (sext x 8).natAbs (0 - 8 * n) := rfl

theorem sext_byte_natAbs_le (x : Nat) : (sext x 8).natAbs ≤ 128 := by
  have hlo := (BitVec.ofNat 8 x).le_toInt
  have hhi := (BitVec.ofNat 8 x).toInt_lt
  rw [sext_eq_toInt]
  omega

/-- A magnitude with the sign of a product, scaled, is the product scaled. -/
theorem signed_mul (a b : Int) (k : Nat) :
    (if decide (a < 0) != decide (b < 0) then -((a.natAbs * b.natAbs * k : Nat) : Int) else (a.natAbs * b.natAbs * k : Nat)) =
      a * b * k := by
  have habs (c : Int) : (c.natAbs : Int) = if decide (c < 0) then -c else c := by
    simp only [decide_eq_true_eq]
    omega
  rw [Nat.cast_mul, Nat.cast_mul, habs a, habs b]
  cases decide (a < 0)
  · cases decide (b < 0) <;> simp
  · cases decide (b < 0) <;> simp

/-- R253: what the product of a digit pair with i + j = n adds to an element. -/
def digitProduct (n : Nat) (x : Nat × Nat) : Int := sext x.1 8 * sext x.2 8 * (2 ^ (QCls.q512.w0 + 112 - 8 * n) : Nat)

/-- A quire with an integer more while it is finite. -/
def Quire.plus (q : Quire) (v : Int) : Quire := if q.state = .finite then { q with raw := q.raw + v } else q

/-- R253: a product of digits joins a quire of a slice tile exactly, as it lies well inside the window. -/
theorem gather_digits {q : Quire} (hc : q.cls = .q512) (hs : q.sigma = -112) {n : Nat} (hn : n ≤ 14) (x : Nat × Nat) :
    q.gather .q512 (digitVal x.1 n) (digitVal x.2 0) = (q.plus (digitProduct n x), Fl.none) := by
  have hx := sext_byte_natAbs_le x.1
  have hy := sext_byte_natAbs_le x.2
  have hq : q.promote .q512 = q := hc ▸ q.promote_self
  have hm : (sext x.1 8).natAbs * (sext x.2 8).natAbs ≤ 128 * 128 := Nat.mul_le_mul hx hy
  have hshift : (0 - 8 * (n : Int) + (0 - 8 * ((0 : Nat) : Int)) + q.cls.w0 - q.sigma) = ((352 - 8 * n : Nat) : Int) := by
    rw [hc, hs, show QCls.q512.w0 = 240 from rfl]
    omega
  have hwidth : (q.cls.width : Int) = 512 := congrArg (fun c : QCls => (c.width : Int)) hc
  have hproduct : digitProduct n x = if decide (sext x.1 8 < 0) != decide (sext x.2 8 < 0) then
      -(((sext x.1 8).natAbs * (sext x.2 8).natAbs * 2 ^ (352 - 8 * n) : Nat) : Int)
      else ((sext x.1 8).natAbs * (sext x.2 8).natAbs * 2 ^ (352 - 8 * n) : Nat) := (signed_mul _ _ _).symm
  show (q.promote .q512).place _ _ _ = _
  rw [hq, hproduct]
  generalize (sext x.1 8).natAbs * (sext x.2 8).natAbs = m at hm
  simp only [Quire.place, hshift, hwidth]
  by_cases hz : m = 0
  · simp [hz, Quire.plus]
  · have hlog : flog2 m < 15 := (Nat.log2_lt hz).2 (by omega)
    rw [if_neg hz, if_neg (by omega)]
    simp [Nat.shiftLeft_eq, Quire.plus, Fl.none]

/-- Values that join a quire one after another join it as their sum. -/
theorem Quire.plus_plus (q : Quire) (v w : Int) : (q.plus v).plus w = q.plus (v + w) := by
  by_cases h : q.state = .finite
  · simp [Quire.plus, h, Int.add_assoc]
  · simp [Quire.plus, h]

theorem Quire.plus_zero (q : Quire) : q.plus 0 = q := by
  unfold Quire.plus
  split
  · rw [Int.add_zero]
  · rfl

theorem Quire.plus_form (q : Quire) (v : Int) :
    (q.plus v).cls = q.cls ∧ (q.plus v).sigma = q.sigma ∧ (q.plus v).state = q.state ∧
    (q.plus v).raw = q.raw + if q.state = .finite then v else 0 := by
  by_cases h : q.state = .finite
  · simp [Quire.plus, h]
  · simp [Quire.plus, h]

/-- R253: the digit pairs of several K positions join an element of a slice tile as one exact sum, and raise no flag. -/
theorem foldl_digits {q : Quire} (hc : q.cls = .q512) (hs : q.sigma = -112) {n : Nat} (hn : n ≤ 14) (p : Nat → Nat × Nat)
    (l : List Nat) :
    l.foldl (fun (st : Quire × Fl) x =>
        let y := st.1.gather .q512 (digitVal (p x).1 n) (digitVal (p x).2 0)
        (y.1, Fl.or st.2 y.2)) (q, Fl.none) = (q.plus (l.map fun x => digitProduct n (p x)).sum, Fl.none) := by
  induction l generalizing q with
  | nil => rw [List.foldl_nil, List.map_nil, List.sum_nil, Quire.plus_zero]
  | cons x l ih =>
    obtain ⟨hc', hs', -, -⟩ := q.plus_form (digitProduct n (p x))
    simp only [List.foldl_cons, gather_digits hc hs hn]
    rw [List.map_cons, List.sum_cons, ← Quire.plus_plus]
    exact ih (hc'.trans hc) (hs'.trans hs)

/-- R253: what a digit pair adds to element (a, b) over some K positions. -/
def pairSum (r : Room) (k : Core) (f : MAForm) (da db : Nat) (p : Nat × Nat) (lo hi a b : Nat) : Int :=
  ((List.range (hi - lo)).map fun x => digitProduct (p.1 + p.2)
    (r.arrayEnc k none da (8 * a + p.1) (lo + x), r.arrayEnc k (sillOf f) db (8 * b + p.2) (lo + x))).sum

/-- R253: what the cycles of one digit pair add to the elements of a slice tile. -/
theorem mslicePart_elem (r : Room) (k : Core) (f : MAForm) {da db : Nat} {p : Nat × Nat} (lo hi : Nat) {t : Tile}
    (hc : t.cls = .q512) (hs : t.sigma = -112) (hi8 : p.1 < 8) (hj8 : p.2 < 8) (hrows : descRows db ≤ 1024) (ho : t.Ordered) :
    let x := mslicePart r k f da db p lo hi t
    x.1.cls = t.cls ∧ x.1.sigma = t.sigma ∧ x.2 = Raised.none ∧
    (∀ a b, a < descRows da / 8 → b < descRows db / 8 →
      x.1.elem (128 * a + b) = (t.elem (128 * a + b)).plus (pairSum r k f da db p lo hi a b)) ∧
    ∀ e, (∀ a b, a < descRows da / 8 → b < descRows db / 8 → e ≠ 128 * a + b) → x.1.elem e = t.elem e := by
  unfold mslicePart
  have hsum (a b : Nat) (q : Quire) (hq : t.Holds q) := foldl_digits (hq.1.trans hc) (hq.2.trans hs) (n := p.1 + p.2) (by omega)
    (fun x => (r.arrayEnc k none da (8 * a + p.1) (lo + x), r.arrayEnc k (sillOf f) db (8 * b + p.2) (lo + x)))
    (List.range (hi - lo))
  have hkeeps : t.Keeps _ := fun a b q hq => by
    have h := congrArg Prod.fst (hsum a b q hq)
    obtain ⟨hc', hs', -⟩ := q.plus_form (pairSum r k f da db p lo hi a b)
    exact ⟨(congrArg Quire.cls h).trans (hc'.trans hq.1), (congrArg Quire.sigma h).trans (hs'.trans hq.2)⟩
  obtain ⟨hcls, hsigma, hin, hout⟩ := Tile.accum_elem hkeeps ho (m := descRows da / 8) (n := descRows db / 8) (by omega)
  exact ⟨hcls, hsigma, Tile.accum_silent _ _ fun a b q hq => congrArg Prod.snd (hsum a b q hq),
    fun a b ha hb => (hin a b ha hb).trans (congrArg Prod.fst (hsum a b _ (t.holds_elem _))), hout⟩

/-! ### The landing of an array operation (R81, R83) -/

theorem Quire.close_form (q : Quire) : q.close.1.cls = q.cls ∧ q.close.1.sigma = q.sigma := by
  unfold Quire.close Quire.settle
  split
  · split <;> exact ⟨rfl, rfl⟩
  · exact ⟨rfl, rfl⟩

/-- R81, R83: what lands of a tile holds every sum of its part. -/
theorem Tile.close_elem {t : Tile} (ho : t.Ordered) {m n : Nat} (hn : n ≤ 128) {a b : Nat} (ha : a < m) (hb : b < n) :
    (t.close m n).1.elem (128 * a + b) = (t.elem (128 * a + b)).close.1 := by
  have hkeeps : t.Keeps fun _ _ q => q.close := fun _ _ q hq => ⟨q.close_form.1.trans hq.1, q.close_form.2.trans hq.2⟩
  obtain ⟨-, -, hin, -⟩ := Tile.accum_elem hkeeps ho (m := m) hn
  exact hin a b ha hb

theorem mLanding_product {f : MAForm} {fl : Flight} {t : Tile} (hop : fl.op = .mmul f ∨ fl.op = .mmac f)
    (ht : fl.tile = some t) : (mLanding f fl).1 = .tile (t.close (descRows fl.da) (descRows fl.db)).1 := by
  unfold mLanding
  rcases hop with hop | hop <;> rw [hop, ht]

theorem mLanding_slices {f : MAForm} {fl : Flight} {t : Tile} (hop : fl.op = .mslice f) (ht : fl.tile = some t) :
    (mLanding f fl).1 = .tile (t.close (descRows fl.da / 8) (descRows fl.db / 8)).1 := by
  unfold mLanding
  rw [hop, ht]

/-! ### The K positions and the digit pairs of the cycles (R246, R252, R253) -/

theorem arrayRate_pos (f g : Fmt) : 0 < (arrayRate f g).1 ∧ 0 < (arrayRate f g).2 := by
  unfold arrayRate
  dsimp only
  split_ifs <;> decide

theorem le_cdiv_mul (a : Nat) {b : Nat} (hb : 0 < b) : a ≤ cdiv a b * b := by
  have h := Nat.lt_div_mul_add hb (a := a + b - 1)
  unfold cdiv
  omega

/-- R252: the cycles of a matrix product come to the end of K. -/
theorem arrayOcc_covers (f : MAForm) (da db : Nat) : let rate := arrayRate (descFmt da) (descFmt db)
    descVals da ≤ arrayOcc f false da db * rate.1 / rate.2 := by
  intro rate
  obtain ⟨h1, h2⟩ := arrayRate_pos (descFmt da) (descFmt db)
  refine (Nat.le_div_iff_mul_le h2).2 ((le_cdiv_mul _ h1).trans (Nat.mul_le_mul_right _ ?_))
  exact le_max_right 1 (cdiv (descVals da * rate.2) rate.1)

theorem slicePairs_pair {f : MAForm} (h : f.fn.toNat = 0) : slicePairs f = [(f.pi.toNat, f.pj.toNat)] := by
  simp only [slicePairs, h]

theorem mem_digitPairs (i j : Nat) :
    (i, j) ∈ ((List.range 8).flatMap fun i => (List.range 8).map fun j => (i, j)) ↔ i < 8 ∧ j < 8 := by
  simp

theorem slicePairs_full {f : MAForm} (h : f.fn.toNat = 1) :
    (slicePairs f).length = 64 ∧ ∀ i j, (i, j) ∈ slicePairs f ↔ i < 8 ∧ j < 8 := by
  simp only [slicePairs, h]
  exact ⟨rfl, mem_digitPairs⟩

theorem slicePairs_tri {f : MAForm} (h : f.fn.toNat = 2) :
    (slicePairs f).length = 36 ∧ ∀ i j, (i, j) ∈ slicePairs f ↔ i + j ≤ 7 := by
  simp only [slicePairs, h]
  refine ⟨rfl, fun i j => ?_⟩
  rw [List.mem_filter, mem_digitPairs, decide_eq_true_eq]
  omega

/-- R253: a cycle of an `mslice` takes the pair in whose run of cycles it lies, at its two K positions. -/
theorem slice_cycle {f : MAForm} {fl : Flight} (hop : fl.op = .mslice f) {c : Nat} {x : Nat × Nat}
    (hx : x ∈ (slicePairs f)[c / max 1 (cdiv (descVals fl.da) 2)]?) : pairAt f fl c = x ∧
    kSpan fl c = (min (descVals fl.da) (2 * (c % max 1 (cdiv (descVals fl.da) 2))),
      min (descVals fl.da) (2 * (c % max 1 (cdiv (descVals fl.da) 2)) + 2)) := by
  refine ⟨?_, ?_⟩
  · rw [pairAt, List.getD_eq_getElem?_getD, Option.mem_def.1 hx, Option.getD_some]
  · simp only [kSpan, hop]

/-- Settles O34: each cycle by its K positions and its pair, each part by the law of its sums, each landing by its close. -/
theorem matrixProducts : Obligations.MatrixProducts := by
  unfold Obligations.MatrixProducts
  refine ⟨fun f da db => ⟨by simp, min_eq_left (arrayOcc_covers f da db)⟩,
    fun r k f da db lo hi t c hclass hrank _ hrows ho => mmacPart_elem r k f lo hi hclass hrank hrows ho,
    fun f fl t hop ht _ hrows ho => ⟨_, mLanding_product hop ht, fun a b ha hb => Tile.close_elem ho hrows ha hb⟩,
    fun f => ⟨slicePairs_pair, slicePairs_full, slicePairs_tri⟩, fun f fl hop c x hx => slice_cycle hop hx,
    fun r k f da db p lo hi t hc hs hi8 hj8 hrows ho => ?_,
    fun f fl t hop ht _ hrows ho => ⟨_, mLanding_slices hop ht, fun a b ha hb => Tile.close_elem ho (by omega) ha hb⟩⟩
  obtain ⟨hcls, hsigma, hsilent, hin, hout⟩ := mslicePart_elem r k f lo hi hc hs hi8 hj8 hrows ho
  refine ⟨hcls, hsigma, hsilent, fun a b ha hb => ?_, hout⟩
  obtain ⟨-, -, hstate, hraw⟩ := (t.elem (128 * a + b)).plus_form _
  rw [← hin a b ha hb] at hstate hraw
  exact ⟨hstate, hraw⟩

end Sys2Proof.Machine
end
